-- ==== Sys2Proof/Word.lean ====
section
/-! DEFINITION. The word types of the block and the types of its commands' operands (Table 03-1, R8, R9, R12, R13).
An operand type says what the world outside one command determines: who asks, what a bus carried, what a sensor or an
error-correcting code found. -/
namespace Sys2Proof

/-- One byte of memory, of a message or of an object's value. -/
abbrev Byte := BitVec 8
/-- A 64-bit word (Table 03-1 U64; the words of queues, tags and integer registers). -/
abbrev Word := BitVec 64
/-- A byte string, first byte first. -/
abbrev Bytes := List Byte
/-- A 16-bit status code (R12). -/
abbrev Status := BitVec 16
/-- A 16-bit source number: class in bits 15:12, instance in bits 11:0 (R13). -/
abbrev Source := BitVec 16
/-- A global thread number: grove x 64 + thread (Table 04-4). -/
abbrev Thread := BitVec 14
/-- A queue number (R196). -/
abbrev QNum := BitVec 20
/-- A partition number, 0 to 15 (R82). -/
abbrev Part := BitVec 4
/-- A module id of the domain (Table 00-1). -/
abbrev ModId := BitVec 12
/-- An integer, floating-point or vector register number. -/
abbrev RegNo := BitVec 5
/-- A Naloroth port number. -/
abbrev Port := BitVec 4

/-- Who makes a dictionary request (R105): an FDP session, the mailbox, or policy firmware. -/
inductive Requester where
  | session (n : BitVec 4)
  | mailbox
  | policy
deriving DecidableEq, Repr

/-- A dictionary request that passed the header checks of R97, in the fields of Table 03-7 that a request chooses. -/
structure FdpReq where
  reqId : BitVec 32
  inc : Word
  index : BitVec 16
  sub : BitVec 8
  count : BitVec 8
  payload : Bytes
deriving DecidableEq, Repr

/-- The header fields that a one-object write leaves to its requester (R98, R104). -/
structure ReqHdr where
  reqId : BitVec 32
  inc : Word
deriving DecidableEq, Repr

/-- What happens beside a write of the dictionary: the subindices of RWH objects that a hardware update reaches in the
same cycle (R72, R75), and whether the persistent store fails (DICT_STORE_FAIL). -/
structure WriteEnv where
  hw : List Nat
  storeFail : Bool
deriving DecidableEq, Repr

/-- The CSR instructions of Zicsr: read and write, read and set bits, read and clear bits, each with a register or with the
register field as an immediate. -/
inductive CsrOp where
  | rw | rs | rc | rwi | rsi | rci
deriving DecidableEq, Repr

/-- What error correction found at a protected word or line (R278 to R281): errors it corrected, or an uncorrectable one
with its syndrome. -/
inductive Found where
  | corrected
  | bad (syndrome : Word)
deriving DecidableEq, Repr

/-- A finding of error correction, by a local address in the word or line. -/
structure EccAt where
  loc : BitVec 44
  found : Found
deriving DecidableEq, Repr

/-- What error correction finds at the words and lines that an access reads; a word or line without an entry is clean. -/
abbrev Ecc := List EccAt

/-- The parts of gPTP messages other than Sync that act (R39, Table 02-1). -/
inductive GptpMsg where
  /-- Announce: the best master clock comparison vector, lower is better, and the grandmaster's identity. -/
  | announce (rank : Nat) (gm : Word)
  /-- A completed peer delay measurement, ns. -/
  | pdelay (ns : Nat)
  /-- Interval-request signalling: logSyncInterval, -7 to 0, as its magnitude. -/
  | signalling (logInterval : BitVec 3)
deriving DecidableEq, Repr

/-- How a client handshake ends (R86, R93, R94). -/
inductive Shake where
  | noCert
  | cert (keyDigest : BitVec 384)
  | failed (alert : BitVec 8)
deriving DecidableEq, Repr

/-- A message of Table 15-3 as received, with its body in plain and whether its GCM tag verifies (R505). -/
structure Msg where
  op : Byte
  flags : Byte
  len : BitVec 16
  dst : BitVec 16
  src : BitVec 16
  epoch : BitVec 16
  reqRef : BitVec 16
  job : BitVec 32
  ctr : Word
  sendTime : Word
  addr : Word
  arg : Word
  body : Bytes
  poisonMap : List Bool
  auth : Bool
deriving DecidableEq, Repr

/-- A 257-bit block of a codeword: its sync bit and its 256 bits (Table 15-1). -/
structure Block where
  sync : Bool
  bits : BitVec 256
deriving DecidableEq, Repr

/-- One decoded picture as the core finds it in a DECODE's bytes (R466 to R468): the status of a picture that is not
decoded, its type, whether it is a random-access picture, its coded and display size, its pieces and units. -/
structure DecPic where
  status : Status
  ptype : Byte
  rap : Bool
  codedW : BitVec 16
  codedH : BitVec 16
  dispW : BitVec 16
  dispH : BitVec 16
  pieces : Nat
  units : Nat
  /-- Pictures of the session, by their number in decoding order, that are delivered once this one is decoded, in output
  order. -/
  outs : List Nat
  /-- Pictures, by the same number, that stay references after this one. -/
  refs : List Nat
deriving DecidableEq, Repr

/-- The end of one piece (R472, R476, R481, R483): units concealed, accesses stopped, a reference that the session does
not hold, and for an encode the bytes produced and their mean QP. -/
structure PieceEnd where
  concealed : Nat
  boundStops : Nat
  missingRef : Bool
  bytes : Bytes
  meanQp : Byte
deriving DecidableEq, Repr

/-- A handshake message's checks (R503): the signature and the chain verify, the peer refuses, its incarnation. -/
structure Hand where
  peer : ModId
  inc : Word
  verified : Bool
  refused : Bool
  transcript : Bytes
deriving DecidableEq, Repr

/-- A unit that BIST finds wanting (R679). -/
inductive BistUnit where
  | array (g : BitVec 8) (a : BitVec 3)
  | grove (g : BitVec 8)
  | sampler (s : BitVec 3)
  | cobbler (pair : BitVec 1)
  | securityEngine | queueEngine | blazeFile | warden | baseMemory
  | hbmStack (s : BitVec 3)
deriving DecidableEq, Repr

/-- A debug-port operation (R702, Table 19-6). -/
inductive TapOp where
  | reset
  | idcode
  | boundaryScan (bits : Bytes)
  | internalScan (bits : Bytes)
  | cobblerDebug (bits : Bytes)
  | debugReset
deriving DecidableEq, Repr

/-- A block register reached in register space or a BAR (R72, R246, R535, R657, Table 04-12, Table 18-8). -/
inductive RegBlock where
  | groveArith (g : BitVec 8)
  | pair
  | warden
  | counterStatus
  | counter (n : BitVec 12)
  | mailbox
  | vf (v : BitVec 5)
deriving DecidableEq, Repr

/-- The reduction that a vector unordered reduction performs (R118). -/
inductive RedOp where
  | sum | and | or | xor | minu | min | maxu | max | fsum | fmin | fmax | fwsum | wsumu | wsum
deriving DecidableEq, Repr

/-- A little-endian byte string as a number (R9). -/
def leNat : Bytes → Nat
  | [] => 0
  | b :: bs => b.toNat + 256 * leNat bs

/-- The `n` low bytes of a number, little-endian (R9). -/
def leBytes : Nat → Nat → Bytes
  | 0, _ => []
  | n + 1, v => BitVec.ofNat 8 v :: leBytes n (v / 256)

/-- Bits `hi` to `lo` of a number (R8). -/
def bitsOf (v hi lo : Nat) : Nat := (v / 2 ^ lo) % 2 ^ (hi + 1 - lo)

/-- Ceiling division; `a / 0` is 0 here and no rule divides by 0. -/
def ceilDiv (a b : Nat) : Nat := (a + b - 1) / b

end Sys2Proof
end

