-- ==== Sys2Proof/Syntax.lean ====
section
/-! DEFINITION. The commands of the block: one constructor per row of spec/opcode_table.json, in the table's order.
Each constructor's operands are what the row's rule leaves to whoever sends it. -/
namespace Sys2Proof

/-- A command of spec/opcode_table.json. A hart's instruction carries its thread and its register numbers; a row that is
a dictionary write carries its requester, its header fields and the value; an event carries what the world decides. -/
inductive Instr where
  -- time and stitch
  | stitchBoundary
  | gptpSync (port : BitVec 1) (gm : Word) (rank : Nat) (offset : Int)
  | timeHoldover
  | timeLost
  | holdoverMaxS (who : Requester) (h : ReqHdr) (v : BitVec 16) (env : WriteEnv)
  | counterSave
  | pendArm (who : Requester) (h : ReqHdr) (v : BitVec 8)
  -- dictionary and FDP
  | fdpDatagram (ses : BitVec 4) (dtls : Bool) (recSeq : Nat) (data : Bytes)
  | frerFrame (port : BitVec 1) (seq : BitVec 16)
  | frerResetTimeout
  | fdpPortLatent (port : BitVec 1)
  | dtlsHandshake (ip : BitVec 128) (udp : BitVec 16) (r : Shake)
  | sessionIdleTimeout (ses : BitVec 4)
  | read (who : Requester) (r : FdpReq)
  | write (who : Requester) (r : FdpReq) (env : WriteEnv)
  | readList (who : Requester) (r : FdpReq)
  | writeList (who : Requester) (r : FdpReq) (env : WriteEnv)
  | windowRead (who : Requester) (r : FdpReq)
  | windowWrite (who : Requester) (r : FdpReq) (env : WriteEnv)
  | recordFetch (who : Requester) (r : FdpReq)
  | identify (who : Requester) (r : FdpReq)
  | describe (who : Requester) (r : FdpReq)
  | sessionClose (who : Requester) (h : ReqHdr) (v : BitVec 8)
  | cbMbxDoorbell
  | cbMbxAbort
  | mbxBufferWrite (off : BitVec 12) (data : Bytes)
  | mbxResponse
  | registerWrite (b : RegBlock) (off : BitVec 16) (v : Word) (hw : Word)
  -- threads
  | load (t : Thread) (rd rs1 : RegNo) (imm : BitVec 12) (size : BitVec 2) (uns fp comp : Bool) (ecc : Ecc)
  | store (t : Thread) (rs1 rs2 : RegNo) (imm : BitVec 12) (size : BitVec 2) (fp comp : Bool) (ecc : Ecc)
  | amo (t : Thread) (rd rs1 rs2 : RegNo) (funct5 : BitVec 5) (dbl : Bool) (ecc : Ecc)
  | lrSc (t : Thread) (rd rs1 rs2 : RegNo) (sc dbl : Bool) (ecc : Ecc)
  | fence (t : Thread) (pred succ : BitVec 4)
  | sfenceVma (t : Thread) (rs1 rs2 : RegNo)
  | satpWrite (t : Thread) (rd rs1 : RegNo)
  | partInfo (t : Thread)
  | threadStart (t : Thread)
  | threadStop (t : Thread)
  | threadClass (t : Thread)
  | tagQuota (t : Thread)
  | tlbFlush (t : Thread)
  | tlbFlushDone (t : Thread)
  | queueReset (t : Thread)
  | ckptCommit (t : Thread)
  | recoveryInfo (t : Thread)
  | rotHint (t : Thread)
  | sbiUnsupported (t : Thread)
  | contextSave (t : Thread)
  | contextRestore (src dst : Thread)
  -- host interface
  | prVfDoorbell (v : BitVec 5) (val : BitVec 32)
  | hostWindowRead (v : BitVec 5) (off : BitVec 36) (len : BitVec 13) (ecc : Ecc)
  | hostWindowWrite (v : BitVec 5) (off : BitVec 36) (data : Bytes) (ecc : Ecc)
  | perstN (link : BitVec 1) (low : Bool)
  -- grove extension
  | extIllegal (t : Thread) (insn : BitVec 32)
  | tensor (t : Thread) (rd rs1 rs2 : RegNo)
  | tensorTileEnd (tag : BitVec 16) (tile : Nat) (arr : BitVec 3) (fail : Option (BitVec 5))
  | tensorComplete (tag : BitVec 16) (ecc : Ecc)
  | samplingComplete (tag : BitVec 16) (retried : Bool) (retiredToo : Bool)
  | move (t : Thread) (rd rs1 rs2 : RegNo)
  | moverChunk (tag : BitVec 16) (ecc : Ecc)
  | lreq (t : Thread) (rd rs1 : RegNo)
  | lrel (t : Thread) (rs1 : RegNo)
  | licenceGrant
  | qpush (t : Thread) (rd rs1 rs2 : RegNo)
  | qcommit (t : Thread) (rd rs1 : RegNo)
  | qabort (t : Thread) (rd rs1 : RegNo)
  | qpop (t : Thread) (rd rs1 : RegNo) (parityBad : Bool) (ecc : Ecc)
  | qcnt (t : Thread) (rd rs1 : RegNo)
  | enginePacket (src : Source) (q : QNum) (ws : List (Word × Bool)) (bad : Bool)
  | qResetReq (who : Requester) (h : ReqHdr) (q : BitVec 32) (v : BitVec 8)
  | qResetDone (q : QNum)
  | bset (t : Thread) (rs1 : RegNo)
  | blazeSetPerformed (k : Nat)
  | bclr (t : Thread) (rd rs1 : RegNo)
  | btest (t : Thread) (rd rs1 : RegNo)
  | bwait (t : Thread) (rd rs1 : RegNo)
  | bwaitc (t : Thread) (rd rs1 : RegNo)
  | twait (t : Thread) (rd rs1 : RegNo)
  | twaitr (t : Thread) (rd rs1 : RegNo)
  | ttest (t : Thread) (rd rs1 : RegNo)
  | treap (t : Thread) (rd rs1 : RegNo)
  | swait (t : Thread) (rd : RegNo)
  | sreadC (t : Thread) (rd : RegNo)
  | sreadB (t : Thread) (rd : RegNo)
  | sreadR (t : Thread) (rd : RegNo)
  | smplctl (t : Thread) (rd rs1 : RegNo)
  -- memory
  | sramPatrol (addr : BitVec 44) (ecc : Ecc)
  | dramPatrolLine (addr : BitVec 44) (ecc : Ecc)
  | memPatrolLag (us : Bool) (ctrl : BitVec 8) (unread : Nat)
  | usScrubRegionDone
  | memClearDone
  -- blazes
  | bzSnapReq (who : Requester) (h : ReqHdr) (v : BitVec 8)
  | bzRestoreReq (who : Requester) (h : ReqHdr) (v : BitVec 8)
  | dumpReq (who : Requester) (h : ReqHdr) (v : BitVec 8)
  | bzDumpDone
  -- KV pager
  | kvpOpen (p : Part) (hook : Option (List Word))
  | kvpAppend (p : Part) (hook : Option (List Word))
  | kvpMap (p : Part) (hook : Option (List Word))
  | kvpUnpin (p : Part) (hook : Option (List Word))
  | kvpPrefetch (p : Part) (hook : Option (List Word))
  | kvpSpill (p : Part) (hook : Option (List Word))
  | kvpClose (p : Part) (hook : Option (List Word))
  | kvpBucket (p : Part) (hook : Option (List Word))
  | kvPageMoveDone (k : Nat) (ecc : Ecc)
  | kvRspBlocked (p : Part)
  -- serving
  | seqOpen (p : Part)
  | seqClose (p : Part) (hook : Option (List Word))
  | pfxLookup (p : Part)
  | pfxInsert (p : Part)
  | pfxRemove (p : Part)
  | admitReq (p : Part)
  | stepDone (p : Part)
  | refillArm (who : Requester) (h : ReqHdr) (v : BitVec 8)
  | stageArm (who : Requester) (h : ReqHdr) (v : BitVec 8)
  | srvRspBlocked (p : Part)
  -- video
  | vidOpen (p : Part)
  | vidDecode (p : Part) (pics : List DecPic)
  | vidEncode (p : Part)
  | vidRelease (p : Part)
  | vidEnd (p : Part)
  | vidBsFree (p : Part)
  | vidClose (p : Part)
  | videoPieceDone (core : BitVec 3) (e : PieceEnd)
  | videoPreempt (core : BitVec 3)
  | motionLevel1Done (pic : Nat) (intra inter : Word)
  | vidRcLate (pic : Nat)
  | vidWatchdog (core : BitVec 3) (unfinished : Nat)
  | vidOutBlocked (ses : BitVec 6)
  | vidRspBlocked (p : Part)
  -- links
  | codeword (p : Port) (blocks : List Block) (symErrors : Nat)
  | flitData (p : Port) (flit : BitVec 2048)
  | flitCredit (p : Port) (flit : BitVec 2048)
  | flitIdle (p : Port) (flit : BitVec 2048)
  | flitTrain (p : Port) (flit : BitVec 2048)
  | replayTimeout (p : Port)
  | msgWrite (p : Port) (m : Msg) (ecc : Ecc)
  | msgRead (p : Port) (m : Msg) (ecc : Ecc)
  | atomic (p : Port) (m : Msg) (ecc : Ecc)
  | qpkt (p : Port) (m : Msg)
  | writeAck (p : Port) (m : Msg)
  | readResp (p : Port) (m : Msg)
  | atomicResp (p : Port) (m : Msg)
  | qpktAck (p : Port) (m : Msg)
  | blazeAck (p : Port) (m : Msg)
  | blazeSet (p : Port) (m : Msg)
  | lnAnnounceLost (k : Nat)
  | respTimeout (r : BitVec 16)
  | lnPktBroken (p : Port) (k : Nat)
  | hello (p : Port) (h : Hand)
  | helloReply (p : Port) (h : Hand)
  | finished (p : Port) (h : Hand)
  | sesOpen (who : Requester) (h : ReqHdr) (peer : BitVec 16) (v : BitVec 8)
  | portLicenceRelease (p : Port)
  -- pair
  | pairArm (who : Requester) (h : ReqHdr) (v : BitVec 8)
  | prFormFail
  | laceTestEnd
  | laceInChange (high : Bool)
  | gateOpen
  | prTieResolved
  | prLaceFault
  | mateSilent
  | mateHb (m : Msg)
  | digest (m : Msg)
  | confirm (m : Msg)
  | boundary (m : Msg)
  | boundaryTimeout
  | yield (m : Msg)
  | prTakeover
  | weltSend (q : QNum)
  | weltRetry (q : QNum)
  | pairSwap (who : Requester) (h : ReqHdr) (v : BitVec 8)
  | pairMode (who : Requester) (h : ReqHdr) (v : BitVec 8) (env : WriteEnv)
  -- faults and domain
  | fenceNLow
  | fltFenced
  | fenceNHigh
  | fltLogAdmit
  | prtRestart (who : Requester) (h : ReqHdr) (p : BitVec 8) (v : BitVec 8)
  | rollArm (who : Requester) (h : ReqHdr) (v : BitVec 8)
  | admitAt (who : Requester) (h : ReqHdr) (v : Word) (env : WriteEnv)
  | fltPmDone
  | pmClear (who : Requester) (h : ReqHdr) (v : BitVec 8)
  -- power
  | pkgPowerSample (pkg input : Nat)
  | pwrCurrentLimit (die : BitVec 1)
  | pwrTjTrip (sensor : BitVec 9)
  | floorLift (which : BitVec 3)
  | sensorReading (sensor : BitVec 9) (v : Option Int)
  | rthWindow (meanPower : Nat) (meanTj meanInlet : Int)
  | policyCap (who : Requester) (h : ReqHdr) (v : BitVec 16) (env : WriteEnv)
  | burstWindowClose
  | burstRecoveryEnd
  | pwrBurstLimit
  -- partitions and keys
  | mapArm (who : Requester) (h : ReqHdr) (v : BitVec 8)
  | keyBlob (who : Requester) (h : ReqHdr) (sel : BitVec 8) (blob : Bytes) (plain : Option Bytes)
  | secKeyInstalled (p : Part)
  | attGen (who : Requester) (h : ReqHdr) (sel : BitVec 8) (v : BitVec 8)
  | attReady (who : Requester)
  | debugLock (who : Requester) (h : ReqHdr) (v : BitVec 8)
  | fuseProg (who : Requester) (h : ReqHdr) (v : BitVec 8) (tookLow tookHigh copyLow copyHigh : BitVec 32)
  -- policy firmware
  | fwErase (who : Requester) (h : ReqHdr) (v : BitVec 8)
  | fwEraseDone
  | fwChunk (who : Requester) (h : ReqHdr) (sel : BitVec 16) (data : Bytes)
  | fwCommit (who : Requester) (h : ReqHdr) (v : BitVec 8)
  | fwTrial (who : Requester) (h : ReqHdr) (v : BitVec 8) (env : WriteEnv)
  | fwConfirm (who : Requester) (h : ReqHdr) (v : BitVec 8)
  | fwRestart (who : Requester) (h : ReqHdr) (v : BitVec 8)
  | fwLockstep (pair : BitVec 1)
  | hookReturn (pair : BitVec 1) (a0 : Word)
  | fwHookLate (pair : BitVec 1)
  -- start-up, insertion and board
  | prsntNLow
  | prsntDebounceEnd
  | powerInputInRange
  | railsRamped (slotId : BitVec 6) (laceTie : Bool)
  | l0Start
  | bistDone (failed repaired : List BistUnit) (pIdle : Nat)
  | dramTrained
  | hbmScrubDone
  | linkTrainingDone
  | enterReady
  | timeNotLocked
  | moduleResetReq (who : Requester) (h : ReqHdr) (v : BitVec 8)
  | moduleReset
  | maintenanceReq (who : Requester) (h : ReqHdr) (v : BitVec 8)
  | latchNLow
  | startLatch
  | prsntNHigh
  | powerInputOutOfRange
  | brdInputDip
  | brdInputRange
  | brdHotswapTrip
  | hotswapRetry
  | inletReading (a b : Option Int)
  | gptpAnnounce (port : BitVec 1) (m : GptpMsg)
  | neighbourSolicitation (port : BitVec 1) (target : BitVec 128) (src : BitVec 128)
  | dtlsRetransmit
  | fieldPortLinkChange (port : BitVec 1) (up : Bool)
  | pcieLinkChange (link : BitVec 1) (speed : BitVec 4) (width : BitVec 6)
  | ideKm (stream : BitVec 5)
  | lnSessionFail (peer : ModId)
  | latchNHigh
  | latchNHighDebounceEnd
  | hookNotReturned (pair : BitVec 1)
  | l1Trap (pair : BitVec 1)
  | instructionFetch (t : Thread) (four : Bool) (ecc : Ecc)
  | vectorReduction (t : Thread) (vd vs2 vs1 : RegNo) (op : RedOp) (masked : Bool)
  | csrWrite (t : Thread) (csr : BitVec 12) (op : CsrOp) (rd src : RegNo)
  | debugTap (op : TapOp)
deriving DecidableEq, Repr

end Sys2Proof
end

