-- ==== Sys2Proof/Decode.lean ====
section
/-! DEFINITION. The command that a word of the opcode table spells. -/
namespace Sys2Proof

/-- spec/opcode_table.json gives no row bits: its commands are messages, register accesses, pins and events, not words
(DESIGN CHOICE, log 1). -/
def decodeTableWord (_nbits _w : Nat) : Option Instr := none

end Sys2Proof
end

