-- ==== Sys2Proof/Config.lean ====
section
/-! DEFINITION. What the spec leaves open, as constants without a body: free values, and the published algorithms whose
bits the manual names without giving. No proof can see a value of any of them. -/
namespace Sys2Proof

/-- Free values: the n-th is drawn where the spec fixes no value (TRNG draws of R675 and R621 and every value that no
rule states). Unconstrained; DESIGN CHOICE, log 2. -/
opaque Config.free : Nat → Word

/-- AES-256-GCM sealing (R505): key, nonce, additional data and plain bytes, to the ciphertext and its tag.
Uninterpreted; DESIGN CHOICE, log 2. -/
opaque Config.gcmSeal : Bytes → Bytes → Bytes → Bytes → Bytes

/-- ECDSA P-384 signature of a digest by the alias key of an incarnation (R632). Uninterpreted; DESIGN CHOICE, log 2. -/
opaque Config.ecdsaSign : Bytes → Bytes → Bytes

/-- The P-384 public key of a private value (R621, R629). Uninterpreted; DESIGN CHOICE, log 2. -/
opaque Config.p384Public : Bytes → Bytes

/-- A certificate of the DICE chain: which one, and the layer keys it binds (R630, R631). Uninterpreted; DESIGN CHOICE, log 2. -/
opaque Config.certificate : Nat → Bytes → Bytes

/-- D_ROM, the digest of the boot ROM, fixed at manufacture (Table 19-4). Its value is not stated; DESIGN CHOICE, log 2. -/
opaque Config.romDigest : Bytes

/-- What the security engine's opening of a key blob gives (R623): the key-wrap private key and the blob, to M and the prefix
key, or none where EPK or the tag fails. Uninterpreted; DESIGN CHOICE, log 2. -/
opaque Config.openBlob : Bytes → Bytes → Option Bytes

/-- The samples of a decoded picture by the published video standards (R466): the coded bytes, the picture's place in
them and the offset in its frame buffer. Uninterpreted; DESIGN CHOICE, log 2. -/
opaque Config.decodedByte : Bytes → Nat → Nat → Byte

/-- The result of a division by zero, of an overflow or of any other value that the numeric rules leave unstated, by the
place that asks and its operands. Uninterpreted; DESIGN CHOICE, log 2. -/
opaque Config.unstated : Nat → Nat → Nat → Word

end Sys2Proof
end

