-- ==== Sys2Proof/Machine/Tbl.lean ====
section
/-! DEFINITION. Sparse tables in one canonical form: keys strictly rising and no entry equal to what an unlisted key
reads as, so that equal tables are equal data. Memory, queues, blazes and every other large array of the spec are
such tables. -/
namespace Sys2Proof.Machine

/-- A table from a number to a value; the reader supplies what an unlisted key reads as. -/
abbrev Tbl (α : Type) := List (Nat × α)

/-- The value under key `k`, or `d` where the table lists none. -/
def tget {α : Type} (d : α) : Tbl α → Nat → α
  | [], _ => d
  | (k', v) :: r, k => if k = k' then v else if k < k' then d else tget d r k

/-- The table without key `k`. -/
def terase {α : Type} : Tbl α → Nat → Tbl α
  | [], _ => []
  | (k', v) :: r, k => if k = k' then r else if k < k' then (k', v) :: r else (k', v) :: terase r k

/-- The table with `v` under key `k`, in key order. -/
def tins {α : Type} : Tbl α → Nat → α → Tbl α
  | [], k, v => [(k, v)]
  | (k', v') :: r, k, v =>
    if k = k' then (k, v) :: r else if k < k' then (k, v) :: (k', v') :: r else (k', v') :: tins r k v

/-- The table after a write: a value equal to the default removes the entry (canonical form). -/
def tset {α : Type} [DecidableEq α] (d : α) (t : Tbl α) (k : Nat) (v : α) : Tbl α :=
  if v = d then terase t k else tins t k v

/-- The table with the entry under `k` changed by `f`. -/
def tmod {α : Type} [DecidableEq α] (d : α) (t : Tbl α) (k : Nat) (f : α → α) : Tbl α :=
  tset d t k (f (tget d t k))

/-- The entries with keys from `lo` up to, and not including, `hi`. -/
def trange {α : Type} (t : Tbl α) (lo hi : Nat) : Tbl α :=
  t.filter fun e => decide (lo ≤ e.1 ∧ e.1 < hi)

/-- The table without the keys from `lo` up to, and not including, `hi`. -/
def tdrop {α : Type} (t : Tbl α) (lo hi : Nat) : Tbl α :=
  t.filter fun e => decide (¬ (lo ≤ e.1 ∧ e.1 < hi))

/-- The canonical form: keys strictly rising, no entry equal to the default. -/
def twf {α : Type} [DecidableEq α] (d : α) : Tbl α → Bool
  | [] => true
  | [(_, v)] => decide (v ≠ d)
  | (k, v) :: (k', v') :: r => decide (v ≠ d) && decide (k < k') && twf d ((k', v') :: r)

/-- The members of a finite set of numbers kept as a table of `true`. -/
def thas (t : Tbl Bool) (k : Nat) : Bool := tget false t k
/-- The set with `k` in it or out of it. -/
def tput (t : Tbl Bool) (k : Nat) (b : Bool) : Tbl Bool := tset false t k b

/-- The item at a position of a list, or `d` beyond its end. -/
def nth {α : Type} (d : α) : List α → Nat → α
  | [], _ => d
  | x :: _, 0 => x
  | _ :: r, n + 1 => nth d r n

/-- The list with the item at a position changed. -/
def nthMod {α : Type} (f : α → α) : List α → Nat → List α
  | [], _ => []
  | x :: r, 0 => f x :: r
  | x :: r, n + 1 => x :: nthMod f r n

/-- The numbers from `lo`, `n` of them, rising. -/
def span (lo : Nat) : Nat → List Nat
  | 0 => []
  | n + 1 => lo :: span (lo + 1) n

/-- A fold over the numbers from `lo`, `n` of them, rising. -/
def forSpan {α : Type} (lo : Nat) : Nat → α → (α → Nat → α) → α
  | 0, a, _ => a
  | n + 1, a, f => forSpan (lo + 1) n (f a lo) f

/-- Insertion into a list kept in ascending order of a number. -/
def insBy {α : Type} (key : α → Nat) (x : α) : List α → List α
  | [] => [x]
  | y :: r => if key x < key y then x :: y :: r else y :: insBy key x r

/-- A list in ascending order of a number; equal numbers keep their order. -/
def sortBy {α : Type} (key : α → Nat) (l : List α) : List α :=
  l.foldl (fun acc x => insBy key x acc) []

/-- Saturating increment of a CNT field of `w` bits (R78). -/
def satAdd (w v n : Nat) : Nat := if v + n < 2 ^ w then v + n else 2 ^ w - 1

/-- A signed value held in `w` bits, two's complement (R9, R709). -/
def toTwos (w : Nat) (v : Int) : Nat := (v % (2 ^ w : Int)).toNat
/-- The signed value of `w` bits. -/
def ofTwos (w v : Nat) : Int := if v % 2 ^ w < 2 ^ (w - 1) then (v % 2 ^ w : Int) else (v % 2 ^ w : Int) - 2 ^ w

/-- Whether bit `i` of a number is set (R8). -/
def bitOf (v i : Nat) : Bool := v / 2 ^ i % 2 = 1
/-- The number with bit `i` set or clear. -/
def bitPut (v i : Nat) (b : Bool) : Nat :=
  if b then (if bitOf v i then v else v + 2 ^ i) else (if bitOf v i then v - 2 ^ i else v)
/-- One bit as a number. -/
def b2n (b : Bool) : Nat := if b then 1 else 0

end Sys2Proof.Machine
end

