-- ==== Sys2Proof/Machine/Arith.lean ====
section
/-! DEFINITION. Number formats, the heartwood accumulator and rounding (R215 to R235), the slices of FP32 and FP64 elements
(R251 to R253), and 2^x and log2 x to FP32 (R391, R393). -/
namespace Sys2Proof.Machine

/-! ### Terms and formats -/

/-- A value that enters an accumulation block, exactly: NaN, an infinity, or (-1)^neg x m x 2^e. -/
inductive Term where
  | nan
  | inf (neg : Bool)
  | fin (neg : Bool) (m : Nat) (e : Int)
deriving DecidableEq, Repr

/-- +0. -/
def Term.zero : Term := .fin false 0 0
/-- 1. -/
def Term.one : Term := .fin false 1 0

/-- A floating-point format (Table 06-4): element bits, fraction bits, bias, the pattern of the largest finite magnitude,
of infinity where there is one, and of the canonical NaN where there is one (Table 06-6). -/
structure Fmt where
  bits : Nat
  mb : Nat
  bias : Nat
  max : Nat
  inf : Option Nat
  nan : Option Nat
deriving DecidableEq, Repr

/-- The floating-point formats by code (Table 06-2); MX codes give their element's format. -/
def fmtOf : Nat → Option Fmt
  | 0x01 => some ⟨32, 23, 127, 0x7F7FFFFF, some 0x7F800000, some 0x7FC00000⟩
  | 0x02 => some ⟨64, 52, 1023, 0x7FEFFFFFFFFFFFFF, some 0x7FF0000000000000, some 0x7FF8000000000000⟩
  | 0x03 => some ⟨16, 7, 127, 0x7F7F, some 0x7F80, some 0x7FC0⟩
  | 0x04 => some ⟨16, 10, 15, 0x7BFF, some 0x7C00, some 0x7E00⟩
  | 0x05 => some ⟨8, 3, 7, 0x7E, none, some 0x7F⟩
  | 0x06 => some ⟨8, 2, 15, 0x7B, some 0x7C, some 0x7E⟩
  | 0x10 => some ⟨8, 3, 7, 0x7E, none, some 0x7F⟩
  | 0x11 => some ⟨8, 2, 15, 0x7B, some 0x7C, some 0x7E⟩
  | 0x12 => some ⟨6, 2, 3, 0x1F, none, none⟩
  | 0x13 => some ⟨6, 3, 1, 0x1F, none, none⟩
  | 0x14 => some ⟨4, 1, 1, 0x7, none, none⟩
  | _ => none

/-- FP32. -/
def fp32 : Fmt := ⟨32, 23, 127, 0x7F7FFFFF, some 0x7F800000, some 0x7FC00000⟩
/-- Whether a code names a format (Table 06-2). -/
def fmtDefined (k : Nat) : Bool := (1 ≤ k && k ≤ 9) || (0x10 ≤ k && k ≤ 0x15)
/-- Whether a code names an MX format. -/
def isMx (k : Nat) : Bool := 0x10 ≤ k && k ≤ 0x15
/-- Element bits of a format code (Table 06-2). -/
def elemBits (k : Nat) : Nat :=
  if k = 1 || k = 9 then 32 else if k = 2 then 64 else if k = 3 || k = 4 then 16 else if k = 8 || k = 0x14 then 4
  else if k = 0x12 || k = 0x13 then 6 else 8

/-- The value of a floating-point element (R217, R218). -/
def decodeF (f : Fmt) (v : Nat) : Term :=
  let neg := bitOf v (f.bits - 1)
  let mag := v % 2 ^ (f.bits - 1)
  if mag ≤ f.max then
    let e := mag / 2 ^ f.mb
    let m := mag % 2 ^ f.mb
    if e = 0 then .fin neg m (1 - (f.bias : Int) - (f.mb : Int))
    else .fin neg (m + 2 ^ f.mb) ((e : Int) - (f.bias : Int) - (f.mb : Int))
  else if f.inf = some mag then .inf neg
  else .nan

/-- The value of an element's bits under a format code (R217, Table 06-4). -/
def decodeElem (k v : Nat) : Term :=
  let int (w : Nat) (e : Int) : Term := let n := ofTwos w v; .fin (decide (n < 0)) n.natAbs e
  match fmtOf k with
  | some f => decodeF f v
  | none => if k = 8 then int 4 0 else if k = 9 then int 32 0 else if k = 0x15 then int 8 (-6) else int 8 0

/-- The value of a block scale (R221). -/
def scaleTerm (e : Nat) : Term := if e = 0xFF then .nan else .fin false 1 ((e : Int) - 127)

/-- An exact product (R223, R227 clause 1). -/
def mulT : Term → Term → Term
  | .nan, _ => .nan
  | _, .nan => .nan
  | .inf a, .inf b => .inf (a ^^ b)
  | .inf a, .fin b m _ => if m = 0 then .nan else .inf (a ^^ b)
  | .fin a m _, .inf b => if m = 0 then .nan else .inf (a ^^ b)
  | .fin a m e, .fin b n f => .fin (a ^^ b) (m * n) (e + f)

/-- The negative of a term. -/
def negT : Term → Term
  | .nan => .nan
  | .inf a => .inf (!a)
  | .fin a m e => .fin (!a) m e

/-- Whether a term is a zero. -/
def isZeroT : Term → Bool
  | .fin _ m _ => m == 0
  | _ => false
/-- Whether a term is negative, −0 included. -/
def isNegT : Term → Bool
  | .nan => false
  | .inf a => a
  | .fin a _ _ => a
/-- A finite term's value in units of 2^L. -/
def unitsOf (l : Int) : Term → Int
  | .fin a m e => let k := (m * 2 ^ (e - l).toNat / 2 ^ (l - e).toNat : Nat); if a then -(k : Int) else (k : Int)
  | _ => 0
/-- Whether one term is below another; NaN is not. -/
def ltT (a b : Term) : Bool :=
  match a, b with
  | .nan, _ => false
  | _, .nan => false
  | .inf x, .inf y => x && !y
  | .inf x, _ => x
  | _, .inf y => !y
  | .fin _ _ e, .fin _ _ f => let l := min e f; decide (unitsOf l a < unitsOf l b)
/-- The IEEE 754 maximum (R391). -/
def maxT (a b : Term) : Term :=
  if a = .nan || b = .nan then .nan
  else if ltT a b then b else if ltT b a then a else if isNegT a then b else a

/-! ### The heartwood accumulator -/

/-- e(x) of R223 for a term that is not 0. -/
def topOf : Term → Int
  | .fin _ m e => (Nat.log2 m : Int) + e
  | _ => 0
/-- Whether a term is nonzero and finite. -/
def liveT : Term → Bool
  | .fin _ m _ => m != 0
  | _ => false
/-- T, the window top (R223); 0 for a block without a nonzero finite term. -/
def windowTop (ts : List Term) : Int :=
  match ts.filter liveT with
  | [] => 0
  | t :: r => r.foldl (fun a x => max a (topOf x)) (topOf t)
/-- Whether the truncation of R225 changes a term. -/
def droppedT (l : Int) : Term → Bool
  | .fin _ m e => m != 0 && e < l && m % 2 ^ (l - e).toNat != 0
  | _ => false

/-- The sum of a block, and its dropped terms (R223 to R228): `below` is 143, or 303 in the sliced group. The sign of a
zero sum is that of R228 for the rounding toward −∞ or another. -/
def blockSum (below : Nat) (rdn : Bool) (ts : List Term) : Term × Nat :=
  let l := windowTop ts - below
  let n := ts.countP (droppedT l)
  if ts.contains .nan then (.nan, n)
  else
    let p := ts.contains (.inf false)
    let m := ts.contains (.inf true)
    if p && m then (.nan, n)
    else if p then (.inf false, n)
    else if m then (.inf true, n)
    else
      let s := ts.foldl (fun a x => a + unitsOf l x) 0
      if s ≠ 0 then (.fin (decide (s < 0)) s.natAbs l, n)
      else
        let neg := if ts.any liveT then rdn
          else !ts.isEmpty && (ts.all isNegT || (rdn && ts.any isNegT))
        (.fin neg 0 0, n)

/-! ### Rounding -/

/-- Flags of the grove's arithmetic status that a rounding raises (Table 06-8). -/
structure RFlags where
  ovf : Bool := false
  unf : Bool := false
  nan : Bool := false
deriving DecidableEq, Repr

/-- The random bits of stochastic rounding (R233). -/
def srBits (seed i j : Nat) : Nat :=
  let m : Nat := 2 ^ 64
  let x := seed ^^^ (i * 0x9E3779B97F4A7C15 % m) ^^^ (j * 0xC2B2AE3D27D4EB4F % m)
  let x := (x ^^^ (x / 2 ^ 30)) * 0xBF58476D1CE4E5B9 % m
  let x := (x ^^^ (x / 2 ^ 27)) * 0x94D049BB133111EB % m
  (x ^^^ (x / 2 ^ 31)) / 2 ^ 32

/-- Whether a value goes to the upper of its neighbours: `fr` of `gap` above the lower one (Table 06-5, R233). -/
def roundsUp (mode : Nat) (neg odd : Bool) (fr gap rnd : Nat) : Bool :=
  if fr = 0 then false
  else match mode with
    | 0 => gap < 2 * fr || (2 * fr == gap && odd)
    | 1 => false
    | 2 => neg
    | 3 => !neg
    | _ => 2 ^ 32 ≤ fr * 2 ^ 32 / gap + rnd

/-- The pattern of an overflow (Table 06-6). -/
def overflowBits (f : Fmt) (mode : Nat) (neg : Bool) : Nat :=
  match f.inf with
  | none => f.max
  | some i => if mode = 1 || (mode = 2 && !neg) || (mode = 3 && neg) then f.max else i

/-- The magnitude bits of num/den x 2^e, rounded once, and whether it overflows (R231 to R233). -/
def roundMag (f : Fmt) (mode rnd : Nat) (neg : Bool) (num den : Nat) (e : Int) : Nat × Bool :=
  let a : Int := (Nat.log2 num : Int) - (Nat.log2 den : Int)
  let ge : Bool := den * 2 ^ a.toNat ≤ num * 2 ^ (-a).toNat
  let k : Int := e + if ge then a else a - 1
  let emin : Int := 1 - (f.bias : Int)
  let emax : Int := ((f.max / 2 ^ f.mb : Nat) : Int) - f.bias
  if emax < k then (overflowBits f mode neg, true)
  else
    let qe : Int := max k emin - f.mb
    let n := num * 2 ^ (e - qe).toNat
    let d := den * 2 ^ (qe - e).toNat
    let q := n / d
    let patt := (qe - (emin - f.mb)).toNat * 2 ^ f.mb + q
    if patt < f.max then (patt + b2n (roundsUp mode neg (patt % 2 = 1) (n % d) d rnd), false)
    else
      let lo := f.max % 2 ^ f.mb + 2 ^ f.mb
      if roundsUp mode neg (f.max % 2 = 1) (n - lo * d) ((2 ^ (f.mb + 1) - lo) * d) rnd then (overflowBits f mode neg, true)
      else (f.max, false)

/-- A format's bits with a sign. -/
def signed (f : Fmt) (neg : Bool) (mag : Nat) : Nat := mag + b2n neg * 2 ^ (f.bits - 1)

/-- A value divided by `den`, rounded once into a floating-point format (R226 to R228, R231 to R235). -/
def roundF (f : Fmt) (mode rnd den : Nat) : Term → Nat × RFlags
  | .nan => (f.nan.getD 0, { nan := true })
  | .inf neg => match f.inf with
    | some i => (signed f neg i, {})
    | none => (f.nan.getD 0, { nan := true })
  | .fin neg m e =>
    if m = 0 then (signed f neg 0, {})
    else
      let (mag, ovf) := roundMag f mode rnd neg m den e
      (signed f neg mag, { ovf := ovf, unf := mag == 0 })

/-- An integer sum into INT32, saturating (R230). -/
def roundI (t : Term) : Nat × RFlags :=
  let v := unitsOf 0 t
  if decide (v < -2147483648) then (0x80000000, { ovf := true })
  else if decide (2147483647 < v) then (0x7FFFFFFF, { ovf := true })
  else (toTwos 32 v, {})

/-- A sum rounded into the format of FMT_CD. -/
def roundTo (code mode rnd : Nat) (t : Term) : Nat × RFlags :=
  match fmtOf code with
  | some f => roundF f mode rnd 1 t
  | none => roundI t

/-- A sum rounded to FP32 under RNE, as a value (R391). -/
def rne32 (ts : List Term) : Term × Nat :=
  let (s, n) := blockSum 143 false ts
  (decodeF fp32 (roundF fp32 0 0 1 s).1, n)

/-! ### Slices -/

/-- A finite FP32 or FP64 element as its slicing exponent, integer significand in 8n bits and sign (R251): `n` slices. -/
def slices (f : Fmt) (n v : Nat) : Bool × Int × Nat :=
  let e := v % 2 ^ (f.bits - 1) / 2 ^ f.mb
  let m := v % 2 ^ f.mb
  (bitOf v (f.bits - 1), if e = 0 then 1 - (f.bias : Int) else (e : Int) - f.bias,
    (if e = 0 then m else m + 2 ^ f.mb) * 2 ^ (8 * n - (f.mb + 1)))

/-- Slice `k` of a significand (R251). -/
def sliceOf (n m k : Nat) : Nat := m / 2 ^ (8 * (n - 1 - k)) % 256

/-- The sum of the kept slice pairs (R253). -/
def keptSum (n x y : Nat) : Nat :=
  forSpan 0 n 0 fun acc a => forSpan 0 n acc fun acc b =>
    if a + b ≤ n then acc + sliceOf n x a * sliceOf n y b * 2 ^ (8 * (n - a - b)) else acc

/-- The kept product of two elements (R253, R255). -/
def keptProduct (f : Fmt) (n x y : Nat) : Term :=
  match decodeF f x, decodeF f y with
  | .fin a m _, .fin b k _ =>
    if m = 0 || k = 0 then .fin (a ^^ b) 0 0
    else
      let (_, ex, mx) := slices f n x
      let (_, ey, my) := slices f n y
      .fin (a ^^ b) (keptSum n mx my) (ex + ey - 14 - 8 * (n : Int))
  | a, b => mulT a b

/-! ### Powers and logarithms -/

/-- ln 2 in units of 2^-256. -/
def ln2 : Nat := 0xb17217f7d1cf79abc9e3b39803f2f6af40f343267298b62d8a0d175b8baafa2b

/-- The terms of e^t from the k-th on, for t in units of 2^-256. -/
def expSum (t : Nat) : Nat → Nat → Nat → Nat
  | 0, _, _ => 0
  | fuel + 1, k, x => x + expSum t fuel (k + 1) (x * t / 2 ^ 256 / k)

/-- 2^f for f in units of 2^-160, 0 ≤ f < 1, in units of 2^-256. The sixty-four terms leave an error far below the
distance of any FP32 result from a rounding boundary. -/
def exp2Frac (f : Nat) : Nat := expSum (f * ln2 / 2 ^ 160) 64 1 (2 ^ 256)

/-- exp2_32: 2^x rounded to FP32 under RNE (R391). -/
def exp2T (x : Term) : Term :=
  match x with
  | .nan => .nan
  | .inf neg => if neg then .zero else .inf false
  | .fin _ m _ =>
    if m = 0 then .one
    else if ltT (.fin false 256 0) x then .inf false
    else if ltT x (.fin true 256 0) then .zero
    else
      let v := unitsOf (-160) x
      let n := v / 2 ^ 160
      decodeF fp32 (roundF fp32 0 0 1 (.fin false (exp2Frac (v % 2 ^ 160).toNat) (n - 256))).1

/-- 2 x atanh z in units of 2^-256, for z in the same units and at most 1/3. -/
def atanhSum (z2 : Nat) : Nat → Nat → Nat → Nat
  | 0, _, _ => 0
  | fuel + 1, k, x => 2 * x / k + atanhSum z2 fuel (k + 2) (x * z2 / 2 ^ 256)

/-- log2_32: log2 x rounded to FP32 under RNE, for x above 0 (R393). -/
def log2T (x : Term) : Term :=
  match x with
  | .nan => .nan
  | .inf neg => if neg then .nan else .inf false
  | .fin neg m e =>
    if m = 0 then .inf true
    else if neg then .nan
    else
      let k := Nat.log2 m
      let frac := m * 2 ^ 256 / 2 ^ k - 2 ^ 256
      let z := frac * 2 ^ 256 / (frac + 2 ^ 257)
      let ln := atanhSum (z * z / 2 ^ 256) 90 1 z
      let v : Int := ((k : Int) + e) * 2 ^ 256 + ((ln * 2 ^ 256 / ln2 : Nat) : Int)
      decodeF fp32 (roundF fp32 0 0 1 (.fin (decide (v < 0)) v.natAbs (-256))).1

end Sys2Proof.Machine
end

