-- ==== Sys2Proof/Machine/Flags.lean ====
section
/-! DEFINITION. Status codes of the whole manual (R12, Table 00-5) under their mnemonics, their error classes
(R560, Table 17-1, Table 17-9 and the classes of Tables 18-10, 20-7, 21-8, 22-7, 23-12), and the source numbers of
Table 01-5 (R13, R19). -/
namespace Sys2Proof.Machine

/-- Success (R12). -/
def St.ok : Status := 0
/-- Status DICT_NO_OBJECT. -/
def St.dictNoObject : Status := 0x0101
/-- Status DICT_NO_SUBINDEX. -/
def St.dictNoSubindex : Status := 0x0102
/-- Status DICT_READ_ONLY. -/
def St.dictReadOnly : Status := 0x0103
/-- Status DICT_WRITE_ONLY. -/
def St.dictWriteOnly : Status := 0x0104
/-- Status DICT_LENGTH. -/
def St.dictLength : Status := 0x0105
/-- Status DICT_RANGE. -/
def St.dictRange : Status := 0x0106
/-- Status DICT_ROLE. -/
def St.dictRole : Status := 0x0107
/-- Status DICT_OUT_OF_PARTITION. -/
def St.dictOutOfPartition : Status := 0x0108
/-- Status DICT_STATE. -/
def St.dictState : Status := 0x0109
/-- Status DICT_WRITE_LOST. -/
def St.dictWriteLost : Status := 0x010A
/-- Status DICT_BUSY. -/
def St.dictBusy : Status := 0x010B
/-- Status DICT_SELECTOR. -/
def St.dictSelector : Status := 0x010C
/-- Status DICT_LOCKED. -/
def St.dictLocked : Status := 0x010D
/-- Status DICT_STORE_FAIL. -/
def St.dictStoreFail : Status := 0x010E
/-- Status DICT_DUPLICATE. -/
def St.dictDuplicate : Status := 0x010F
/-- Status FDP_BAD_HEADER. -/
def St.fdpBadHeader : Status := 0x0110
/-- Status FDP_VERSION. -/
def St.fdpVersion : Status := 0x0111
/-- Status FDP_SERVICE. -/
def St.fdpService : Status := 0x0112
/-- Status FDP_STALE_INCARNATION. -/
def St.fdpStaleIncarnation : Status := 0x0113
/-- Status FDP_ID_REUSED. -/
def St.fdpIdReused : Status := 0x0114
/-- Status FDP_SESSIONS_FULL. -/
def St.fdpSessionsFull : Status := 0x0115
/-- Status FDP_HANDSHAKE. -/
def St.fdpHandshake : Status := 0x0116
/-- Status FDP_PORT_LATENT. -/
def St.fdpPortLatent : Status := 0x0117
/-- Status ADDR_RESERVED. -/
def St.addrReserved : Status := 0x0201
/-- Status ADDR_PART_VIOLATION. -/
def St.addrPartViolation : Status := 0x0202
/-- Status ADDR_REGISTER_SPACE. -/
def St.addrRegisterSpace : Status := 0x0203
/-- Status ADDR_REMOTE_DENIED. -/
def St.addrRemoteDenied : Status := 0x0204
/-- Status ADDR_REMOTE_UNREACHABLE. -/
def St.addrRemoteUnreachable : Status := 0x0205
/-- Status ADDR_REMOTE_LRSC. -/
def St.addrRemoteLrsc : Status := 0x0206
/-- Status ADDR_ALIAS_REMOTE. -/
def St.addrAliasRemote : Status := 0x0207
/-- Status POISON_CONSUMED. -/
def St.poisonConsumed : Status := 0x0208
/-- Status PAGE_FAULT_MOVE. -/
def St.pageFaultMove : Status := 0x020C
/-- Status TAG_NONE. -/
def St.tagNone : Status := 0x0210
/-- Status TAG_NOT_OWNER. -/
def St.tagNotOwner : Status := 0x0211
/-- Status TAG_NOT_ISSUED. -/
def St.tagNotIssued : Status := 0x0212
/-- Status TAG_ABORTED. -/
def St.tagAborted : Status := 0x0213
/-- Status THREAD_NOT_OWNED. -/
def St.threadNotOwned : Status := 0x0220
/-- Status THREAD_BUSY. -/
def St.threadBusy : Status := 0x0221
/-- Status HOST_WINDOW_FAULT. -/
def St.hostWindowFault : Status := 0x0230
/-- Status HOST_WINDOW_BAD. -/
def St.hostWindowBad : Status := 0x0231
/-- Status EXT_OPERAND. -/
def St.extOperand : Status := 0x0240
/-- Status EXT_DESC_PLACE. -/
def St.extDescPlace : Status := 0x0241
/-- Status EXT_DESC_FIELD. -/
def St.extDescField : Status := 0x0242
/-- Status EXT_OPERAND_PLACE. -/
def St.extOperandPlace : Status := 0x0243
/-- Status EXT_NO_LICENCE. -/
def St.extNoLicence : Status := 0x0244
/-- Status EXT_LIC_LIMIT. -/
def St.extLicLimit : Status := 0x0245
/-- Status EXT_LIC_RELEASE. -/
def St.extLicRelease : Status := 0x0246
/-- Status EXT_CLASS. -/
def St.extClass : Status := 0x0247
/-- Status EXT_REMOTE_FORM. -/
def St.extRemoteForm : Status := 0x0248
/-- Status EXT_TAG_BUSY. -/
def St.extTagBusy : Status := 0x0249
/-- Status EXT_SAMPLE_DENIED. -/
def St.extSampleDenied : Status := 0x024A
/-- Status ARITH_RESIDUE_RETRY. -/
def St.arithResidueRetry : Status := 0x0301
/-- Status ARITH_ARRAY_RETIRED. -/
def St.arithArrayRetired : Status := 0x0302
/-- Status ARITH_GROVE_NO_ARRAYS. -/
def St.arithGroveNoArrays : Status := 0x0303
/-- Status MEM_CORRECTED. -/
def St.memCorrected : Status := 0x0401
/-- Status MEM_UNCORRECTABLE. -/
def St.memUncorrectable : Status := 0x0402
/-- Status MEM_POISON_MOVED. -/
def St.memPoisonMoved : Status := 0x0403
/-- Status MEM_KEY_ABSENT. -/
def St.memKeyAbsent : Status := 0x0404
/-- Status MEM_NOT_SCRUBBED. -/
def St.memNotScrubbed : Status := 0x0405
/-- Status MEM_SCRUB_DONE. -/
def St.memScrubDone : Status := 0x0406
/-- Status MEM_CLEAR_DONE. -/
def St.memClearDone : Status := 0x0407
/-- Status MEM_PATROL_LAG. -/
def St.memPatrolLag : Status := 0x0408
/-- Status MOVE_DESC_FIELD. -/
def St.moveDescField : Status := 0x0410
/-- Status Q_FULL. -/
def St.qFull : Status := 0x0501
/-- Status Q_POOL_EMPTY. -/
def St.qPoolEmpty : Status := 0x0502
/-- Status Q_PKT_TOO_LARGE. -/
def St.qPktTooLarge : Status := 0x0503
/-- Status Q_BAD_HEADER. -/
def St.qBadHeader : Status := 0x0504
/-- Status Q_PKT_OVERRUN. -/
def St.qPktOverrun : Status := 0x0505
/-- Status Q_PKT_SHORT. -/
def St.qPktShort : Status := 0x0506
/-- Status Q_NO_OPEN. -/
def St.qNoOpen : Status := 0x0507
/-- Status Q_OPEN_LIMIT. -/
def St.qOpenLimit : Status := 0x0508
/-- Status Q_DISABLED. -/
def St.qDisabled : Status := 0x0509
/-- Status Q_RESET. -/
def St.qReset : Status := 0x050A
/-- Status Q_PARITY. -/
def St.qParity : Status := 0x050B
/-- Status Q_CAP_TOO_SMALL. -/
def St.qCapTooSmall : Status := 0x050C
/-- Status Q_RESV_ABOVE_CAP. -/
def St.qResvAboveCap : Status := 0x050D
/-- Status Q_RESV_OVERCOMMIT. -/
def St.qResvOvercommit : Status := 0x050E
/-- Status Q_NOT_EMPTY. -/
def St.qNotEmpty : Status := 0x050F
/-- Status Q_DLQ_BAD. -/
def St.qDlqBad : Status := 0x0510
/-- Status Q_DLQ_OVERFLOW. -/
def St.qDlqOverflow : Status := 0x0511
/-- Status Q_READER_RELEASED. -/
def St.qReaderReleased : Status := 0x0512
/-- Status Q_RESET_DONE. -/
def St.qResetDone : Status := 0x0513
/-- Status BZ_UNDERFLOW. -/
def St.bzUnderflow : Status := 0x0601
/-- Status BZ_SET_REFUSED. -/
def St.bzSetRefused : Status := 0x0602
/-- Status BZ_ALLOC_BAD. -/
def St.bzAllocBad : Status := 0x0603
/-- Status BZ_SHRINK_DONE. -/
def St.bzShrinkDone : Status := 0x0604
/-- Status BZ_SNAPSHOT. -/
def St.bzSnapshot : Status := 0x0605
/-- Status BZ_RESTORED. -/
def St.bzRestored : Status := 0x0606
/-- Status BZ_IMAGE_RANGE. -/
def St.bzImageRange : Status := 0x0607
/-- Status BZ_BUSY. -/
def St.bzBusy : Status := 0x0608
/-- Status BZ_DUMP_DONE. -/
def St.bzDumpDone : Status := 0x0609
/-- Status VIS_BOX_NONFINITE. -/
def St.visBoxNonfinite : Status := 0x0701
/-- Status VIS_SAMPLER_RETRY. -/
def St.visSamplerRetry : Status := 0x0702
/-- Status VIS_SAMPLER_RETIRED. -/
def St.visSamplerRetired : Status := 0x0703
/-- Status ATTN_ORDER. -/
def St.attnOrder : Status := 0x0801
/-- Status ATTN_STATE. -/
def St.attnState : Status := 0x0802
/-- Status KV_STALLED. -/
def St.kvStalled : Status := 0x0803
/-- Status KV_SLOT_STATE. -/
def St.kvSlotState : Status := 0x0804
/-- Status KV_SHAPE_BAD. -/
def St.kvShapeBad : Status := 0x0805
/-- Status KV_RANGE. -/
def St.kvRange : Status := 0x0806
/-- Status KV_PIN_LIMIT. -/
def St.kvPinLimit : Status := 0x0807
/-- Status KV_PINNED. -/
def St.kvPinned : Status := 0x0808
/-- Status KV_TOO_LONG. -/
def St.kvTooLong : Status := 0x0809
/-- Status KV_APPEND_LIMIT. -/
def St.kvAppendLimit : Status := 0x080A
/-- Status KV_CMD_BAD. -/
def St.kvCmdBad : Status := 0x080B
/-- Status KV_CONFIG_BAD. -/
def St.kvConfigBad : Status := 0x080C
/-- Status KV_ARENA_BUSY. -/
def St.kvArenaBusy : Status := 0x080D
/-- Status KV_BUCKET_BAD. -/
def St.kvBucketBad : Status := 0x080E
/-- Status KV_PARKED. -/
def St.kvParked : Status := 0x080F
/-- Status KV_RSP_BLOCKED. -/
def St.kvRspBlocked : Status := 0x0810
/-- Status KV_PREEMPTED. -/
def St.kvPreempted : Status := 0x0811
/-- Status SRV_CMD_BAD. -/
def St.srvCmdBad : Status := 0x0901
/-- Status SRV_NOT_OWNED. -/
def St.srvNotOwned : Status := 0x0902
/-- Status SRV_SEQ_STATE. -/
def St.srvSeqState : Status := 0x0903
/-- Status SRV_ACCOUNT. -/
def St.srvAccount : Status := 0x0904
/-- Status SRV_QUOTA. -/
def St.srvQuota : Status := 0x0905
/-- Status SRV_BUDGET. -/
def St.srvBudget : Status := 0x0906
/-- Status SRV_BATCH_FULL. -/
def St.srvBatchFull : Status := 0x0907
/-- Status SRV_BATCH_MISMATCH. -/
def St.srvBatchMismatch : Status := 0x0908
/-- Status SRV_OVER_ADMIT. -/
def St.srvOverAdmit : Status := 0x0909
/-- Status SRV_ABANDONED. -/
def St.srvAbandoned : Status := 0x090A
/-- Status SRV_NO_KEY. -/
def St.srvNoKey : Status := 0x090B
/-- Status SRV_ADDR. -/
def St.srvAddr : Status := 0x090C
/-- Status SRV_PFX_EXISTS. -/
def St.srvPfxExists : Status := 0x090D
/-- Status SRV_PFX_FULL. -/
def St.srvPfxFull : Status := 0x090E
/-- Status SRV_PFX_QUOTA. -/
def St.srvPfxQuota : Status := 0x090F
/-- Status SRV_PFX_BUSY. -/
def St.srvPfxBusy : Status := 0x0910
/-- Status SRV_CONFIG_BAD. -/
def St.srvConfigBad : Status := 0x0911
/-- Status SRV_STAGE_LATE. -/
def St.srvStageLate : Status := 0x0912
/-- Status SRV_RSP_BLOCKED. -/
def St.srvRspBlocked : Status := 0x0913
/-- Status SRV_PREEMPTED. -/
def St.srvPreempted : Status := 0x0914
/-- Status VID_CONFIG_BAD. -/
def St.vidConfigBad : Status := 0x0A01
/-- Status VID_UNSUPPORTED. -/
def St.vidUnsupported : Status := 0x0A02
/-- Status VID_BUFFER_SHORT. -/
def St.vidBufferShort : Status := 0x0A03
/-- Status VID_SESSIONS_FULL. -/
def St.vidSessionsFull : Status := 0x0A04
/-- Status VID_BUF_STATE. -/
def St.vidBufState : Status := 0x0A05
/-- Status VID_BUSY. -/
def St.vidBusy : Status := 0x0A06
/-- Status VID_ADDR. -/
def St.vidAddr : Status := 0x0A07
/-- Status VID_NO_BUFFER. -/
def St.vidNoBuffer : Status := 0x0A08
/-- Status VID_PIC_TOO_LARGE. -/
def St.vidPicTooLarge : Status := 0x0A09
/-- Status VID_RING_FULL. -/
def St.vidRingFull : Status := 0x0A0A
/-- Status VID_RC_LATE. -/
def St.vidRcLate : Status := 0x0A0B
/-- Status VID_WATCHDOG. -/
def St.vidWatchdog : Status := 0x0A0C
/-- Status VID_OUT_BLOCKED. -/
def St.vidOutBlocked : Status := 0x0A0D
/-- Status VID_RSP_BLOCKED. -/
def St.vidRspBlocked : Status := 0x0A0E
/-- Status LN_DOWN. -/
def St.lnDown : Status := 0x0B01
/-- Status LN_UP. -/
def St.lnUp : Status := 0x0B02
/-- Status LN_REPLAY_LIMIT. -/
def St.lnReplayLimit : Status := 0x0B03
/-- Status LN_PEER_NEW. -/
def St.lnPeerNew : Status := 0x0B04
/-- Status LN_SESSION_FAIL. -/
def St.lnSessionFail : Status := 0x0B05
/-- Status LN_AUTH_FAIL. -/
def St.lnAuthFail : Status := 0x0B06
/-- Status LN_REPLAYED. -/
def St.lnReplayed : Status := 0x0B07
/-- Status LN_EXPIRED. -/
def St.lnExpired : Status := 0x0B08
/-- Status LN_ROLE_STALE. -/
def St.lnRoleStale : Status := 0x0B09
/-- Status LN_ROLE_DEFERRED. -/
def St.lnRoleDeferred : Status := 0x0B0A
/-- Status LN_ANNOUNCE_LOST. -/
def St.lnAnnounceLost : Status := 0x0B0B
/-- Status LN_PKT_BROKEN. -/
def St.lnPktBroken : Status := 0x0B0C
/-- Status LN_ROUTE_BAD. -/
def St.lnRouteBad : Status := 0x0B0D
/-- Status PR_TIE_BAD. -/
def St.prTieBad : Status := 0x0C01
/-- Status PR_FORM_FAIL. -/
def St.prFormFail : Status := 0x0C02
/-- Status PR_EGRESS_BAD. -/
def St.prEgressBad : Status := 0x0C03
/-- Status PR_EGRESS_UNREACHABLE. -/
def St.prEgressUnreachable : Status := 0x0C04
/-- Status PR_DIGEST_MISMATCH. -/
def St.prDigestMismatch : Status := 0x0C05
/-- Status PR_INPUT_DROP. -/
def St.prInputDrop : Status := 0x0C06
/-- Status PR_YIELD. -/
def St.prYield : Status := 0x0C07
/-- Status PR_TAKEOVER. -/
def St.prTakeover : Status := 0x0C08
/-- Status PR_SOLO. -/
def St.prSolo : Status := 0x0C09
/-- Status PR_OUT_OF_SYNC. -/
def St.prOutOfSync : Status := 0x0C0A
/-- Status PR_LACE_FAULT. -/
def St.prLaceFault : Status := 0x0C0B
/-- Status PR_TIE_RESOLVED. -/
def St.prTieResolved : Status := 0x0C0C
/-- Status PR_STATE. -/
def St.prState : Status := 0x0C0D
/-- Status PR_SWAP_DONE. -/
def St.prSwapDone : Status := 0x0C0E
/-- Status PR_EGRESS_REFUSED. -/
def St.prEgressRefused : Status := 0x0C0F
/-- Status PWR_TOO_LARGE. -/
def St.pwrTooLarge : Status := 0x0D01
/-- Status PWR_RES_SHORT. -/
def St.pwrResShort : Status := 0x0D02
/-- Status PWR_PART_QUOTA. -/
def St.pwrPartQuota : Status := 0x0D03
/-- Status PWR_TIMEOUT. -/
def St.pwrTimeout : Status := 0x0D04
/-- Status PWR_RES_OVER. -/
def St.pwrResOver : Status := 0x0D05
/-- Status PWR_CAP_BAD. -/
def St.pwrCapBad : Status := 0x0D06
/-- Status PWR_TJ_HIGH. -/
def St.pwrTjHigh : Status := 0x0D07
/-- Status PWR_TJ_TRIP. -/
def St.pwrTjTrip : Status := 0x0D08
/-- Status PWR_CURRENT_LIMIT. -/
def St.pwrCurrentLimit : Status := 0x0D09
/-- Status PWR_PKG_LIMIT. -/
def St.pwrPkgLimit : Status := 0x0D0A
/-- Status PWR_BURST_LIMIT. -/
def St.pwrBurstLimit : Status := 0x0D0B
/-- Status PWR_CAP_CHANGE. -/
def St.pwrCapChange : Status := 0x0D0C
/-- Status PWR_RTH_HIGH. -/
def St.pwrRthHigh : Status := 0x0D0D
/-- Status PWR_SENSOR_FAILED. -/
def St.pwrSensorFailed : Status := 0x0D0E
/-- Status SEC_MAP_FIELD. -/
def St.secMapField : Status := 0x0E01
/-- Status SEC_MAP_OVERLAP. -/
def St.secMapOverlap : Status := 0x0E02
/-- Status SEC_RANGE_UNCLEARED. -/
def St.secRangeUncleared : Status := 0x0E03
/-- Status SEC_MAP_APPLIED. -/
def St.secMapApplied : Status := 0x0E04
/-- Status SEC_TENANT_CLEARED. -/
def St.secTenantCleared : Status := 0x0E05
/-- Status SEC_BLOB_FIELD. -/
def St.secBlobField : Status := 0x0E06
/-- Status SEC_DEBUG_OPEN. -/
def St.secDebugOpen : Status := 0x0E07
/-- Status SEC_PART_FREE. -/
def St.secPartFree : Status := 0x0E08
/-- Status SEC_KEY_STALE. -/
def St.secKeyStale : Status := 0x0E09
/-- Status SEC_KEY_JOB. -/
def St.secKeyJob : Status := 0x0E0A
/-- Status SEC_KEY_AUTH. -/
def St.secKeyAuth : Status := 0x0E0B
/-- Status SEC_KEY_PRESENT. -/
def St.secKeyPresent : Status := 0x0E0C
/-- Status SEC_PART_CHANGED. -/
def St.secPartChanged : Status := 0x0E0D
/-- Status SEC_KEY_INSTALLED. -/
def St.secKeyInstalled : Status := 0x0E0E
/-- Status SEC_FUSE_UNREADABLE. -/
def St.secFuseUnreadable : Status := 0x0E0F
/-- Status SEC_FUSE_DENIED. -/
def St.secFuseDenied : Status := 0x0E10
/-- Status SEC_FUSE_PROG_FAIL. -/
def St.secFuseProgFail : Status := 0x0E11
/-- Status START_STATE. -/
def St.startState : Status := 0x0F01
/-- Status START_BIST_RETIRED. -/
def St.startBistRetired : Status := 0x0F02
/-- Status START_BIST_FAIL. -/
def St.startBistFail : Status := 0x0F03
/-- Status START_LATCH. -/
def St.startLatch : Status := 0x0F04
/-- Status START_RESET_HELD. -/
def St.startResetHeld : Status := 0x0F05
/-- Status START_REQ_DENIED. -/
def St.startReqDenied : Status := 0x0F06
/-- Status STITCH_OVERRUN. -/
def St.stitchOverrun : Status := 0x0F80
/-- Status TIME_HOLDOVER. -/
def St.timeHoldover : Status := 0x0F81
/-- Status TIME_LOST. -/
def St.timeLost : Status := 0x0F82
/-- Status TIME_OFFSET_LARGE. -/
def St.timeOffsetLarge : Status := 0x0F83
/-- Status STITCH_PERIOD_BAD. -/
def St.stitchPeriodBad : Status := 0x0F84
/-- Status STITCH_CHANGE_LATE. -/
def St.stitchChangeLate : Status := 0x0F85
/-- Status TIME_NOT_LOCKED. -/
def St.timeNotLocked : Status := 0x0F86
/-- Status STITCH_EPOCH_WRAP. -/
def St.stitchEpochWrap : Status := 0x0F87
/-- Status BRD_INPUT_RANGE. -/
def St.brdInputRange : Status := 0x0F90
/-- Status BRD_INPUT_DIP. -/
def St.brdInputDip : Status := 0x0F91
/-- Status BRD_HOTSWAP_TRIP. -/
def St.brdHotswapTrip : Status := 0x0F92
/-- Status BRD_INLET_FAILED. -/
def St.brdInletFailed : Status := 0x0F93
/-- Status BRD_INLET_DISAGREE. -/
def St.brdInletDisagree : Status := 0x0F94
/-- Status FLT_LOG_WRAP. -/
def St.fltLogWrap : Status := 0x0FA0
/-- Status FLT_FAILED. -/
def St.fltFailed : Status := 0x0FA1
/-- Status FLT_FENCED. -/
def St.fltFenced : Status := 0x0FA2
/-- Status FLT_FENCE_GLITCH. -/
def St.fltFenceGlitch : Status := 0x0FA3
/-- Status FLT_PART_RESTART. -/
def St.fltPartRestart : Status := 0x0FA4
/-- Status FLT_CKPT_BEGIN. -/
def St.fltCkptBegin : Status := 0x0FA5
/-- Status FLT_CKPT_DONE. -/
def St.fltCkptDone : Status := 0x0FA6
/-- Status FLT_CKPT_LATE. -/
def St.fltCkptLate : Status := 0x0FA7
/-- Status FLT_ROLLBACK. -/
def St.fltRollback : Status := 0x0FA8
/-- Status FLT_ROLLBACK_BAD. -/
def St.fltRollbackBad : Status := 0x0FA9
/-- Status FLT_SHADOW_RESET. -/
def St.fltShadowReset : Status := 0x0FAA
/-- Status FLT_SHADOW_PASSED. -/
def St.fltShadowPassed : Status := 0x0FAB
/-- Status FLT_ADMITTED. -/
def St.fltAdmitted : Status := 0x0FAC
/-- Status FLT_STATE. -/
def St.fltState : Status := 0x0FAD
/-- Status FLT_PM_DONE. -/
def St.fltPmDone : Status := 0x0FAE
/-- Status FLT_NO_ENTRY. -/
def St.fltNoEntry : Status := 0x0FAF
/-- Status FLT_SUPPRESS_REPORT. -/
def St.fltSuppressReport : Status := 0x0FB0
/-- Status FW_FORMAT. -/
def St.fwFormat : Status := 0x0FC0
/-- Status FW_NO_IMAGE. -/
def St.fwNoImage : Status := 0x0FC1
/-- Status FW_BANK_FALLBACK. -/
def St.fwBankFallback : Status := 0x0FC2
/-- Status FW_NOT_ERASED. -/
def St.fwNotErased : Status := 0x0FC3
/-- Status FW_BANK_BUSY. -/
def St.fwBankBusy : Status := 0x0FC4
/-- Status FW_HOOK_LATE. -/
def St.fwHookLate : Status := 0x0FC5
/-- Status FW_HALTED. -/
def St.fwHalted : Status := 0x0FC6
/-- Status FW_DENIED. -/
def St.fwDenied : Status := 0x0FC7
/-- Status FW_RESULT_BAD. -/
def St.fwResultBad : Status := 0x0FC8
/-- Status FW_LOCKSTEP. -/
def St.fwLockstep : Status := 0x0FC9
/-- Status FW_RESTARTED. -/
def St.fwRestarted : Status := 0x0FCA
/-- Status FW_CONFIRMED. -/
def St.fwConfirmed : Status := 0x0FCB
/-- Status CTR_CONFIG_BAD. -/
def St.ctrConfigBad : Status := 0x0FE0
/-- Status CTR_Q_SHORT. -/
def St.ctrQShort : Status := 0x0FE1
/-- Status CTR_SNAP_DROP. -/
def St.ctrSnapDrop : Status := 0x0FE2
/-- Status CTR_SMPL_DROP. -/
def St.ctrSmplDrop : Status := 0x0FE3
/-- Part 0 of the class table: first code, last code, class (R560). -/
def classRuns0 : List (Nat × Nat × Nat) :=
  [(0x0101, 0x0116, 2),
   (0x0117, 0x0117, 8),
   (0x0201, 0x0207, 2),
   (0x0208, 0x0208, 3),
   (0x020C, 0x020C, 2),
   (0x0210, 0x0213, 2),
   (0x0220, 0x0221, 2),
   (0x0230, 0x0231, 2),
   (0x0240, 0x024A, 2),
   (0x0301, 0x0301, 1),
   (0x0302, 0x0303, 5),
   (0x0401, 0x0401, 1),
   (0x0402, 0x0403, 3),
   (0x0404, 0x0405, 2),
   (0x0406, 0x0407, 0),
   (0x0408, 0x0408, 2),
   (0x0410, 0x0410, 2),
   (0x0501, 0x050A, 2),
   (0x050B, 0x050B, 3),
   (0x050C, 0x0511, 2),
   (0x0512, 0x0513, 0),
   (0x0601, 0x0603, 2),
   (0x0604, 0x0606, 0),
   (0x0607, 0x0608, 2)]
/-- Part 1 of the class table: first code, last code, class (R560). -/
def classRuns1 : List (Nat × Nat × Nat) :=
  [(0x0609, 0x0609, 0),
   (0x0701, 0x0701, 2),
   (0x0702, 0x0702, 1),
   (0x0703, 0x0703, 5),
   (0x0801, 0x080E, 2),
   (0x080F, 0x080F, 0),
   (0x0810, 0x0810, 4),
   (0x0811, 0x0811, 0),
   (0x0901, 0x0912, 2),
   (0x0913, 0x0913, 4),
   (0x0914, 0x0914, 0),
   (0x0A01, 0x0A0A, 2),
   (0x0A0B, 0x0A0B, 0),
   (0x0A0C, 0x0A0E, 4),
   (0x0B01, 0x0B02, 0),
   (0x0B03, 0x0B03, 8),
   (0x0B04, 0x0B04, 0),
   (0x0B05, 0x0B08, 8),
   (0x0B09, 0x0B09, 2),
   (0x0B0A, 0x0B0A, 0),
   (0x0B0B, 0x0B0C, 8),
   (0x0B0D, 0x0B0D, 2),
   (0x0C01, 0x0C02, 6),
   (0x0C03, 0x0C03, 2)]
/-- Part 2 of the class table: first code, last code, class (R560). -/
def classRuns2 : List (Nat × Nat × Nat) :=
  [(0x0C04, 0x0C07, 6),
   (0x0C08, 0x0C08, 0),
   (0x0C09, 0x0C0C, 6),
   (0x0C0D, 0x0C0D, 2),
   (0x0C0E, 0x0C0E, 0),
   (0x0C0F, 0x0C0F, 2),
   (0x0D01, 0x0D06, 2),
   (0x0D07, 0x0D07, 0),
   (0x0D08, 0x0D08, 5),
   (0x0D09, 0x0D0A, 0),
   (0x0D0B, 0x0D0B, 8),
   (0x0D0C, 0x0D0C, 0),
   (0x0D0D, 0x0D0D, 8),
   (0x0D0E, 0x0D0E, 5),
   (0x0E01, 0x0E03, 2),
   (0x0E04, 0x0E05, 0),
   (0x0E06, 0x0E0D, 2),
   (0x0E0E, 0x0E0E, 0),
   (0x0E0F, 0x0E0F, 7),
   (0x0E10, 0x0E11, 2),
   (0x0F01, 0x0F02, 0),
   (0x0F03, 0x0F03, 7),
   (0x0F04, 0x0F04, 4),
   (0x0F05, 0x0F05, 0)]
/-- Part 3 of the class table: first code, last code, class (R560). -/
def classRuns3 : List (Nat × Nat × Nat) :=
  [(0x0F06, 0x0F06, 2),
   (0x0F80, 0x0F80, 4),
   (0x0F81, 0x0F83, 8),
   (0x0F84, 0x0F85, 2),
   (0x0F86, 0x0F86, 8),
   (0x0F87, 0x0F87, 0),
   (0x0F90, 0x0F90, 8),
   (0x0F91, 0x0F92, 0),
   (0x0F93, 0x0F93, 5),
   (0x0F94, 0x0F94, 8),
   (0x0FA0, 0x0FA0, 0),
   (0x0FA1, 0x0FA1, 7),
   (0x0FA2, 0x0FA2, 8),
   (0x0FA3, 0x0FA6, 0),
   (0x0FA7, 0x0FA7, 4),
   (0x0FA8, 0x0FA8, 0),
   (0x0FA9, 0x0FA9, 2),
   (0x0FAA, 0x0FAC, 0),
   (0x0FAD, 0x0FAD, 2),
   (0x0FAE, 0x0FAE, 0),
   (0x0FAF, 0x0FAF, 4),
   (0x0FB0, 0x0FB0, 0),
   (0x0FC0, 0x0FC0, 2),
   (0x0FC1, 0x0FC1, 7)]
/-- Part 4 of the class table: first code, last code, class (R560). -/
def classRuns4 : List (Nat × Nat × Nat) :=
  [(0x0FC2, 0x0FC2, 0),
   (0x0FC3, 0x0FC5, 2),
   (0x0FC6, 0x0FC6, 5),
   (0x0FC7, 0x0FC8, 2),
   (0x0FC9, 0x0FC9, 5),
   (0x0FCA, 0x0FCB, 0),
   (0x0FE0, 0x0FE1, 2),
   (0x0FE2, 0x0FE3, 4)]
/-- The classes of every defined code (R560). -/
def classRuns : List (Nat × Nat × Nat) :=
  classRuns0 ++ classRuns1 ++ classRuns2 ++ classRuns3 ++ classRuns4
/-- The error class of a status code; none for 0x0000 and for reserved and undefined codes (R560, 0x5882/2). -/
def classOf (s : Status) : Option Nat :=
  (classRuns.find? fun r => r.1 ≤ s.toNat && s.toNat ≤ r.2.1).map (·.2.2)
/-- CLASS_OF as the dictionary reads it (Table 17-6). -/
def classByte (s : Status) : Nat := (classOf s).getD 0xFF

/-- A source number from its class and instance (R13). -/
def srcOf (cls inst : Nat) : Source := BitVec.ofNat 16 (cls * 4096 + inst)
/-- The timebase (Table 01-5). -/
def Src.timebase : Source := srcOf 0 0
/-- Grove `g`. -/
def Src.grove (g : Nat) : Source := srcOf 1 g
/-- Stand `s`; 8 and 9 the die fabrics. -/
def Src.stand (s : Nat) : Source := srcOf 2 s
/-- The queue engine. -/
def Src.queue : Source := srcOf 3 0
/-- Base memory. -/
def Src.baseMem : Source := srcOf 3 1
/-- The blaze file. -/
def Src.blaze : Source := srcOf 3 2
/-- The counter collector. -/
def Src.counter : Source := srcOf 3 3
/-- The KV pager. -/
def Src.kv : Source := srcOf 3 4
/-- The serving engine. -/
def Src.serving : Source := srcOf 3 5
/-- The fault collector. -/
def Src.fault : Source := srcOf 3 6
/-- The clear sequencer. -/
def Src.clear : Source := srcOf 3 7
/-- HBM stack and channel. -/
def Src.hbm (i : Nat) : Source := srcOf 4 i
/-- Understory package and channel. -/
def Src.us (i : Nat) : Source := srcOf 5 i
/-- Video core `c`; 8 the command interface and scheduler. -/
def Src.video (c : Nat) : Source := srcOf 6 c
/-- Link port `p`. -/
def Src.link (p : Nat) : Source := srcOf 7 p
/-- PCIe function. -/
def Src.pcie (f : Nat) : Source := srcOf 8 f
/-- Cobbler core. -/
def Src.cobbler (c : Nat) : Source := srcOf 9 c
/-- The Warden. -/
def Src.warden : Source := srcOf 10 0
/-- The welt. -/
def Src.welt : Source := srcOf 11 0
/-- The lace logic. -/
def Src.lace : Source := srcOf 11 1
/-- The security engine. -/
def Src.security : Source := srcOf 12 0
/-- The fuse controller. -/
def Src.fuse : Source := srcOf 13 0
/-- A thermal sensor (288 INLET_A, 289 INLET_B). -/
def Src.thermal (s : Nat) : Source := srcOf 14 s

end Sys2Proof.Machine
end

