-- ==== Sys2Proof/Machine/ObjTable.lean ====
section
/-! DEFINITION. The object dictionary's objects (R69 to R71), from the owning chapters' tables: subindices, type
(Table 03-1), field class (Table 03-2), persistence (Table 03-3), the four roles' rights with the departures that the
chapters state (R83, R711), default and range. -/
namespace Sys2Proof.Machine

/-- One object, or a run of subindices with the same properties. -/
structure ObjDef where
  lo : Nat
  hi : Nat
  /-- Type code of Table 03-1. -/
  ty : Nat
  /-- Bytes. -/
  size : Nat
  /-- Field class of Table 03-2: 0 RO, 1 RW, 2 RWH, 3 W1C, 4 W1S, 5 CNT, 6 WO. -/
  cls : Nat
  /-- Persistence of Table 03-3: 0 fixed, 1 stored, 2 none, 3 partition. -/
  pers : Nat
  /-- Two bits a role, observer lowest: bit 0 reads, bit 1 writes (R711, before the field class narrows them). -/
  rights : Nat
  /-- Default, as the little-endian number of its bytes. -/
  dflt : Nat
  rmin : Nat
  rmax : Nat
deriving DecidableEq, Repr

/-- Objects of 0x1000: GRADE, DIES, STANDS, GROVES_PER_STAND, GROVES_ACTIVE, ARRAYS_PER_GROVE, ARRAY_DIM, THREADS_PER_GROVE, TAGS_PER_GROVE, GROVE_MEM, STAND_MEM, BASE_MEM. -/
def objs1000_0 : List ObjDef :=
  [⟨1, 1, 0x02, 1, 0, 0, 0x55, 1, 0, 255⟩,
   ⟨2, 2, 0x02, 1, 0, 0, 0x55, 2, 0, 255⟩,
   ⟨3, 3, 0x02, 1, 0, 0, 0x55, 8, 0, 255⟩,
   ⟨4, 4, 0x02, 1, 0, 0, 0x55, 0x20, 0, 255⟩,
   ⟨5, 5, 0x03, 2, 0, 2, 0x55, 0x100, 0, 65535⟩,
   ⟨6, 6, 0x02, 1, 0, 0, 0x55, 8, 0, 255⟩,
   ⟨7, 7, 0x02, 1, 0, 0, 0x55, 0x20, 0, 255⟩,
   ⟨8, 8, 0x02, 1, 0, 0, 0x55, 0x40, 0, 255⟩,
   ⟨9, 9, 0x03, 2, 0, 0, 0x55, 0x100, 0, 65535⟩,
   ⟨10, 10, 0x04, 4, 0, 0, 0x55, 0x280000, 0, 4294967295⟩,
   ⟨11, 11, 0x04, 4, 0, 0, 0x55, 0x1000000, 0, 4294967295⟩,
   ⟨12, 12, 0x04, 4, 0, 0, 0x55, 0x10000000, 0, 4294967295⟩]
/-- Objects of 0x1000: HBM_BYTES, UNDERSTORY_BYTES, MAX_DOMAIN, VIDEO_CORES, LINK_PORTS, HBM_STACKS, UNDERSTORY_PKGS, CLOCK_DOMAINS, SLOT_ID. -/
def objs1000_1 : List ObjDef :=
  [⟨13, 13, 0x05, 8, 0, 0, 0x55, 0x8000000000, 0, 18446744073709551615⟩,
   ⟨14, 14, 0x05, 8, 0, 0, 0x55, 0x8000000000, 0, 18446744073709551615⟩,
   ⟨15, 15, 0x03, 2, 0, 0, 0x55, 0x1000, 0, 65535⟩,
   ⟨16, 16, 0x02, 1, 0, 0, 0x55, 8, 0, 255⟩,
   ⟨17, 17, 0x02, 1, 0, 0, 0x55, 0x10, 0, 255⟩,
   ⟨18, 18, 0x02, 1, 0, 0, 0x55, 8, 0, 255⟩,
   ⟨19, 19, 0x02, 1, 0, 0, 0x55, 0x10, 0, 255⟩,
   ⟨20, 20, 0x02, 1, 0, 0, 0x55, 0x12, 0, 255⟩,
   ⟨21, 21, 0x02, 1, 0, 2, 0x55, 0, 0, 255⟩]
/-- Objects of 0x1001: CLK_KHZ, CLK_LIMITED. -/
def objs1001_0 : List ObjDef :=
  [⟨1, 18, 0x04, 4, 0, 2, 0x55, 0, 0, 4294967295⟩,
   ⟨19, 19, 0x02, 1, 0, 2, 0x55, 0, 0, 255⟩]
/-- Objects of 0x1100: TIME_NOW, TIME_STATE, TIME_OFFSET, GPTP_DOMAIN, GPTP_PORT, GM_IDENTITY, HOLDOVER_MAX_S, FREERUN_ALLOWED, STITCH_PERIOD_US, STITCH_ANCHOR_TIME, STITCH_ANCHOR_COUNT, STITCH_COUNT. -/
def objs1100_0 : List ObjDef :=
  [⟨1, 1, 0x05, 8, 0, 2, 0xF5, 0, 0, 18446744073709551615⟩,
   ⟨2, 2, 0x02, 1, 0, 2, 0xF5, 0, 0, 255⟩,
   ⟨3, 3, 0x09, 8, 0, 2, 0xF5, 0, 0, 18446744073709551615⟩,
   ⟨4, 4, 0x02, 1, 1, 1, 0xF5, 0, 0, 127⟩,
   ⟨5, 5, 0x02, 1, 0, 2, 0xF5, 0xff, 0, 255⟩,
   ⟨6, 6, 0x05, 8, 0, 2, 0xF5, 0, 0, 18446744073709551615⟩,
   ⟨7, 7, 0x03, 2, 1, 1, 0xF5, 0x3c, 1, 3600⟩,
   ⟨8, 8, 0x02, 1, 1, 1, 0xD5, 0, 0, 1⟩,
   ⟨9, 9, 0x04, 4, 0, 1, 0xF5, 0x3e8, 0, 4294967295⟩,
   ⟨10, 10, 0x05, 8, 0, 1, 0xF5, 0, 0, 18446744073709551615⟩,
   ⟨11, 11, 0x05, 8, 0, 1, 0xF5, 0, 0, 18446744073709551615⟩,
   ⟨12, 12, 0x05, 8, 0, 2, 0xF5, 0, 0, 18446744073709551615⟩]
/-- Objects of 0x1100: STITCH_BOUNDARY, PEND_PERIOD_US, PEND_AT_COUNT, PEND_ARM, PEND_STATE, OVERRUNS, LAST_OVERRUN. -/
def objs1100_1 : List ObjDef :=
  [⟨13, 13, 0x05, 8, 0, 2, 0xF5, 0, 0, 18446744073709551615⟩,
   ⟨14, 14, 0x04, 4, 2, 2, 0xF5, 0, 0, 4294967295⟩,
   ⟨15, 15, 0x05, 8, 2, 2, 0xF5, 0, 0, 18446744073709551615⟩,
   ⟨16, 16, 0x02, 1, 6, 2, 0xF5, 0, 1, 1⟩,
   ⟨17, 17, 0x02, 1, 0, 2, 0xF5, 0, 0, 255⟩,
   ⟨18, 18, 0x04, 4, 5, 2, 0xF5, 0, 0, 4294967295⟩,
   ⟨19, 19, 0x05, 8, 0, 2, 0xF5, 0, 0, 18446744073709551615⟩]
/-- Objects of 0x1200: FDP_UDP_PORT, MAC_ADDR, IPV6_ADDR, IPV6_PREFIX, PORT_STATE, FRER_ENABLE, FRER_ELIMINATED, FRER_HISTORY, FRER_RESET_MS, FRER_ROGUE, FDP_DROPPED, SESSIONS_OPEN. -/
def objs1200_0 : List ObjDef :=
  [⟨1, 1, 0x03, 2, 1, 1, 0xF1, 0x1a4c, 1024, 65535⟩,
   ⟨2, 2, 0x05, 8, 0, 0, 0xF1, 0, 0, 18446744073709551615⟩,
   ⟨3, 3, 0x0A, 16, 1, 1, 0xF1, 0, 0, 0⟩,
   ⟨4, 4, 0x02, 1, 1, 1, 0xF1, 0x40, 8, 128⟩,
   ⟨5, 5, 0x02, 1, 0, 2, 0xF1, 0, 0, 255⟩,
   ⟨6, 6, 0x01, 1, 1, 1, 0xF1, 1, 0, 1⟩,
   ⟨7, 7, 0x04, 4, 5, 2, 0xF1, 0, 0, 4294967295⟩,
   ⟨8, 8, 0x02, 1, 1, 1, 0xF1, 0x20, 2, 64⟩,
   ⟨9, 9, 0x03, 2, 1, 1, 0xF1, 0x64, 10, 10000⟩,
   ⟨10, 10, 0x04, 4, 5, 2, 0xF1, 0, 0, 4294967295⟩,
   ⟨11, 11, 0x04, 4, 5, 2, 0xF1, 0, 0, 4294967295⟩,
   ⟨12, 12, 0x03, 2, 0, 2, 0xF1, 0, 0, 65535⟩]
/-- Objects of 0x1200: SESSION_IDLE_S, HANDSHAKE_FAIL, MBX_ROLE, INCARNATION, SESSION_CLOSE, ROLE_ENTRIES. -/
def objs1200_1 : List ObjDef :=
  [⟨13, 13, 0x03, 2, 1, 1, 0xF1, 0x12c, 10, 3600⟩,
   ⟨14, 14, 0x04, 4, 5, 2, 0xF1, 0, 0, 4294967295⟩,
   ⟨15, 15, 0x02, 1, 1, 1, 0xF1, 0, 0, 255⟩,
   ⟨16, 16, 0x05, 8, 0, 2, 0xF1, 0, 0, 18446744073709551615⟩,
   ⟨17, 17, 0x02, 1, 6, 2, 0xF1, 0, 0, 15⟩,
   ⟨18, 18, 0x02, 1, 0, 2, 0xF1, 0, 0, 255⟩]
/-- Objects of 0x1300: HOST_MODE, LINK0_STATE, LINK1_STATE, VF_LINK, VF_ENABLED, IDE_STREAMS. -/
def objs1300_0 : List ObjDef :=
  [⟨1, 1, 0x02, 1, 1, 1, 0xF5, 0, 0, 1⟩,
   ⟨2, 2, 0x03, 2, 0, 2, 0xF5, 0, 0, 65535⟩,
   ⟨3, 3, 0x03, 2, 0, 2, 0xF5, 0, 0, 65535⟩,
   ⟨4, 4, 0x03, 2, 1, 1, 0xF5, 0, 0, 65535⟩,
   ⟨5, 5, 0x03, 2, 0, 2, 0xF5, 0, 0, 65535⟩,
   ⟨6, 6, 0x04, 4, 0, 2, 0xF5, 0, 0, 4294967295⟩]
/-- Objects of 0x2000: THREADS_LOADED, THREADS_HARD, TAG_QUOTA_DEFAULT, TAGS_HELD, PART_VIOLATIONS, REMOTE_REFUSED, TAG_NONE_COUNT, EXT_FAULTS, LIC_SHORT. -/
def objs2000_0 : List ObjDef :=
  [⟨1, 1, 0x03, 2, 0, 2, 0xF4, 0, 0, 65535⟩,
   ⟨2, 2, 0x03, 2, 0, 2, 0xF4, 0, 0, 65535⟩,
   ⟨3, 3, 0x03, 2, 1, 1, 0xF4, 4, 1, 256⟩,
   ⟨4, 4, 0x04, 4, 0, 2, 0xF4, 0, 0, 4294967295⟩,
   ⟨5, 5, 0x04, 4, 5, 2, 0xF4, 0, 0, 4294967295⟩,
   ⟨6, 6, 0x04, 4, 5, 2, 0xF4, 0, 0, 4294967295⟩,
   ⟨7, 7, 0x04, 4, 5, 2, 0xF4, 0, 0, 4294967295⟩,
   ⟨8, 8, 0x04, 4, 5, 2, 0xF4, 0, 0, 4294967295⟩,
   ⟨9, 9, 0x04, 4, 5, 2, 0xF4, 0, 0, 4294967295⟩]
/-- Objects of 0x2100: FORMATS, ROUND_MODES, WINDOW_BITS, WINDOW_BITS_SLICED, LOSS_TOTAL, LOSS_OPS, RESIDUE_EVENTS, ARRAYS_RETIRED, SLICE_CYCLES_FP32, SLICE_CYCLES_FP64, SLICE_KEPT_FP32, SLICE_KEPT_FP64. -/
def objs2100_0 : List ObjDef :=
  [⟨1, 1, 0x05, 8, 0, 0, 0xF4, 0x3f03fe, 0, 18446744073709551615⟩,
   ⟨2, 2, 0x02, 1, 0, 0, 0xF4, 0x1f, 0, 255⟩,
   ⟨3, 3, 0x03, 2, 0, 0, 0xF4, 0xa0, 0, 65535⟩,
   ⟨4, 4, 0x03, 2, 0, 0, 0xF4, 0x140, 0, 65535⟩,
   ⟨5, 5, 0x04, 4, 5, 2, 0xF4, 0, 0, 4294967295⟩,
   ⟨6, 6, 0x04, 4, 5, 2, 0xF4, 0, 0, 4294967295⟩,
   ⟨7, 7, 0x04, 4, 5, 2, 0xF4, 0, 0, 4294967295⟩,
   ⟨8, 8, 0x03, 2, 0, 2, 0xF4, 0, 0, 65535⟩,
   ⟨9, 9, 0x02, 1, 0, 0, 0xF4, 8, 0, 255⟩,
   ⟨10, 10, 0x02, 1, 0, 0, 0xF4, 0x20, 0, 255⟩,
   ⟨11, 11, 0x02, 1, 0, 0, 0xF4, 8, 0, 255⟩,
   ⟨12, 12, 0x02, 1, 0, 0, 0xF4, 0x22, 0, 255⟩]
/-- Objects of 0x2100: COMBINE_MAX, SLICED_OPS, COMBINE_OPS. -/
def objs2100_1 : List ObjDef :=
  [⟨13, 13, 0x03, 2, 0, 0, 0xF4, 0x1000, 0, 65535⟩,
   ⟨14, 14, 0x04, 4, 5, 2, 0xF4, 0, 0, 4294967295⟩,
   ⟨15, 15, 0x04, 4, 5, 2, 0xF4, 0, 0, 4294967295⟩]
/-- Objects of 0x2200: HBM_READY, US_READY, US_SCRUB_MAP, US_SCRUB_GIB, PATROL_HBM_H, PATROL_US_H, SRAM_CORRECTED, SRAM_UNCORRECTABLE, DRAM_CORRECTED, DRAM_UNCORRECTABLE, CLEAR_PENDING, KEY_SLOTS. -/
def objs2200_0 : List ObjDef :=
  [⟨1, 1, 0x02, 1, 0, 2, 0xF4, 0, 0, 255⟩,
   ⟨2, 2, 0x03, 2, 0, 2, 0xF4, 0, 0, 65535⟩,
   ⟨3, 3, 0x0A, 64, 0, 2, 0xF4, 0, 0, 0⟩,
   ⟨4, 4, 0x03, 2, 0, 2, 0xF4, 0, 0, 65535⟩,
   ⟨5, 5, 0x03, 2, 1, 1, 0xF4, 0x18, 1, 720⟩,
   ⟨6, 6, 0x03, 2, 1, 1, 0xF4, 0x18, 1, 720⟩,
   ⟨7, 7, 0x04, 4, 5, 2, 0xF4, 0, 0, 4294967295⟩,
   ⟨8, 8, 0x04, 4, 5, 2, 0xF4, 0, 0, 4294967295⟩,
   ⟨9, 9, 0x04, 4, 5, 2, 0xF4, 0, 0, 4294967295⟩,
   ⟨10, 10, 0x04, 4, 5, 2, 0xF4, 0, 0, 4294967295⟩,
   ⟨11, 11, 0x05, 8, 0, 2, 0xF4, 0, 0, 18446744073709551615⟩,
   ⟨12, 12, 0x03, 2, 0, 2, 0xF4, 0, 0, 65535⟩]
/-- Objects of 0x2200: MOVER_CHAINS, MOVER_BYTES. -/
def objs2200_1 : List ObjDef :=
  [⟨13, 13, 0x04, 4, 5, 2, 0xF4, 0, 0, 4294967295⟩,
   ⟨14, 14, 0x05, 8, 5, 2, 0xF4, 0, 0, 18446744073709551615⟩]
/-- Objects of 0x2300: POOL_CELLS, POOL_FREE, POOL_RESERVED, POOL_SHORTFALL, POOL_BASE, QUEUES_ENABLED, PUSH_WORDS, POP_WORDS, REWOUND, PARITY_ERRORS, REFUSED_FULL, REFUSED_POOL. -/
def objs2300_0 : List ObjDef :=
  [⟨1, 1, 0x04, 4, 1, 1, 0xF4, 0x100000, 0, 4294967295⟩,
   ⟨2, 2, 0x04, 4, 0, 2, 0xF4, 0, 0, 4294967295⟩,
   ⟨3, 3, 0x04, 4, 0, 2, 0xF4, 0, 0, 4294967295⟩,
   ⟨4, 4, 0x04, 4, 0, 2, 0xF4, 0, 0, 4294967295⟩,
   ⟨5, 5, 0x05, 8, 0, 2, 0xF4, 0, 0, 18446744073709551615⟩,
   ⟨6, 6, 0x04, 4, 0, 2, 0xF4, 0, 0, 4294967295⟩,
   ⟨7, 7, 0x05, 8, 5, 2, 0xF4, 0, 0, 18446744073709551615⟩,
   ⟨8, 8, 0x05, 8, 5, 2, 0xF4, 0, 0, 18446744073709551615⟩,
   ⟨9, 9, 0x04, 4, 5, 2, 0xF4, 0, 0, 4294967295⟩,
   ⟨10, 10, 0x04, 4, 5, 2, 0xF4, 0, 0, 4294967295⟩,
   ⟨11, 11, 0x04, 4, 5, 2, 0xF4, 0, 0, 4294967295⟩,
   ⟨12, 12, 0x04, 4, 5, 2, 0xF4, 0, 0, 4294967295⟩]
/-- Objects of 0x2300: DEAD_LETTERS, DLQ_OVERFLOW, OPEN_PACKETS, SIDE_WAITS. -/
def objs2300_1 : List ObjDef :=
  [⟨13, 13, 0x04, 4, 5, 2, 0xF4, 0, 0, 4294967295⟩,
   ⟨14, 14, 0x04, 4, 5, 2, 0xF4, 0, 0, 4294967295⟩,
   ⟨15, 15, 0x04, 4, 0, 2, 0xF4, 0, 0, 4294967295⟩,
   ⟨16, 16, 0x04, 4, 5, 2, 0xF4, 0, 0, 4294967295⟩]
/-- Objects of 0x2301: DLQ. -/
def objs2301_0 : List ObjDef :=
  [⟨1, 16, 0x04, 4, 1, 3, 0xF4, 0xffffffff, 0, 4294967295⟩]
/-- Objects of 0x2400: BLAZES, BZ_SET_NOW, BZ_UNDERFLOWS, BZ_REMOTE_SETS, BZ_SETS_REFUSED, DUMP_REQ, DUMP_STATE, BZ_ALLOCATED, BZ_SNAP_REQ, BZ_RESTORE_REQ, BZ_IMG_STATE. -/
def objs2400_0 : List ObjDef :=
  [⟨1, 1, 0x03, 2, 0, 0, 0xF4, 0x200, 0, 65535⟩,
   ⟨2, 2, 0x03, 2, 0, 2, 0xF4, 0, 0, 65535⟩,
   ⟨3, 3, 0x04, 4, 5, 2, 0xF4, 0, 0, 4294967295⟩,
   ⟨4, 4, 0x04, 4, 5, 2, 0xF4, 0, 0, 4294967295⟩,
   ⟨5, 5, 0x04, 4, 5, 2, 0xF4, 0, 0, 4294967295⟩,
   ⟨6, 6, 0x02, 1, 6, 2, 0xF4, 0, 1, 1⟩,
   ⟨7, 7, 0x02, 1, 0, 2, 0xF4, 0, 0, 255⟩,
   ⟨8, 8, 0x03, 2, 0, 2, 0xF4, 0, 0, 65535⟩,
   ⟨9, 9, 0x02, 1, 6, 2, 0xFC, 0, 0, 15⟩,
   ⟨10, 10, 0x02, 1, 6, 2, 0xFC, 0, 0, 15⟩,
   ⟨11, 11, 0x03, 2, 0, 2, 0xF4, 0, 0, 65535⟩]
/-- Objects of 0x2500: KERNEL_MAX, CHAIN_MAX, BOX_MAX, BIN_MAX, CONV_PASSES, POOL_PASSES, CHAINS, SAMPLE_OPS, SAMPLE_BOXES, BOXES_NONFINITE, SAMPLERS_RETIRED. -/
def objs2500_0 : List ObjDef :=
  [⟨1, 1, 0x02, 1, 0, 0, 0xF4, 0x1f, 0, 255⟩,
   ⟨2, 2, 0x02, 1, 0, 0, 0xF4, 8, 0, 255⟩,
   ⟨3, 3, 0x03, 2, 0, 0, 0xF4, 0x2000, 0, 65535⟩,
   ⟨4, 4, 0x02, 1, 0, 0, 0xF4, 0x40, 0, 255⟩,
   ⟨5, 5, 0x04, 4, 5, 2, 0xF4, 0, 0, 4294967295⟩,
   ⟨6, 6, 0x04, 4, 5, 2, 0xF4, 0, 0, 4294967295⟩,
   ⟨7, 7, 0x04, 4, 5, 2, 0xF4, 0, 0, 4294967295⟩,
   ⟨8, 8, 0x04, 4, 5, 2, 0xF4, 0, 0, 4294967295⟩,
   ⟨9, 9, 0x05, 8, 5, 2, 0xF4, 0, 0, 18446744073709551615⟩,
   ⟨10, 10, 0x04, 4, 5, 2, 0xF4, 0, 0, 4294967295⟩,
   ⟨11, 11, 0x02, 1, 0, 2, 0xF4, 0, 0, 255⟩]
/-- Objects of 0x2600: KV_PAGE_BYTES, KV_SLOTS, KV_MAX_TOKENS, KV_TBL_BASE, KV_HBM_USED, KV_US_USED, KV_SPILLS, KV_PREFETCHES, KV_STALLS, ATTN_OPS, ATTN_ORDER_ERRS, KV_PREFETCH_AHEAD. -/
def objs2600_0 : List ObjDef :=
  [⟨1, 1, 0x04, 4, 0, 0, 0xF4, 0x10000, 0, 4294967295⟩,
   ⟨2, 2, 0x04, 4, 0, 0, 0xF4, 0x10000, 0, 4294967295⟩,
   ⟨3, 3, 0x04, 4, 0, 0, 0xF4, 0x200000, 0, 4294967295⟩,
   ⟨4, 4, 0x05, 8, 0, 2, 0xF4, 0, 0, 18446744073709551615⟩,
   ⟨5, 5, 0x04, 4, 0, 2, 0xF4, 0, 0, 4294967295⟩,
   ⟨6, 6, 0x04, 4, 0, 2, 0xF4, 0, 0, 4294967295⟩,
   ⟨7, 7, 0x05, 8, 5, 2, 0xF4, 0, 0, 18446744073709551615⟩,
   ⟨8, 8, 0x05, 8, 5, 2, 0xF4, 0, 0, 18446744073709551615⟩,
   ⟨9, 9, 0x04, 4, 5, 2, 0xF4, 0, 0, 4294967295⟩,
   ⟨10, 10, 0x04, 4, 5, 2, 0xF4, 0, 0, 4294967295⟩,
   ⟨11, 11, 0x04, 4, 5, 2, 0xF4, 0, 0, 4294967295⟩,
   ⟨12, 12, 0x02, 1, 1, 1, 0xF4, 8, 0, 32⟩]
/-- Objects of 0x2700: SEQ_SLOTS, ACCOUNTS, PFX_ENTRIES, SRV_TBL_BASE, REFILL_ARM, STAGE_AT, STAGE_ARM, STAGE_STATE, REFILLS, BATCHES, TOKENS_EMITTED, PFX_HITS. -/
def objs2700_0 : List ObjDef :=
  [⟨1, 1, 0x04, 4, 0, 0, 0xF4, 0x10000, 0, 4294967295⟩,
   ⟨2, 2, 0x04, 4, 0, 0, 0xF4, 0x10000, 0, 4294967295⟩,
   ⟨3, 3, 0x04, 4, 0, 0, 0xF4, 0x80000, 0, 4294967295⟩,
   ⟨4, 4, 0x05, 8, 0, 2, 0xF4, 0, 0, 18446744073709551615⟩,
   ⟨5, 5, 0x02, 1, 6, 2, 0x54, 0, 1, 1⟩,
   ⟨6, 6, 0x05, 8, 2, 2, 0xF4, 0, 0, 18446744073709551615⟩,
   ⟨7, 7, 0x02, 1, 6, 2, 0xF4, 0, 1, 1⟩,
   ⟨8, 8, 0x02, 1, 0, 2, 0xF4, 0, 0, 255⟩,
   ⟨9, 9, 0x04, 4, 5, 2, 0xF4, 0, 0, 4294967295⟩,
   ⟨10, 10, 0x05, 8, 5, 2, 0xF4, 0, 0, 18446744073709551615⟩,
   ⟨11, 11, 0x05, 8, 5, 2, 0xF4, 0, 0, 18446744073709551615⟩,
   ⟨12, 12, 0x05, 8, 5, 2, 0xF4, 0, 0, 18446744073709551615⟩]
/-- Objects of 0x2700: PFX_FALSE, PFX_EVICTIONS, BATCH_OPEN. -/
def objs2700_1 : List ObjDef :=
  [⟨13, 13, 0x04, 4, 5, 2, 0xF4, 0, 0, 4294967295⟩,
   ⟨14, 14, 0x04, 4, 5, 2, 0xF4, 0, 0, 4294967295⟩,
   ⟨15, 15, 0x03, 2, 0, 2, 0xF4, 0, 0, 65535⟩]
/-- Objects of 0x2800: VID_SESSIONS_MAX, VID_SESSIONS_OPEN, VID_BIN_BUDGET, RC_DEADLINE_US, PICS_DECODED, PICS_ENCODED, UNITS_CONCEALED, WATCHDOGS, PREEMPTIONS, RC_LATE, BOUND_STOPS. -/
def objs2800_0 : List ObjDef :=
  [⟨1, 1, 0x02, 1, 0, 0, 0xF4, 0x30, 0, 255⟩,
   ⟨2, 2, 0x02, 1, 0, 2, 0xF4, 0, 0, 255⟩,
   ⟨3, 3, 0x04, 4, 1, 1, 0xF4, 0x10000, 16384, 65536⟩,
   ⟨4, 4, 0x02, 1, 1, 1, 0xF4, 0x14, 5, 100⟩,
   ⟨5, 5, 0x05, 8, 5, 2, 0xF4, 0, 0, 18446744073709551615⟩,
   ⟨6, 6, 0x05, 8, 5, 2, 0xF4, 0, 0, 18446744073709551615⟩,
   ⟨7, 7, 0x05, 8, 5, 2, 0xF4, 0, 0, 18446744073709551615⟩,
   ⟨8, 8, 0x04, 4, 5, 2, 0xF4, 0, 0, 4294967295⟩,
   ⟨9, 9, 0x04, 4, 5, 2, 0xF4, 0, 0, 4294967295⟩,
   ⟨10, 10, 0x04, 4, 5, 2, 0xF4, 0, 0, 4294967295⟩,
   ⟨11, 11, 0x04, 4, 5, 2, 0xF4, 0, 0, 4294967295⟩]
/-- Objects of 0x3000: PORTS_UP, PORTS_ENABLED, MSG_LIFETIME_US, RESP_TIMEOUT_US, LINK_SESSIONS, MSGS_SENT, MSGS_ACCEPTED, AUTH_FAILS, REPLAYED, EXPIRED, ROLE_STALE, REQ_OUTSTANDING. -/
def objs3000_0 : List ObjDef :=
  [⟨1, 1, 0x03, 2, 0, 2, 0xF5, 0, 0, 65535⟩,
   ⟨2, 2, 0x03, 2, 1, 1, 0xF5, 0xffff, 0, 65535⟩,
   ⟨3, 3, 0x02, 1, 0, 0, 0xF5, 0x64, 0, 255⟩,
   ⟨4, 4, 0x02, 1, 0, 0, 0xF5, 0x78, 0, 255⟩,
   ⟨5, 5, 0x03, 2, 0, 2, 0xF5, 0, 0, 65535⟩,
   ⟨6, 6, 0x05, 8, 5, 2, 0xF5, 0, 0, 18446744073709551615⟩,
   ⟨7, 7, 0x05, 8, 5, 2, 0xF5, 0, 0, 18446744073709551615⟩,
   ⟨8, 8, 0x04, 4, 5, 2, 0xF5, 0, 0, 4294967295⟩,
   ⟨9, 9, 0x04, 4, 5, 2, 0xF5, 0, 0, 4294967295⟩,
   ⟨10, 10, 0x04, 4, 5, 2, 0xF5, 0, 0, 4294967295⟩,
   ⟨11, 11, 0x04, 4, 5, 2, 0xF5, 0, 0, 4294967295⟩,
   ⟨12, 12, 0x04, 4, 0, 2, 0xF5, 0, 0, 4294967295⟩]
/-- Objects of 0x3000: REQ_TIMEOUTS, MSGS_ORPHAN. -/
def objs3000_1 : List ObjDef :=
  [⟨13, 13, 0x04, 4, 5, 2, 0xF5, 0, 0, 4294967295⟩,
   ⟨14, 14, 0x04, 4, 5, 2, 0xF5, 0, 0, 4294967295⟩]
/-- Objects of 0x3001: ROLE_EPOCH. -/
def objs3001_0 : List ObjDef :=
  [⟨1, 16, 0x03, 2, 0, 2, 0xF5, 0, 0, 65535⟩]
/-- Objects of 0x3100: PAIR_MODE, PAIR_MATE, PAIR_ID, PAIR_ROLE_REQ, PAIR_START_AT, PAIR_ARM, PAIR_STATE, PAIR_SWAP, SOLO_ALLOWED, INPUT_GUARD_US, LACE_STATUS, FAILOVERS. -/
def objs3100_0 : List ObjDef :=
  [⟨1, 1, 0x02, 1, 1, 1, 0xF5, 0, 0, 1⟩,
   ⟨2, 2, 0x03, 2, 1, 1, 0xF5, 0, 0, 4095⟩,
   ⟨3, 3, 0x03, 2, 1, 1, 0xF5, 0, 0, 4095⟩,
   ⟨4, 4, 0x02, 1, 2, 1, 0xF5, 0, 0, 1⟩,
   ⟨5, 5, 0x05, 8, 2, 2, 0xF5, 0, 0, 18446744073709551615⟩,
   ⟨6, 6, 0x02, 1, 6, 2, 0xF5, 0, 1, 1⟩,
   ⟨7, 7, 0x02, 1, 0, 2, 0xF5, 0, 0, 255⟩,
   ⟨8, 8, 0x02, 1, 6, 2, 0xF5, 0, 1, 1⟩,
   ⟨9, 9, 0x01, 1, 1, 1, 0xF5, 1, 0, 1⟩,
   ⟨10, 10, 0x02, 1, 1, 1, 0xF5, 0x14, 5, 100⟩,
   ⟨11, 11, 0x02, 1, 0, 2, 0xF5, 0, 0, 255⟩,
   ⟨12, 12, 0x04, 4, 5, 2, 0xF5, 0, 0, 4294967295⟩]
/-- Objects of 0x3100: MISMATCHES, INPUT_DROPS, DUP_SENDS, LAST_TAKEOVER. -/
def objs3100_1 : List ObjDef :=
  [⟨13, 13, 0x04, 4, 5, 2, 0xF5, 0, 0, 4294967295⟩,
   ⟨14, 14, 0x04, 4, 5, 2, 0xF5, 0, 0, 4294967295⟩,
   ⟨15, 15, 0x04, 4, 5, 2, 0xF5, 0, 0, 4294967295⟩,
   ⟨16, 16, 0x05, 8, 0, 2, 0xF5, 0, 0, 18446744073709551615⟩]
/-- Objects of 0x3200: FLT_LOG_COUNT, FLT_LOST, FLT_SUPPRESSED, FLT_NEWEST, FLT_FAULTS, ADMIT_AT, ROLL_TO, ROLL_AT, ROLL_ARM, SHADOW_STITCHES, SHADOW_CLEAN, SHADOW_PASSED. -/
def objs3200_0 : List ObjDef :=
  [⟨1, 1, 0x03, 2, 0, 2, 0xF5, 0, 0, 65535⟩,
   ⟨2, 2, 0x04, 4, 5, 2, 0xF5, 0, 0, 4294967295⟩,
   ⟨3, 3, 0x04, 4, 5, 2, 0xF5, 0, 0, 4294967295⟩,
   ⟨4, 4, 0x05, 8, 0, 2, 0xF5, 0, 0, 18446744073709551615⟩,
   ⟨5, 5, 0x04, 4, 5, 2, 0xF5, 0, 0, 4294967295⟩,
   ⟨6, 6, 0x05, 8, 2, 2, 0xF5, 0, 0, 18446744073709551615⟩,
   ⟨7, 7, 0x05, 8, 2, 2, 0xF5, 0, 0, 18446744073709551615⟩,
   ⟨8, 8, 0x05, 8, 2, 2, 0xF5, 0, 0, 18446744073709551615⟩,
   ⟨9, 9, 0x02, 1, 6, 2, 0xF5, 0, 1, 1⟩,
   ⟨10, 10, 0x03, 2, 1, 1, 0xF5, 0x100, 1, 65535⟩,
   ⟨11, 11, 0x03, 2, 0, 2, 0xF5, 0, 0, 65535⟩,
   ⟨12, 12, 0x01, 1, 0, 2, 0xF5, 0, 0, 1⟩]
/-- Objects of 0x3200: PM_STATE, PM_CLEAR. -/
def objs3200_1 : List ObjDef :=
  [⟨13, 13, 0x02, 1, 0, 2, 0xF5, 0, 0, 255⟩,
   ⟨14, 14, 0x02, 1, 6, 2, 0xD5, 0, 1, 1⟩]
/-- Objects of 0x4000: FUSE_PMAX, POLICY_CAP, PKG_CAP, PKG_POWER, INPUT_POWER, P_IDLE, DRAW, LIC_POOL, POOL_MAX, LIC_OUT, RES_LIMIT, RTH_EST. -/
def objs4000_0 : List ObjDef :=
  [⟨1, 1, 0x03, 2, 0, 0, 0xF5, 0x546, 0, 65535⟩,
   ⟨2, 2, 0x03, 2, 1, 1, 0xF5, 0x546, 0, 65535⟩,
   ⟨3, 3, 0x03, 2, 0, 2, 0xF5, 0x546, 0, 65535⟩,
   ⟨4, 4, 0x03, 2, 0, 2, 0xF5, 0, 0, 65535⟩,
   ⟨5, 5, 0x03, 2, 0, 2, 0xF5, 0, 0, 65535⟩,
   ⟨6, 6, 0x03, 2, 0, 2, 0xF5, 0, 0, 65535⟩,
   ⟨7, 7, 0x03, 2, 0, 2, 0xF5, 0x400, 0, 65535⟩,
   ⟨8, 8, 0x03, 2, 0, 2, 0xF5, 0, 0, 65535⟩,
   ⟨9, 9, 0x03, 2, 0, 0, 0xF5, 0xa00, 0, 65535⟩,
   ⟨10, 10, 0x03, 2, 0, 2, 0xF5, 0, 0, 65535⟩,
   ⟨11, 11, 0x03, 2, 1, 1, 0xF5, 0x384, 0, 1350⟩,
   ⟨12, 12, 0x04, 4, 0, 1, 0xF5, 0x84d0, 0, 4294967295⟩]
/-- Objects of 0x4000: RTH_ALARM, GUARD_K, INLET_C, TJ_MAX, ILIM_A, KW_ENABLE, KW_TARGET_C, KW_BAND_C, LIC_WAITS, FLOOR_EVENTS. -/
def objs4000_1 : List ObjDef :=
  [⟨13, 13, 0x04, 4, 1, 1, 0xF5, 0x9c40, 30000, 200000⟩,
   ⟨14, 14, 0x02, 1, 1, 1, 0xF5, 3, 1, 20⟩,
   ⟨15, 15, 0x07, 2, 0, 2, 0xF5, 0, 0, 65535⟩,
   ⟨16, 16, 0x07, 2, 0, 2, 0xF5, 0, 0, 65535⟩,
   ⟨17, 17, 0x03, 2, 0, 0, 0xF5, 0x2d0, 0, 65535⟩,
   ⟨18, 18, 0x01, 1, 1, 1, 0xF5, 1, 0, 1⟩,
   ⟨19, 19, 0x02, 1, 1, 1, 0xF5, 0x37, 30, 70⟩,
   ⟨20, 20, 0x02, 1, 1, 1, 0xF5, 5, 1, 15⟩,
   ⟨21, 21, 0x04, 4, 5, 2, 0xF5, 0, 0, 4294967295⟩,
   ⟨22, 22, 0x04, 4, 5, 2, 0xF5, 0, 0, 4294967295⟩]
/-- Objects of 0x4100: MAP_AT, MAP_ARM, MAP_STATE, LIFECYCLE, DEBUG_STATE, DEBUG_LOCK, MARGINAL_MAP, KWK_PUB, SYS_HBM_GIB, TENANT_CHANGES. -/
def objs4100_0 : List ObjDef :=
  [⟨1, 1, 0x05, 8, 2, 2, 0x75, 0, 0, 18446744073709551615⟩,
   ⟨2, 2, 0x02, 1, 6, 2, 0x75, 0, 1, 1⟩,
   ⟨3, 3, 0x02, 1, 0, 2, 0xFD, 0, 0, 255⟩,
   ⟨4, 4, 0x02, 1, 0, 2, 0xFD, 0, 0, 255⟩,
   ⟨5, 5, 0x02, 1, 0, 2, 0xFD, 0, 0, 255⟩,
   ⟨6, 6, 0x02, 1, 6, 2, 0xD5, 0, 0, 255⟩,
   ⟨7, 7, 0x0A, 128, 0, 2, 0xFD, 0, 0, 0⟩,
   ⟨8, 8, 0x0A, 96, 0, 2, 0xFD, 0, 0, 0⟩,
   ⟨9, 9, 0x03, 2, 0, 2, 0xFD, 1, 0, 65535⟩,
   ⟨10, 10, 0x04, 4, 5, 2, 0xFD, 0, 0, 4294967295⟩]
/-- Objects of 0x4200: FW_RUN_BANK, FW_BOOT_BANK, FW_TRIAL, FW_CONFIRM, FW_STATE, FW_RESTART, FW_VERSION_A, FW_VERSION_B, FW_BANK_VALID, HOOK_STITCH_US, HOOK_LATE, HOOK_CALLS. -/
def objs4200_0 : List ObjDef :=
  [⟨1, 1, 0x02, 1, 0, 2, 0xF5, 0, 0, 255⟩,
   ⟨2, 2, 0x02, 1, 2, 1, 0xF5, 0, 0, 1⟩,
   ⟨3, 3, 0x01, 1, 2, 1, 0xF5, 0, 0, 1⟩,
   ⟨4, 4, 0x02, 1, 6, 2, 0xF5, 0, 1, 1⟩,
   ⟨5, 5, 0x02, 1, 0, 2, 0xF5, 0, 0, 255⟩,
   ⟨6, 6, 0x02, 1, 6, 2, 0xF5, 0, 1, 1⟩,
   ⟨7, 7, 0x05, 8, 0, 2, 0xF5, 0, 0, 18446744073709551615⟩,
   ⟨8, 8, 0x05, 8, 0, 2, 0xF5, 0, 0, 18446744073709551615⟩,
   ⟨9, 9, 0x02, 1, 0, 2, 0xF5, 0, 0, 255⟩,
   ⟨10, 10, 0x03, 2, 1, 1, 0xF5, 0x64, 10, 50000⟩,
   ⟨11, 11, 0x04, 4, 5, 2, 0xF5, 0, 0, 4294967295⟩,
   ⟨12, 12, 0x05, 8, 5, 2, 0xF5, 0, 0, 18446744073709551615⟩]
/-- Objects of 0x4200: FW_ERASE, FW_COMMIT, FW_DENIED_COUNT, COBBLER_PAIRS. -/
def objs4200_1 : List ObjDef :=
  [⟨13, 13, 0x02, 1, 6, 2, 0xF5, 0, 1, 1⟩,
   ⟨14, 14, 0x02, 1, 6, 2, 0xF5, 0, 1, 1⟩,
   ⟨15, 15, 0x04, 4, 5, 2, 0xF5, 0, 0, 4294967295⟩,
   ⟨16, 16, 0x02, 1, 0, 2, 0xF5, 3, 0, 255⟩]
/-- Objects of 0x4201: STAND_TARGET_KHZ, VIDEO_TARGET_KHZ. -/
def objs4201_0 : List ObjDef :=
  [⟨1, 8, 0x04, 4, 1, 2, 0x55, 0x16e360, 375000, 1650000⟩,
   ⟨9, 9, 0x04, 4, 1, 2, 0x55, 0xf4240, 250000, 1000000⟩]
/-- Objects of 0x4300: CTR_TOTAL, SNAP_CLEAR, SMPL_K, SMPL_SEED, BW_WINDOW, SNAPS, SNAP_DROPS, SMPL_RECORDS, SMPL_DROPS, SMPL_SKIPPED. -/
def objs4300_0 : List ObjDef :=
  [⟨1, 1, 0x03, 2, 0, 0, 0xF4, 0xe00, 0, 65535⟩,
   ⟨2, 2, 0x01, 1, 1, 1, 0xF4, 1, 0, 1⟩,
   ⟨3, 3, 0x02, 1, 1, 1, 0xF4, 0x10, 4, 24⟩,
   ⟨4, 4, 0x04, 4, 1, 1, 0xF4, 1, 0, 4294967295⟩,
   ⟨5, 5, 0x03, 2, 1, 1, 0xF4, 0x3e8, 1, 4096⟩,
   ⟨6, 6, 0x04, 4, 5, 2, 0xF4, 0, 0, 4294967295⟩,
   ⟨7, 7, 0x04, 4, 5, 2, 0xF4, 0, 0, 4294967295⟩,
   ⟨8, 8, 0x05, 8, 5, 2, 0xF4, 0, 0, 18446744073709551615⟩,
   ⟨9, 9, 0x04, 4, 5, 2, 0xF4, 0, 0, 4294967295⟩,
   ⟨10, 10, 0x04, 4, 5, 2, 0xF4, 0, 0, 4294967295⟩]
/-- Objects of 0x4400: MSTATE, STATE_SINCE, STATE_REQ, LAST_INCARNATION, STARTS, LAST_RESET, READY_MS, BIST_MIN_GROVES, BIST_RESULT, PHASE, SLOT_SIGNALS. -/
def objs4400_0 : List ObjDef :=
  [⟨1, 1, 0x02, 1, 0, 2, 0xF5, 1, 0, 255⟩,
   ⟨2, 2, 0x05, 8, 0, 2, 0xF5, 0, 0, 18446744073709551615⟩,
   ⟨3, 3, 0x02, 1, 6, 2, 0xF5, 0, 0, 255⟩,
   ⟨4, 4, 0x05, 8, 0, 1, 0xF5, 0, 0, 18446744073709551615⟩,
   ⟨5, 5, 0x04, 4, 0, 1, 0xF5, 0, 0, 4294967295⟩,
   ⟨6, 6, 0x02, 1, 0, 2, 0xF5, 0, 0, 255⟩,
   ⟨7, 7, 0x04, 4, 0, 2, 0xF5, 0, 0, 4294967295⟩,
   ⟨8, 8, 0x03, 2, 1, 1, 0xF5, 0xf0, 1, 256⟩,
   ⟨9, 9, 0x04, 4, 0, 2, 0xF5, 0, 0, 4294967295⟩,
   ⟨10, 10, 0x02, 1, 0, 2, 0xF5, 2, 0, 255⟩,
   ⟨11, 11, 0x02, 1, 0, 2, 0xF5, 0, 0, 255⟩]
/-- Objects of 0x4500: BOARD_ISSUE, INPUT_MV, INPUT_MA, INLET_A_C, INLET_B_C, INLET_USED, INPUT_DIPS, HOTSWAP_TRIPS, SINK_C. -/
def objs4500_0 : List ObjDef :=
  [⟨1, 1, 0x02, 1, 0, 0, 0xD5, 0, 0, 255⟩,
   ⟨2, 2, 0x04, 4, 0, 2, 0xD5, 0, 0, 4294967295⟩,
   ⟨3, 3, 0x04, 4, 0, 2, 0xD5, 0, 0, 4294967295⟩,
   ⟨4, 4, 0x07, 2, 0, 2, 0xD5, 0, 0, 65535⟩,
   ⟨5, 5, 0x07, 2, 0, 2, 0xD5, 0, 0, 65535⟩,
   ⟨6, 6, 0x02, 1, 0, 2, 0xD5, 0, 0, 255⟩,
   ⟨7, 7, 0x04, 4, 5, 2, 0xD5, 0, 0, 4294967295⟩,
   ⟨8, 8, 0x04, 4, 5, 1, 0xD5, 0, 0, 4294967295⟩,
   ⟨9, 9, 0x07, 2, 0, 2, 0xD5, 0, 0, 65535⟩]
/-- Objects of 0x5080: ROLE_SEL, ROLE_KEY, ROLE_CODE, ROLE_PART, ROLE_VALID. -/
def objs5080_0 : List ObjDef :=
  [⟨1, 1, 0x02, 1, 1, 2, 0xF1, 0, 0, 31⟩,
   ⟨2, 2, 0x0A, 48, 1, 1, 0xF1, 0, 0, 0⟩,
   ⟨3, 3, 0x02, 1, 1, 1, 0xF1, 0, 0, 3⟩,
   ⟨4, 4, 0x02, 1, 1, 1, 0xF1, 0, 0, 15⟩,
   ⟨5, 5, 0x01, 1, 1, 1, 0xF1, 0, 0, 1⟩]
/-- Objects of 0x50C0: WIN_SEL, WIN_BASE, WIN_SIZE, WIN_ENABLE, WIN_WRITE, WIN_MSIX_BLAZE. -/
def objs50C0_0 : List ObjDef :=
  [⟨1, 1, 0x03, 2, 1, 2, 0xFD, 0, 0, 255⟩,
   ⟨2, 2, 0x05, 8, 2, 3, 0xFD, 0, 0, 18446744073709551615⟩,
   ⟨3, 3, 0x05, 8, 2, 3, 0xFD, 0, 0, 18446744073709551615⟩,
   ⟨4, 4, 0x01, 1, 2, 3, 0xFD, 0, 0, 1⟩,
   ⟨5, 5, 0x01, 1, 2, 3, 0xFD, 0, 0, 1⟩,
   ⟨6, 6, 0x03, 2, 1, 3, 0xFD, 0xffff, 0, 65535⟩]
/-- Objects of 0x5400: THR_SEL, THR_STATE, THR_CLASS, THR_PRIV, THR_PC, THR_TAGS, THR_QUOTA, THR_LIC, THR_XSTATUS, THR_SMPL. -/
def objs5400_0 : List ObjDef :=
  [⟨1, 1, 0x03, 2, 1, 2, 0xF4, 0, 0, 16383⟩,
   ⟨2, 2, 0x02, 1, 0, 2, 0xF4, 0, 0, 255⟩,
   ⟨3, 3, 0x02, 1, 0, 2, 0xF4, 0, 0, 255⟩,
   ⟨4, 4, 0x02, 1, 0, 2, 0xF4, 0, 0, 255⟩,
   ⟨5, 5, 0x05, 8, 0, 2, 0xF4, 0, 0, 18446744073709551615⟩,
   ⟨6, 6, 0x03, 2, 0, 2, 0xF4, 0, 0, 65535⟩,
   ⟨7, 7, 0x03, 2, 0, 2, 0xF4, 4, 0, 65535⟩,
   ⟨8, 8, 0x05, 8, 0, 2, 0xF4, 0, 0, 18446744073709551615⟩,
   ⟨9, 9, 0x03, 2, 0, 2, 0xF4, 0, 0, 65535⟩,
   ⟨10, 10, 0x04, 4, 0, 2, 0xF4, 0, 0, 4294967295⟩]
/-- Objects of 0x5440: ARITH_SEL, ARITH_STATUS, ARITH_LOSS, ARITH_OPS, ARITH_RETIRED. -/
def objs5440_0 : List ObjDef :=
  [⟨1, 1, 0x03, 2, 1, 2, 0xF4, 0, 0, 255⟩,
   ⟨2, 2, 0x02, 1, 3, 2, 0xF4, 0, 0, 255⟩,
   ⟨3, 3, 0x04, 4, 5, 2, 0xF4, 0, 0, 4294967295⟩,
   ⟨4, 4, 0x04, 4, 5, 2, 0xF4, 0, 0, 4294967295⟩,
   ⟨5, 5, 0x02, 1, 0, 2, 0xF4, 0, 0, 255⟩]
/-- Objects of 0x5480: MEMCH_SEL, MEMCH_CORR, MEMCH_UNCORR, MEMCH_LAST_ADDR, MEMCH_LAST_TIME, MEMCH_PATROL. -/
def objs5480_0 : List ObjDef :=
  [⟨1, 1, 0x03, 2, 1, 2, 0xF4, 0, 0, 319⟩,
   ⟨2, 2, 0x04, 4, 5, 2, 0xF4, 0, 0, 4294967295⟩,
   ⟨3, 3, 0x04, 4, 5, 2, 0xF4, 0, 0, 4294967295⟩,
   ⟨4, 4, 0x05, 8, 0, 2, 0xF4, 0, 0, 18446744073709551615⟩,
   ⟨5, 5, 0x05, 8, 0, 2, 0xF4, 0, 0, 18446744073709551615⟩,
   ⟨6, 6, 0x05, 8, 0, 2, 0xF4, 0, 0, 18446744073709551615⟩]
/-- Objects of 0x54C0: QSEL, Q_ENABLE, Q_MAXPKT, Q_CAP, Q_RESV, Q_WELT, Q_STATE, Q_DEPTH, Q_HELD, Q_OPEN, Q_BOUND, Q_PART. -/
def objs54C0_0 : List ObjDef :=
  [⟨1, 1, 0x04, 4, 1, 2, 0xF4, 0, 0, 1048575⟩,
   ⟨2, 2, 0x01, 1, 1, 3, 0xF4, 0, 0, 1⟩,
   ⟨3, 3, 0x03, 2, 1, 3, 0xF4, 1, 1, 256⟩,
   ⟨4, 4, 0x04, 4, 1, 3, 0xF4, 0, 0, 4294967295⟩,
   ⟨5, 5, 0x04, 4, 1, 3, 0xF4, 0, 0, 4294967295⟩,
   ⟨6, 6, 0x01, 1, 1, 3, 0xF4, 0, 0, 1⟩,
   ⟨7, 7, 0x02, 1, 0, 2, 0xF4, 0, 0, 255⟩,
   ⟨8, 8, 0x04, 4, 0, 2, 0xF4, 0, 0, 4294967295⟩,
   ⟨9, 9, 0x04, 4, 0, 2, 0xF4, 0, 0, 4294967295⟩,
   ⟨10, 10, 0x04, 4, 0, 2, 0xF4, 0, 0, 4294967295⟩,
   ⟨11, 11, 0x03, 2, 0, 2, 0xF4, 0xffff, 0, 65535⟩,
   ⟨12, 12, 0x02, 1, 0, 2, 0xF4, 0xff, 0, 255⟩]
/-- Objects of 0x54C0: Q_COMMITS, Q_REFUSED, Q_RESET_REQ. -/
def objs54C0_1 : List ObjDef :=
  [⟨13, 13, 0x04, 4, 5, 2, 0xF4, 0, 0, 4294967295⟩,
   ⟨14, 14, 0x04, 4, 5, 2, 0xF4, 0, 0, 4294967295⟩,
   ⟨15, 15, 0x02, 1, 6, 2, 0xF4, 0, 1, 1⟩]
/-- Objects of 0x54C1: CELL_SEL, CELL_REC, CELL_DATA. -/
def objs54C1_0 : List ObjDef :=
  [⟨1, 1, 0x04, 4, 1, 2, 0xC0, 0, 0, 4294967295⟩,
   ⟨2, 2, 0x0A, 16, 0, 2, 0xC0, 0, 0, 0⟩,
   ⟨3, 3, 0x0A, 256, 0, 2, 0xC0, 0, 0, 0⟩]
/-- Objects of 0x5500: BZ_SEL, BZ_ENTRY, BZ_SETBIT. -/
def objs5500_0 : List ObjDef :=
  [⟨1, 1, 0x03, 2, 1, 2, 0xF4, 0, 0, 511⟩,
   ⟨2, 2, 0x0A, 32, 0, 2, 0xF4, 0, 0, 0⟩,
   ⟨3, 3, 0x01, 1, 0, 2, 0xF4, 0, 0, 1⟩]
/-- Objects of 0x5501: IMG_SEL, IMG_DATA. -/
def objs5501_0 : List ObjDef :=
  [⟨1, 1, 0x02, 1, 1, 2, 0xF4, 0, 0, 31⟩,
   ⟨2, 2, 0x0A, 64, 2, 3, 0xFC, 0, 0, 0⟩]
/-- Objects of 0x5502: DUMP_SEL, DUMP_DATA. -/
def objs5502_0 : List ObjDef :=
  [⟨1, 1, 0x03, 2, 1, 2, 0xF4, 0, 0, 512⟩,
   ⟨2, 2, 0x0A, 64, 0, 2, 0xF4, 0, 0, 0⟩]
/-- Objects of 0x5540: SAMP_SEL, SAMP_SERVED_BY, SAMP_WAITING, SAMP_OPS, SAMP_BUSY_NS. -/
def objs5540_0 : List ObjDef :=
  [⟨1, 1, 0x02, 1, 1, 2, 0xF4, 0, 0, 7⟩,
   ⟨2, 2, 0x02, 1, 0, 2, 0xF4, 0, 0, 255⟩,
   ⟨3, 3, 0x03, 2, 0, 2, 0xF4, 0, 0, 65535⟩,
   ⟨4, 4, 0x04, 4, 5, 2, 0xF4, 0, 0, 4294967295⟩,
   ⟨5, 5, 0x05, 8, 5, 2, 0xF4, 0, 0, 18446744073709551615⟩]
/-- Objects of 0x5580: KVP_SEL, KVP_HBM_BASE, KVP_HBM_PAGES, KVP_US_BASE, KVP_US_PAGES, KVP_REQ_Q, KVP_RSP_Q, KVP_BLAZE, KVP_HBM_INUSE, KVP_US_INUSE, KVP_PARKED, KVP_LOW_WATER. -/
def objs5580_0 : List ObjDef :=
  [⟨1, 1, 0x02, 1, 1, 2, 0xF4, 0, 0, 15⟩,
   ⟨2, 2, 0x05, 8, 1, 3, 0xF4, 0, 0, 18446744073709551615⟩,
   ⟨3, 3, 0x04, 4, 1, 3, 0xF4, 0, 0, 4294967295⟩,
   ⟨4, 4, 0x05, 8, 1, 3, 0xF4, 0, 0, 18446744073709551615⟩,
   ⟨5, 5, 0x04, 4, 1, 3, 0xF4, 0, 0, 4294967295⟩,
   ⟨6, 6, 0x04, 4, 1, 3, 0xFC, 0xffffffff, 0, 4294967295⟩,
   ⟨7, 7, 0x04, 4, 1, 3, 0xFC, 0xffffffff, 0, 4294967295⟩,
   ⟨8, 8, 0x03, 2, 1, 3, 0xFC, 0xffff, 0, 65535⟩,
   ⟨9, 9, 0x04, 4, 0, 2, 0xF4, 0, 0, 4294967295⟩,
   ⟨10, 10, 0x04, 4, 0, 2, 0xF4, 0, 0, 4294967295⟩,
   ⟨11, 11, 0x04, 4, 0, 2, 0xF4, 0, 0, 4294967295⟩,
   ⟨12, 12, 0x04, 4, 1, 3, 0xF4, 0, 0, 4294967295⟩]
/-- Objects of 0x5580: KVP_BUCKETS. -/
def objs5580_1 : List ObjDef :=
  [⟨13, 13, 0x0A, 32, 1, 3, 0xFC, 0x20000000200000002000000020000000200000002000000020000000200000, 0, 0⟩]
/-- Objects of 0x5581: SLOT_SEL, SLOT_REC. -/
def objs5581_0 : List ObjDef :=
  [⟨1, 1, 0x03, 2, 1, 2, 0xF4, 0, 0, 65535⟩,
   ⟨2, 2, 0x0A, 32, 0, 2, 0xF4, 0, 0, 0⟩]
/-- Objects of 0x5582: PTE_SEL, PTE. -/
def objs5582_0 : List ObjDef :=
  [⟨1, 1, 0x05, 8, 1, 2, 0xF4, 0, 0, 18446744073709551615⟩,
   ⟨2, 2, 0x05, 8, 0, 2, 0xF4, 0, 0, 18446744073709551615⟩]
/-- Objects of 0x55C0: SRVP_SEL, SRV_REQ_Q, SRV_RSP_Q, SRV_BLAZE, PFX_QUOTA, PFX_USED, PFX_KEY_SET. -/
def objs55C0_0 : List ObjDef :=
  [⟨1, 1, 0x02, 1, 1, 2, 0xF4, 0, 0, 15⟩,
   ⟨2, 2, 0x04, 4, 1, 3, 0xFC, 0xffffffff, 0, 4294967295⟩,
   ⟨3, 3, 0x04, 4, 1, 3, 0xFC, 0xffffffff, 0, 4294967295⟩,
   ⟨4, 4, 0x03, 2, 1, 3, 0xFC, 0xffff, 0, 65535⟩,
   ⟨5, 5, 0x04, 4, 1, 3, 0xF4, 0, 0, 4294967295⟩,
   ⟨6, 6, 0x04, 4, 0, 2, 0xF4, 0, 0, 4294967295⟩,
   ⟨7, 7, 0x01, 1, 0, 2, 0xF4, 0, 0, 1⟩]
/-- Objects of 0x55C1: ACCT_SEL, ACCT_REC, ACCT_P_RATE, ACCT_D_RATE, ACCT_P_CAP, ACCT_D_CAP, ACCT_P_BAL, ACCT_D_BAL, ACCT_SEQ_QUOTA, ACCT_VALID, ACCT_STAGED. -/
def objs55C1_0 : List ObjDef :=
  [⟨1, 1, 0x03, 2, 1, 2, 0xF4, 0, 0, 65535⟩,
   ⟨2, 2, 0x0A, 64, 0, 2, 0xF4, 0, 0, 0⟩,
   ⟨3, 3, 0x04, 4, 1, 3, 0xF4, 0, 0, 16777215⟩,
   ⟨4, 4, 0x04, 4, 1, 3, 0xF4, 0, 0, 16777215⟩,
   ⟨5, 5, 0x04, 4, 1, 3, 0xF4, 0, 0, 2147483647⟩,
   ⟨6, 6, 0x04, 4, 1, 3, 0xF4, 0, 0, 2147483647⟩,
   ⟨7, 7, 0x08, 4, 1, 3, 0xF4, 0, 0, 4294967295⟩,
   ⟨8, 8, 0x08, 4, 1, 3, 0xF4, 0, 0, 4294967295⟩,
   ⟨9, 9, 0x03, 2, 1, 3, 0xF4, 0, 0, 65535⟩,
   ⟨10, 10, 0x01, 1, 1, 3, 0xF4, 0, 0, 1⟩,
   ⟨11, 11, 0x02, 1, 0, 2, 0xF4, 0, 0, 255⟩]
/-- Objects of 0x55C2: SEQ_SEL, SEQ_REC. -/
def objs55C2_0 : List ObjDef :=
  [⟨1, 1, 0x03, 2, 1, 2, 0xF4, 0, 0, 65535⟩,
   ⟨2, 2, 0x0A, 32, 0, 2, 0xF4, 0, 0, 0⟩]
/-- Objects of 0x55C3: PFX_SEL, PFX_REC. -/
def objs55C3_0 : List ObjDef :=
  [⟨1, 1, 0x04, 4, 1, 2, 0xF4, 0, 0, 524287⟩,
   ⟨2, 2, 0x0A, 32, 0, 2, 0xF4, 0, 0, 0⟩]
/-- Objects of 0x5600: VIDP_SEL, VID_REQ_Q, VID_RSP_Q, VID_BLAZE. -/
def objs5600_0 : List ObjDef :=
  [⟨1, 1, 0x02, 1, 1, 2, 0xF4, 0, 0, 15⟩,
   ⟨2, 2, 0x04, 4, 1, 3, 0xFC, 0xffffffff, 0, 4294967295⟩,
   ⟨3, 3, 0x04, 4, 1, 3, 0xFC, 0xffffffff, 0, 4294967295⟩,
   ⟨4, 4, 0x03, 2, 1, 3, 0xFC, 0xffff, 0, 65535⟩]
/-- Objects of 0x5601: VSES_SEL, VSES_DESC, VSES_PART, VSES_BUFS, VSES_DAMAGED, VSES_PICS. -/
def objs5601_0 : List ObjDef :=
  [⟨1, 1, 0x02, 1, 1, 2, 0xF4, 0, 0, 47⟩,
   ⟨2, 2, 0x0A, 128, 0, 2, 0xF4, 0, 0, 0⟩,
   ⟨3, 3, 0x02, 1, 0, 2, 0xF4, 0xff, 0, 255⟩,
   ⟨4, 4, 0x0A, 16, 0, 2, 0xF4, 0, 0, 0⟩,
   ⟨5, 5, 0x01, 1, 0, 2, 0xF4, 0, 0, 1⟩,
   ⟨6, 6, 0x04, 4, 5, 2, 0xF4, 0, 0, 4294967295⟩]
/-- Objects of 0x5602: VCORE_SEL, VCORE_SESSION, VCORE_BUSY_NS. -/
def objs5602_0 : List ObjDef :=
  [⟨1, 1, 0x02, 1, 1, 2, 0xF4, 0, 0, 7⟩,
   ⟨2, 2, 0x02, 1, 0, 2, 0xF4, 0xff, 0, 255⟩,
   ⟨3, 3, 0x05, 8, 5, 2, 0xF4, 0, 0, 18446744073709551615⟩]
/-- Objects of 0x5800: PORT_SEL, PORT_STATE, PORT_PEER, PORT_PEER_INC, PORT_REPLAYS, PORT_CRC_ERR, PORT_FEC_CORR, PORT_FEC_UNCORR, PORT_RELOCKS. -/
def objs5800_0 : List ObjDef :=
  [⟨1, 1, 0x02, 1, 1, 2, 0xF5, 0, 0, 15⟩,
   ⟨2, 2, 0x02, 1, 0, 2, 0xF5, 0, 0, 255⟩,
   ⟨3, 3, 0x04, 4, 0, 2, 0xF5, 0, 0, 4294967295⟩,
   ⟨4, 4, 0x05, 8, 0, 2, 0xF5, 0, 0, 18446744073709551615⟩,
   ⟨5, 5, 0x04, 4, 5, 2, 0xF5, 0, 0, 4294967295⟩,
   ⟨6, 6, 0x04, 4, 5, 2, 0xF5, 0, 0, 4294967295⟩,
   ⟨7, 7, 0x05, 8, 5, 2, 0xF5, 0, 0, 18446744073709551615⟩,
   ⟨8, 8, 0x04, 4, 5, 2, 0xF5, 0, 0, 4294967295⟩,
   ⟨9, 9, 0x04, 4, 5, 2, 0xF5, 0, 0, 4294967295⟩]
/-- Objects of 0x5801: ROUTE_SEL, ROUTE_PORTS, ROUTE_IN_USE. -/
def objs5801_0 : List ObjDef :=
  [⟨1, 1, 0x03, 2, 1, 2, 0xF5, 0, 0, 4095⟩,
   ⟨2, 2, 0x03, 2, 1, 1, 0xF5, 0, 0, 65535⟩,
   ⟨3, 3, 0x02, 1, 0, 2, 0xF5, 0xff, 0, 255⟩]
/-- Objects of 0x5802: RT_SEL, RT_EPOCH, RT_JOB, RT_VALID. -/
def objs5802_0 : List ObjDef :=
  [⟨1, 1, 0x03, 2, 1, 2, 0xF5, 0, 0, 65535⟩,
   ⟨2, 2, 0x03, 2, 2, 2, 0xF5, 0, 0, 65535⟩,
   ⟨3, 3, 0x04, 4, 2, 2, 0xF5, 0, 0, 4294967295⟩,
   ⟨4, 4, 0x01, 1, 2, 2, 0xF5, 0, 0, 1⟩]
/-- Objects of 0x5803: SES_SEL, SES_STATE, SES_PEER_INC, SES_OPEN. -/
def objs5803_0 : List ObjDef :=
  [⟨1, 1, 0x03, 2, 1, 2, 0xF5, 0, 0, 4095⟩,
   ⟨2, 2, 0x02, 1, 0, 2, 0xF5, 0, 0, 255⟩,
   ⟨3, 3, 0x05, 8, 0, 2, 0xF5, 0, 0, 18446744073709551615⟩,
   ⟨4, 4, 0x02, 1, 6, 2, 0xF5, 0, 1, 1⟩]
/-- Objects of 0x5840: EG_SEL, EG_KIND, EG_PEER, EG_PEER_Q, EG_SENT, EG_PENDING. -/
def objs5840_0 : List ObjDef :=
  [⟨1, 1, 0x04, 4, 1, 2, 0xF5, 0, 0, 1048575⟩,
   ⟨2, 2, 0x02, 1, 1, 3, 0xF5, 0, 0, 2⟩,
   ⟨3, 3, 0x03, 2, 1, 3, 0xF5, 0, 0, 4095⟩,
   ⟨4, 4, 0x04, 4, 1, 3, 0xF5, 0, 0, 1048575⟩,
   ⟨5, 5, 0x04, 4, 5, 2, 0xF5, 0, 0, 4294967295⟩,
   ⟨6, 6, 0x04, 4, 0, 2, 0xF5, 0, 0, 4294967295⟩]
/-- Objects of 0x5841: PP_SEL, PP_INPUT_BLAZE. -/
def objs5841_0 : List ObjDef :=
  [⟨1, 1, 0x02, 1, 1, 2, 0xF5, 0, 0, 15⟩,
   ⟨2, 2, 0x03, 2, 1, 3, 0xFD, 0xffff, 0, 65535⟩]
/-- Objects of 0x5880: PRT_SEL, PRT_CKPT_K, PRT_CKPT_BLAZE, PRT_CKPT_LAST, PRT_CKPT_PREV, PRT_RESTART, PRT_RESTARTS, PRT_ENTRY. -/
def objs5880_0 : List ObjDef :=
  [⟨1, 1, 0x02, 1, 1, 2, 0xF5, 0, 0, 15⟩,
   ⟨2, 2, 0x03, 2, 1, 3, 0xF5, 0x40, 1, 4096⟩,
   ⟨3, 3, 0x03, 2, 1, 3, 0xF5, 0xffff, 0, 65535⟩,
   ⟨4, 4, 0x05, 8, 0, 3, 0xF5, 0, 0, 18446744073709551615⟩,
   ⟨5, 5, 0x05, 8, 0, 3, 0xF5, 0, 0, 18446744073709551615⟩,
   ⟨6, 6, 0x02, 1, 6, 2, 0xF5, 0, 1, 1⟩,
   ⟨7, 7, 0x04, 4, 5, 2, 0xF5, 0, 0, 4294967295⟩,
   ⟨8, 8, 0x05, 8, 1, 3, 0xF5, 0, 0, 18446744073709551615⟩]
/-- Objects of 0x5881: PMB_SEL, PMB_DATA. -/
def objs5881_0 : List ObjDef :=
  [⟨1, 1, 0x03, 2, 1, 2, 0xC0, 0, 0, 4625⟩,
   ⟨2, 2, 0x0A, 64, 0, 1, 0xC0, 0, 0, 0⟩]
/-- Objects of 0x5882: CLASS_SEL, CLASS_OF. -/
def objs5882_0 : List ObjDef :=
  [⟨1, 1, 0x03, 2, 1, 2, 0xF5, 0, 0, 65535⟩,
   ⟨2, 2, 0x02, 1, 0, 0, 0xF5, 0, 0, 255⟩]
/-- Objects of 0x5C00: PWRP_SEL, RES_W, LIC_PART_MAX, PART_HELD, PART_RES_BAL, ROT_SHIFT. -/
def objs5C00_0 : List ObjDef :=
  [⟨1, 1, 0x02, 1, 1, 2, 0xF5, 0, 0, 15⟩,
   ⟨2, 2, 0x03, 2, 1, 3, 0xF5, 0, 0, 4095⟩,
   ⟨3, 3, 0x03, 2, 1, 3, 0xF5, 0xa00, 0, 65535⟩,
   ⟨4, 4, 0x03, 2, 0, 2, 0xF5, 0, 0, 65535⟩,
   ⟨5, 5, 0x03, 2, 0, 2, 0xF5, 0, 0, 65535⟩,
   ⟨6, 6, 0x02, 1, 1, 3, 0xF5, 0, 0, 255⟩]
/-- Objects of 0x5C01: TS_SEL, TS_TEMP, TS_PEAK. -/
def objs5C01_0 : List ObjDef :=
  [⟨1, 1, 0x03, 2, 1, 2, 0xF5, 0, 0, 289⟩,
   ⟨2, 2, 0x07, 2, 0, 2, 0xF5, 0, 0, 65535⟩,
   ⟨3, 3, 0x07, 2, 0, 2, 0xF5, 0, 0, 65535⟩]
/-- Objects of 0x5C40: MAP_SEL, MAP_STAGED, MAP_INFORCE. -/
def objs5C40_0 : List ObjDef :=
  [⟨1, 1, 0x02, 1, 1, 2, 0x75, 0, 0, 15⟩,
   ⟨2, 2, 0x0A, 64, 1, 2, 0x75, 0, 0, 0⟩,
   ⟨3, 3, 0x0A, 64, 0, 2, 0x75, 0, 0, 0⟩]
/-- Objects of 0x5C41: ATT_CHUNK_SEL, ATT_CHUNK, ATT_NONCE, ATT_GEN, ATT_READY. -/
def objs5C41_0 : List ObjDef :=
  [⟨1, 1, 0x02, 1, 1, 2, 0xFF, 0, 0, 3⟩,
   ⟨2, 2, 0x0A, 512, 0, 2, 0xFF, 0, 0, 0⟩,
   ⟨3, 3, 0x0A, 32, 1, 2, 0xFF, 0, 0, 0⟩,
   ⟨4, 4, 0x02, 1, 6, 2, 0xFF, 0, 1, 1⟩,
   ⟨5, 5, 0x01, 1, 0, 2, 0xFF, 0, 0, 1⟩]
/-- Objects of 0x5C42: CERT_SEL, CERT_CHUNK, CERT_LEN. -/
def objs5C42_0 : List ObjDef :=
  [⟨1, 1, 0x03, 2, 1, 2, 0xFD, 0, 0, 65535⟩,
   ⟨2, 2, 0x0A, 512, 0, 2, 0xFD, 0, 0, 0⟩,
   ⟨3, 3, 0x03, 2, 0, 2, 0xFD, 0, 0, 65535⟩]
/-- Objects of 0x5C43: KEY_SEL, KEY_BLOB. -/
def objs5C43_0 : List ObjDef :=
  [⟨1, 1, 0x02, 1, 1, 2, 0xFD, 0, 0, 15⟩,
   ⟨2, 2, 0x0A, 256, 6, 2, 0xFD, 0, 0, 0⟩]
/-- Objects of 0x5C80: FW_CHUNK_SEL, FW_CHUNK. -/
def objs5C80_0 : List ObjDef :=
  [⟨1, 1, 0x03, 2, 1, 2, 0xF5, 0, 0, 16383⟩,
   ⟨2, 2, 0x0A, 1024, 6, 2, 0xF5, 0, 0, 0⟩]
/-- Objects of 0x5C81: HK_SEL, HK_CALLS, HK_LATE, HK_LAST_NS, HK_SKIPPED. -/
def objs5C81_0 : List ObjDef :=
  [⟨1, 1, 0x02, 1, 1, 2, 0xF5, 0, 0, 5⟩,
   ⟨2, 2, 0x04, 4, 5, 2, 0xF5, 0, 0, 4294967295⟩,
   ⟨3, 3, 0x04, 4, 5, 2, 0xF5, 0, 0, 4294967295⟩,
   ⟨4, 4, 0x04, 4, 0, 2, 0xF5, 0, 0, 4294967295⟩,
   ⟨5, 5, 0x04, 4, 5, 2, 0xF5, 0, 0, 4294967295⟩]
/-- Objects of 0x5CC0: CP_SEL, CTR_PERMIT, SNAP_Q, SNAP_BLAZE, SMPL_Q, SMPL_BLAZE. -/
def objs5CC0_0 : List ObjDef :=
  [⟨1, 1, 0x02, 1, 1, 2, 0xF4, 0, 0, 15⟩,
   ⟨2, 2, 0x02, 1, 1, 3, 0x74, 0, 0, 7⟩,
   ⟨3, 3, 0x04, 4, 1, 3, 0xFC, 0xffffffff, 0, 4294967295⟩,
   ⟨4, 4, 0x03, 2, 1, 3, 0xFC, 0xffff, 0, 65535⟩,
   ⟨5, 5, 0x04, 4, 1, 3, 0xFC, 0xffffffff, 0, 4294967295⟩,
   ⟨6, 6, 0x03, 2, 1, 3, 0xFC, 0xffff, 0, 65535⟩]
/-- Objects of 0x5CC1: CTR_SEL, CTR_CTL, CTR_VALUE, CTR_LAST. -/
def objs5CC1_0 : List ObjDef :=
  [⟨1, 1, 0x03, 2, 1, 2, 0xF4, 0, 0, 3583⟩,
   ⟨2, 2, 0x05, 8, 1, 2, 0xF4, 0, 0, 18446744073709551615⟩,
   ⟨3, 3, 0x05, 8, 5, 2, 0xF4, 0, 0, 18446744073709551615⟩,
   ⟨4, 4, 0x05, 8, 0, 2, 0xF4, 0, 0, 18446744073709551615⟩]
/-- Objects of 0x5CC2: BW_SEL, BW_TX, BW_RX, BW_TIME. -/
def objs5CC2_0 : List ObjDef :=
  [⟨1, 1, 0x02, 1, 1, 2, 0xF4, 0, 0, 17⟩,
   ⟨2, 2, 0x04, 4, 0, 2, 0xF4, 0, 0, 4294967295⟩,
   ⟨3, 3, 0x04, 4, 0, 2, 0xF4, 0, 0, 4294967295⟩,
   ⟨4, 4, 0x05, 8, 0, 2, 0xF4, 0, 0, 18446744073709551615⟩]
/-- Objects of 0x5CC3: RNG_SEL, RNG_BASE, RNG_LIMIT. -/
def objs5CC3_0 : List ObjDef :=
  [⟨1, 1, 0x02, 1, 1, 2, 0xF4, 0, 0, 7⟩,
   ⟨2, 2, 0x05, 8, 1, 1, 0xF4, 0, 0, 18446744073709551615⟩,
   ⟨3, 3, 0x05, 8, 1, 1, 0xF4, 0xfff, 0, 18446744073709551615⟩]
/-- Objects of 0x5D00: PH_SEL, PH_START, PH_END. -/
def objs5D00_0 : List ObjDef :=
  [⟨1, 1, 0x02, 1, 1, 2, 0xF5, 1, 1, 9⟩,
   ⟨2, 2, 0x05, 8, 0, 2, 0xF5, 0, 0, 18446744073709551615⟩,
   ⟨3, 3, 0x05, 8, 0, 2, 0xF5, 0, 0, 18446744073709551615⟩]
/-- Objects of 0x5D40: RAIL_SEL, RAIL_MV, RAIL_MA. -/
def objs5D40_0 : List ObjDef :=
  [⟨1, 1, 0x02, 1, 1, 2, 0xD5, 0, 0, 7⟩,
   ⟨2, 2, 0x04, 4, 0, 2, 0xD5, 0, 0, 4294967295⟩,
   ⟨3, 3, 0x04, 4, 0, 2, 0xD5, 0, 0, 4294967295⟩]
/-- Objects of 0xF000: FUSE_RAW_SEL, FUSE_LOW, FUSE_HIGH. -/
def objsF000_0 : List ObjDef :=
  [⟨1, 1, 0x03, 2, 1, 2, 0xC0, 0, 0, 1023⟩,
   ⟨2, 2, 0x04, 4, 0, 2, 0xC0, 0, 0, 4294967295⟩,
   ⟨3, 3, 0x04, 4, 0, 2, 0xC0, 0, 0, 4294967295⟩]
/-- Objects of 0xF001: FUSE_PROG_WORD, FUSE_PROG_BITS, FUSE_PROG. -/
def objsF001_0 : List ObjDef :=
  [⟨1, 1, 0x03, 2, 1, 2, 0xC0, 0, 0, 1023⟩,
   ⟨2, 2, 0x04, 4, 1, 2, 0xC0, 0, 0, 4294967295⟩,
   ⟨3, 3, 0x02, 1, 6, 2, 0xC0, 0, 1, 1⟩]
/-- Indices 0x1000 to 0x3000. -/
def objIndex0 : List (Nat × List ObjDef) :=
  [(0x1000, objs1000_0 ++ objs1000_1),
   (0x1001, objs1001_0),
   (0x1100, objs1100_0 ++ objs1100_1),
   (0x1200, objs1200_0 ++ objs1200_1),
   (0x1300, objs1300_0),
   (0x2000, objs2000_0),
   (0x2100, objs2100_0 ++ objs2100_1),
   (0x2200, objs2200_0 ++ objs2200_1),
   (0x2300, objs2300_0 ++ objs2300_1),
   (0x2301, objs2301_0),
   (0x2400, objs2400_0),
   (0x2500, objs2500_0),
   (0x2600, objs2600_0),
   (0x2700, objs2700_0 ++ objs2700_1),
   (0x2800, objs2800_0),
   (0x3000, objs3000_0 ++ objs3000_1)]
/-- Indices 0x3001 to 0x54C0. -/
def objIndex1 : List (Nat × List ObjDef) :=
  [(0x3001, objs3001_0),
   (0x3100, objs3100_0 ++ objs3100_1),
   (0x3200, objs3200_0 ++ objs3200_1),
   (0x4000, objs4000_0 ++ objs4000_1),
   (0x4100, objs4100_0),
   (0x4200, objs4200_0 ++ objs4200_1),
   (0x4201, objs4201_0),
   (0x4300, objs4300_0),
   (0x4400, objs4400_0),
   (0x4500, objs4500_0),
   (0x5080, objs5080_0),
   (0x50C0, objs50C0_0),
   (0x5400, objs5400_0),
   (0x5440, objs5440_0),
   (0x5480, objs5480_0),
   (0x54C0, objs54C0_0 ++ objs54C0_1)]
/-- Indices 0x54C1 to 0x5800. -/
def objIndex2 : List (Nat × List ObjDef) :=
  [(0x54C1, objs54C1_0),
   (0x5500, objs5500_0),
   (0x5501, objs5501_0),
   (0x5502, objs5502_0),
   (0x5540, objs5540_0),
   (0x5580, objs5580_0 ++ objs5580_1),
   (0x5581, objs5581_0),
   (0x5582, objs5582_0),
   (0x55C0, objs55C0_0),
   (0x55C1, objs55C1_0),
   (0x55C2, objs55C2_0),
   (0x55C3, objs55C3_0),
   (0x5600, objs5600_0),
   (0x5601, objs5601_0),
   (0x5602, objs5602_0),
   (0x5800, objs5800_0)]
/-- Indices 0x5801 to 0x5C81. -/
def objIndex3 : List (Nat × List ObjDef) :=
  [(0x5801, objs5801_0),
   (0x5802, objs5802_0),
   (0x5803, objs5803_0),
   (0x5840, objs5840_0),
   (0x5841, objs5841_0),
   (0x5880, objs5880_0),
   (0x5881, objs5881_0),
   (0x5882, objs5882_0),
   (0x5C00, objs5C00_0),
   (0x5C01, objs5C01_0),
   (0x5C40, objs5C40_0),
   (0x5C41, objs5C41_0),
   (0x5C42, objs5C42_0),
   (0x5C43, objs5C43_0),
   (0x5C80, objs5C80_0),
   (0x5C81, objs5C81_0)]
/-- Indices 0x5CC0 to 0xF001. -/
def objIndex4 : List (Nat × List ObjDef) :=
  [(0x5CC0, objs5CC0_0),
   (0x5CC1, objs5CC1_0),
   (0x5CC2, objs5CC2_0),
   (0x5CC3, objs5CC3_0),
   (0x5D00, objs5D00_0),
   (0x5D40, objs5D40_0),
   (0xF000, objsF000_0),
   (0xF001, objsF001_0)]
/-- Every index of the dictionary with its objects, in ascending order. -/
def objIndex : List (Nat × List ObjDef) :=
  objIndex0 ++ objIndex1 ++ objIndex2 ++ objIndex3 ++ objIndex4

/-- The objects of an index. -/
def objsAt (idx : Nat) : Option (List ObjDef) := (objIndex.find? fun e => e.1 == idx).map (·.2)

/-- Subindex 0 of every index: U8 RO, the highest subindex present (R69). -/
def subZero (os : List ObjDef) : ObjDef :=
  ⟨0, 0, 0x02, 1, 0, 0, (os.head?.map (·.rights)).getD 0 % 256, os.foldl (fun m o => max m o.hi) 0, 0, 255⟩

/-- The object at an index and subindex (R69, R70). -/
def objAt (idx sub : Nat) : Option ObjDef :=
  match objsAt idx with
  | none => none
  | some os => if sub = 0 then some (subZero os) else os.find? fun o => o.lo ≤ sub && sub ≤ o.hi

/-- An object's default value (R70). -/
def objDflt (idx sub : Nat) : Nat := ((objAt idx sub).map (·.dflt)).getD 0

/-- Whether an index is a window group (R106). -/
def isWindow (idx : Nat) : Bool := 0x5000 ≤ idx && idx ≤ 0x5FFF || idx == 0xF000

end Sys2Proof.Machine
end

