-- ==== Sys2Proof/Machine/State.lean ====
section
/-! DEFINITION. The state of the block: everything the spec gives the module, as plain data, with the value of every
field right after a power-on reset (the defaults of the structures and `State.reset`). Each group cites the chapter that
owns it. -/
namespace Sys2Proof.Machine

/-! ### Time (02) -/

/-- Time states (Table 02-2). -/
inductive TState where
  | freerun | locked | holdover | lost
deriving DecidableEq, Repr

/-- What one field port's PTP instance holds (R39, Table 02-1). -/
structure PortClock where
  heard : Bool := false
  rank : Nat := 0
  gm : Word := 0
  pdelay : Nat := 0
  logInt : Nat := 3
deriving DecidableEq, Repr

/-- The timebase and the stitch tick (R33 to R53). -/
structure Time where
  tsc : Nat := 0
  saved : Option Nat := none
  lastSave : Nat := 0
  tstate : TState := .freerun
  everLocked : Bool := false
  lockRun : Nat := 0
  offset : Int := 0
  awaitFirst : Bool := false
  holdSince : Nat := 0
  slew : Int := 0
  slewPhase : Nat := 0
  portSel : Option Nat := none
  gm : Word := 0
  ports : Tbl PortClock := []
  anchorTime : Nat := 0
  anchorCount : Nat := 0
  periodUs : Nat := 1000
  pendArmed : Bool := false
  curCount : Nat := 0
  lastOverrun : Nat := 0
deriving DecidableEq, Repr

/-! ### Dictionary, FDP and mailbox (03) -/

/-- A dictionary message past its header checks: its service code (Table 03-8) and its fields. -/
structure DMsg where
  svc : Nat
  req : FdpReq
deriving DecidableEq, Repr

/-- The answer to a dictionary request (R96). -/
structure Resp where
  status : Status
  more : Bool
  payload : Bytes
deriving DecidableEq, Repr

/-- A kept response with its request (R104). -/
structure Kept where
  msg : DMsg
  resp : Resp
deriving DecidableEq, Repr

/-- One FDP session (R82, R86, R103, R104, Table 03-6). -/
structure Session where
  isOpen : Bool := false
  role : Nat := 0
  part : Nat := 0
  digest : BitVec 384 := 0
  ip : BitVec 128 := 0
  udp : BitVec 16 := 0
  lastUse : Nat := 0
  queue : List DMsg := []
  kept : List Kept := []
  high : Nat := 0
  seen : List Nat := []
  sent : Nat := 0
deriving DecidableEq, Repr

/-- The dictionary's stored values, selectors and write bookkeeping (R69 to R81, R107). -/
structure Dict where
  vals : Tbl (Option Nat) := []
  sels : Tbl (Option Nat) := []
  writes : List Nat := []
  lost : Tbl Bool := []
deriving DecidableEq, Repr

/-- Sequence recovery of frame replication (R92, Table 03-5). -/
structure Frer where
  started : Bool := false
  high : Nat := 0
  seen : List Nat := []
  gen : Nat := 0
deriving DecidableEq, Repr

/-- The field ports, their sessions and a handshake in progress (R86 to R95). -/
structure Fdp where
  sessions : Tbl Session := []
  /-- The retransmission timer of a handshake in progress, ms; 0 where it has not expired. -/
  shakeMs : Nat := 0
  frer : Frer := {}
  links : Nat := 0
  closing : List Nat := []
deriving DecidableEq, Repr

/-- The host mailbox (Table 03-10, R111 to R114). -/
structure Mbx where
  busy : Bool := false
  done : Bool := false
  overwrite : Bool := false
  writeLost : Bool := false
  doneIe : Bool := false
  role : Nat := 0
  reqLen : Nat := 0
  rspLen : Nat := 0
  reqBuf : Tbl Byte := []
  rspBuf : Bytes := []
  taken : Option Bytes := none
  started : Bool := false
  answer : Option Bytes := none
  history : List Kept := []
deriving DecidableEq, Repr
/-! ### Threads, tags and groves (04, 05, 06) -/

/-- Thread states (Table 04-2). -/
inductive HState where
  | empty | ready | stalled | sleepBlaze | sleepStitch | preempted | halted
deriving DecidableEq, Repr

/-- What a stalled or sleeping thread waits for. -/
inductive Wait where
  | none
  /-- A tag wait: the tag's number in the grove, rd, and whether the tag is then freed (R178). -/
  | tag (tag : Nat) (rd : Nat) (reap : Bool)
  /-- A blaze sleep: the blaze number, rd, BWAITC, and the time of issue (R204, R205). -/
  | blaze (n : Nat) (rd : Nat) (clears : Bool) (since : Nat)
  /-- The next boundary (R206). -/
  | stitch
  /-- A remote response (R151): the outstanding-request entry, rd, size, unsigned, floating point, and the bytes of the
  instruction. -/
  | resp (r : Nat) (rd : Nat) (size : Nat) (uns fp : Bool) (len : Nat)
  /-- A fence that waits for acknowledgements (R150). -/
  | fence
  /-- A queue commit that waits for acknowledgements (R148): rd and the queue. -/
  | commit (rd : Nat) (q : Nat)
  /-- A TLB_FLUSH that has not returned (R129). -/
  | flush
deriving DecidableEq, Repr

/-- One hart (R116 and Table 05-2). -/
structure Hart where
  state : HState := .empty
  hard : Bool := false
  clsReq : Bool := false
  priv : Nat := 3
  pc : Word := 0
  x : Tbl Word := []
  f : Tbl Word := []
  v : Tbl (BitVec 512) := []
  csr : Tbl Word := []
  xstatus : Status := 0
  qtag : Word := 0
  held : Nat := 0
  inUse : Nat := 0
  resHeld : Nat := 0
  smplEn : Bool := false
  smplForce : Bool := false
  smplMark : Nat := 0
  quota : Nat := 4
  wait : Wait := .none
  lr : Option (Nat × Nat) := none
  finished : Option Nat := none
  rewound : List Nat := []
  resume : HState := .ready
  /-- Exceptions of posted remote operations that wait for the thread to be READY (R136, R202): cause, stval, status. -/
  pend : List (Nat × Nat × Status) := []
deriving DecidableEq, Repr

/-- A contiguous piece of a translated range: virtual address, physical (domain) address, bytes. -/
structure Seg where
  va : Nat
  pa : Nat
  len : Nat
deriving DecidableEq, Repr

/-- A tensor operation as issued (R179 to R184): its descriptor, its chain of parameter blocks, the array mask and the
translations of its operand ranges. -/
structure TensorOp where
  desc : Bytes
  ext : List Bytes
  mask : Nat
  segs : List Seg
deriving DecidableEq, Repr

/-- A mover descriptor (Table 08-7). -/
structure MDesc where
  src : Nat
  dst : Nat
  rowBytes : Nat
  rows : Nat
  srcStride : Nat
  dstStride : Nat
  kind : Nat
deriving DecidableEq, Repr

/-- A mover chain under way (R186 to R188, R297): its descriptors still to come, the place it has reached, the chunks it has
performed, the bytes of the present chunk that it has gathered with the poison of each, and the request it waits for. -/
structure MoverOp where
  descs : List MDesc
  row : Nat := 0
  col : Nat := 0
  chunks : Nat := 0
  poison : Bool := false
  paused : Bool := false
  got : Bytes := []
  gotPois : List Bool := []
  bad : Bool := false
  waitReq : Option Nat := none
deriving DecidableEq, Repr

/-- A licence request (Table 05-4). -/
structure LicOp where
  watts : Nat
  res : Bool
  prio : Nat
deriving DecidableEq, Repr

/-- The operation under a tag. -/
inductive TagOp where
  | none
  | tensor (o : TensorOp)
  | mover (o : MoverOp)
  | licence (o : LicOp)
deriving DecidableEq, Repr

/-- States of an operation tag (Table 04-9). -/
inductive TagState where
  | free | issued | done
deriving DecidableEq, Repr

/-- An operation tag (Table 04-9, R185, R191); `serial` numbers the issue that took it. -/
structure Tag where
  state : TagState := .free
  owner : Nat := 0
  status : Status := 0
  result : Nat := 0
  cost : Nat := 0
  serial : Nat := 0
  op : TagOp := .none
deriving DecidableEq, Repr

/-- A translation held by a grove's TLB (R129, R139): address space, first virtual page, level, entry. -/
structure TlbEnt where
  asid : Nat
  vpn : Nat
  level : Nat
  pte : Nat
deriving DecidableEq, Repr

/-- One grove: its tags, its arrays' service and arithmetic status, its TLB and its sampling generator. -/
structure Grove where
  tags : Tbl Tag := []
  order : List Nat := []
  retiredArrays : Nat := 0
  repeated : List (Nat × Nat) := []
  arith : Nat := 0
  lossCount : Nat := 0
  tensorOps : Nat := 0
  residueCount : Nat := 0
  retired : Bool := false
  tlb : List TlbEnt := []
  lfsr : Nat := 0
deriving DecidableEq, Repr

/-- A context save area in use (R125, R276): the saved U and S state of a hart. -/
structure SaveArea where
  valid : Bool := false
  part : Nat := 0
  ctx : Hart := {}
deriving DecidableEq, Repr

/-- The PCIe side of the host interface (Table 04-11, Table 04-12, 0x1300). -/
structure HostIf where
  vfFault : Tbl Bool := []
  vfWriteLost : Tbl Bool := []
  msixTable : Tbl Word := []
  msixPend : Tbl Bool := []
  vfEnabled : Nat := 0
  link0 : Nat := 0
  link1 : Nat := 0
  ide : Nat := 0
  mode : Nat := 0
deriving DecidableEq, Repr

/-! ### Memory (08) -/

/-- A released range that is still to be cleared (R294): tier (0 HBM, 1 understory), first local address, bytes. -/
structure ClearRange where
  tier : Nat
  first : Nat
  len : Nat
deriving DecidableEq, Repr

/-- Memory of every tier with its poison, its line kinds and the scrubs (R271 to R294). -/
structure Mem where
  bytes : List Host.Cell := []
  poison : Tbl Bool := []
  dataLines : Tbl Bool := []
  usScrub : Nat := 0
  usBegan : Nat := 0
  hbmReady : Nat := 0
  usReady : Nat := 0
  corrected : Tbl Nat := []
  clears : List ClearRange := []
deriving DecidableEq, Repr

/-! ### Queues (09) -/

/-- A committed packet of a queue: its cells in order, its length, the stitch count of its commit, whether readers may pop
it (R712), whether a hard-class thread committed it, and its sequence in its stitch. -/
structure QPkt where
  cells : List Nat
  len : Nat
  count : Nat
  poppable : Bool := true
  hard : Bool := false
  seq : Nat := 0
deriving DecidableEq, Repr

/-- A queue: its descriptor (Table 09-1) and control record (Table 09-2). `popped` counts the words taken from its head
packet, `first` the word tag's first word still to come. -/
structure Queue where
  state : Nat := 0
  held : Nat := 0
  depth : Nat := 0
  tailCell : Nat := 0
  pkts : List QPkt := []
  popped : Nat := 0
  bound : Option Nat := none
  cap : Nat := 0
  resv : Nat := 0
  /-- The declared largest packet, in cells (MAXPKT + 1). -/
  maxpkt : Nat := 1
  enable : Bool := false
  welt : Bool := false
  /-- The stitch of the last commit and how many packets it has committed in it (R545). -/
  seqAt : Nat := 0
  seqNext : Nat := 0
  commits : Nat := 0
  refused : Nat := 0
  discarded : Nat := 0
deriving DecidableEq, Repr

/-- A cell of the pool with its record (Table 09-3). `next = none` stands for the cell after it. -/
structure CellRec where
  words : Tbl Word := []
  pois : Nat := 0
  parity : Nat := 0
  stitch : Nat := 0
  gen : Nat := 0
  first : Bool := false
  free : Bool := true
  next : Option Nat := none
deriving DecidableEq, Repr

/-- Who holds an open packet (R308, R315, R518). -/
inductive Producer where
  | thread (t : Nat)
  | engine (src : Source)
  | port (p : Nat) (sender : Nat)
deriving DecidableEq, Repr

/-- An open packet (R308). -/
structure OpenPkt where
  prod : Producer
  q : Nat
  len : Nat
  cells : List Nat
  written : Nat
deriving DecidableEq, Repr

/-- The shared cell pool (R304 to R312). Cells from `fresh` up have never been allocated; `freed` is the list behind
them. -/
structure Pool where
  size : Nat := 1048576
  cells : Tbl CellRec := []
  fresh : Nat := 0
  freed : List Nat := []
  keyDrawn : Bool := false
deriving DecidableEq, Repr

/-! ### Blazes (10) -/

/-- A blaze's entry (Table 10-1); SLEEPERS, PART and PART_V are derived from the harts and the map. -/
structure Blaze where
  set : Bool := false
  setCount : Nat := 0
  lastSetId : Nat := 0
  lastSetTime : Nat := 0
  lastClrId : Nat := 0
  lastClrTime : Nat := 0
  underflows : Nat := 0
  recAt : Option Nat := none
  further : Nat := 0
deriving DecidableEq, Repr

/-- A set that has been posted and not yet performed, or, for a blaze of another module, not yet sent (R147, R202, R516):
who set it, the index, the module, and the operations and remote requests of its thread whose writes it announces. -/
structure PostedSet where
  thread : Nat
  index : Nat
  part : Nat
  remote : Option Nat := none
  serials : List Nat
  reqs : List Nat
deriving DecidableEq, Repr

/-- Blazes beyond a lowered COUNT that have not left the allocation (R339). -/
structure Shrink where
  part : Nat
  first : Nat
  num : Nat
  index : Nat
deriving DecidableEq, Repr

/-- The blaze file's requests and its dump (R353 to R357). -/
structure BlazeFile where
  entries : Tbl Blaze := []
  posted : List PostedSet := []
  shrink : List Shrink := []
  snapReq : Tbl Bool := []
  restoreReq : Tbl Bool := []
  dumpState : Nat := 0
  dumpReason : Nat := 0
  dumpTime : Nat := 0
  dumpHdr : Bytes := []
  dumpEnts : List Bytes := []
deriving DecidableEq, Repr
/-! ### KV pager (12) -/

/-- A page of a slot (Table 12-5). `frame` is none while the page waits for an HBM frame; `named` orders pages by the last
APPEND or MAP that named them (R418). -/
structure KvPage where
  us : Bool := false
  move : Nat := 0
  pins : Nat := 0
  frame : Option Nat := none
  fill : Nat := 0
  named : Nat := 0
deriving DecidableEq, Repr

/-- A slot record (Table 12-4) with its pages by owned index (R409). -/
structure KvSlot where
  state : Nat := 0
  part : Nat := 0
  heads : Nat := 0
  dim : Nat := 0
  fmt : Nat := 0
  tlog : Nat := 0
  prio : Nat := 0
  tokens : Nat := 0
  spread : Nat := 0
  parts : Nat := 0
  spart : Nat := 0
  span : Nat := 0
  lastUse : Nat := 0
  stalls : Nat := 0
  pages : Tbl KvPage := []
deriving DecidableEq, Repr

/-- A page move under way (R417, R418, R423): a spill into an understory frame, or a move back into an HBM frame. -/
structure KvMove where
  slot : Nat
  idx : Nat
  back : Bool
  frame : Nat
deriving DecidableEq, Repr

/-- A command whose response waits for page moves (R411, R415, R417): the spills it waits for, the pages it needs in HBM,
the pages its response lists, and the status it completes with. `dest` says who asked: 0 the request queue, 1 policy
firmware's port (R428), 2 the serving engine's port (R440). -/
structure KvWait where
  part : Nat
  cmd : Nat
  tag : Nat
  slot : Nat
  dest : Nat
  spills : List (Nat × Nat)
  need : List (Nat × Nat)
  list : List (Nat × Nat)
  status : Status
deriving DecidableEq, Repr

/-- The KV pager. `blocked` holds the responses that a partition's queue has refused (R412). -/
structure Kv where
  slots : Tbl KvSlot := []
  moves : List KvMove := []
  waits : List KvWait := []
  blocked : Tbl (List (List Word)) := []
  blockedSaid : Tbl Bool := []
  clock : Nat := 0
deriving DecidableEq, Repr
/-! ### Serving (13) -/

/-- A sequence record (Table 13-2). -/
structure SeqRec where
  state : Nat := 0
  prio : Nat := 0
  part : Nat := 0
  account : Nat := 0
  pfx : Option Nat := none
  batch : Nat := 0
  kind : Nat := 0
  admitTok : Nat := 0
  tokens : Nat := 0
  lastStitch : Nat := 0
  step : Nat := 0
deriving DecidableEq, Repr

/-- A budget account (Table 13-5). -/
structure Account where
  valid : Bool := false
  part : Nat := 0
  quota : Nat := 0
  seqs : Nat := 0
  pPend : Nat := 0
  dPend : Nat := 0
  pRate : Nat := 0
  dRate : Nat := 0
  pCap : Nat := 0
  dCap : Nat := 0
  pBal : Int := 0
  dBal : Int := 0
  pUsed : Nat := 0
  dUsed : Nat := 0
deriving DecidableEq, Repr

/-- A prefix entry in use (Table 13-3). -/
structure PfxEnt where
  hash : Word
  tok : Nat
  page : Nat
  slot : Nat
  model : Nat
  tlog : Nat
  parent : Option Nat
  refs : Nat
  kids : Nat
  lastUse : Nat
  part : Nat
deriving DecidableEq, Repr

/-- An open batch record (R443). -/
structure Batch where
  part : Nat
  q : Nat
  blaze : Nat
  seqs : List Nat
  count : Nat
deriving DecidableEq, Repr

/-- An insert that waits for the pager's MAP (R440): what its entry will hold, its way, and the entry to be evicted. -/
structure PfxWait where
  tag : Nat
  ent : PfxEnt
  e : Nat
  evict : Bool
deriving DecidableEq, Repr

/-- The serving engine. -/
structure Srv where
  seqs : Tbl SeqRec := []
  accts : Tbl Account := []
  pfx : Tbl (Option PfxEnt) := []
  batches : Tbl (Option Batch) := []
  /-- Staged subindices of an account, one bit each (R451). -/
  staged : Tbl Nat := []
  stageArmed : Bool := false
  refillArmed : Bool := false
  inserts : Tbl (Option PfxWait) := []
  /-- The pager's answer to a partition's insert. -/
  mapped : Tbl (Option Status) := []
  blocked : Tbl (List (List Word)) := []
  blockedSaid : Tbl Bool := []
deriving DecidableEq, Repr
/-! ### Video (14) -/

/-- A piece of the picture under way (R472): 0 waiting, 1 on a core, 2 ended. -/
structure VPiece where
  st : Nat := 0
  core : Nat := 0
  since : Nat := 0
  fin : Option PieceEnd := none
deriving DecidableEq, Repr

/-- An accepted ENCODE (R470): its picture number, source buffer, type (0 RAP, 1 P, 2 B), explicit QP and offset map. -/
structure VEnc where
  num : Nat
  src : Nat
  ptype : Nat := 1
  qp : Option Nat
  map : Nat
  user : Word
  reqTag : Nat
  count : Nat
  order : Nat
deriving DecidableEq, Repr

/-- A DECODE or an END that a session has not finished. `base` is the session's output count when END was applied. -/
structure VWork where
  isEnd : Bool
  reqTag : Nat
  user : Word
  count : Nat
  order : Nat
  pics : List DecPic
  decoded : Nat
  base : Nat
deriving DecidableEq, Repr

/-- The picture of a session under way. `stage`: 1 waits for its licence, 2 in motion search, 3 waits for its rate
decision, 4 its pieces run. `announced` counts its pieces whose bytes are in the ring, `bytes` their bytes. -/
structure VPic where
  dec : Option DecPic := none
  enc : Option VEnc := none
  num : Nat := 0
  buf : Nat := 0
  stage : Nat := 4
  qp : Nat := 0
  hasMap : Bool := false
  pieces : List VPiece := []
  announced : Nat := 0
  bytes : Nat := 0
  start : Nat := 0
  qpSum : Nat := 0
  order : Nat := 0
  count : Nat := 0
  user : Word := 0
deriving DecidableEq, Repr

/-- A decoded picture that has not been delivered, or that stays a reference (R464, R468). -/
structure VHeld where
  num : Nat
  buf : Nat
  dec : DecPic
  concealed : Nat
  damaged : Bool
  damagedRef : Bool
  user : Word
  count : Nat
  out : Bool
deriving DecidableEq, Repr

/-- A video session (Table 14-5, R459 to R484). -/
structure VSession where
  part : Nat := 0
  desc : Bytes := []
  /-- 0 FREE, 1 CORE, 2 OUT, by buffer. -/
  bufs : Tbl Nat := []
  damaged : Bool := false
  /-- Pictures started, outputs delivered, and the next ENCODE's picture number. -/
  num : Nat := 0
  outs : Nat := 0
  encNum : Nat := 0
  /-- The bytes of the stream since OPEN or END (R485). -/
  stream : Bytes := []
  work : List VWork := []
  encWait : List VEnc := []
  encQ : List VEnc := []
  cur : Option VPic := none
  held : List VHeld := []
  gopLeft : Nat := 0
  forceRap : Bool := false
  ringHead : Nat := 0
  ringUsed : Nat := 0
  prevBits : Nat := 0
  prevQp : Nat := 0
  /-- Notices that OUT_Q has refused (R469). -/
  notices : List (List Word) := []
deriving DecidableEq, Repr

/-- A video core: the session and the piece it serves. -/
structure VCore where
  ses : Option Nat := none
  piece : Nat := 0
  since : Nat := 0
deriving DecidableEq, Repr

/-- The video cores and their scheduler. `record` is the rate statistics record in the Cobbler (Table 14-7). -/
structure Vid where
  sessions : Tbl (Option VSession) := []
  cores : Tbl VCore := []
  record : Bytes := []
  blocked : Tbl (List (List Word)) := []
  blockedSaid : Tbl Bool := []
  outSaid : Bool := false
deriving DecidableEq, Repr

/-! ### Policy firmware (20) -/

/-- A hook call (R647): the hook, its argument (a count, a partition, a session or a record's place) and the data that its
arguments name. -/
structure HookCall where
  hook : Nat
  arg : Nat := 0
  a1 : Nat := 0
  a2 : Nat := 0
  data : Bytes := []
deriving DecidableEq, Repr

/-- A hook under way on a pair: when it was called, and whether its deadline has been counted as passed. -/
structure HookRun where
  call : HookCall
  at_ : Nat
  late : Bool := false
deriving DecidableEq, Repr

/-- A bank of the carrier's flash: its chunks (a chunk that is not listed is erased), or, while `factory` holds, the
reference policy that both banks hold at manufacture. -/
structure Bank where
  factory : Bool := true
  chunks : Tbl Bytes := []
deriving DecidableEq, Repr

/-- The Cobbler, its hooks and its banks (R638 to R654). `fwState` is 0x4200/5. -/
structure Fw where
  fwState : Nat := 0
  bad : Tbl Bool := []
  run : Tbl (Option HookRun) := []
  /-- Calls that wait for pair 0 in their order, and RATE calls. -/
  waitQ : List HookCall := []
  rateQ : List HookCall := []
  lateRun : Nat := 0
  lateSaid : Tbl Bool := []
  banks : Tbl Bank := []
  valid : Nat := 0
  runBank : Nat := 0
  erasing : Option Nat := none
deriving DecidableEq, Repr
/-! ### Links and remote operations (15) -/

/-- One Naloroth port (R487 to R500, R589). Credits and freed counts are cumulative, one per VC. -/
structure LinkPort where
  state : Nat := 0
  locked : Bool := false
  marks : Nat := 0
  badMarks : Nat := 0
  badWords : Nat := 0
  sinceMark : Nat := 0
  /-- Lock has been held before. -/
  relock : Bool := false
  /-- Blocks of the flit under assembly, each with whether its codeword decoded and its sync bit says data. -/
  blks : List (Bool × BitVec 256) := []
  rx : List (BitVec 2048) := []
  txSeq : Nat := 0
  rxSeq : Nat := 0
  replay : List (Nat × BitVec 2048) := []
  replays : Nat := 0
  replayFrom : Nat := 0
  nakSent : Bool := false
  txCredit : Tbl Nat := []
  txSent : Tbl Nat := []
  rxFreed : Tbl Nat := []
  asm : Tbl (List Bytes) := []
  txq : List (Nat × Bytes) := []
  peer : Nat := 0
  peerInc : Word := 0
  trains : Nat := 0
  licence : Bool := false
  licWait : Bool := false
deriving DecidableEq, Repr

/-- The session with one other endpoint (R503 to R505): the highest CTR accepted and the last CTR sent, one per VC. -/
structure LinkSess where
  state : Nat := 0
  peerInc : Word := 0
  key : Nat := 0
  opener : Bool := false
  transcript : Bytes := []
  accepted : Tbl Nat := []
  sent : Tbl Nat := []
  authAt : Option Nat := none
deriving DecidableEq, Repr

/-- Whose request an outstanding-request entry is (R508). -/
inductive ReqKind where
  | load (t rd size : Nat) (uns fp : Bool) (va pa : Nat)
  | store (t : Nat) (va : Nat)
  | atomic (t rd : Nat) (dbl : Bool) (va pa : Nat)
  | blaze (t : Nat) (va : Nat)
  | mover (tag serial : Nat) (write : Bool)
  | welt (q count seq : Nat) (last : Bool)
deriving DecidableEq, Repr

/-- An outstanding-request entry (R508). -/
structure OutReq where
  dst : Nat
  kind : ReqKind
  serial : Nat
  sendTime : Option Nat := none
deriving DecidableEq, Repr

/-- A message that waits for a session or for a change of route (R504, R507). -/
structure WaitMsg where
  msg : Msg
  req : Option Nat
deriving DecidableEq, Repr

/-- A remote set held until its MARK is reached (R516, R517). -/
structure HeldSet where
  port : Nat
  msg : Msg
deriving DecidableEq, Repr

/-- The rest of a refused queue packet is answered with its status (R518). -/
structure RefusedPkt where
  port : Nat
  sender : Nat
  q : Nat
  status : Status
deriving DecidableEq, Repr

/-- The role epoch of a partition (R510): the stitch of its last change and whether a change is held. -/
structure Epoch where
  val : Nat := 0
  changedAt : Option Nat := none
  deferred : Bool := false
deriving DecidableEq, Repr

/-- Links, sessions and remote operations. -/
structure Links where
  ports : Tbl LinkPort := []
  sess : Tbl LinkSess := []
  waiting : Tbl (List WaitMsg) := []
  outReq : Tbl (Option OutReq) := []
  held : List HeldSet := []
  refused : List RefusedPkt := []
  segs : List (Nat × Nat × Nat) := []
  routeUse : Tbl Nat := []
  epochs : Tbl Epoch := []
deriving DecidableEq, Repr
/-! ### Pair operation, the lace and the welt (16) -/

/-- The welt's record of a held egress packet (R544): its queue, count and sequence, its own digest and the mate's, and
its state: 0 waits, 1 sent, 2 to be sent again, 3 confirmed by the mate. -/
structure EgRec where
  q : Nat
  count : Nat
  seq : Nat
  hard : Bool
  own : Nat
  mate : Option Nat := none
  st : Nat := 0
  dup : Bool := false
deriving DecidableEq, Repr

/-- The welt's record of a held input packet (R539, R540, R544), with its packet still open. -/
structure InRec where
  q : Nat
  seq : Nat
  sendTime : Nat
  pkt : OpenPkt
  own : Nat
  mate : Option Nat := none
  elig : Bool := false
deriving DecidableEq, Repr

/-- The last MATE_HB received (Table 16-5). -/
structure Hb where
  state : Nat
  claim : Bool
  laceIn : Bool
  tie : Bool
  role : Bool
  id : Nat
  count : Nat
  raw : Nat
deriving DecidableEq, Repr

/-- Pair operation (R521 to R558). `stage` counts the steps of formation (R526): 0 none, 1 armed, 2 heartbeats, 3 and 4
the two raises of the lace test, 5 sessions. -/
structure Pair where
  /-- Table 16-1. -/
  state : Nat := 0
  stage : Nat := 0
  claim : Bool := false
  claimWant : Bool := false
  laceIn : Bool := false
  tie : Bool := false
  fenceLow : Bool := false
  gate : Bool := false
  laceErr : Bool := false
  mismatch : Bool := false
  writeLost : Bool := false
  hb : Option Hb := none
  silent : Bool := false
  yieldSeen : Bool := false
  swapReq : Bool := false
  /-- This module yields, or takes over, in a planned swap (R557). -/
  swap : Bool := false
  poisonTaken : Bool := false
  /-- Partitions that overran in the stitch that closed, and the mate's. -/
  overran : Nat := 0
  mateBoundary : Option Nat := none
  boundaryAt : Option Nat := none
  eg : List EgRec := []
  inp : List InRec := []
  /-- Digests of the mate that came before the packet: kind, queue, count or input sequence, sequence, digest. -/
  early : List (Nat × Nat × Nat × Nat × Nat) := []
  settled : Tbl Nat := []
  /-- CTR of the last CONFIRM of a queue (R547). -/
  confirm : Tbl Nat := []
deriving DecidableEq, Repr
/-! ### Faults and the domain (17) -/

/-- A fault or event record (Table 17-2). -/
structure Rec where
  time : Nat
  module : Nat
  source : Source
  status : Status
  cls : Nat
  part : Option Nat
  count : Nat
  inc : Nat
  detail : List Nat
deriving DecidableEq, Repr

/-- A post-mortem bundle (R574). -/
structure Bundle where
  header : Bytes
  recs : List Rec
  dump : List Bytes
  parts : List Bytes
deriving DecidableEq, Repr

/-- A saved blaze image with its checkpoint count (R578). -/
structure Ckpt where
  count : Nat
  image : Bytes
deriving DecidableEq, Repr

/-- One partition's recovery state (R568 to R583, Table 17-8). -/
structure PartFlt where
  newest : Option Ckpt := none
  older : Option Ckpt := none
  ckptAt : Option Nat := none
  cause : Nat := 0
  causeTo : Nat := 0
  lastOverrun : Nat := 0
  lastRestart : Nat := 0
  lastHard : Nat := 0
  lastHardAt : Option Nat := none
deriving DecidableEq, Repr

/-- The fault collector and the domain actions (R560 to R584). -/
structure Flt where
  inflight : List Rec := []
  log : List Rec := []
  lastStamp : Tbl Nat := []
  written : Tbl Nat := []
  suppressed : Tbl Nat := []
  replaced : Nat := 0
  replacedAt : Nat := 0
  parts : Tbl PartFlt := []
  restartReq : List Nat := []
  rollArmed : Bool := false
  admitArmed : Bool := false
  shadow : Nat := 0
  shadowPassed : Bool := false
  shadowSeen : Bool := false
  bundle : Option Bundle := none
  writing : Option Bundle := none
  writingSince : Nat := 0
  fatal : Option (Source × Status) := none
deriving DecidableEq, Repr

/-! ### Power (18) -/

/-- A licence request in the wait order (R594): who asks, and what. -/
structure LicWait where
  src : Source
  /-- The waiting tag, for a thread's request. -/
  tag : Option (Nat × Nat)
  part : Option Nat
  watts : Nat
  prio : Nat
  arrival : Nat
  passed : Nat := 0
  fresh : Bool := true
  /-- What an engine asks for: 1 encoded picture, 2 memory pass, 3 link burst; the instance. -/
  kind : Nat := 0
  inst : Nat := 0
  res : Bool := false
deriving DecidableEq, Repr

/-- A grant held by an engine (Table 18-1). -/
structure EngineGrant where
  kind : Nat
  inst : Nat
  part : Option Nat
  watts : Nat
deriving DecidableEq, Repr

/-- The floors acting (Table 18-4): the drop of the package floor in kHz, halvings of the current floor, the junction
floor of each die (2 is the base die), the burst floor; `Lift` marks a floor that the next boundary restores. -/
structure Floors where
  pkgDrop : Nat := 0
  pkgLift : Bool := false
  pkgTick : Nat := 0
  curShift : Tbl Nat := []
  curLift : Tbl Bool := []
  trip : Tbl Bool := []
  tripLift : Tbl Bool := []
  stuck : Tbl Bool := []
  burst : Bool := false
  burstLift : Bool := false
  seen : Bool := false
  writeLost : Bool := false
deriving DecidableEq, Repr

/-- One temperature sensor (R604, R605, R705). -/
structure Sensor where
  last : Int := 0
  peak : Int := 0
  bad : Nat := 0
  failed : Bool := false
  seen : Bool := false
deriving DecidableEq, Repr

/-- The Warden (R586 to R610). `win…` are the sums over the power samples of the present stitch. -/
structure Power where
  pool : Nat := 0
  draw : Nat := 1024
  pcap : Nat := 1350
  pcapNext : Nat := 1350
  waits : List LicWait := []
  resBal : Tbl Nat := []
  engine : List EngineGrant := []
  /-- 0 closed, 1 open, 2 recovering (Table 18-8). -/
  burst : Nat := 0
  burstAt : Nat := 0
  floors : Floors := {}
  /-- Stand targets and the video target in force, kHz (R21). -/
  stand : Tbl Nat := []
  video : Nat := 1000000
  sensors : Tbl Sensor := []
  pkgSamples : List Nat := []
  winN : Nat := 0
  winPkg : Nat := 0
  winIn : Nat := 0
  winL : Nat := 0
  pkgMean : Nat := 0
  inMean : Nat := 0
  pIdle : Nat := 0
  /-- µK/W. -/
  rEst : Nat := 34000
  rLast4 : List Nat := []
  /-- P, T and I of the window before. -/
  prevWin : Option (Nat × Int × Int) := none
  flatWins : Nat := 0
  rStep : Bool := false
  /-- Watts of the keep-warm load (R610). -/
  warm : Nat := 0
  tjSaid : Bool := false
  /-- I, in units of 0.125 °C. -/
  inlet : Int := 440
  /-- I as the last cap computation took it. -/
  inletUsed : Int := 440
  /-- Rotation shifts in force (R609). -/
  rotShift : Tbl Nat := []
deriving DecidableEq, Repr

/-! ### Partitions (19) -/

/-- A partition map entry (Table 19-1). -/
structure MapEntry where
  state : Nat := 0
  vf : Nat := 0
  firstGrove : Nat := 0
  grovesM1 : Nat := 0
  job : Nat := 0
  tenant : Nat := 0
  smOff : Nat := 0
  smMib : Nat := 0
  bmOff : Nat := 0
  bmMib : Nat := 0
  hbmBase : Nat := 0
  hbmGib : Nat := 0
  usBase : Nat := 0
  usGib : Nat := 0
  qFirst : Nat := 0
  qCount : Nat := 0
  cellQuota : Nat := 0
  bzBase : Nat := 0
  bzCount : Nat := 0
  acctFirst : Nat := 0
  acctN64 : Nat := 0
  seqFirst : Nat := 0
  seqN64 : Nat := 0
  kvsFirst : Nat := 0
  kvsN64 : Nat := 0
deriving DecidableEq, Repr
/-- A partition's key slot (R620, R622, R436): the memory key M, the prefix key, and the derived key of every region
(0 to 511 HBM, 512 to 1,023 understory). -/
structure KeySlot where
  memKey : Option Nat := none
  pfxKey : Option Nat := none
  regions : Tbl (Option Nat) := []
  installed : Bool := false
deriving DecidableEq, Repr

/-- A key blob whose installation is under way (R625, R626), with who wrote it, by which service, and the request
to answer. -/
structure Install where
  part : Nat
  plain : Bytes
  kind : Nat
  detail : List Nat
  who : Requester
  svc : Nat
  req : FdpReq
deriving DecidableEq, Repr

/-- A requester's attestation report (R632): the one being built, and the last one generated. -/
structure Report where
  building : Option Bytes := none
  ready : Bytes := []
deriving DecidableEq, Repr

/-- The partition map's change, key installations, the key-wrap key and the reports (R615, R621, R625, R632). -/
structure Sec where
  mapArmed : Bool := false
  installs : List Install := []
  kwkPriv : Bytes := []
  kwk : Bytes := []
  reports : Tbl Report := []
deriving DecidableEq, Repr

/-- The fuses as they read at the low and at the high margin (Table 19-7, R635), and what the boot ROM resolved: the
marginal bitmap, the lifecycle and the debug state in force (R634). -/
structure Fuse where
  low : Tbl Nat := [(0, 1), (1, 1), (0x200, 1), (0x201, 1)]
  high : Tbl Nat := [(0, 1), (1, 1), (0x200, 1), (0x201, 1)]
  marginal : Nat := 0
  lifecycle : Nat := 1
  debug : Nat := 1
deriving DecidableEq, Repr

/-- The measured layers and the DICE values (R628, R629). -/
structure Dice where
  dL0 : Bytes := []
  dL1 : Bytes := []
  dShim : Bytes := []
  dFuse : Bytes := []
  cdi1 : Bytes := []
  deviceId : Bytes := []
deriving DecidableEq, Repr

/-! ### Counters and sampling (21) -/

/-- A sample record under way (R668): its thread, the operation tag it took with the tag's serial, the time of issue, what
the record holds up to its tag, whether the instruction trapped, and the status once its tag has left ISSUED. -/
structure Sample where
  thread : Nat
  tag : Option (Nat × Nat)
  issue : Nat
  bytes : Bytes
  fin : Option Status := none
deriving DecidableEq, Repr

/-- The counter collector and sampling. Control words are the objects 0x5CC1/2. -/
structure Ctr where
  val : Tbl Nat := []
  last : Tbl Nat := []
  /-- CTR_PERMIT in force, by partition. -/
  permit : Tbl Nat := []
  writeLost : Bool := false
  snapSaid : Tbl Bool := []
  smplSaid : Tbl Bool := []
  /-- Bytes by direction x 32 + port since start-up, and at the last bandwidth window, with its boundary. -/
  bytes : Tbl Nat := []
  bwBase : Tbl Nat := []
  bwAt : Nat := 0
  samples : List Sample := []
deriving DecidableEq, Repr
/-! ### Start-up and board (22, 23) -/

/-- The module's life (R673 to R689). `mstate` is the code of Table 22-1. -/
structure Life where
  mstate : Nat := 1
  since : Nat := 0
  phase : Nat := 2
  phStart : Tbl Nat := []
  phEnd : Tbl Nat := []
  incarnation : Word := 0
  phase2 : Bool := false
  resetAt : Option Nat := none
  resetKind : Nat := 0
  held : Bool := false
  latchWait : Bool := false
  latchHeld : Bool := false
  bistDone : Bool := false
  initDone : Bool := false
  powered : Bool := true
  /-- Nanoseconds that steps of the counter have added since start-up, for the durations of R677. -/
  stepped : Int := 0
deriving DecidableEq, Repr

/-- The board (23): pins as levels, the hot-swap stage, the input and the inlet sensors. -/
structure Board where
  prsntN : Bool := false
  latchN : Bool := true
  inputOk : Bool := true
  debounced : Bool := true
  ramping : Bool := false
  tripAt : Option Nat := none
  tripOff : Bool := false
  tripHold : Bool := false
  tripped : Bool := false
  rangeAt : Option Nat := none
  inA : Option Int := none
  inB : Option Int := none
  badA : Nat := 0
  badB : Nat := 0
  failA : Bool := false
  failB : Bool := false
  diffSince : Option Nat := none
  diffSaid : Option Nat := none
deriving DecidableEq, Repr

/-! ### What leaves the module -/

/-- What leaves the module through a port (Table 01-4), in the order it leaves. -/
inductive OutEvent where
  /-- A response to an FDP session (R96); `svc` as the request named it. -/
  | fdp (s : Nat) (svc : Nat) (req : FdpReq) (r : Resp)
  /-- A DTLS alert that ends a handshake, by its description (R93, R94). -/
  | alert (ip : BitVec 128) (udp : BitVec 16) (desc : Nat)
  /-- An MSI-X message: virtual function (0 for PF0 of link 0) and vector (R113, R161). -/
  | msix (vf : Nat) (vec : Nat)
  /-- A PCIe read completion: its data and whether the EP bit is set (Table 08-5). -/
  | hostData (vf : Nat) (data : Bytes) (ep : Bool)
  /-- A PCIe completion with Completer Abort (R159, R164). -/
  | hostAbort (vf : Nat)
  /-- A link message as it is handed to a port (R501), before encryption. -/
  | link (p : Nat) (m : Msg)
  /-- A flit on a port's lanes (Table 15-2). -/
  | flit (p : Nat) (f : BitVec 2048)
  /-- A DTLS KeyUpdate, after 2^24 records sent in a session (Table 03-6). -/
  | keyUpdate (s : Nat)
  /-- The last flight of a handshake, sent again, with the timer that it starts, ms (Table 03-6). -/
  | flight (timerMs : Nat)
  /-- A neighbour advertisement (R89). -/
  | advert (port : Nat) (target dst : BitVec 128)
  /-- An IDE stream key delivered by IDE_KM (R627). -/
  | ideKey (stream : Nat) (key : Bytes)
  /-- What the debug port shifts out on TDO (R702). -/
  | tdo (bits : Bytes)
deriving DecidableEq, Repr

/-! ### The whole module -/

/-- The module, without the queue of commands. -/
structure Chip where
  time : Time := {}
  dict : Dict := {}
  fdp : Fdp := {}
  mbx : Mbx := {}
  harts : Tbl Hart := []
  saves : Tbl SaveArea := []
  groves : Tbl Grove := []
  host : HostIf := {}
  mem : Mem := {}
  queues : Tbl Queue := []
  pool : Pool := {}
  opens : List OpenPkt := []
  blz : BlazeFile := {}
  lnk : Links := {}
  pair : Pair := {}
  kv : Kv := {}
  srv : Srv := {}
  vid : Vid := {}
  fw : Fw := {}
  flt : Flt := {}
  pwr : Power := {}
  map : Tbl MapEntry := []
  keys : Tbl KeySlot := []
  sec : Sec := {}
  fuse : Fuse := {}
  dice : Dice := {}
  ctr : Ctr := {}
  board : Board := {}
  life : Life := {}
  moduleId : Nat := 0
  outbox : List OutEvent := []
  serial : Nat := 0
  freeCtr : Nat := 0
deriving DecidableEq, Repr

/-- The reasons a step can stop with a fault. No command of this block does: every refusal that the spec names is an
effect of the command on the state. -/
inductive Fault where
  /-- Raised by nobody; safe. -/
  | none
deriving DecidableEq, Repr

/-- The reasons a step can be refused. -/
inductive Refusal where
  /-- The command named has no meaning in the model yet. Raised by `exec`'s arms alone; safe. -/
  | notModelled (mnemonic : String)
deriving DecidableEq, Repr

/-- The block's state: the module, and the commands that wait, first in first out. -/
structure State where
  m : Chip
  pending : List Instr
deriving DecidableEq, Repr

/-- The module right after a power-on reset, at the entry to BOOT (R36, R676, Table 22-4); no command waits. -/
def State.reset : State := { m := {}, pending := [] }

end Sys2Proof.Machine
end

