-- ==== Sys2Proof/Machine/Operands.lean ====
section
/-! DEFINITION. Operand forms of a thread's instructions: its registers, effective addresses, the values that loads, atomics
and CSR instructions form, and the bits of an instruction, which a trap may report (R116, R137, R167). -/
namespace Sys2Proof.Machine

/-! ### Registers and addresses -/

/-- An integer register; x0 reads 0 (R116, RV64I). -/
def readX (h : Hart) (r : Nat) : Word := if r = 0 then 0 else tget 0 h.x r
/-- A hart with an integer register written; x0 discards the write. -/
def writeX (r : Nat) (v : Word) (h : Hart) : Hart := if r = 0 then h else { h with x := tset 0 h.x r v }
/-- A CSR of a hart's own. -/
def readCsr (h : Hart) (n : Nat) : Word := tget 0 h.csr n
/-- A hart with a CSR written. -/
def writeCsr (n : Nat) (v : Word) (h : Hart) : Hart := { h with csr := tset 0 h.csr n v }

/-- The address that a base register and a signed offset give. -/
def effAddr (h : Hart) (rs1 : Nat) (imm : BitVec 12) : Nat := (readX h rs1 + imm.signExtend 64).toNat

/-! ### Values -/

/-- A loaded value as its register takes it: sign- or zero-extended, or NaN-boxed. -/
def loadValue (size : Nat) (uns fp : Bool) (bs : Bytes) : Word :=
  let v := leNat (bs.take (2 ^ size))
  if fp then BitVec.ofNat 64 (if size = 2 then v + (2 ^ 32 - 1) * 2 ^ 32 else v)
  else if uns then BitVec.ofNat 64 v
  else BitVec.ofNat 64 (toTwos 64 (ofTwos (8 * 2 ^ size) v))

/-- The atomics of the A extension, by funct5. -/
def amoDefined (f5 : Nat) : Bool := [0, 1, 4, 8, 12, 16, 20, 24, 28].contains f5

/-- What an atomic leaves in memory: `w` bits of the old value and the operand. -/
def amoValue (f5 w old opnd : Nat) : Nat :=
  let a := ofTwos w old
  let b := ofTwos w opnd
  let o := opnd % 2 ^ w
  let v := match f5 with
    | 0 => old + o
    | 1 => o
    | 4 => old ^^^ o
    | 8 => old ||| o
    | 12 => old &&& o
    | 16 => if a < b then old else o
    | 20 => if b < a then old else o
    | 24 => min old o
    | _ => max old o
  v % 2 ^ w

/-- The value that a CSR instruction writes, if it writes: a set or clear of no bits by register x0 or by 0 only reads. -/
def csrNew (op : CsrOp) (h : Hart) (src old : Nat) : Option Nat :=
  let r := (readX h src).toNat
  match op with
  | .rw => some r
  | .rwi => some src
  | .rs => if src = 0 then none else some (old ||| r)
  | .rsi => if src = 0 then none else some (old ||| src)
  | .rc => if src = 0 then none else some (old - (old &&& r))
  | .rci => if src = 0 then none else some (old - (old &&& src))

/-! ### Bits of an instruction -/

/-- An R-type encoding (R167). -/
def rType (f7 rs2 rs1 f3 rd opc : Nat) : Nat :=
  f7 * 2 ^ 25 + rs2 * 2 ^ 20 + rs1 * 2 ^ 15 + f3 * 2 ^ 12 + rd * 2 ^ 7 + opc

/-- The bits of an atomic. -/
def amoBits (f5 rs2 rs1 rd : Nat) (dbl : Bool) : Nat := rType (f5 * 4) rs2 rs1 (2 + b2n dbl) rd 0x2F

/-- An I-type encoding. -/
def iType (imm rs1 f3 rd opc : Nat) : Nat := imm % 4096 * 2 ^ 20 + rs1 * 2 ^ 15 + f3 * 2 ^ 12 + rd * 2 ^ 7 + opc
/-- An S-type encoding. -/
def sType (imm rs2 rs1 f3 opc : Nat) : Nat :=
  bitsOf imm 11 5 * 2 ^ 25 + rs2 * 2 ^ 20 + rs1 * 2 ^ 15 + f3 * 2 ^ 12 + bitsOf imm 4 0 * 2 ^ 7 + opc
/-- The compressed form of a load: sp-relative where the base is x2. -/
def cLoad (f3 imm rs1 rd : Nat) (dbl : Bool) : Nat :=
  if rs1 = 2 then
    f3 * 2 ^ 13 + bitsOf imm 5 5 * 2 ^ 12 + rd * 2 ^ 7 +
      (if dbl then bitsOf imm 4 3 * 2 ^ 5 + bitsOf imm 8 6 * 2 ^ 2 else bitsOf imm 4 2 * 2 ^ 4 + bitsOf imm 7 6 * 2 ^ 2) + 2
  else
    f3 * 2 ^ 13 + bitsOf imm 5 3 * 2 ^ 10 + rs1 % 8 * 2 ^ 7 +
      (if dbl then bitsOf imm 7 6 * 2 ^ 5 else bitsOf imm 2 2 * 2 ^ 6 + bitsOf imm 6 6 * 2 ^ 5) + rd % 8 * 2 ^ 2
/-- The compressed form of a store. -/
def cStore (f3 imm rs1 rs2 : Nat) (dbl : Bool) : Nat :=
  if rs1 = 2 then
    f3 * 2 ^ 13 + (if dbl then bitsOf imm 5 3 * 2 ^ 10 + bitsOf imm 8 6 * 2 ^ 7 else bitsOf imm 5 2 * 2 ^ 9 + bitsOf imm 7 6 * 2 ^ 7) +
      rs2 * 2 ^ 2 + 2
  else cLoad f3 imm rs1 rs2 dbl

/-- The bits of a load instruction. -/
def loadBits (rd rs1 imm size : Nat) (uns fp comp : Bool) : Nat :=
  if comp then cLoad (if fp then 1 else size) imm rs1 rd (size == 3)
  else iType imm rs1 (size + 4 * b2n uns) rd (if fp then 0x07 else 0x03)
/-- The bits of a store instruction. -/
def storeBits (rs1 rs2 imm size : Nat) (fp comp : Bool) : Nat :=
  if comp then cStore (if fp then 5 else size + 4) imm rs1 rs2 (size == 3)
  else sType imm rs2 rs1 size (if fp then 0x27 else 0x23)

/-- The funct3 of a CSR instruction. -/
def csrFunct (op : CsrOp) : Nat :=
  match op with
  | .rw => 1
  | .rs => 2
  | .rc => 3
  | .rwi => 5
  | .rsi => 6
  | .rci => 7

end Sys2Proof.Machine
end

