-- ==== Sys2Proof/Machine/Ops.lean ====
section
/-! DEFINITION. The named operations that every family of commands uses: time and counts (R47 to R49), harts, groves and
tags, the values of dictionary objects, records (R37, R563 to R566, R709), module states (R674), the partition map's
readings (R613) and what leaves the module. -/
namespace Sys2Proof.Machine

/-- The answer of a meaning. -/
abbrev Out := Host.Outcome State Fault Refusal

/-- A command that completes with an effect on the module; the queue of waiting commands is untouched. -/
def act (s : State) (f : Chip → Chip) : Out := .next { s with m := f s.m }

/-! ### Time -/

/-- Nanoseconds of a period (R47). -/
def periodNs (t : Time) : Nat := t.periodUs * 1000

/-- The 48-bit stitch count of a time (R47, R48). -/
def countOf (t : Time) (at_ : Nat) : Nat :=
  (((t.anchorCount : Int) + ((at_ : Int) - (t.anchorTime : Int)) / (periodNs t : Int)) % (2 ^ 48 : Int)).toNat

/-- The time of the boundary that begins the stitch of a time (R47, R49). -/
def boundaryOf (t : Time) (at_ : Nat) : Nat :=
  ((t.anchorTime : Int) + ((at_ : Int) - (t.anchorTime : Int)) / (periodNs t : Int) * (periodNs t : Int)).toNat

/-- The present time, ns TAI (R33). -/
def now (c : Chip) : Nat := c.time.tsc
/-- The stitch count at the present time. -/
def countNow (c : Chip) : Nat := countOf c.time c.time.tsc
/-- Bits 31:0 of a count: the stitch number (R47). -/
def stitchNo (n : Nat) : Nat := n % 2 ^ 32
/-! ### Free values -/

/-- A fresh free value, and the module with the counter advanced (DESIGN CHOICE, log 2). -/
def drawFree (c : Chip) : Word × Chip := (Config.free c.freeCtr, { c with freeCtr := c.freeCtr + 1 })

/-- A fresh serial number (the model's own, for naming issues and requests). -/
def drawSerial (c : Chip) : Nat × Chip := (c.serial, { c with serial := c.serial + 1 })

/-- Something leaves the module. -/
def send (e : OutEvent) (c : Chip) : Chip := { c with outbox := c.outbox ++ [e] }

/-! ### Dictionary values -/

/-- The key of an object's item. -/
def objKey (idx sub item : Nat) : Nat := (idx * 256 + sub) * 2 ^ 32 + item

/-- The present value of an object that holds one, for an item (R70, R106). -/
def obj (c : Chip) (idx sub : Nat) (item : Nat := 0) : Nat :=
  (tget none c.dict.vals (objKey idx sub item)).getD (objDflt idx sub)

/-- The module with an object's value set; the default value is held by an unlisted key. -/
def setObj (idx sub item v : Nat) (c : Chip) : Chip :=
  let v' := if v = objDflt idx sub then none else some v
  { c with dict := { c.dict with vals := tset none c.dict.vals (objKey idx sub item) v' } }

/-- A CNT object counts `n` more events and stops at its largest value (R78). -/
def bump (idx sub item n : Nat) (c : Chip) : Chip :=
  let w := 8 * ((objAt idx sub).map (·.size)).getD 4
  setObj idx sub item (satAdd w (obj c idx sub item) n) c

/-! ### The partition map's readings -/

/-- The map entry of a partition (R613). -/
def mapOf (c : Chip) (p : Nat) : MapEntry := tget {} c.map p
/-- Whether a partition is assigned (state 1). -/
def assigned (c : Chip) (p : Nat) : Bool := (mapOf c p).state == 1
/-- The partition numbers. -/
def parts16 : List Nat := span 0 16
/-- The partition that holds something the predicate finds in an entry. -/
def ownerBy (c : Chip) (f : MapEntry → Bool) : Option Nat :=
  parts16.find? fun p => let e := mapOf c p; e.state != 0 && f e

/-- Whether an entry holds a grove. -/
def holdsGrove (e : MapEntry) (g : Nat) : Bool := e.firstGrove ≤ g && g ≤ e.firstGrove + e.grovesM1
/-- The partition of a grove (R123). -/
def groveOwner (c : Chip) (g : Nat) : Option Nat := ownerBy c fun e => holdsGrove e g
/-- The partition of a queue. -/
def queueOwner (c : Chip) (q : Nat) : Option Nat := ownerBy c fun e => e.qFirst ≤ q && q < e.qFirst + e.qCount
/-- The partition of a budget account. -/
def acctOwner (c : Chip) (a : Nat) : Option Nat :=
  ownerBy c fun e => e.acctFirst ≤ a && a < e.acctFirst + 64 * e.acctN64
/-- The partition of a sequence slot. -/
def seqOwner (c : Chip) (a : Nat) : Option Nat :=
  ownerBy c fun e => e.seqFirst ≤ a && a < e.seqFirst + 64 * e.seqN64
/-- The partition of a KV slot. -/
def kvsOwner (c : Chip) (a : Nat) : Option Nat :=
  ownerBy c fun e => e.kvsFirst ≤ a && a < e.kvsFirst + 64 * e.kvsN64
/-- The partition that a virtual function serves (R159). -/
def vfOwner (c : Chip) (v : Nat) : Option Nat :=
  if v = 0 then none else parts16.find? fun p => let e := mapOf c p; e.state == 1 && e.vf == v
/-- The partition of a blaze number: within an allocation, or in a range still leaving one (R336, R339). -/
def blazeOwner (c : Chip) (n : Nat) : Option Nat :=
  match ownerBy c fun e => e.bzBase ≤ n && n < e.bzBase + e.bzCount with
  | some p => some p
  | none => (c.blz.shrink.find? fun r => r.first ≤ n && n < r.first + r.num).map (·.part)

/-! ### Harts, groves and tags -/

/-- A hart (R116). -/
def hart (c : Chip) (t : Nat) : Hart := tget {} c.harts t
/-- The module with a hart replaced. -/
def setHart (t : Nat) (h : Hart) (c : Chip) : Chip := { c with harts := tset {} c.harts t h }
/-- The module with a hart changed. -/
def modHart (t : Nat) (f : Hart → Hart) (c : Chip) : Chip := setHart t (f (hart c t)) c
/-- The grove of a global thread number (Table 04-4). -/
def groveOf (t : Nat) : Nat := t / 64
/-- A grove. -/
def grove (c : Chip) (g : Nat) : Grove := tget {} c.groves g
/-- The module with a grove replaced. -/
def setGrove (g : Nat) (v : Grove) (c : Chip) : Chip := { c with groves := tset {} c.groves g v }
/-- The module with a grove changed. -/
def modGrove (g : Nat) (f : Grove → Grove) (c : Chip) : Chip := setGrove g (f (grove c g)) c
/-- A tag by its module-wide name, grove x 256 + tag (Table 04-9). -/
def tagOf (c : Chip) (name : Nat) : Tag := tget {} (grove c (name / 256)).tags (name % 256)
/-- The module with a tag replaced. -/
def setTag (name : Nat) (v : Tag) (c : Chip) : Chip :=
  modGrove (name / 256) (fun g => { g with tags := tset {} g.tags (name % 256) v }) c
/-- The partition of a thread, through its grove (R123). -/
def threadPart (c : Chip) (t : Nat) : Option Nat := groveOwner c (groveOf t)

/-- A hart past an instruction of `n` bytes, which instret counts (Table 04-1; minstret is CSR 0xB02). -/
def advance (n : Nat) (h : Hart) : Hart :=
  { writeCsr 0xB02 (readCsr h 0xB02 + 1) h with pc := h.pc + BitVec.ofNat 64 n }
/-- A thread's instruction completes with a value in rd and the pc past it (RV64I). -/
def retire (t rd : Nat) (v : Word) (c : Chip) : Chip := modHart t (fun h => advance 4 (writeX rd v h)) c

/-! ### Module states and records -/

/-- Module state codes (Table 22-1). -/
def MState.off : Nat := 0
/-- BOOT. -/
def MState.boot : Nat := 1
/-- SELFTEST. -/
def MState.selftest : Nat := 2
/-- SCRUB. -/
def MState.scrub : Nat := 3
/-- READY. -/
def MState.ready : Nat := 4
/-- SERVICE. -/
def MState.service : Nat := 5
/-- DEGRADED. -/
def MState.degraded : Nat := 6
/-- FENCED. -/
def MState.fenced : Nat := 7
/-- MAINTENANCE. -/
def MState.maintenance : Nat := 8
/-- FAILED. -/
def MState.failed : Nat := 9

/-- Whether the module is in READY, SERVICE or DEGRADED. -/
def running (c : Chip) : Bool := 4 ≤ c.life.mstate && c.life.mstate ≤ 6

/-- The time stamp of a source's next record: the present time, or just above its last stamp (R37). -/
def stampFor (c : Chip) (src : Source) : Nat :=
  match tget none (c.flt.lastStamp.map fun e => (e.1, some e.2)) src.toNat with
  | none => now c
  | some l => if l < now c then now c else l + 1

/-- A record as a unit writes it at a time (Table 17-2, R709). -/
def mkRec (c : Chip) (src : Source) (st : Status) (part : Option Nat) (detail : List Nat) (at_ : Nat) : Rec :=
  { time := at_, module := c.moduleId, source := src, status := st, cls := classByte st, part := part
    count := countOf c.time at_, inc := c.life.incarnation.toNat % 2 ^ 16
    detail := (detail.map (· % 2 ^ 64) ++ List.replicate 5 0).take 5 }

/-- A unit writes a record: at most 64 a stitch, classes 5 and 7 and the report of R566 apart (R37, R563, R566). -/
def emitRaw (src : Source) (st : Status) (part : Option Nat) (detail : List Nat) (c : Chip) : Chip :=
  let k := classByte st
  let n := tget 0 c.flt.written src.toNat
  let counted := !(k == 5 || k == 7 || st == St.fltSuppressReport)
  if counted && 64 ≤ n then
    bump 0x3200 3 0 1 { c with flt := { c.flt with suppressed := tmod 0 c.flt.suppressed src.toNat (· + 1) } }
  else
    let at_ := stampFor c src
    let r := mkRec c src st part detail at_
    let c := { c with flt := { c.flt with
      inflight := c.flt.inflight ++ [r]
      lastStamp := tins c.flt.lastStamp src.toNat at_
      written := if counted then tset 0 c.flt.written src.toNat (n + 1) else c.flt.written } }
    if 2 ≤ k && k ≤ 8 then bump 0x3200 5 0 1 c else c

/-- A transition of the module state: START_STATE and STATE_SINCE (R674). -/
def enterState (new : Nat) (c : Chip) : Chip :=
  let old := c.life.mstate
  if old = new then c else
    let c := emitRaw (Src.cobbler 0) St.startState none [old + 256 * new] c
    { c with life := { c.life with mstate := new, since := now c } }

/-- A mismatch, or a class-4 to class-7 record of its own, restarts the shadow count (R584). -/
def shadowReset (c : Chip) : Chip :=
  let c := { c with flt := { c.flt with shadowSeen := true } }
  if c.flt.shadow = 0 || c.flt.shadowPassed then c else
    emitRaw Src.fault St.fltShadowReset none [] { c with flt := { c.flt with shadow := 0 } }

/-- A unit writes a record. A class-5 record moves READY or SERVICE to DEGRADED at once (R561); classes 4 to 7 restart
the shadow count (R584). -/
def emit (src : Source) (st : Status) (part : Option Nat) (detail : List Nat) (c : Chip) : Chip :=
  let c := emitRaw src st part detail c
  let k := classByte st
  let c := if 4 ≤ k && k ≤ 7 then shadowReset c else c
  if k == 5 && (c.life.mstate == MState.ready || c.life.mstate == MState.service) then enterState MState.degraded c else c

/-- A condition of class 7 is found; the command that found it ends with the sequence of R562. -/
def foundFatal (src : Source) (st : Status) (c : Chip) : Chip :=
  match c.flt.fatal with
  | some _ => c
  | none => { c with flt := { c.flt with fatal := some (src, st) } }

/-- A record's 64 bytes (Table 17-2). -/
def recBytes (r : Rec) : Bytes :=
  leBytes 8 r.time ++ leBytes 2 r.module ++ leBytes 2 r.source.toNat ++ leBytes 2 r.status.toNat ++ leBytes 1 r.cls ++
  leBytes 1 (match r.part with | none => 0 | some p => 128 + p) ++ leBytes 4 (stitchNo r.count) ++
  leBytes 2 (r.count / 2 ^ 32) ++ leBytes 2 r.inc ++ (r.detail.map (leBytes 8)).flatten

/-- The order of records (R65). -/
def recBefore (a b : Rec) : Bool :=
  decide (a.time < b.time) || (a.time == b.time && (decide (a.module < b.module) ||
    (a.module == b.module && decide (a.source.toNat < b.source.toNat))))

end Sys2Proof.Machine
end

