-- ==== Sys2Proof/Machine/Memory.lean ====
section
/-! DEFINITION. The memory tiers as bytes (R133, R271 to R277), error correction and poison (R278 to R283), the checks of
an access (R134, R135, R288, R293), Sv57 translation (R138 to R142) and taking a trap (R130, R131). -/
namespace Sys2Proof.Machine

/-! ### The local address map -/

/-- Tiers of the local address map (Table 04-6). -/
inductive Tier where
  | hbm | us | base | stand | grove | aliasWin | reg | reserved
deriving DecidableEq, Repr

/-- First local address of the understory. -/
def usBase : Nat := 0x8000000000
/-- First local address of base memory. -/
def baseBase : Nat := 0x10000000000
/-- First local address of stand memory. -/
def standBase : Nat := 0x10100000000
/-- First local address of grove memory. -/
def groveBase : Nat := 0x10200000000
/-- First address of the executing grove's own window. -/
def aliasBase : Nat := 0x10300000000
/-- First address of register space. -/
def regBase : Nat := 0xF0000000000
/-- Bytes of a grove's memory. -/
def groveBytes : Nat := 0x280000

/-- The tier of a local address (Table 04-6). -/
def tierOf (a : Nat) : Tier :=
  if a < usBase then .hbm
  else if a < baseBase then .us
  else if a < baseBase + 0x10000000 then .base
  else if standBase ≤ a && a < standBase + 0x8000000 then .stand
  else if groveBase ≤ a && a < groveBase + 0x40000000 then
    (if (a - groveBase) % 0x400000 < groveBytes then .grove else .reserved)
  else if aliasBase ≤ a && a < aliasBase + groveBytes then .aliasWin
  else if regBase ≤ a && a < 2 ^ 44 then .reg
  else .reserved

/-- The local address with the own-grove window replaced by the grove's slot (R134). -/
def unalias (g a : Nat) : Nat :=
  if tierOf a = .aliasWin then groveBase + g * 0x400000 + (a - aliasBase) else a

/-- The source number of the unit that holds a byte (Table 01-5, R272, R273). -/
def srcAt (a : Nat) : Source :=
  match tierOf a with
  | .hbm => Src.hbm ((bitsOf a 14 12 ^^^ bitsOf a 26 24) * 32 + bitsOf a 11 7)
  | .us => Src.us (bitsOf a 11 6 ^^^ bitsOf a 17 12)
  | .stand => Src.stand ((a - standBase) / 0x1000000)
  | .grove => Src.grove ((a - groveBase) / 0x400000)
  | _ => Src.baseMem

/-- The item of a DRAM channel in window group 0x5480. -/
def memchOf (a : Nat) : Nat :=
  match tierOf a with
  | .us => 256 + (bitsOf a 11 6 ^^^ bitsOf a 17 12)
  | _ => (bitsOf a 14 12 ^^^ bitsOf a 26 24) * 32 + bitsOf a 11 7

/-- Whether a tier is DRAM. -/
def isDram (a : Nat) : Bool := decide (a < baseBase)

/-! ### Bytes -/

/-- A byte of memory; a byte that nothing has written reads 0 (R291, R292 for DRAM; DESIGN CHOICE, log 4). -/
def memByte (c : Chip) (a : Nat) : Byte := tget 0 c.mem.bytes a
/-- `n` bytes from an address. -/
def memRead (c : Chip) (a : Nat) : Nat → Bytes
  | 0 => []
  | n + 1 => memByte c a :: memRead c (a + 1) n
/-- A little-endian number of `n` bytes from an address (R9). -/
def memNat (c : Chip) (a n : Nat) : Nat := leNat (memRead c a n)
/-- Whether the 64-bit word that holds a byte carries a poison tag. -/
def wordPoison (c : Chip) (a : Nat) : Bool := thas c.mem.poison (a / 8)
/-- Whether any word of a range carries a poison tag. -/
def rangePoison (c : Chip) (a n : Nat) : Bool :=
  (span (a / 8) ((a + n + 7) / 8 - a / 8)).any fun w => thas c.mem.poison w

/-- The byte table after bytes are stored in order (canonical form). -/
def putBytes : List Host.Cell → Nat → Bytes → List Host.Cell
  | m, _, [] => m
  | m, a, b :: bs => putBytes (tset 0 m a b) (a + 1) bs

/-- Poison tags after a write of `n` bytes: a word written whole is clean, or takes the tag `pois`; a word written in part
keeps a tag it has, and takes `pois` too (R282, R298). -/
def putPoison (p : Tbl Bool) (a n : Nat) (pois : Bool) : Tbl Bool :=
  forSpan (a / 8) ((a + n + 7) / 8 - a / 8) p fun p w =>
    if a ≤ w * 8 && w * 8 + 8 ≤ a + n then tput p w pois
    else tput p w (thas p w || pois)

/-- DRAM lines that a write turns into data (R291). -/
def putLines (l : Tbl Bool) (a n : Nat) : Tbl Bool :=
  if isDram a then forSpan (a / 64) ((a + n + 63) / 64 - a / 64) l fun l k => tput l k true else l

/-- Load reservations that a store to a range ends (R137, A extension). -/
def breakLr (hs : Tbl Hart) (a n : Nat) : Tbl Hart :=
  hs.map fun e => match e.2.lr with
    | some (la, ln) => if la < a + n && a < la + ln then (e.1, { e.2 with lr := none }) else e
    | none => e

/-- Harts stay in canonical form: a hart equal to the default is unlisted. -/
def normHarts (hs : Tbl Hart) : Tbl Hart := hs.filter fun e => decide (e.2 ≠ {})

/-- A write of bytes at a local address, with the poison tag it carries. -/
def memWrite (a : Nat) (bs : Bytes) (pois : Bool) (c : Chip) : Chip :=
  { c with
    mem := { c.mem with
      bytes := putBytes c.mem.bytes a bs
      poison := putPoison c.mem.poison a bs.length pois
      dataLines := putLines c.mem.dataLines a bs.length }
    harts := normHarts (breakLr c.harts a bs.length) }

/-- A range of memory returned to zero with correct error correction, its DRAM lines cleared lines (R291, R618). -/
def memClear (a n : Nat) (c : Chip) : Chip :=
  { c with mem := { c.mem with
      bytes := tdrop c.mem.bytes a (a + n)
      poison := tdrop c.mem.poison (a / 8) ((a + n + 7) / 8)
      dataLines := tdrop c.mem.dataLines (a / 64) ((a + n + 63) / 64) } }

/-! ### Error correction -/

/-- Whether an address lies in a structure whose loss is of class 7: the blaze file, the queue ledger, the KV page tables
or the serving records (R562, Table 08-2). -/
def vitalAt (c : Chip) (a : Nat) : Bool :=
  let off := a - baseBase
  (tierOf a == .base && ((0x05F00000 ≤ off && off < 0x07000000) || (0x08000000 ≤ off && off < 0x0B000000))) ||
  (tierOf a == .hbm && (let top := usBase - (0x1000000 + c.pool.size * 272)
    top - 522 * 0x100000 ≤ a && a < top))

/-- What follows from a finding of error correction at the word or line of a local address (R278 to R283). -/
def foundAt (a : Nat) (e : Found) (c : Chip) : Chip :=
  match e with
  | .corrected =>
    let src := srcAt a
    let c := { c with mem := { c.mem with corrected := tmod 0 c.mem.corrected src.toNat (· + 1) } }
    if isDram a then bump 0x5480 2 (memchOf a) 1 (bump 0x2200 9 0 1 c) else bump 0x2200 7 0 1 c
  | .bad syn =>
    let src := srcAt a
    let c :=
      if isDram a then
        let line := a / 64
        let c := { c with mem := { c.mem with
          poison := forSpan (line * 8) 8 c.mem.poison fun p w => tput p w true
          dataLines := tput c.mem.dataLines line true } }
        let c := bump 0x5480 3 (memchOf a) 1 (bump 0x2200 10 0 1 c)
        let c := setObj 0x5480 5 (memchOf a) (now c) (setObj 0x5480 4 (memchOf a) (line * 64) c)
        emit src St.memUncorrectable none [line * 64, syn.toNat % 2 ^ 48 + 2 ^ 63] c
      else
        let c := { c with mem := { c.mem with poison := tput c.mem.poison (a / 8) true } }
        emit src St.memUncorrectable none [a / 8 * 8, syn.toNat % 256] (bump 0x2200 8 0 1 c)
    if vitalAt c a then foundFatal src St.memUncorrectable c else c

/-- The bytes that one codeword protects at a local address: a line of DRAM or a word of SRAM (Table 08-3). -/
def eccUnit (a : Nat) : Nat := if isDram a then 64 else 8
/-- Whether a finding lies in a word or line that a range touches. -/
def foundIn (a n : Nat) (f : EccAt) : Bool :=
  let x := f.loc.toNat
  let u := eccUnit x
  a / u ≤ x / u && x / u * u < a + n
/-- The findings of error correction in the words and lines that a read of a range touches take effect. -/
def applyEcc (a n : Nat) (e : Ecc) (c : Chip) : Chip :=
  e.foldl (fun c f => if foundIn a n f then foundAt f.loc.toNat f.found c else c) c
/-- Whether a range meets an uncorrectable word or line. -/
def eccBad (a n : Nat) (e : Ecc) : Bool :=
  e.any fun f => foundIn a n f && match f.found with
    | .bad _ => true
    | .corrected => false
/-- Error correction at the words and lines that a write of a range covers in part and so reads first (R282). -/
def eccStore (a n : Nat) (e : Ecc) (c : Chip) : Chip :=
  e.foldl (fun c f =>
    let u := eccUnit f.loc.toNat
    let b := f.loc.toNat / u * u
    if foundIn a n f && !(a ≤ b && b + u ≤ a + n) then foundAt f.loc.toNat f.found c else c) c

/-! ### Checks of a local access -/

/-- Access kinds of a thread. -/
inductive Acc where
  | fetch | load | store
deriving DecidableEq, Repr

/-- Whether a 4 KiB block at a local address lies in a partition's allocation (R135, Table 19-1). -/
def blockIn (e : MapEntry) (execGrove : Option Nat) (a : Nat) : Bool :=
  e.state != 0 && match tierOf a with
  | .hbm => let r := a / 2 ^ 30; e.hbmBase ≤ r && r < e.hbmBase + e.hbmGib
  | .us => let r := (a - usBase) / 2 ^ 30; e.usBase ≤ r && r < e.usBase + e.usGib
  | .base => let m := (a - baseBase) / 2 ^ 20; m < 95 && e.bmOff ≤ m && m < e.bmOff + e.bmMib
  | .stand =>
    let s := (a - standBase) / 0x1000000
    let m := (a - standBase) % 0x1000000 / 2 ^ 20
    e.smOff ≤ m && m < e.smOff + e.smMib && e.firstGrove / 32 ≤ s && s ≤ (e.firstGrove + e.grovesM1) / 32
  | .grove => holdsGrove e ((a - groveBase) / 0x400000)
  | .aliasWin => match execGrove with
    | some g => holdsGrove e g
    | none => false
  | _ => false

/-- Whether a block is in the save areas of a partition's groves (R276, R277). -/
def blockSave (e : MapEntry) (a : Nat) : Bool :=
  let lo := baseBase + 0x0D000000
  lo ≤ a && a < baseBase + 0x10000000 && (let t := (a - lo) / 3072; holdsGrove e (t / 64) || holdsGrove e ((a + 4095 - lo) / 3072 / 64))

/-- The 4 KiB blocks that a range touches, by their first address. -/
def blocksOf (a n : Nat) : List Nat := (span (a / 4096) ((a + n + 4095) / 4096 - a / 4096)).map (· * 4096)

/-- The key-slot region of a DRAM address (R620). -/
def regionOf (a : Nat) : Nat := a / 2 ^ 30

/-- The checks of R134 and R135 of a physical access to the executing module: none where they pass, else the status. `m` is
an access of the shim in M mode. -/
def checkMap (c : Chip) (p : Option Nat) (g : Option Nat) (m : Bool) (a n : Nat) : Option Status :=
  let bl := blocksOf a n
  if !m && bl.any (fun b => tierOf b == .reg) then some St.addrRegisterSpace
  else if bl.any (fun b => tierOf b == .reserved) then some St.addrReserved
  else
    let ok (b : Nat) : Bool := match p with
      | some p => blockIn (mapOf c p) g b || (m && (tierOf b == .reg || blockSave (mapOf c p) b))
      | none => m && tierOf b == .reg
    if !(bl.all ok) then some St.addrPartViolation else none

/-- The checks of a physical access to the executing module in their order (R134, R135, R293, R288): none where it may be
performed, else the status. `m` is an access of the shim in M mode. -/
def checkLocal (c : Chip) (p : Option Nat) (g : Option Nat) (m : Bool) (a n : Nat) : Option Status :=
  let bl := blocksOf a n
  match checkMap c p g m a n with
  | some st => some st
  | none =>
    if bl.any (fun b => tierOf b == .us && !bitOf c.mem.usScrub ((b - usBase) / 2 ^ 30)) then some St.memNotScrubbed
    else if bl.any (fun b => isDram b && match p with
        | some p => (tget none (tget {} c.keys p).regions (regionOf b)).isNone
        | none => true) then some St.memKeyAbsent
    else none

/-- A refused access outside the allocation is counted (0x2000/5). -/
def countViolation (st : Status) (c : Chip) : Chip :=
  if st == St.addrPartViolation then bump 0x2000 5 0 1 c else c

/-! ### Traps -/

/-- A trap: cause, trap value, and the status for GV_XSTATUS where the cause carries one (R130). -/
structure Trap where
  cause : Nat
  tval : Nat
  xst : Option Status
  irq : Bool := false
deriving DecidableEq, Repr

/-- CSR numbers of the privileged architecture. -/
def Csr.sstatus : Nat := 0x100
/-- stvec. -/
def Csr.stvec : Nat := 0x105
/-- sepc. -/
def Csr.sepc : Nat := 0x141
/-- scause. -/
def Csr.scause : Nat := 0x142
/-- stval. -/
def Csr.stval : Nat := 0x143
/-- satp. -/
def Csr.satp : Nat := 0x180
/-- mstatus, which also holds the fields of sstatus. -/
def Csr.mstatus : Nat := 0x300
/-- mtvec. -/
def Csr.mtvec : Nat := 0x305
/-- mepc. -/
def Csr.mepc : Nat := 0x341
/-- mcause. -/
def Csr.mcause : Nat := 0x342
/-- mtval. -/
def Csr.mtval : Nat := 0x343

/-- A bit of a word set or clear. -/
def putBit (w : Word) (i : Nat) (b : Bool) : Word := BitVec.ofNat 64 (bitPut w.toNat i b)

/-- The pc that a trap vector gives: the base, and for an interrupt under vectored mode 4 x cause beyond it. -/
def trapPc (tvec : Word) (cause : Nat) (irq : Bool) : Word :=
  let base := BitVec.ofNat 64 (tvec.toNat / 4 * 4)
  if irq && tvec.toNat % 4 = 1 then base + BitVec.ofNat 64 (4 * cause) else base

/-- A hart takes a trap. From U and S mode it enters S mode, to which the shim delegates every exception (R130); in M mode
it enters M mode. The status stands in GV_XSTATUS. -/
def hartTrap (tr : Trap) (h : Hart) : Hart :=
  let code : Word := BitVec.ofNat 64 (tr.cause + if tr.irq then 2 ^ 63 else 0)
  let ms := readCsr h Csr.mstatus
  let h := match tr.xst with
    | some x => { h with xstatus := x }
    | none => h
  let h := { h with lr := none }
  if h.priv = 3 then
    let ms := putBit (putBit (putBit (putBit ms 7 (bitOf ms.toNat 3)) 3 false) 11 true) 12 true
    { (writeCsr Csr.mtval (BitVec.ofNat 64 tr.tval) (writeCsr Csr.mcause code
        (writeCsr Csr.mepc h.pc (writeCsr Csr.mstatus ms h)))) with
      pc := trapPc (readCsr h Csr.mtvec) tr.cause tr.irq }
  else
    let ms := putBit (putBit (putBit ms 5 (bitOf ms.toNat 1)) 1 false) 8 (h.priv == 1)
    { (writeCsr Csr.stval (BitVec.ofNat 64 tr.tval) (writeCsr Csr.scause code
        (writeCsr Csr.sepc h.pc (writeCsr Csr.mstatus ms h)))) with
      pc := trapPc (readCsr h Csr.stvec) tr.cause tr.irq, priv := 1 }

/-- A thread takes a trap; causes 24 count in EXT_FAULTS (R175), and cause 25 is noted for the pair (Table 16-7). -/
def takeTrap (t : Nat) (tr : Trap) (c : Chip) : Chip :=
  let c := modHart t (hartTrap tr) c
  let c := if tr.cause = 25 && !tr.irq then { c with pair := { c.pair with poisonTaken := true } } else c
  if tr.cause = 24 && !tr.irq then bump 0x2000 8 0 1 c else c

/-- What a READY hart does with its next instruction; a hart in any other state issues nothing (Table 04-2). An exception
of an earlier posted remote operation is taken in its place (R136, R202). -/
def hartDo (t : Nat) (f : Chip → Chip) (c : Chip) : Chip :=
  let h := hart c t
  if h.state = .ready then
    match h.pend with
    | [] => f c
    | (cause, tval, st) :: r => takeTrap t ⟨cause, tval, some st, false⟩ (setHart t { h with pend := r } c)
  else c

/-- An exception of a posted remote operation reaches its thread: at once where it is READY, else when it next is. -/
def postTrap (t cause tval : Nat) (st : Status) (c : Chip) : Chip :=
  let h := hart c t
  match h.state with
  | .empty => c
  | .ready => takeTrap t ⟨cause, tval, some st, false⟩ c
  | _ => setHart t { h with pend := h.pend ++ [(cause, tval, st)] } c

/-- The access-fault cause of an access kind (R130). -/
def accessCause : Acc → Nat
  | .fetch => 1
  | .load => 5
  | .store => 7
/-- The page-fault cause of an access kind. -/
def pageCause : Acc → Nat
  | .fetch => 12
  | .load => 13
  | .store => 15

/-! ### Translation -/

/-- The privilege that an access acts with (MPRV of the privileged architecture). -/
def effPriv (h : Hart) (k : Acc) : Nat :=
  let ms := (readCsr h Csr.mstatus).toNat
  if h.priv = 3 && bitOf ms 17 && k != .fetch then bitsOf ms 12 11 else h.priv

/-- Whether a page-table entry is malformed (R138): N, PBMT 3, reserved bits, V clear, or W without R. -/
def pteBad (e : Nat) : Bool :=
  bitOf e 63 || bitsOf e 62 61 == 3 || bitsOf e 60 54 != 0 || !bitOf e 0 || (bitOf e 2 && !bitOf e 1)

/-- Whether an entry is a leaf. -/
def pteLeaf (e : Nat) : Bool := bitOf e 1 || bitOf e 3

/-- Whether a leaf permits an access (privileged architecture; R138 for A and D). -/
def pteOk (h : Hart) (priv : Nat) (k : Acc) (e : Nat) : Bool :=
  let ms := (readCsr h Csr.mstatus).toNat
  let u := bitOf e 4
  bitOf e 6 &&
  (match k with
    | .fetch => bitOf e 3
    | .load => bitOf e 1 || (bitOf ms 19 && bitOf e 3)
    | .store => bitOf e 2 && bitOf e 7) &&
  (if priv = 0 then u else !u || (bitOf ms 18 && k != .fetch))

/-- A Sv57 walk from a level downward (R138, R139, R141): the leaf and its level, or the trap. -/
def walk (c : Chip) (p : Option Nat) (k : Acc) (va : Nat) : Nat → Nat → Except Trap (Nat × Nat)
  | 0, _ => .error ⟨pageCause k, va, none, false⟩
  | lvl + 1, ppn =>
    let ea := ppn * 4096 + bitsOf va (20 + 9 * lvl) (12 + 9 * lvl) * 8
    if ea / 2 ^ 44 ≠ c.moduleId then .error ⟨accessCause k, va, some St.addrPartViolation, false⟩
    else match checkLocal c p none false (ea % 2 ^ 44) 8 with
      | some st => .error ⟨accessCause k, va, some st, false⟩
      | none =>
        if rangePoison c (ea % 2 ^ 44) 8 then .error ⟨25, ea, some St.poisonConsumed, false⟩
        else
          let e := memNat c (ea % 2 ^ 44) 8
          if pteBad e then .error ⟨pageCause k, va, none, false⟩
          else if pteLeaf e then
            if bitsOf e 53 10 % 2 ^ (9 * lvl) ≠ 0 then .error ⟨pageCause k, va, none, false⟩ else .ok (e, lvl)
          else if bitsOf e 62 61 ≠ 0 then .error ⟨pageCause k, va, none, false⟩
          else walk c p k va lvl (bitsOf e 53 10)

/-- The physical address that a leaf gives. -/
def leafPa (e lvl va : Nat) : Nat :=
  bitsOf e 53 10 * 4096 / 2 ^ (12 + 9 * lvl) * 2 ^ (12 + 9 * lvl) + va % 2 ^ (12 + 9 * lvl)

/-- Whether a virtual address is canonical for Sv57. -/
def canonical (va : Nat) : Bool := va < 2 ^ 56 || 2 ^ 64 - 2 ^ 56 ≤ va

/-- The TLB entry that translates an address (R129). -/
def tlbFind (g : Grove) (asid va : Nat) : Option TlbEnt :=
  g.tlb.find? fun e => (e.asid == asid || bitOf e.pte 5) && va / 2 ^ (12 + 9 * e.level) * 2 ^ (9 * e.level) == e.vpn

/-- Translation of one address by a thread, with the TLB filled (R133, R138 to R142). -/
def xlate (t : Nat) (k : Acc) (va : Nat) (c : Chip) : Chip × Except Trap Nat :=
  let h := hart c t
  let priv := effPriv h k
  let satp := (readCsr h Csr.satp).toNat
  if priv = 3 || bitsOf satp 63 60 ≠ 10 then
    (c, if va < 2 ^ 56 then .ok va else .error ⟨accessCause k, va, some St.addrReserved, false⟩)
  else if !canonical va then (c, .error ⟨pageCause k, va, none, false⟩)
  else
    let asid := bitsOf satp 59 44
    let check (e lvl : Nat) : Except Trap Nat :=
      if pteOk h priv k e then .ok (leafPa e lvl va) else .error ⟨pageCause k, va, none, false⟩
    match tlbFind (grove c (groveOf t)) asid (va % 2 ^ 57) with
    | some e => (c, check e.pte e.level)
    | none =>
      match walk c (threadPart c t) k va 5 (bitsOf satp 43 0) with
      | .error tr => (c, .error tr)
      | .ok (e, lvl) =>
        let ent : TlbEnt := ⟨asid, va % 2 ^ 57 / 2 ^ (12 + 9 * lvl) * 2 ^ (9 * lvl), lvl, e⟩
        (modGrove (groveOf t) (fun g => { g with tlb := g.tlb ++ [ent] }) c, check e lvl)

/-- Translation of a range, page by page: the segments in order, or the first trap. -/
def xlateRange (t : Nat) (k : Acc) : Nat → Nat → Nat → Chip → Chip × Except Trap (List Seg)
  | 0, _, _, c => (c, .ok [])
  | fuel + 1, va, n, c =>
    if n = 0 then (c, .ok []) else
      let here := min n (4096 - va % 4096)
      match xlate t k va c with
      | (c, .error tr) => (c, .error tr)
      | (c, .ok pa) =>
        match xlateRange t k fuel ((va + here) % 2 ^ 64) (n - here) c with
        | (c, .error tr) => (c, .error tr)
        | (c, .ok r) => (c, .ok (⟨va, pa, here⟩ :: r))

/-- The pages that a range can touch: the fuel of `xlateRange`. -/
def pagesOf (n : Nat) : Nat := n / 4096 + 2

/-- Bytes read through segments of local memory. -/
def readSegs (c : Chip) (g : Nat) (ss : List Seg) : Bytes :=
  (ss.map fun s => memRead c (unalias g (s.pa % 2 ^ 44)) s.len).flatten
/-- Whether any word of the segments carries poison. -/
def poisonSegs (c : Chip) (g : Nat) (ss : List Seg) : Bool :=
  ss.any fun s => rangePoison c (unalias g (s.pa % 2 ^ 44)) s.len
/-- Bytes written through segments of local memory. -/
def writeSegs (g : Nat) : List Seg → Bytes → Bool → Chip → Chip
  | [], _, _, c => c
  | s :: r, bs, p, c => writeSegs g r (bs.drop s.len) p (memWrite (unalias g (s.pa % 2 ^ 44)) (bs.take s.len) p c)

/-- Whether every segment lies on the executing module. -/
def allLocal (c : Chip) (ss : List Seg) : Bool := ss.all fun s => s.pa / 2 ^ 44 == c.moduleId
/-- Whether every segment lies on one other module. -/
def allRemote (c : Chip) (ss : List Seg) : Bool :=
  match ss with
  | [] => false
  | s :: _ => s.pa / 2 ^ 44 != c.moduleId && ss.all fun x => x.pa / 2 ^ 44 == s.pa / 2 ^ 44

/-- The code of an access in several segments, which is checked as a whole: register space before a reserved address
before any other code (R134). -/
def wholeCode (l : List Status) : Option Status :=
  if l.contains St.addrRegisterSpace then some St.addrRegisterSpace
  else if l.contains St.addrReserved then some St.addrReserved else l.head?
/-- The checks of R134 and R135 of local segments. -/
def mapSegs (c : Chip) (t : Nat) (m : Bool) (ss : List Seg) : Option Status :=
  wholeCode <| ss.filterMap fun s => checkMap c (threadPart c t) (some (groveOf t)) m (s.pa % 2 ^ 44) s.len
/-- The checks of local segments (R134, R135, R293, R288). -/
def checkSegs (c : Chip) (t : Nat) (m : Bool) (ss : List Seg) : Option Status :=
  wholeCode <| ss.filterMap fun s => checkLocal c (threadPart c t) (some (groveOf t)) m (s.pa % 2 ^ 44) s.len

end Sys2Proof.Machine
end

