-- ==== Sys2Proof/Machine/Queue.lean ====
section
/-! DEFINITION. The queue engine (09): the cell pool, open packets, commit, rewind, pop, reset, dead letters. -/
namespace Sys2Proof.Machine

/-- A queue. -/
def queue (c : Chip) (q : Nat) : Queue := tget {} c.queues q
/-- The module with a queue replaced. -/
def setQueue (q : Nat) (v : Queue) (c : Chip) : Chip := { c with queues := tset {} c.queues q v }
/-- The module with a queue changed. -/
def modQueue (q : Nat) (f : Queue → Queue) (c : Chip) : Chip := setQueue q (f (queue c q)) c
/-- A cell's record and words. -/
def cell (c : Chip) (k : Nat) : CellRec := tget {} c.pool.cells k
/-- The module with a cell changed. -/
def modCell (k : Nat) (f : CellRec → CellRec) (c : Chip) : Chip :=
  { c with pool := { c.pool with cells := tmod {} c.pool.cells k f } }

/-- The cells that the engine may allocate, F (R312): all on the free list but the last 4,096. -/
def poolFree (c : Chip) : Nat := (c.pool.size - c.pool.fresh) + c.pool.freed.length - 4096
/-- A queue's shortfall s_q (R323). -/
def shortfall (q : Queue) : Nat := if q.enable then q.resv - q.held else 0
/-- S, the sum of the shortfalls of enabled queues (R323). -/
def poolShort (c : Chip) : Nat := c.queues.foldl (fun s e => s + shortfall e.2) 0
/-- The lowest local address of the pool region (R305). -/
def poolBase (c : Chip) : Nat := usBase - (0x1000000 + c.pool.size * 272)
/-- The local address of a word of a cell (R305). -/
def cellAddr (c : Chip) (k w : Nat) : Nat := poolBase c + 0x1000000 + c.pool.size * 16 + k * 256 + w * 8

/-- Cells from the head of the free list: those never used first, in ascending order (R312; DESIGN CHOICE, log 7). -/
def takeCells (n : Nat) (p : Pool) : List Nat × Pool :=
  let a := min n (p.size - p.fresh)
  (span p.fresh a ++ p.freed.take (n - a), { p with fresh := p.fresh + a, freed := p.freed.drop (n - a) })

/-- Cells linked in a row, the last to `last`. -/
def linkCells (p : Pool) : List Nat → Option Nat → Pool
  | [], _ => p
  | [k], last => { p with cells := tmod {} p.cells k fun r => { r with next := last } }
  | k :: k' :: r, last =>
    linkCells { p with cells := tmod {} p.cells k fun x => { x with next := some k' } } (k' :: r) last

/-- The cell at the tail of the free list. -/
def freeTail (p : Pool) : Option Nat :=
  match p.freed.getLast? with
  | some k => some k
  | none => if p.fresh < p.size then some (p.size - 1) else none

/-- One cell freed at the tail of the free list: FREE set, GEN incremented modulo 256 (R312). -/
def freeCell (k : Nat) (c : Chip) : Chip :=
  let p := c.pool
  let cells := match freeTail p with
    | some tl => tmod {} p.cells tl fun r => { r with next := some k }
    | none => p.cells
  { c with pool := { p with
    cells := tmod {} cells k fun r => { r with free := true, first := false, gen := (r.gen + 1) % 256, next := some 0 }
    freed := p.freed ++ [k] } }

/-- Cells freed in order. -/
def freeCells (ks : List Nat) (c : Chip) : Chip := ks.foldl (fun c k => freeCell k c) c

/-- The even parity bit of a word (R321). -/
def parityOf (w : Word) : Bool := (span 0 64).foldl (fun b i => b ^^ bitOf w.toNat i) false

/-- A word stored in a cell with its parity and its poison (R321, R322). -/
def putWord (k w : Nat) (v : Word) (pois : Bool) (c : Chip) : Chip :=
  modCell k (fun r => { r with
    words := tset 0 r.words w v, pois := bitPut r.pois w pois, parity := bitPut r.parity w (parityOf v) }) c

/-- The number of cells of a packet (Table 09-4). -/
def cellsFor (len : Nat) : Nat := ceilDiv len 32

/-- Whether a producer is a thread (R308). -/
def isThread : Producer → Bool
  | .thread _ => true
  | _ => false
/-- The open packet of a producer on a queue (R308). -/
def openOf (c : Chip) (pr : Producer) (q : Nat) : Option OpenPkt := c.opens.find? fun o => o.prod == pr && o.q == q
/-- Open packets of a producer over all queues. -/
def opensOf (c : Chip) (pr : Producer) : Nat := c.opens.countP fun o => o.prod == pr
/-- Open-packet records that engine producers use (R308). -/
def engineOpens (c : Chip) : Nat := c.opens.countP fun o => !isThread o.prod
/-- Packets open on a queue (OPEN of Table 09-2). -/
def openOn (c : Chip) (q : Nat) : Nat := c.opens.countP (fun o => o.q == q) + c.pair.inp.countP fun r => r.q == q

/-- The checks of a header in their order (R309). -/
def headerCheck (c : Chip) (pr : Producer) (q len : Nat) : Status :=
  let qu := queue c q
  let n := cellsFor len
  if qu.state = 2 then St.qReset
  else if qu.state ≠ 1 then St.qDisabled
  else if (if isThread pr then 4 ≤ opensOf c pr else 4096 ≤ engineOpens c) then St.qOpenLimit
  else if len = 0 || 8192 < len then St.qBadHeader
  else if qu.maxpkt < n then St.qPktTooLarge
  else if qu.cap < qu.held + n then St.qFull
  else if poolFree c - poolShort c < n - min n (shortfall qu) then St.qPoolEmpty
  else St.ok

/-- A refused header is counted. -/
def countRefusal (q : Nat) (st : Status) (c : Chip) : Chip :=
  let c := modQueue q (fun u => { u with refused := satAdd 32 u.refused 1 }) c
  if st == St.qFull then bump 0x2300 11 0 1 c else if st == St.qPoolEmpty then bump 0x2300 12 0 1 c else c

/-- A packet opens: its cells are taken, HELD rises, the header is word 0 (R309). -/
def openPkt (pr : Producer) (q : Nat) (hdr : Word) (pois : Bool) (c : Chip) : Chip :=
  let len := hdr.toNat % 65536
  let (ks, p) := takeCells (cellsFor len) c.pool
  let p := linkCells { p with cells := ks.foldl (fun t k => tmod {} t k fun r =>
      { r with free := false, first := false }) p.cells } ks (some 0)
  let c := { c with pool := p, opens := c.opens ++ [⟨pr, q, len, ks, 1⟩] }
  let c := modQueue q (fun u => { u with held := u.held + ks.length }) c
  match ks with
  | [] => c
  | k :: _ => putWord k 0 hdr pois (modCell k (fun r => { r with first := true }) c)

/-- The open packets without one. -/
def dropOpen (pr : Producer) (q : Nat) (c : Chip) : Chip :=
  { c with opens := c.opens.filter fun o => !(o.prod == pr && o.q == q) }

/-- A rewind: every cell freed, HELD lowered, the record removed, REWOUND counted (R313). -/
def rewind (o : OpenPkt) (c : Chip) : Chip :=
  let c := freeCells o.cells (dropOpen o.prod o.q c)
  bump 0x2300 9 0 1 (modQueue o.q (fun u => { u with held := u.held - o.cells.length }) c)

/-- The next word of an open packet (R310). -/
def pushWord (o : OpenPkt) (v : Word) (pois : Bool) (c : Chip) : Chip :=
  let c := putWord (nth 0 o.cells (o.written / 32)) (o.written % 32) v pois c
  { c with opens := c.opens.map fun x =>
    if x.prod == o.prod && x.q == o.q then { x with written := x.written + 1 } else x }

/-- The sequence number of the next packet committed to a queue in a stitch: how many were committed to it earlier in the
stitch, modulo 65,536 (R545). -/
def nextSeq (u : Queue) (count : Nat) : Nat := if u.seqAt = count then u.seqNext else 0

/-- A whole packet becomes the queue's last (R311, R317, R712). On a queue with WELT set DEPTH does not move. -/
def commitPkt (o : OpenPkt) (hard : Bool) (c : Chip) : Chip :=
  let n := countNow c
  let u := queue c o.q
  let c := { dropOpen o.prod o.q c with
    pool := { c.pool with cells := o.cells.foldl (fun t k => tmod {} t k fun r => { r with stitch := stitchNo n }) c.pool.cells } }
  let c := match u.pkts.getLast?, o.cells.head? with
    | some _, some k => modCell u.tailCell (fun r => { r with next := some k }) c
    | _, _ => c
  let c := setQueue o.q { u with
    pkts := u.pkts ++ [⟨o.cells, o.len, n, !u.welt, hard, nextSeq u n⟩]
    tailCell := o.cells.getLast?.getD u.tailCell
    depth := if u.welt then u.depth else u.depth + o.len
    seqAt := n
    seqNext := (nextSeq u n + 1) % 65536
    commits := satAdd 32 u.commits 1 } c
  bump 0x2300 7 0 o.len c

/-- A packet on a WELT queue becomes poppable: its words join DEPTH (R712). -/
def makePoppable (q seq count : Nat) (c : Chip) : Chip :=
  modQueue q (fun u =>
    match u.pkts.find? fun p => p.count = count && p.seq = seq && !p.poppable with
    | none => u
    | some p => { u with
      depth := u.depth + p.len
      pkts := u.pkts.map fun x => if x.count = count && x.seq = seq then { x with poppable := true } else x }) c

/-- A committed packet removed whole from a queue: delivered by the welt, or discarded (R57, R548, R568). -/
def removePkt (q count seq : Nat) (c : Chip) : Chip :=
  let u := queue c q
  match u.pkts.find? fun p => p.count = count && p.seq = seq with
  | none => c
  | some p =>
    let isHead := match u.pkts.head? with
      | some h => h.count = count && h.seq = seq
      | none => false
    let left := if isHead then p.cells.drop (u.popped / 32) else p.cells
    let c := setQueue q { u with
      pkts := u.pkts.filter fun x => !(x.count = count && x.seq = seq)
      held := u.held - left.length
      depth := if p.poppable then u.depth - (p.len - if isHead then u.popped else 0) else u.depth
      popped := if isHead then 0 else u.popped
      bound := if isHead then none else u.bound } c
    freeCells left c

/-- The words of a committed packet with their poison. -/
def pktWords (c : Chip) (p : QPkt) : List (Word × Bool) :=
  (span 0 p.len).map fun i => let r := cell c (nth 0 p.cells (i / 32)); (tget 0 r.words (i % 32), bitOf r.pois (i % 32))

/-- A whole packet from an engine producer: the header's checks, the words, the commit, or the rewind of a packet that
the producer marks bad (R315). -/
def enginePutAs (hard : Bool) (src : Source) (q : Nat) (ws : List (Word × Bool)) (bad : Bool) (c : Chip) : Status × Chip :=
  match ws with
  | [] => (St.qBadHeader, c)
  | (hdr, hp) :: rest =>
    let st := headerCheck c (.engine src) q (hdr.toNat % 65536)
    if st ≠ St.ok then (st, countRefusal q st c)
    else
      let c := openPkt (.engine src) q hdr hp c
      let c := rest.foldl (fun c w => match openOf c (.engine src) q with
        | some o => if o.written < o.len then pushWord o w.1 w.2 c else c
        | none => c) c
      match openOf c (.engine src) q with
      | none => (St.ok, c)
      | some o => if bad || o.written < o.len then (St.ok, rewind o c) else (St.ok, commitPkt o hard c)

/-- A whole packet from an engine producer that no hard-class thread answers for. -/
def enginePut (src : Source) (q : Nat) (ws : List (Word × Bool)) (bad : Bool) (c : Chip) : Status × Chip :=
  enginePutAs false src q ws bad c

/-- The rest of a queue's head packet that readers may pop, taken whole by an engine reader (R410, R430, R459). -/
def headPacket (c : Chip) (q : Nat) : Option (List Word) :=
  let u := queue c q
  match u.pkts with
  | [] => none
  | p :: _ => if u.state = 1 && p.poppable && u.bound.isNone then
      some (((pktWords c p).drop u.popped).map (·.1)) else none

/-- The head packet leaves its queue. -/
def dropHead (q : Nat) (c : Chip) : Chip :=
  match (queue c q).pkts with
  | [] => c
  | p :: _ => bump 0x2300 8 0 (p.len - (queue c q).popped) (removePkt q p.count p.seq c)

/-- A word tag (Table 09-5). -/
def wordTag (stitch gen word : Nat) (stopped boundOther last pois valid : Bool) : Word :=
  BitVec.ofNat 64 (stitch * 2 ^ 32 + gen * 2 ^ 24 + word * 64 + b2n stopped * 16 + b2n boundOther * 8 + b2n last * 4 +
    b2n pois * 2 + b2n valid)

/-- A pop by a thread: the word, its tag and the module after it (R316 to R318, R322). -/
def popWord (t q : Nat) (parityBad : Bool) (ecc : Ecc) (c : Chip) : Word × Word × Chip :=
  let u := queue c q
  if u.state ≠ 1 then (0, wordTag 0 0 0 true false false false false, c)
  else if u.depth = 0 then (0, 0, c)
  else if (match u.bound with | some b => b != t | none => false) then (0, wordTag 0 0 0 false true false false false, c)
  else match u.pkts with
    | [] => (0, 0, c)
    | p :: rest =>
      let i := u.popped
      let k := nth 0 p.cells (i / 32)
      let r := cell c k
      let wa := cellAddr c k (i % 32)
      let lost := eccBad wa 8 ecc
      let c := applyEcc wa 8 ecc c
      let last := i + 1 = p.len
      let (v, c) := if parityBad then drawFree c else (tget 0 r.words (i % 32), c)
      let c := if parityBad then
          emit Src.queue St.qParity (queueOwner c q) [q, k, r.gen, i] (bump 0x2300 10 0 1 c) else c
      let tag := wordTag r.stitch r.gen i false false last (bitOf r.pois (i % 32) || parityBad || lost) true
      let cellDone := i % 32 = 31 || last
      let c := setQueue q { u with
        depth := u.depth - 1
        popped := if last then 0 else i + 1
        pkts := if last then rest else u.pkts
        held := if cellDone then u.held - 1 else u.held
        bound := if last then none else if i = 0 then some t else match u.bound with | some b => some b | none => some t } c
      let c := if cellDone then freeCell k c else c
      (v, tag, bump 0x2300 8 0 1 c)

/-- A queue's binding is released and recorded (R319). -/
def releaseBound (q : Nat) (c : Chip) : Chip :=
  let u := queue c q
  match u.bound with
  | none => c
  | some _ => emit Src.queue St.qReaderReleased (queueOwner c q) [q, u.popped] (setQueue q { u with bound := none } c)

/-- Words of a queue's committed packets that nobody has popped. -/
def undelivered (u : Queue) : Nat := (u.pkts.foldl (fun s p => s + p.len) 0) - u.popped

/-- A queue reset begins: RESETTING, open packets rewound, the binding released, cells freed (R329, R330, R333). -/
def startReset (q : Nat) (c : Chip) : Chip :=
  let u := queue c q
  if u.state = 2 then c else
    let c := modQueue q (fun u => { u with state := 2 }) c
    let os := c.opens.filter fun o => o.q == q
    let c := os.foldl (fun c o =>
      let c := rewind o c
      match o.prod with
      | .thread t => modHart t (fun h => { h with rewound := if h.rewound.contains q then h.rewound else h.rewound ++ [q] }) c
      | _ => c) c
    let c := (c.pair.inp.filter fun r => r.q == q).foldl (fun c r =>
      bump 0x2300 9 0 1 (modQueue q (fun u => { u with held := u.held - r.pkt.cells.length }) (freeCells r.pkt.cells c))) c
    let c := { c with pair := { c.pair with
      inp := c.pair.inp.filter fun r => r.q != q
      eg := c.pair.eg.filter fun r => r.q != q } }
    let c := releaseBound q c
    let u := queue c q
    let cells := match u.pkts with
      | [] => []
      | p :: r => p.cells.drop (u.popped / 32) ++ (r.map (·.cells)).flatten
    let c := setQueue q { u with pkts := [], popped := 0, held := u.held - cells.length, depth := 0, discarded := undelivered u } c
    freeCells cells c

/-- A queue reset ends (R329): DEPTH and HELD 0, STATE from ENABLE, the event record. -/
def finishReset (q : Nat) (c : Chip) : Chip :=
  let u := queue c q
  if u.state ≠ 2 then c else
    emit Src.queue St.qResetDone (queueOwner c q) [q, u.discarded]
      (setQueue q { u with depth := 0, held := 0, discarded := 0, state := if u.enable then 1 else 0 } c)

/-- QCNT's register (R320). -/
def countWord (u : Queue) : Word := BitVec.ofNat 64 (u.state * 2 ^ 62 + u.held % 2 ^ 26 * 2 ^ 32 + u.depth % 2 ^ 32)

/-- A refused message goes to the dead-letter queue of the partition it names, or is discarded and recorded (R327, R328,
Table 09-6). -/
def deadLetter (p : Nat) (sender : Nat) (src : Source) (st : Status) (msg : List (Word × Bool)) (c : Chip) : Chip :=
  let body := msg.take 32
  let len := 2 + max 1 body.length
  let w0 : Word := BitVec.ofNat 64 (sender * 2 ^ 48 + src.toNat * 2 ^ 32 + st.toNat * 65536 + len)
  let w1 : Word := BitVec.ofNat 64 (now c)
  let dlq := obj c 0x2301 (p + 1)
  let lost (c : Chip) : Chip :=
    emit Src.queue St.qDlqOverflow (some p) [w0.toNat, w1.toNat] (bump 0x2300 14 0 1 c)
  if dlq = 0xFFFFFFFF || 1048576 ≤ dlq then lost c
  else
    let ws := (w0, false) :: (w1, false) :: (if body.isEmpty then [((0 : Word), false)] else body)
    match enginePut Src.queue dlq ws false c with
    | (st', c') => if st' = St.ok then bump 0x2300 13 0 1 c' else lost c'

/-- A cell record's 16 bytes (Table 09-3). -/
def cellRecBytes (k : Nat) (r : CellRec) : Bytes :=
  leBytes 16 (r.stitch * 2 ^ 96 + r.parity % 2 ^ 32 * 2 ^ 64 + r.gen * 2 ^ 56 + b2n r.first * 2 ^ 28 + b2n r.free * 2 ^ 27 +
    (r.next.getD (k + 1)) % 2 ^ 26)

end Sys2Proof.Machine
end

