-- ==== Sys2Proof/Machine/Threads.lean ====
section
/-! DEFINITION. Harts and tags as shared operations: taking, completing, aborting and reaping a tag (R152 to R157, R178,
R191), licence held by a thread (R192 to R195), and stopping a thread (R128, R195, R200, R319). -/
namespace Sys2Proof.Machine

/-- Tags of a grove that a thread holds, by number. -/
def tagsHeldBy (c : Chip) (t : Nat) : List Nat :=
  ((grove c (groveOf t)).tags.filter fun e => e.2.state != .free && e.2.owner == t).map (·.1)
/-- Whether a thread has a tag still ISSUED. -/
def hasIssued (c : Chip) (t : Nat) : Bool :=
  (grove c (groveOf t)).tags.any fun e => e.2.state == .issued && e.2.owner == t

/-- The lowest FREE tag of a grove (R152). -/
def lowestFree (g : Grove) : Nat → Nat → Option Nat
  | 0, _ => none
  | n + 1, k => if (tget ({} : Tag) g.tags k).state = .free then some k else lowestFree g n (k + 1)

/-- The tag that an asynchronous instruction may take: one FREE in the grove, and the thread below its quota (R152). -/
def takeable (c : Chip) (t : Nat) : Option Nat :=
  if (tagsHeldBy c t).length < (hart c t).quota then lowestFree (grove c (groveOf t)) 256 0 else none

/-- The value that a tag-taking instruction returns when it takes none (R173). -/
def noTagWord : Word := 0x8000000000000210
/-- The value of TTEST on an ISSUED tag (R174). -/
def issuedWord : Word := 0x8000000000000000
/-- A completion word (R174). -/
def completionWord (tg : Tag) : Word := BitVec.ofNat 64 (tg.status.toNat + tg.result % 2 ^ 32 * 65536)

/-- A tag is taken for an operation at a cost, which joins IN_USE (R152, R191); its name. -/
def issueTag (t k cost : Nat) (op : TagOp) (c : Chip) : Nat × Chip :=
  let name := groveOf t * 256 + k
  let (sn, c) := drawSerial c
  let c := setTag name { state := .issued, owner := t, cost := cost, serial := sn, op := op } c
  (name, modHart t (fun h => { h with inUse := h.inUse + cost }) c)

/-- A stalled hart goes on; one that the shim or a boundary stopped meanwhile goes on when it is let (Table 04-2). -/
def unstall (h : Hart) : Hart :=
  if h.state = .stalled then { h with state := .ready, wait := .none }
  else if h.resume = .stalled then { h with resume := .ready, wait := .none }
  else { h with wait := .none }

/-- A thread stalled on a tag that is now DONE becomes READY with the completion word; a reaping wait frees the tag
(R156, R178). -/
def wakeTag (name : Nat) (c : Chip) : Chip :=
  let tg := tagOf c name
  let h := hart c tg.owner
  match h.wait with
  | .tag k rd reap =>
    if k = name then
      let c := setHart tg.owner (unstall (advance 4 (writeX rd (completionWord tg) h))) c
      if reap then setTag name {} c else c
    else c
  | _ => c

/-- A sample record whose operation tag has left ISSUED (R668). -/
def markSample (name serial : Nat) (st : Status) (x : Sample) : Sample :=
  if x.tag == some (name, serial) then { x with fin := some st } else x

/-- A tag leaves ISSUED: its cost returns, it holds its status and result, and its owner wakes (R155 to R157, R191). -/
def finishTag (name : Nat) (st : Status) (result : Nat) (c : Chip) : Chip :=
  let tg := tagOf c name
  if tg.state ≠ .issued then c else
    let c := setTag name { tg with state := .done, status := st, result := min result 0xFFFFFFFF, cost := 0 } c
    let c := modGrove (name / 256) (fun g => { g with order := g.order.filter (· != name % 256) }) c
    let c := modHart tg.owner (fun h => { h with inUse := h.inUse - tg.cost }) c
    let c := { c with ctr := { c.ctr with samples := c.ctr.samples.map (markSample name tg.serial st) } }
    wakeTag name c

/-- Waiting licence requests of a tag leave the wait order (R597). -/
def dropWaits (name : Nat) (c : Chip) : Chip :=
  { c with pwr := { c.pwr with waits := c.pwr.waits.filter fun w => match w.tag with
    | some (n, s) => !(n == name && s == (tagOf c name).serial)
    | none => true } }

/-- An abort: an ISSUED tag becomes DONE with TAG_ABORTED; effects already performed stay (R155). -/
def abortTag (name : Nat) (c : Chip) : Chip := finishTag name St.tagAborted 0 (dropWaits name c)

/-- Every ISSUED tag of a thread aborted. -/
def abortTags (t : Nat) (c : Chip) : Chip :=
  (tagsHeldBy c t).foldl (fun c k => abortTag (groveOf t * 256 + k) c) c
/-- Every tag of a thread reaped. -/
def reapTags (t : Nat) (c : Chip) : Chip :=
  (tagsHeldBy c t).foldl (fun c k => setTag (groveOf t * 256 + k) {} c) c

/-- Watts of RES_HELD go back to the partition's reservation balance (R192, R194, R195). -/
def returnRes (p : Option Nat) (w : Nat) (c : Chip) : Chip :=
  match p with
  | some p => { c with pwr := { c.pwr with resBal := tmod 0 c.pwr.resBal p (· + w) } }
  | none => c

/-- All licence of a thread is released (R195). -/
def releaseAll (t : Nat) (c : Chip) : Chip :=
  let h := hart c t
  setHart t { h with held := 0, resHeld := 0 } (returnRes (threadPart c t) h.resHeld c)

/-- Every packet that a thread holds open is rewound (R200). -/
def rewindThread (t : Nat) (c : Chip) : Chip :=
  (c.opens.filter fun o => o.prod == .thread t).foldl (fun c o => rewind o c) c

/-- Every binding of a thread is released (R319). -/
def releaseBindings (t : Nat) (c : Chip) : Chip :=
  (c.queues.filter fun e => e.2.bound == some t).foldl (fun c e => releaseBound e.1 c) c

/-- A thread stops: its tags are aborted and reaped, its packets rewound, its bindings and its licence released, and it is
EMPTY (R128, R195, R200, R319, R597). -/
def stopThread (t : Nat) (c : Chip) : Chip :=
  setHart t {} (releaseAll t (releaseBindings t (rewindThread t (reapTags t (abortTags t c)))))

/-- The loaded threads of a partition's groves. -/
def threadsOf (c : Chip) (p : Nat) : List Nat :=
  (c.harts.filter fun e => holdsGrove (mapOf c p) (groveOf e.1) && (mapOf c p).state != 0).map (·.1)

/-- A custom exception of the grove extension: cause 24 with its status (R172, R175). -/
def extFault (t : Nat) (insn : Nat) (st : Status) (c : Chip) : Chip :=
  takeTrap t ⟨24, insn, some st, false⟩ (countViolation st c)

end Sys2Proof.Machine
end

