-- ==== Sys2Proof/Machine/Blaze.lean ====
section
/-! DEFINITION. The blaze file (10): sets, clears, wakes, underflows, images, shrinking and the dump. -/
namespace Sys2Proof.Machine

/-- A blaze's entry. -/
def blaze (c : Chip) (n : Nat) : Blaze := tget {} c.blz.entries n
/-- The module with an entry replaced. -/
def setBlazeEnt (n : Nat) (b : Blaze) (c : Chip) : Chip :=
  { c with blz := { c.blz with entries := tset {} c.blz.entries n b } }

/-- An agent's identity (Table 10-2). -/
def agentId (c : Chip) (cls who : Nat) : Nat := c.moduleId * 2 ^ 20 + cls * 2 ^ 16 + who
/-- The identity of a thread. -/
def threadId (c : Chip) (t : Nat) : Nat := agentId c 1 t
/-- The identity of a unit by its source number. -/
def unitId (c : Chip) (s : Source) : Nat := agentId c (s.toNat / 4096) (s.toNat % 4096)

/-- Threads asleep on a blaze, with rd, whether BWAITC, and since when. -/
def sleepers (c : Chip) (n : Nat) : List (Nat × Nat × Bool × Nat) :=
  c.harts.filterMap fun e => match e.2.state, e.2.wait with
    | .sleepBlaze, .blaze m rd clr since => if m = n then some (e.1, rd, clr, since) else none
    | _, _ => none

/-- A sleeping thread wakes with a value in rd (R204, R205). -/
def wakeBlaze (t rd : Nat) (v : Word) (c : Chip) : Chip :=
  modHart t (fun h => { (advance 4 (writeX rd v h)) with state := .ready, wait := .none }) c

/-- A clear that takes effect (R341). -/
def clearBlaze (n who : Nat) (c : Chip) : Chip :=
  setBlazeEnt n { blaze c n with set := false, setCount := 0, lastClrId := who, lastClrTime := now c } c

/-- The BWAITC sleeper that a set wakes: the longest asleep, then the lowest thread number (R205). -/
def oldest : List (Nat × Nat × Bool × Nat) → Option (Nat × Nat × Bool × Nat)
  | [] => none
  | s :: r => match oldest r with
    | none => some s
    | some x => if x.2.2.2 < s.2.2.2 then some x else some s

/-- The wakes that follow a set (R344): every BWAIT sleeper, and one BWAITC sleeper that takes the set. -/
def wakeSleepers (n : Nat) (c : Chip) : Chip :=
  let ss := sleepers c n
  let c := (ss.filter fun s => !s.2.2.1).foldl (fun c s => wakeBlaze s.1 s.2.1 1 c) c
  match oldest (ss.filter fun s => s.2.2.1) with
  | none => c
  | some s => clearBlaze n (threadId c s.1) (wakeBlaze s.1 s.2.1 1 c)

/-- A vector of a VF is sent, or marked pending while its table entry is masked (Table 04-12). -/
def sendMsix (v k : Nat) (c : Chip) : Chip :=
  if bitOf (tget (0 : Word) c.host.msixTable (v * 64 + k * 4 + 3)).toNat 0 then
    { c with host := { c.host with msixPend := tput c.host.msixPend (v * 16 + k) true } }
  else send (.msix v k) c

/-- The vectors bound to a blaze index of a partition are sent (R161). -/
def boundMsix (p index : Nat) (c : Chip) : Chip :=
  let v := (mapOf c p).vf
  if v = 0 then c else
    forSpan 0 16 c fun c k => if obj c 0x50C0 6 ((v - 1) * 16 + k) = index then sendMsix v k c else c

/-- A set of a blaze by number (R341): the entry, the bound vector on a change from clear to set, the wakes. -/
def setBlaze (n who : Nat) (c : Chip) : Chip :=
  let b := blaze c n
  let was := b.set
  let c := setBlazeEnt n { b with set := true, setCount := min 0xFFFF (b.setCount + 1), lastSetId := who, lastSetTime := now c } c
  let c := if was then c else match blazeOwner c n with
    | some p => boundMsix p (n - (mapOf c p).bzBase) c
    | none => c
  wakeSleepers n c

/-- A set that is discarded is counted and recorded (R339, R350, R351). -/
def refuseSet (p : Option Nat) (index who : Nat) (reason : Status) (c : Chip) : Chip :=
  emit Src.blaze St.bzSetRefused p [who, index, reason.toNat] (bump 0x2400 5 0 1 c)

/-- A set by index in a partition's allocation, checked when it is performed (R337, R339, R351). -/
def setByIndex (p index who : Nat) (c : Chip) : Chip :=
  let e := mapOf c p
  if e.state = 1 && index < e.bzCount then setBlaze (e.bzBase + index) who c
  else refuseSet (some p) index who St.addrPartViolation c

/-- A set by an engine on a configured index; 0xFFFF names none. -/
def engineSet (p index : Nat) (src : Source) (c : Chip) : Chip :=
  if index = 0xFFFF then c else setByIndex p index (unitId c src) c

/-- The blaze number behind an index for an instruction: within COUNT, or in the partition's range still leaving its
allocation (R201, R339 clause 2). -/
def blazeAt (c : Chip) (p index : Nat) : Option Nat :=
  let e := mapOf c p
  if e.state != 0 && index < e.bzCount then some (e.bzBase + index)
  else (c.blz.shrink.find? fun r => r.part == p && r.index ≤ index && index < r.index + r.num).map fun r =>
    r.first + (index - r.index)

/-- A clear of a clear blaze: counted, and recorded at most once a stitch (R347, R348, Table 17-10). -/
def underflow (n index p who : Nat) (c : Chip) : Chip :=
  let b := blaze c n
  let c := bump 0x2400 3 0 1 c
  let uf := min 0xFFFF (b.underflows + 1)
  if b.recAt = some (countNow c) then setBlazeEnt n { b with underflows := uf, further := b.further + 1 } c
  else
    let d := [n + index * 65536 + p * 2 ^ 32, who + b.lastClrId * 2 ^ 32, b.lastClrTime, b.lastSetId + b.further * 2 ^ 32, b.lastSetTime]
    emit Src.blaze St.bzUnderflow (some p) d
      (setBlazeEnt n { b with underflows := uf, recAt := some (countNow c), further := 0 } c)

/-- An entry's 32 bytes (Table 10-1). -/
def blazeBytes (c : Chip) (n : Nat) : Bytes :=
  let b := blaze c n
  let own := blazeOwner c n
  leBytes 32 (b.lastClrId * 2 ^ 224 + b.lastSetId * 2 ^ 192 + b.lastClrTime * 2 ^ 128 + b.lastSetTime * 2 ^ 64 +
    b.setCount * 2 ^ 48 + b.underflows * 2 ^ 32 + (sleepers c n).length % 2 ^ 15 * 2 ^ 17 + (own.getD 0) * 256 +
    b2n own.isSome * 128 + b2n b.set)

/-- The image of a partition's blazes, one half: COUNT_AT, ICOUNT, BITS from an index on (Table 10-3). -/
def imageHalf (c : Chip) (p half : Nat) : Nat :=
  let e := mapOf c p
  let bits := forSpan 0 384 0 fun acc i =>
    if half * 384 + i < e.bzCount && (blaze c (e.bzBase + half * 384 + i)).set then acc + 2 ^ i else acc
  countNow c % 2 ^ 48 + e.bzCount * 2 ^ 64 + bits * 2 ^ 128

/-- The local address of an image half (Table 10-3). -/
def imageAddr (p half : Nat) : Nat := baseBase + 0x05F04000 + half * 0x400 + p * 64

/-- A partition's image is taken into IMG_DATA and base memory (R353). -/
def takeImage (p : Nat) (c : Chip) : Chip :=
  let put (c : Chip) (half : Nat) : Chip :=
    let v := imageHalf c p half
    memWrite (imageAddr p half) (leBytes 64 v) false (setObj 0x5501 2 (p * 2 + half) v c)
  let c := put c 0
  let c := if 384 < (mapOf c p).bzCount then put c 1 else c
  emit Src.blaze St.bzSnapshot (some p) [p, countNow c] c

/-- Bit `i` of a partition's image as it stands in IMG_DATA. -/
def imageBit (c : Chip) (p i : Nat) : Bool := bitOf (obj c 0x5501 2 (p * 2 + i / 384)) (128 + i % 384)

/-- Whether an image fits the present allocation (R354). -/
def imageFits (c : Chip) (p : Nat) : Bool :=
  let n := (mapOf c p).bzCount
  let ic (half : Nat) := bitsOf (obj c 0x5501 2 (p * 2 + half)) 79 64
  ic 0 == n && (n ≤ 384 || ic 1 == n) &&
  (span 0 768).all fun i => !(n ≤ i && (i < 384 || 384 < n) && imageBit c p i)

/-- A partition's blazes are set and cleared as an image gives them (R354): sets are sets, clears carry the file's own
identity. -/
def applyBits (p : Nat) (bit : Nat → Bool) (c : Chip) : Chip :=
  let e := mapOf c p
  let me := unitId c Src.blaze
  forSpan 0 e.bzCount c fun c i =>
    let n := e.bzBase + i
    if bit i then setBlaze n me c
    else if (blaze c n).set then clearBlaze n me c else c

/-- A partition's image in IMG_DATA is applied (R354, R582). -/
def applyImage (p : Nat) (c : Chip) : Chip := applyBits p (imageBit c p) c

/-- A saved image of two halves is applied (R578, R580). -/
def applySaved (p : Nat) (img : Bytes) (c : Chip) : Chip :=
  let a := leNat (img.take 64)
  let b := leNat ((img.drop 64).take 64)
  applyBits p (fun i => if i < 384 then bitOf a (128 + i) else bitOf b (128 + (i - 384))) c

/-- The event of a restore (R354). -/
def restoredEvent (p : Nat) (c : Chip) : Chip :=
  emit Src.blaze St.bzRestored (some p) [p, obj c 0x5501 2 (p * 2) % 2 ^ 48] c

/-- Every blaze of an allocation cleared by the file itself (step 5 of R568). -/
def clearAlloc (p : Nat) (c : Chip) : Chip :=
  let e := mapOf c p
  forSpan 0 e.bzCount c fun c i =>
    if (blaze c (e.bzBase + i)).set then clearBlaze (e.bzBase + i) (unitId c Src.blaze) c else c

/-- Entries of a range of numbers returned to their reset values (R339, R340). -/
def resetBlazes (first num : Nat) (c : Chip) : Chip :=
  { c with blz := { c.blz with entries := tdrop c.blz.entries first (first + num) } }

/-- Ranges that every blaze of has become clear leave the allocation at a boundary (R339). -/
def shrinkDone (c : Chip) : Chip :=
  c.blz.shrink.foldl (fun c r =>
    if (span r.first r.num).all fun n => !(blaze c n).set then
      let c := resetBlazes r.first r.num c
      let c := { c with blz := { c.blz with shrink := c.blz.shrink.filter (· != r) } }
      emit Src.blaze St.bzShrinkDone (some r.part) [r.part, r.first, r.num] c
    else c) c

/-- Every blaze sleep ends at a boundary with rd = 0 (R346). -/
def wakeAllBlaze (c : Chip) : Chip :=
  (c.harts.filter fun e => e.2.state == .sleepBlaze).foldl (fun c e => match e.2.wait with
    | .blaze _ rd _ _ => wakeBlaze e.1 rd 0 c
    | _ => c) c

/-- A dump begins (R356): the header and every entry are copied, to offset 0x05F1_0000 of base memory. -/
def startDump (reason : Nat) (c : Chip) : Chip :=
  let hdr := leBytes 8 (now c) ++ leBytes 8 (countNow c) ++ leBytes 2 c.moduleId ++ leBytes 1 reason ++ leBytes 5 0 ++
    leBytes 8 c.life.incarnation.toNat ++ leBytes 32 0
  let ents := (span 0 512).map (blazeBytes c)
  memWrite (baseBase + 0x05F10000) (hdr ++ ents.flatten) false { c with blz := { c.blz with
    dumpState := 1, dumpReason := reason, dumpTime := now c, dumpHdr := hdr, dumpEnts := ents } }

/-- The copy of a dump completes (R357). -/
def finishDump (c : Chip) : Chip :=
  if c.blz.dumpState ≠ 1 then c else
    emit Src.blaze St.bzDumpDone none [c.blz.dumpReason, c.blz.dumpTime] { c with blz := { c.blz with dumpState := 2 } }

end Sys2Proof.Machine
end

