-- ==== Sys2Proof/Machine/Crypto.lean ====
section
/-! DEFINITION. The published algorithms that the manual names and whose results are values of the state: SHA-384
(FIPS 180-4), HMAC (FIPS 198-1) and HKDF (RFC 5869) over it, SipHash-2-4 (R435) and CRC-32C (RFC 3720). -/
namespace Sys2Proof.Machine

/-- SHA-512 round constants 0 to 9 (FIPS 180-4). -/
def shaK0 : List Word :=
  [0x428A2F98D728AE22, 0x7137449123EF65CD, 0xB5C0FBCFEC4D3B2F, 0xE9B5DBA58189DBBC, 0x3956C25BF348B538,
   0x59F111F1B605D019, 0x923F82A4AF194F9B, 0xAB1C5ED5DA6D8118, 0xD807AA98A3030242, 0x12835B0145706FBE]
/-- SHA-512 round constants 10 to 19 (FIPS 180-4). -/
def shaK1 : List Word :=
  [0x243185BE4EE4B28C, 0x550C7DC3D5FFB4E2, 0x72BE5D74F27B896F, 0x80DEB1FE3B1696B1, 0x9BDC06A725C71235,
   0xC19BF174CF692694, 0xE49B69C19EF14AD2, 0xEFBE4786384F25E3, 0x0FC19DC68B8CD5B5, 0x240CA1CC77AC9C65]
/-- SHA-512 round constants 20 to 29 (FIPS 180-4). -/
def shaK2 : List Word :=
  [0x2DE92C6F592B0275, 0x4A7484AA6EA6E483, 0x5CB0A9DCBD41FBD4, 0x76F988DA831153B5, 0x983E5152EE66DFAB,
   0xA831C66D2DB43210, 0xB00327C898FB213F, 0xBF597FC7BEEF0EE4, 0xC6E00BF33DA88FC2, 0xD5A79147930AA725]
/-- SHA-512 round constants 30 to 39 (FIPS 180-4). -/
def shaK3 : List Word :=
  [0x06CA6351E003826F, 0x142929670A0E6E70, 0x27B70A8546D22FFC, 0x2E1B21385C26C926, 0x4D2C6DFC5AC42AED,
   0x53380D139D95B3DF, 0x650A73548BAF63DE, 0x766A0ABB3C77B2A8, 0x81C2C92E47EDAEE6, 0x92722C851482353B]
/-- SHA-512 round constants 40 to 49 (FIPS 180-4). -/
def shaK4 : List Word :=
  [0xA2BFE8A14CF10364, 0xA81A664BBC423001, 0xC24B8B70D0F89791, 0xC76C51A30654BE30, 0xD192E819D6EF5218,
   0xD69906245565A910, 0xF40E35855771202A, 0x106AA07032BBD1B8, 0x19A4C116B8D2D0C8, 0x1E376C085141AB53]
/-- SHA-512 round constants 50 to 59 (FIPS 180-4). -/
def shaK5 : List Word :=
  [0x2748774CDF8EEB99, 0x34B0BCB5E19B48A8, 0x391C0CB3C5C95A63, 0x4ED8AA4AE3418ACB, 0x5B9CCA4F7763E373,
   0x682E6FF3D6B2B8A3, 0x748F82EE5DEFB2FC, 0x78A5636F43172F60, 0x84C87814A1F0AB72, 0x8CC702081A6439EC]
/-- SHA-512 round constants 60 to 69 (FIPS 180-4). -/
def shaK6 : List Word :=
  [0x90BEFFFA23631E28, 0xA4506CEBDE82BDE9, 0xBEF9A3F7B2C67915, 0xC67178F2E372532B, 0xCA273ECEEA26619C,
   0xD186B8C721C0C207, 0xEADA7DD6CDE0EB1E, 0xF57D4F7FEE6ED178, 0x06F067AA72176FBA, 0x0A637DC5A2C898A6]
/-- SHA-512 round constants 70 to 79 (FIPS 180-4). -/
def shaK7 : List Word :=
  [0x113F9804BEF90DAE, 0x1B710B35131C471B, 0x28DB77F523047D84, 0x32CAAB7B40C72493, 0x3C9EBE0A15C9BEBC,
   0x431D67C49C100D4C, 0x4CC5D4BECB3E42B6, 0x597F299CFC657E2A, 0x5FCB6FAB3AD6FAEC, 0x6C44198C4A475817]
/-- The 80 round constants. -/
def shaK : List Word := shaK0 ++ shaK1 ++ shaK2 ++ shaK3 ++ shaK4 ++ shaK5 ++ shaK6 ++ shaK7

/-- The eight working words of a SHA-512 state. -/
structure Sha where
  a : Word
  b : Word
  c : Word
  d : Word
  e : Word
  f : Word
  g : Word
  h : Word
deriving DecidableEq, Repr

/-- The initial state of SHA-384 (FIPS 180-4). -/
def sha384Init : Sha :=
  ⟨0xCBBB9D5DC1059ED8, 0x629A292A367CD507, 0x9159015A3070DD17, 0x152FECD8F70E5939,
   0x67332667FFC00B31, 0x8EB44A8768581511, 0xDB0C2E0D64F98FA7, 0x47B5481DBEFA4FA4⟩

/-- Rotation right of 64 bits. -/
def rotr (w : Word) (n : Nat) : Word := w.rotateRight n

/-- One round of SHA-512 with its constant and message word. -/
def shaRound (s : Sha) (kw : Word × Word) : Sha :=
  let s1 := rotr s.e 14 ^^^ rotr s.e 18 ^^^ rotr s.e 41
  let ch := (s.e &&& s.f) ^^^ (~~~s.e &&& s.g)
  let t1 := s.h + s1 + ch + kw.1 + kw.2
  let s0 := rotr s.a 28 ^^^ rotr s.a 34 ^^^ rotr s.a 39
  let mj := (s.a &&& s.b) ^^^ (s.a &&& s.c) ^^^ (s.b &&& s.c)
  ⟨t1 + s0 + mj, s.a, s.b, s.c, s.d + t1, s.e, s.f, s.g⟩

/-- The message schedule, newest word first. -/
def shaSched : Nat → List Word → List Word
  | 0, w => w
  | n + 1, w =>
    let x := nth 0 w 1
    let y := nth 0 w 14
    let v := (rotr x 19 ^^^ rotr x 61 ^^^ (x >>> 6)) + nth 0 w 6 + (rotr y 1 ^^^ rotr y 8 ^^^ (y >>> 7)) + nth 0 w 15
    shaSched n (v :: w)

/-- A big-endian number of bytes. -/
def beNat (bs : Bytes) : Nat := bs.foldl (fun a b => a * 256 + b.toNat) 0
/-- The `n` low bytes of a number, big-endian. -/
def beBytes (n v : Nat) : Bytes := (leBytes n v).reverse

/-- The sixteen big-endian words of a 128-byte block, newest first. -/
def shaWords : Nat → Bytes → List Word → List Word
  | 0, _, acc => acc
  | n + 1, bs, acc => shaWords n (bs.drop 8) (BitVec.ofNat 64 (beNat (bs.take 8)) :: acc)

/-- One block absorbed. -/
def shaBlock (s : Sha) (bs : Bytes) : Sha :=
  let w := (shaSched 64 (shaWords 16 bs [])).reverse
  let r := (List.zip shaK w).foldl shaRound s
  ⟨s.a + r.a, s.b + r.b, s.c + r.c, s.d + r.d, s.e + r.e, s.f + r.f, s.g + r.g, s.h + r.h⟩

/-- Blocks absorbed in order. -/
def shaBlocks : Nat → Bytes → Sha → Sha
  | 0, _, s => s
  | n + 1, bs, s => shaBlocks n (bs.drop 128) (shaBlock s (bs.take 128))

/-- A message padded to whole blocks. -/
def shaPad (m : Bytes) : Bytes :=
  m ++ [0x80] ++ List.replicate ((239 - m.length % 128) % 128) 0 ++ beBytes 16 (m.length * 8)

/-- SHA-384 of a message: 48 bytes. -/
def sha384 (m : Bytes) : Bytes :=
  let p := shaPad m
  let s := shaBlocks (p.length / 128) p sha384Init
  ([s.a, s.b, s.c, s.d, s.e, s.f].map fun w => beBytes 8 w.toNat).flatten

/-- A key padded to a block, each byte combined with a mask. -/
def hmacKey (k : Bytes) (mask : Byte) : Bytes :=
  let k := if 128 < k.length then sha384 k else k
  (k ++ List.replicate (128 - k.length) 0).map (· ^^^ mask)
/-- HMAC-SHA-384. -/
def hmac384 (k m : Bytes) : Bytes := sha384 (hmacKey k 0x5C ++ sha384 (hmacKey k 0x36 ++ m))

/-- The expansion of HKDF: block `i` and those after it. -/
def hkdfBlocks (prk info : Bytes) : Nat → Nat → Bytes → Bytes
  | 0, _, _ => []
  | n + 1, i, prev =>
    let t := hmac384 prk (prev ++ info ++ [BitVec.ofNat 8 i])
    t ++ hkdfBlocks prk info n (i + 1) t
/-- HKDF-SHA-384: keying material, salt, info and the length of the output. -/
def hkdf384 (ikm salt info : Bytes) (len : Nat) : Bytes :=
  (hkdfBlocks (hmac384 salt ikm) info ((len + 47) / 48) 1 []).take len

/-- The four words of a SipHash state. -/
structure Sip where
  a : Word
  b : Word
  c : Word
  d : Word
deriving DecidableEq, Repr

/-- Rotation left of 64 bits. -/
def rotl (w : Word) (n : Nat) : Word := w.rotateLeft n

/-- One SipRound. -/
def sipRound (s : Sip) : Sip :=
  let v0 := s.a + s.b
  let v1 := rotl s.b 13 ^^^ v0
  let v0 := rotl v0 32
  let v2 := s.c + s.d
  let v3 := rotl s.d 16 ^^^ v2
  let v0 := v0 + v3
  let v3 := rotl v3 21 ^^^ v0
  let v2 := v2 + v1
  let v1 := rotl v1 17 ^^^ v2
  ⟨v0, v1, rotl v2 32, v3⟩

/-- One message word with its two rounds. -/
def sipWord (s : Sip) (m : Word) : Sip :=
  let t := sipRound (sipRound { s with d := s.d ^^^ m })
  { t with a := t.a ^^^ m }

/-- The whole eight-byte words of a message. -/
def sipWords : Nat → Bytes → Sip → Sip
  | 0, _, s => s
  | n + 1, bs, s => sipWords n (bs.drop 8) (sipWord s (BitVec.ofNat 64 (leNat (bs.take 8))))

/-- SipHash-2-4 with 64-bit output (R435). -/
def sipHash (k0 k1 : Word) (m : Bytes) : Word :=
  let s : Sip := ⟨k0 ^^^ 0x736F6D6570736575, k1 ^^^ 0x646F72616E646F6D, k0 ^^^ 0x6C7967656E657261, k1 ^^^ 0x7465646279746573⟩
  let n := m.length / 8
  let s := sipWords n m s
  let s := sipWord s (BitVec.ofNat 64 (leNat (m.drop (n * 8)) + m.length % 256 * 2 ^ 56))
  let s := { s with c := s.c ^^^ 0xFF }
  let s := sipRound (sipRound (sipRound (sipRound s)))
  s.a ^^^ s.b ^^^ s.c ^^^ s.d

/-- One bit of a reflected CRC-32C. -/
def crcBit (c : BitVec 32) : BitVec 32 := if c.toNat % 2 = 1 then (c >>> 1) ^^^ 0x82F63B78 else c >>> 1
/-- One byte of a reflected CRC-32C. -/
def crcByte (c : BitVec 32) (b : Byte) : BitVec 32 :=
  crcBit (crcBit (crcBit (crcBit (crcBit (crcBit (crcBit (crcBit (c ^^^ b.setWidth 32))))))))
/-- CRC-32C of a byte string (RFC 3720). -/
def crc32c (bs : Bytes) : BitVec 32 := ~~~(bs.foldl crcByte 0xFFFFFFFF)

/-- ASCII bytes of a string. -/
def ascii (s : String) : Bytes := s.toList.map fun ch => BitVec.ofNat 8 ch.toNat

end Sys2Proof.Machine
end

