-- ==== Sys2Proof/Machine/Link.lean ====
section
/-! DEFINITION. Naloroth ports, sessions and messages (15): flits and replay, routes, sending a message, outstanding
requests, the target checks of Table 15-5 and role epochs. -/
namespace Sys2Proof.Machine

/-! ### Ports and flits -/

/-- A port. -/
def port (c : Chip) (p : Nat) : LinkPort := tget {} c.lnk.ports p
/-- The module with a port replaced. -/
def setPort (p : Nat) (v : LinkPort) (c : Chip) : Chip := { c with lnk := { c.lnk with ports := tset {} c.lnk.ports p v } }
/-- The module with a port changed. -/
def modPort (p : Nat) (f : LinkPort → LinkPort) (c : Chip) : Chip := setPort p (f (port c p)) c
/-- Whether a port is enabled (0x3000/2). -/
def portEnabled (c : Chip) (p : Nat) : Bool := bitOf (obj c 0x3000 2) p
/-- Port states (0x5800/2). -/
def Pst.down : Nat := 0
/-- TRAINING. -/
def Pst.training : Nat := 1
/-- UP. -/
def Pst.up : Nat := 2

/-- Receive buffers of a VC, in flits (R497). -/
def vcBuffer (vc : Nat) : Nat := if vc ≤ 1 then 512 else 64

/-- Bytes fitted to a length: cut, or filled with zeros. -/
def fit (n : Nat) (bs : Bytes) : Bytes := bs.take n ++ List.replicate (n - bs.length) 0

/-- A flit from its header fields and its 248 body bytes, with its CRC (Table 15-2, R493). -/
def mkFlit (kind vc seq : Nat) (nak : Bool) (ackSeq : Nat) (body : Bytes) : BitVec 2048 :=
  let lo := kind * 2 ^ 28 + vc * 2 ^ 26 + 2 ^ 25 + b2n nak * 2 ^ 24 + ackSeq % 4096 * 4096 + seq % 4096
  let bs := leBytes 4 lo ++ leBytes 4 0 ++ fit 248 body
  BitVec.ofNat 2048 (leNat bs + (crc32c bs).toNat * 2 ^ 32)

/-- The header word of a flit. -/
def flitHead (f : BitVec 2048) : Nat := f.toNat % 2 ^ 64
/-- The 248 body bytes of a flit. -/
def flitBody (f : BitVec 2048) : Bytes := leBytes 248 (f.toNat / 2 ^ 64)
/-- KIND. -/
def flitKind (f : BitVec 2048) : Nat := bitsOf (flitHead f) 31 28
/-- Whether a flit's CRC holds and its KIND is defined (R493). -/
def flitGood (f : BitVec 2048) : Bool :=
  (crc32c (leBytes 4 (flitHead f % 2 ^ 32) ++ leBytes 4 0 ++ flitBody f)).toNat == bitsOf (flitHead f) 63 32 && flitKind f ≤ 3

/-- The ACK_SEQ that a port sends: the last DATA flit received in sequence. -/
def ackOf (v : LinkPort) : Nat := (v.rxSeq + 4095) % 4096

/-- A flit without data leaves a port: IDLE 0, CREDIT 2, TRAIN 3. -/
def sendPlain (p kind : Nat) (nak : Bool) (body : Bytes) (c : Chip) : Chip :=
  send (.flit p (mkFlit kind 0 0 nak (ackOf (port c p)) body)) c

/-- The CREDIT flit of a port: flits freed of each VC, modulo 2^16 (R493). -/
def sendCredit (p : Nat) (c : Chip) : Chip :=
  sendPlain p 2 false ((span 0 4).map fun vc => leBytes 2 (tget 0 (port c p).rxFreed vc % 65536)).flatten c

/-- The first waiting flit whose VC has credit (R497). -/
def nextFlit (v : LinkPort) : Option (Nat × Bytes) :=
  v.txq.find? fun e => tget 0 v.txSent e.1 < tget 0 v.txCredit e.1 + vcBuffer e.1

/-- A port asks for its 4 W licence when more than 64 flits wait (R589). -/
def portAsk (p : Nat) (c : Chip) : Chip :=
  let v := port c p
  if 64 < v.txq.length && !v.licence && !v.licWait then
    let c := modPort p (fun v => { v with licWait := true }) c
    { c with pwr := { c.pwr with waits := c.pwr.waits ++
      [{ src := Src.link p, tag := none, part := none, watts := 4, prio := 2, arrival := now c, kind := 3, inst := p }] } }
  else c

/-- DATA flits count for the bandwidth of a port (R666): direction 0 sent, 1 received; 256 bytes each. -/
def countFlits (dir p n : Nat) (c : Chip) : Chip :=
  { c with ctr := { c.ctr with bytes := tmod 0 c.ctr.bytes (dir * 32 + p) (· + 256 * n) } }

/-- DATA flits leave a port in order while it is UP, has credit and holds fewer than 2,048 unacknowledged (R494, R497). -/
def pump (p : Nat) : Nat → Chip → Chip
  | 0, c => c
  | n + 1, c =>
    let v := port c p
    if v.state = Pst.up && v.replay.length < 2048 then
      match nextFlit v with
      | none => c
      | some (vc, body) =>
        let f := mkFlit 1 vc v.txSeq false (ackOf v) body
        let c := setPort p { v with
          txq := v.txq.erase (vc, body)
          replay := v.replay ++ [(v.txSeq, f)]
          txSeq := (v.txSeq + 1) % 4096
          txSent := tmod 0 v.txSent vc (· + 1) } c
        pump p n (send (.flit p f) (countFlits 0 p 1 c))
    else c

/-- Flits queue at a port and leave as they may. -/
def queueFlits (p vc : Nat) (bodies : List Bytes) (c : Chip) : Chip :=
  let c := modPort p (fun v => { v with txq := v.txq ++ bodies.map fun b => (vc, b) }) c
  let c := pump p (port c p).txq.length c
  portAsk p c

/-- A port leaves UP, with its event, and trains again (Table 15-8). -/
def leaveUp (p : Nat) (c : Chip) : Chip :=
  let v := port c p
  let up := v.state = Pst.up
  let c := setPort p { v with state := Pst.training, trains := 0 } c
  if up then emit (Src.link p) St.lnDown none [v.peer] c else c

/-- A replay resends every unacknowledged flit, oldest first (R495); the eighth that begins at the same flit retrains the
port (R498). -/
def startReplay (p : Nat) (c : Chip) : Chip :=
  let v := port c p
  match v.replay with
  | [] => c
  | (s, _) :: _ =>
    let n := if v.replays != 0 && v.replayFrom = s then v.replays + 1 else 1
    let c := bump 0x5800 5 p 1 (setPort p { v with replays := n, replayFrom := s } c)
    if 8 ≤ n then
      leaveUp p (emit (Src.link p) St.lnReplayLimit none [s, n] (modPort p (fun v => { v with replays := 0 }) c))
    else v.replay.foldl (fun c e => send (.flit p e.2) c) (countFlits 0 p v.replay.length c)

/-- A cumulative acknowledgement frees the replay buffer up to a sequence number that it holds (R494). -/
def ackUpTo (v : LinkPort) (a : Nat) : LinkPort :=
  if v.replay.any fun e => e.1 == a then
    { v with replay := (v.replay.dropWhile fun e => e.1 != a).drop 1, replays := 0 }
  else v

/-- What every flit's header does: its acknowledgement, and a replay it asks for (R494, R495). -/
def flitAck (p : Nat) (f : BitVec 2048) (c : Chip) : Chip :=
  let h := flitHead f
  let c := if bitOf h 25 then modPort p (fun v => ackUpTo v (bitsOf h 23 12)) c else c
  let c := if bitOf h 24 then startReplay p c else c
  pump p (port c p).txq.length c

/-- A flit leaves the list that the decoder filled. -/
def takeFlit (p : Nat) (f : BitVec 2048) (c : Chip) : Chip := modPort p (fun v => { v with rx := v.rx.erase f }) c

/-- Replay is asked for once, until a flit is accepted (R494). -/
def askReplay (p : Nat) (c : Chip) : Chip :=
  let v := port c p
  if v.nakSent || v.state ≠ Pst.up then c else sendPlain p 0 true [] (setPort p { v with nakSent := true } c)

/-- A flit that R493 discards is counted, and asks for replay. -/
def discardFlit (p : Nat) (c : Chip) : Chip := askReplay p (bump 0x5800 6 p 1 c)

/-! ### Sessions, routes and role entries -/

/-- The session with an endpoint. -/
def sess (c : Chip) (m : Nat) : LinkSess := tget {} c.lnk.sess m
/-- The module with a session replaced. -/
def setSess (m : Nat) (v : LinkSess) (c : Chip) : Chip := { c with lnk := { c.lnk with sess := tset {} c.lnk.sess m v } }

/-- The role epoch of a partition of this module (R510). -/
def epochOf (c : Chip) (p : Nat) : Nat := (tget {} c.lnk.epochs p).val

/-- A role table entry: valid, epoch, job (R514); the module's own entries are kept by the hardware. -/
def roleEntry (c : Chip) (m p : Nat) : Bool × Nat × Nat :=
  if m = c.moduleId then (assigned c p, epochOf c p, (mapOf c p).job)
  else (obj c 0x5802 4 (m * 16 + p) == 1, obj c 0x5802 2 (m * 16 + p), obj c 0x5802 3 (m * 16 + p))

/-- The partition at a module that a request of a job addresses: the lowest with a valid entry of that job, else 0
(DEDUCED, log 20). -/
def targetPart (c : Chip) (m job : Nat) : Nat :=
  (parts16.find? fun p => let e := roleEntry c m p; e.1 && e.2.2 == job).getD 0

/-- The port that a message to a destination leaves by (R506). -/
def routePort (c : Chip) (m : Nat) : Option Nat :=
  (span 0 16).find? fun p => bitOf (obj c 0x5801 2 m) p && (port c p).state == Pst.up

/-- A role epoch changes: at once for the first change of a stitch, at the next boundary for a second (R510). -/
def changeEpoch (p : Nat) (c : Chip) : Chip :=
  let e := tget {} c.lnk.epochs p
  let n := countNow c
  if e.changedAt = some n then
    if e.deferred then c else
      emit (Src.link 0) St.lnRoleDeferred (some p) [p, n + 1]
        { c with lnk := { c.lnk with epochs := tset {} c.lnk.epochs p { e with deferred := true } } }
  else { c with lnk := { c.lnk with epochs := tset {} c.lnk.epochs p { e with val := (e.val + 1) % 65536, changedAt := some n } } }

/-- Held role changes are made at a boundary (R510). -/
def heldEpochs (c : Chip) : Chip :=
  parts16.foldl (fun c p =>
    let e := tget {} c.lnk.epochs p
    if e.deferred then changeEpoch p { c with lnk := { c.lnk with epochs := tset {} c.lnk.epochs p { e with deferred := false, changedAt := none } } }
    else c) c

/-! ### Messages -/

/-- The 48 header bytes of a message (Table 15-3). -/
def headerBytes (m : Msg) : Bytes :=
  leBytes 1 m.op.toNat ++ leBytes 1 m.flags.toNat ++ leBytes 2 m.len.toNat ++ leBytes 2 m.dst.toNat ++ leBytes 2 m.src.toNat ++
  leBytes 2 m.epoch.toNat ++ leBytes 2 m.reqRef.toNat ++ leBytes 4 m.job.toNat ++ leBytes 8 m.ctr.toNat ++
  leBytes 8 m.sendTime.toNat ++ leBytes 8 m.addr.toNat ++ leBytes 8 m.arg.toNat

/-- The VC of a message. -/
def msgVc (m : Msg) : Nat := m.flags.toNat % 4
/-- The poison map of a message, 64 bytes, where POISON is set (R501). -/
def mapBytes (m : Msg) : Bytes :=
  if bitOf m.flags.toNat 2 then leBytes 64 (m.poisonMap.zipIdx.foldl (fun a e => a + b2n e.1 * 2 ^ e.2) 0) else []
/-- The flits that a message occupies (R501). -/
def flitCount (m : Msg) : Nat := ceilDiv (64 + m.body.length + if bitOf m.flags.toNat 2 then 64 else 0) 248

/-- The key and salt of a direction: the lower module's sending direction first (R503). -/
def dirKey (c : Chip) (dst : Nat) (sending : Bool) : Bytes :=
  let k := leBytes 72 (sess c dst).key
  if (decide (c.moduleId < dst)) == sending then k.take 36 else k.drop 36

/-- The body and its map as they travel: in plain for the handshake, sealed for every other message (R505). -/
def sealed (c : Chip) (peer : Nat) (sending : Bool) (m : Msg) : Bytes :=
  let k := dirKey c peer sending
  let plain := m.body ++ mapBytes m
  if 0x30 ≤ m.op.toNat && m.op.toNat ≤ 0x32 then plain ++ List.replicate 16 0
  else fit (plain.length + 16) (Config.gcmSeal (k.take 32) (k.drop 32 ++ leBytes 8 m.ctr.toNat) (headerBytes m) plain)

/-- Bytes in groups of 248, the last filled with zeros (R501). -/
def cut248 : Nat → Bytes → List Bytes
  | 0, _ => []
  | n + 1, bs => fit 248 bs :: cut248 n (bs.drop 248)

/-- The messages that a session has sent. -/
def sentCount (s : LinkSess) : Nat := s.sent.foldl (fun a e => a + e.2) 0
/-- A session ends after 2^40 messages in one direction (R504). -/
def endIfSpent (dst : Nat) (c : Chip) : Chip :=
  if sentCount (sess c dst) < 2 ^ 40 then c else setSess dst { sess c dst with state := 0 } c

/-- A message leaves by a port: CTR and SEND_TIME are given, MARK for a blaze set, and its flits queue (R493, R505, R516). -/
def transmit (p : Nat) (w : WaitMsg) (c : Chip) : Chip :=
  let dst := w.msg.dst.toNat % 4096
  let s := sess c dst
  let vc := msgVc w.msg
  let n := tget 0 s.sent vc + 1
  let arg := if w.msg.op = 0x20 then w.msg.arg.toNat / 2 ^ 48 * 2 ^ 48 + tget 0 s.sent 0 % 2 ^ 48 else w.msg.arg.toNat
  let m := { w.msg with ctr := BitVec.ofNat 64 (vc * 2 ^ 62 + n), sendTime := BitVec.ofNat 64 (now c), arg := BitVec.ofNat 64 arg }
  let body := headerBytes m ++ sealed c dst true m
  let c := setSess dst { s with sent := tset 0 s.sent vc n } c
  let c := match w.req with
    | none => c
    | some r =>
      let ent := (tget none c.lnk.outReq r).map fun e => { e with sendTime := some (now c) }
      { c with lnk := { c.lnk with outReq := tset none c.lnk.outReq r ent } }
  let c := bump 0x3000 6 0 1 c
  let c := { c with lnk := { c.lnk with routeUse := tset 0 c.lnk.routeUse dst (p + 1) } }
  let c := queueFlits p vc (cut248 (flitCount m) body) (send (.link p m) c)
  endIfSpent dst c

/-- Whether a request to a destination is on its way: it has left and has no answer yet (R507). -/
def underWay (c : Chip) (dst : Nat) : Bool :=
  c.lnk.outReq.any fun e => match e.2 with
    | some o => o.dst == dst && o.sendTime.isSome
    | none => false

/-- The messages that wait for a destination. -/
def waitList (c : Chip) (dst : Nat) : List WaitMsg := tget [] c.lnk.waiting dst
/-- The module with a waiting list replaced. -/
def setWaits (dst : Nat) (l : List WaitMsg) (c : Chip) : Chip :=
  { c with lnk := { c.lnk with waiting := tset [] c.lnk.waiting dst l } }

/-- Random bytes of the TRNG (R675, R503): free values. -/
def drawBytes : Nat → Chip → Bytes × Chip
  | 0, c => ([], c)
  | n + 1, c =>
    let (w, c) := drawFree c
    let (r, c) := drawBytes n c
    (leBytes 8 w.toNat ++ r, c)

/-- The DER bytes of a certificate: 0 the DeviceID certificate, 1 the alias certificate, which binds the measured layers
(R629, R630). -/
def certBytes (c : Chip) (k : Nat) : Bytes :=
  if k = 0 then Config.certificate 0 c.dice.deviceId
  else if k = 1 then Config.certificate 1 (c.dice.cdi1 ++ c.dice.dL0 ++ c.dice.dL1 ++ c.dice.dShim) else []

/-- A management message of the handshake (R503): an ephemeral public key, a signature of the transcript and the
certificate chain. -/
def handMsg (op dst : Nat) (c : Chip) : Msg × Chip :=
  let (e, c) := drawBytes 6 c
  let pub := Config.p384Public e
  let body := pub ++ Config.ecdsaSign (leBytes 8 c.life.incarnation.toNat) ((sess c dst).transcript ++ pub) ++
    certBytes c 0 ++ certBytes c 1
  ({ op := BitVec.ofNat 8 op, flags := 3, len := BitVec.ofNat 16 body.length, dst := BitVec.ofNat 16 dst
     src := BitVec.ofNat 16 c.moduleId, epoch := 0, reqRef := 0, job := 0, ctr := 0, sendTime := 0, addr := 0, arg := 0
     body := body, poisonMap := [], auth := true }, c)

/-- A handshake message leaves where a route is UP. -/
def sendHand (op dst : Nat) (c : Chip) : Chip :=
  match routePort c dst with
  | none => c
  | some p =>
    let (m, c) := handMsg op dst c
    transmit p ⟨m, none⟩ c

/-- The session with an endpoint is opened where it is not (R503, R504, 0x5803/4). -/
def openSession (dst : Nat) (c : Chip) : Chip :=
  if (sess c dst).state = 0 then sendHand 0x30 dst (setSess dst { state := 1, opener := true } c) else c

/-- Waiting messages leave while the session is open, a port is UP and, on a change of port, nothing is under way
(R504, R507). -/
def flushTo (dst : Nat) : Nat → Chip → Chip
  | 0, c => c
  | n + 1, c =>
    match waitList c dst with
    | [] => c
    | w :: rest =>
      match routePort c dst with
      | none => c
      | some p =>
        let used := tget 0 c.lnk.routeUse dst
        if (sess c dst).state ≠ 2 || (used ≠ 0 && used ≠ p + 1 && underWay c dst) then c
        else flushTo dst n (transmit p w (setWaits dst rest c))

/-- Every destination's waiting messages leave as they may. -/
def flushAll (c : Chip) : Chip := c.lnk.waiting.foldl (fun c e => flushTo e.1 e.2.length c) c

/-- A message joins those that wait for its destination, and leaves if it may; a session is opened for it (R504). -/
def post (w : WaitMsg) (c : Chip) : Chip :=
  let dst := w.msg.dst.toNat % 4096
  let c := openSession dst (setWaits dst (waitList c dst ++ [w]) c)
  flushTo dst (waitList c dst).length c

/-! ### Requests and their ends -/

/-- The thread that a request belongs to, and whether it is a write (R150, R202). -/
def reqThread : ReqKind → Option (Nat × Bool)
  | .load t .. => some (t, false)
  | .store t _ => some (t, true)
  | .atomic t .. => some (t, true)
  | .blaze t _ => some (t, true)
  | .mover .. => none
  | .welt .. => none

/-- Requests of a thread's stores, atomics and remote sets that have no answer yet, by their serials (R147, R150). -/
def openWrites (c : Chip) (t : Nat) : List Nat :=
  c.lnk.outReq.filterMap fun e => match e.2 with
    | some o => if reqThread o.kind = some (t, true) then some o.serial else none
    | none => none

/-- An entry is released. -/
def releaseReq (r : Nat) (c : Chip) : Chip :=
  { c with lnk := { c.lnk with
    outReq := tset none c.lnk.outReq r none
    waiting := c.lnk.waiting.map fun e => (e.1, e.2.filter fun w => w.req != some r) } }

/-- Waiting lists stay in canonical form. -/
def normWaits (c : Chip) : Chip := { c with lnk := { c.lnk with waiting := c.lnk.waiting.filter fun e => !e.2.isEmpty } }

/-- A mover chain ends with a status and its chunk count (R188, R299). -/
def endChain (name serial : Nat) (st : Status) (c : Chip) : Chip :=
  let tg := tagOf c name
  match tg.op with
  | .mover o => if tg.state = .issued && tg.serial = serial then bump 0x2200 13 0 1 (finishTag name st o.chunks c) else c
  | _ => c

/-- The status that a requester sees for an answer's status (R136, R508, R512): Table 04-5 knows two. -/
def seenStatus (st : Status) : Status :=
  if st == St.addrRemoteUnreachable then St.addrRemoteUnreachable else St.addrRemoteDenied

/-- A thread that waits for a response takes the exception of its refusal (R136). -/
def failWait (t r va : Nat) (st : Status) (c : Chip) : Chip :=
  match (hart c t).wait with
  | .resp k .. => if k = r then takeTrap t ⟨26, va, some st, false⟩ (modHart t unstall c) else c
  | _ => c

/-- A request fails: cause 26 for a load, store, atomic or blaze set, the tag's status for a mover (R136, R508). -/
def failReq (r : Nat) (st : Status) (c : Chip) : Chip :=
  match tget none c.lnk.outReq r with
  | none => c
  | some o =>
    let c := normWaits (releaseReq r c)
    match o.kind with
    | .load t _ _ _ _ va _ => failWait t r va (seenStatus st) c
    | .atomic t _ _ va _ => failWait t r va (seenStatus st) c
    | .store t va => postTrap t 26 va (seenStatus st) c
    | .blaze t va => postTrap t 26 va (if st == St.lnAnnounceLost then St.addrRemoteUnreachable else seenStatus st) c
    | .mover name serial _ => endChain name serial (if st == St.lnRoleStale then St.addrRemoteDenied else st) c
    | .welt q n k _ =>
      { c with pair := { c.pair with eg := c.pair.eg.map fun e =>
        if e.q = q && e.count = n && e.seq = k && e.st = 1 then { e with st := 2, dup := true } else e } }

/-- A request fails under R508. -/
def unreachable (r : Nat) (c : Chip) : Chip := failReq r St.addrRemoteUnreachable (bump 0x3000 13 0 1 c)

/-- The lowest entry that is free (R508). -/
def freeReq (l : Tbl (Option OutReq)) : Nat → Nat → Option Nat
  | 0, _ => none
  | n + 1, k => if (tget none l k).isNone then some k else freeReq l n (k + 1)

/-- A message of this module for a partition of a job: EPOCH and JOB from the role table and the map (R514, Table 15-3). -/
def mkMsg (c : Chip) (op vc dst dstPart srcPart len addr arg : Nat) (ref : Nat) (body : Bytes) (pmap : List Bool) : Msg :=
  let pois := pmap.any (· = true)
  { op := BitVec.ofNat 8 op, flags := BitVec.ofNat 8 (vc + (if pois then 4 else 0)), len := BitVec.ofNat 16 len
    dst := BitVec.ofNat 16 (dstPart * 4096 + dst), src := BitVec.ofNat 16 (srcPart * 4096 + c.moduleId)
    epoch := BitVec.ofNat 16 (roleEntry c dst dstPart).2.1, reqRef := BitVec.ofNat 16 ref
    job := BitVec.ofNat 32 (mapOf c srcPart).job, ctr := 0, sendTime := 0, addr := BitVec.ofNat 64 addr
    arg := BitVec.ofNat 64 arg, body := body, poisonMap := if pois then pmap else [], auth := true }

/-- A request leaves for a module, or fails at once where no port of its route is UP or no entry is free (R508); its
entry number. The message is built from the entry. -/
def sendReq (dst : Nat) (kind : ReqKind) (mk : Nat → Msg) (c : Chip) : Option Nat × Chip :=
  match freeReq c.lnk.outReq 65536 0 with
  | none => (none, c)
  | some r =>
    let (sn, c) := drawSerial c
    let c := { c with lnk := { c.lnk with outReq := tset none c.lnk.outReq r (some ⟨dst, kind, sn, none⟩) } }
    if (routePort c dst).isNone then (some r, unreachable r c)
    else (some r, post ⟨mk r, some r⟩ c)

/-- A request of a partition's thread or engine to an address of another module (R514, R515). -/
def sendTo (p op dst len addr : Nat) (kind : ReqKind) (body : Bytes) (pmap : List Bool) (c : Chip) : Option Nat × Chip :=
  let tp := targetPart c dst (mapOf c p).job
  let vc := if op = 0x20 then 2 else 0
  sendReq dst kind (fun r => mkMsg c op vc dst tp p len addr (epochOf c p * 2 ^ 48) r body pmap) c

/-- An answer to a request leaves (Table 15-4): REQ_REF is copied, EPOCH is the requester's as the request gave it. -/
def answer (m : Msg) (op : Nat) (st : Status) (body : Bytes) (pmap : List Bool) (c : Chip) : Chip :=
  let dst := m.src.toNat % 4096
  let me := m.dst.toNat / 4096
  let r := mkMsg c op 1 dst (m.src.toNat / 4096) me body.length 0 st.toNat m.reqRef.toNat body pmap
  let r := { r with epoch := BitVec.ofNat 16 (m.arg.toNat / 2 ^ 48) }
  if (routePort c dst).isNone then c else post ⟨r, none⟩ c

/-! ### Target checks (Table 15-5) -/

/-- Whether a message is malformed (R501, R502). -/
def malformed (m : Msg) : Bool :=
  let op := m.op.toNat
  let len := m.len.toNat
  !((1 ≤ op && op ≤ 4) || (0x11 ≤ op && op ≤ 0x15) || op == 0x20 || (0x30 ≤ op && op ≤ 0x32) || (0x40 ≤ op && op ≤ 0x44)) ||
  32 ≤ m.flags.toNat || 4096 < len || m.addr.toNat / 2 ^ 56 != 0 && (op == 1 || op == 2 || op == 3) ||
  (op == 2 && len == 0) || ((op == 1 || op == 2) && 4096 < m.addr.toNat % 4096 + len) || (op == 3 && len != 16) ||
  (op == 4 && len % 8 != 0)

/-- Whether the module accepts messages at all (R511). -/
def accepting (c : Chip) : Bool := running c || c.life.mstate == MState.maintenance

/-- The details of a message refused at steps 1 to 3 (Table 17-10). -/
def msgDetail (c : Chip) (m : Msg) : List Nat := [m.src.toNat, m.ctr.toNat, m.sendTime.toNat, now c]

/-- A message's flits leave the receive buffers, and their credit returns (R493, R497). -/
def takeMsg (p : Nat) (m : Msg) (c : Chip) : Chip :=
  let v := port c p
  let vc := msgVc m
  let fl := tget [] v.asm vc
  match fl with
  | [] => c
  | f :: _ =>
    if f.take 48 = headerBytes m then
      sendCredit p (setPort p { v with
        asm := tset [] v.asm vc (fl.drop (flitCount m)), rxFreed := tmod 0 v.rxFreed vc (· + flitCount m) } c)
    else c

/-- Words of a byte string. -/
def toWords : Nat → Bytes → List Word
  | 0, _ => []
  | n + 1, bs => BitVec.ofNat 64 (leNat (bs.take 8)) :: toWords n (bs.drop 8)
/-- Bytes of words. -/
def ofWords (ws : List Word) : Bytes := (ws.map fun w => leBytes 8 w.toNat).flatten

/-- The highest CTR accepted rises (R505). -/
def noteCtr (m : Msg) (c : Chip) : Chip :=
  let src := m.src.toNat % 4096
  let s := sess c src
  setSess src { s with accepted := tset 0 s.accepted (msgVc m) (m.ctr.toNat % 2 ^ 62) } c
/-- A message passes Table 15-5: its CTR is the highest accepted, and it is counted. -/
def acceptCtr (m : Msg) (c : Chip) : Chip := bump 0x3000 7 0 1 (noteCtr m c)

/-- Steps 1 to 3 (Table 15-5): whether they pass, and the module after them. -/
def checks123 (p : Nat) (m : Msg) (c : Chip) : Bool × Chip :=
  let src := m.src.toNat % 4096
  let s := sess c src
  let own := some (m.dst.toNat / 4096)
  if malformed m || s.state ≠ 2 || !m.auth || m.dst.toNat % 4096 ≠ c.moduleId then
    let c := bump 0x3000 8 0 1 c
    if s.authAt = some (countNow c) then (false, c)
    else (false, emit (Src.link p) St.lnAuthFail own (msgDetail c m) (setSess src { s with authAt := some (countNow c) } c))
  else if m.ctr.toNat % 2 ^ 62 ≤ tget 0 s.accepted (msgVc m) || m.ctr.toNat / 2 ^ 62 ≠ msgVc m then
    (false, emit (Src.link p) St.lnReplayed own (msgDetail c m) (bump 0x3000 9 0 1 c))
  else if m.sendTime.toNat + 100000 < now c then
    (false, emit (Src.link p) St.lnExpired own (msgDetail c m) (bump 0x3000 10 0 1 c))
  else (true, c)

/-- Step 4: the epoch of the addressed partition (R512). A failure is a dead letter with the body as it travelled. -/
def check4 (p : Nat) (m : Msg) (c : Chip) : Bool × Chip :=
  let dp := m.dst.toNat / 4096
  if m.epoch.toNat = epochOf c dp then (true, c)
  else
    let src := m.src.toNat % 4096
    let bytes := headerBytes m ++ (sealed c src false m).take m.body.length
    let ws := toWords 32 (bytes ++ List.replicate 7 0)
    let n := min 32 ((bytes.length + 7) / 8)
    let c := deadLetter dp m.src.toNat (Src.link p) St.lnRoleStale ((ws.take n).map fun w => (w, false)) (bump 0x3000 11 0 1 c)
    (false, emit (Src.link p) St.lnRoleStale (some dp) [m.src.toNat, m.dst.toNat, m.epoch.toNat, epochOf c dp, m.ctr.toNat]
      (bump 0x2000 6 0 1 c))

/-- The answer that an operation gets (Table 15-4). -/
def answerOp (op : Nat) : Nat :=
  if op = 1 then 0x11 else if op = 2 then 0x12 else if op = 3 then 0x13 else if op = 4 then 0x14 else 0x15

/-- Step 5: the range in the addressed partition's allocation, and the job (R136). -/
def check5 (m : Msg) (inAlloc : MapEntry → Bool) (c : Chip) : Bool :=
  let e := mapOf c (m.dst.toNat / 4096)
  e.state == 1 && inAlloc e && e.job == m.job.toNat

/-- The address range of a message in an allocation of this module. -/
def rangeIn (c : Chip) (a n : Nat) (e : MapEntry) : Bool :=
  a / 2 ^ 44 == c.moduleId && (blocksOf (a % 2 ^ 44) n).all fun b => tierOf b != .aliasWin && blockIn e none b

/-- The operation's own memory checks at a target: a region not scrubbed, a key absent (R288, R293). -/
def targetMem (c : Chip) (dp a n : Nat) : Option Status := checkLocal c (some dp) none false (a % 2 ^ 44) n

/-- A request arrives: the checks in their order, step 5 by `inAlloc`, step 6 by `own`, then its effect with its answer
(R511, R512). -/
def arriveReq (p : Nat) (m : Msg) (inAlloc : MapEntry → Bool) (own : Chip → Option Status) (f : Chip → Chip) (c : Chip) : Chip :=
  let c := takeMsg p m c
  if !accepting c then c else
    match checks123 p m c with
    | (false, c) => c
    | (true, c) =>
      let aop := answerOp m.op.toNat
      match check4 p m c with
      | (false, c) => answer m aop St.lnRoleStale [] [] c
      | (true, c) =>
        if !check5 m inAlloc c then answer m aop St.addrRemoteDenied [] [] (bump 0x2000 6 0 1 c)
        else match own c with
          | some st => answer m aop st [] [] (bump 0x2000 6 0 1 c)
          | none => f (acceptCtr m c)

/-- A request to `n` bytes of memory arrives. -/
def arriveMem (p : Nat) (m : Msg) (n : Nat) (f : Chip → Chip) (c : Chip) : Chip :=
  arriveReq p m (rangeIn c m.addr.toNat n) (fun c => targetMem c (m.dst.toNat / 4096) m.addr.toNat n) f c

/-- An answer arrives: steps 1 to 4, then its entry, released; none where it is discarded (R508, R511). -/
def arriveAnswer (p : Nat) (m : Msg) (c : Chip) : Option OutReq × Chip :=
  let c := takeMsg p m c
  if !accepting c then (none, c) else
    match checks123 p m c with
    | (false, c) => (none, c)
    | (true, c) =>
      match check4 p m c with
      | (false, c) => (none, c)
      | (true, c) =>
        let c := acceptCtr m c
        match tget none c.lnk.outReq m.reqRef.toNat with
        | some o => if o.dst = m.src.toNat % 4096 && o.sendTime.isSome then (some o, c) else (none, bump 0x3000 14 0 1 c)
        | none => (none, bump 0x3000 14 0 1 c)

/-- The status of an answer. -/
def answerStatus (m : Msg) : Status := BitVec.ofNat 16 m.arg.toNat

/-- A refused answer: counted, and reported to the requester (R512). -/
def refusedAnswer (m : Msg) (c : Chip) : Chip := failReq m.reqRef.toNat (answerStatus m) (bump 0x2000 6 0 1 c)

/-- Fences whose earlier writes are all acknowledged retire (R150). -/
def endFences (c : Chip) : Chip :=
  c.harts.foldl (fun c e =>
    if e.2.wait = .fence && (openWrites c e.1).isEmpty then modHart e.1 (fun h => unstall (advance 4 h)) c
    else c) c

/-- Serials of the operations of a thread that announce writes: its mover chains and tensor operations still ISSUED. -/
def openSerials (c : Chip) (t : Nat) : List Nat :=
  (grove c (groveOf t)).tags.filterMap fun e =>
    if e.2.state = .issued && e.2.owner = t then (match e.2.op with | .licence _ => none | _ => some e.2.serial) else none

/-- Whether everything a posted set announces has ended. -/
def setReady (c : Chip) (s : PostedSet) : Bool :=
  s.serials.all (fun n => !(openSerials c s.thread).contains n) && s.reqs.all fun n => !(openWrites c s.thread).contains n

/-- A remote set leaves (R516). -/
def sendSet (s : PostedSet) (dst : Nat) (c : Chip) : Chip :=
  (sendTo s.part 0x20 dst 0 s.index (.blaze s.thread s.index) [] [] c).2

/-- Remote sets leave once the writes they announce have been sent (R516); those behind requests alone leave at once,
since messages keep their order. -/
def flushSets (c : Chip) : Chip :=
  c.blz.posted.foldl (fun c s => match s.remote with
    | none => c
    | some d =>
      if s.serials.all fun n => !(openSerials c s.thread).contains n then
        sendSet s d { c with blz := { c.blz with posted := c.blz.posted.erase s } }
      else c) c

end Sys2Proof.Machine
end

