-- ==== Sys2Proof/Machine/Power.lean ====
section
/-! DEFINITION. The Warden (18): the licensed watts outstanding, requests and grants, the pool and the draw factor, the
floors and the frequencies they give, sensors, the package cap and keep-warm. -/
namespace Sys2Proof.Machine

/-! ### Watts -/

/-- Licence that threads of a partition hold outside its reservation, and its engines' grants (R593). -/
def partHeld (c : Chip) (p : Nat) : Nat :=
  ((c.harts.filter fun e => threadPart c e.1 == some p).foldl (fun a e => a + (e.2.held - e.2.resHeld)) 0) +
  ((c.pwr.engine.filter fun g => g.part == some p).foldl (fun a g => a + g.watts) 0)

/-- L, the licensed watts outstanding (R591): a reservation counts once, as its balance or as RES_HELD. -/
def licOut (c : Chip) : Nat :=
  (c.harts.foldl (fun a e => a + e.2.held) 0) + (c.pwr.engine.foldl (fun a g => a + g.watts) 0) +
  (c.pwr.resBal.foldl (fun a e => a + e.2) 0)

/-- BURST of R600. -/
def burstWatts (c : Chip) : Nat := 225 * 1024 / c.pwr.draw

/-- The sensors that still read, with a reading (R605). -/
def liveSensors (c : Chip) : List (Nat × Sensor) := c.pwr.sensors.filter fun e => e.2.seen && !e.2.failed
/-- Whether any sensor reads above 105 °C (R598). -/
def tjHigh (c : Chip) : Bool := (liveSensors c).any fun e => decide (840 < e.2.last)
/-- Whether a junction floor acts (Table 18-4). -/
def tripActs (c : Chip) : Bool := c.pwr.floors.trip.any fun e => e.2
/-- Whether any floor acts (R610). -/
def anyFloor (c : Chip) : Bool :=
  let f := c.pwr.floors
  f.pkgDrop != 0 || f.curShift.any (fun e => e.2 != 0) || tripActs c || f.burst

/-- Whether a request of some watts and priority fits (R591, R600). -/
def fits (c : Chip) (w : LicWait) : Bool := licOut c + w.watts ≤ c.pwr.pool
/-- Whether a burst may be granted for it (R600). -/
def burstFits (c : Chip) (w : LicWait) : Bool :=
  w.prio == 3 && licOut c + w.watts ≤ c.pwr.pool + burstWatts c && c.pwr.burst ≤ 1

/-! ### Requests and grants -/

/-- A request joins the Warden's input; checks and grants follow in a cycle of the Warden. -/
def askLicence (w : LicWait) (c : Chip) : Chip := { c with pwr := { c.pwr with waits := c.pwr.waits ++ [w] } }

/-- An engine's grant is released. -/
def dropGrant (kind inst : Nat) (c : Chip) : Chip :=
  { c with pwr := { c.pwr with engine := c.pwr.engine.filter fun g => !(g.kind == kind && g.inst == inst) } }
/-- Whether an engine holds its grant. -/
def hasGrant (c : Chip) (kind inst : Nat) : Bool := c.pwr.engine.any fun g => g.kind == kind && g.inst == inst
/-- Whether an engine waits for a grant. -/
def asksGrant (c : Chip) (kind inst : Nat) : Bool :=
  c.pwr.waits.any fun w => w.tag.isNone && w.kind == kind && w.inst == inst

/-- A request is granted (R190): the thread's HELD rises as its tag completes, or the engine holds its grant. -/
def grant (w : LicWait) (c : Chip) : Chip :=
  match w.tag with
  | some (name, sn) =>
    let tg := tagOf c name
    if tg.state = .issued && tg.serial = sn then
      let c := modHart tg.owner (fun h => { h with
        held := h.held + w.watts, resHeld := if w.res then h.resHeld + w.watts else h.resHeld }) c
      finishTag name St.ok w.watts c
    else c
  | none =>
    let c := { c with pwr := { c.pwr with engine := c.pwr.engine ++ [⟨w.kind, w.inst, w.part, w.watts⟩] } }
    if w.kind = 3 then modPort w.inst (fun v => { v with licence := true, licWait := false }) c else c

/-- A request is refused (R190): its tag completes with the status and result 0; an engine may ask again. -/
def refuse (w : LicWait) (st : Status) (c : Chip) : Chip :=
  match w.tag with
  | some (name, sn) =>
    let tg := tagOf c name
    if tg.state = .issued && tg.serial = sn then finishTag name st 0 c else c
  | none => if w.kind = 3 then modPort w.inst (fun v => { v with licWait := false }) c else c

/-- The checks of an arriving request (R593): the status of the first that fails. -/
def licCheck (c : Chip) (w : LicWait) : Status :=
  match w.part with
  | none => if obj c 0x4000 9 < w.watts then St.pwrTooLarge else St.ok
  | some p =>
    if obj c 0x4000 9 < w.watts then St.pwrTooLarge
    else if w.res && tget 0 c.pwr.resBal p < w.watts then St.pwrResShort
    else if !w.res && obj c 0x5C00 3 p < partHeld c p + w.watts then St.pwrPartQuota
    else St.ok

/-- An arriving request is refused, granted from the balance, or enters the wait order (R593). -/
def licArrive (w : LicWait) (c : Chip) : Chip :=
  let st := licCheck c w
  if st ≠ St.ok then refuse w st c
  else if w.res then
    match w.part with
    | none => c
    | some p => grant w { c with pwr := { c.pwr with resBal := tmod 0 c.pwr.resBal p (· - w.watts) } }
  else askLicence { w with fresh := false } (bump 0x4000 21 0 1 c)

/-- Whether a request precedes another in the wait order (R594). -/
def licBefore (a b : LicWait) : Bool :=
  decide (b.prio < a.prio) || (a.prio == b.prio && (decide (a.arrival < b.arrival) ||
    (a.arrival == b.arrival && decide (a.src.toNat < b.src.toNat))))

/-- The head of the wait order; equals keep their order of arrival. -/
def licHead : List LicWait → Option LicWait
  | [] => none
  | w :: r => match licHead r with
    | none => some w
    | some h => if licBefore h w then some h else some w

/-- Grants from the head of the order, up to a number, until the first that does not fit (R594, R595, R598, R600). -/
def licGrants : Nat → Chip → Chip
  | 0, c => c
  | n + 1, c =>
    match licHead c.pwr.waits with
    | none => c
    | some w =>
      if tjHigh c || tripActs c then c
      else
        let c1 := { c with pwr := { c.pwr with waits := c.pwr.waits.erase w } }
        if fits c w then licGrants n (grant w c1)
        else if burstFits c w then
          let c1 := if c.pwr.burst = 0 then { c1 with pwr := { c1.pwr with burst := 1, burstAt := now c } } else c1
          licGrants n (grant w c1)
        else c

/-- One cycle of the Warden (R593 to R595): the requests that arrived are checked, then up to four are granted. -/
def wardenCycle (c : Chip) : Chip :=
  let new := c.pwr.waits.filter (·.fresh)
  let c := { c with pwr := { c.pwr with waits := c.pwr.waits.filter fun w => !w.fresh } }
  licGrants 4 (new.foldl (fun c w => licArrive w c) c)

/-- Requests waiting at their second boundary are refused (R597). -/
def licTimeouts (c : Chip) : Chip :=
  let ws := c.pwr.waits.map fun w => { w with passed := w.passed + 1 }
  let c := { c with pwr := { c.pwr with waits := ws.filter fun w => w.passed < 2 } }
  (ws.filter fun w => 2 ≤ w.passed).foldl (fun c w => refuse w St.pwrTimeout c) c

/-! ### Reservations, the pool and the cap at a boundary -/

/-- Every hard-class thread's RES_HELD leaves its HELD, and the undrawn balances lapse (R194, R599). -/
def resLapse (c : Chip) : Chip :=
  { c with
    harts := normHarts (c.harts.map fun e => (e.1, { e.2 with held := e.2.held - e.2.resHeld, resHeld := 0 }))
    pwr := { c.pwr with resBal := [] } }

/-- Each partition's balance becomes its RES_W (R599). -/
def resGrant (c : Chip) : Chip :=
  { c with pwr := { c.pwr with resBal := parts16.foldl (fun t p => tset 0 t p (obj c 0x5C00 2 p)) [] } }

/-- The draw factor after a stitch (R590). -/
def nextDraw (w : Power) : Nat :=
  if w.winN = 0 || w.winL < 100 * w.winN then w.draw
  else
    let d := max 512 (min 1024 (ceilDiv (1024 * (w.winPkg - w.winN * w.pIdle)) w.winL))
    if w.draw ≤ d then d else ceilDiv (15 * w.draw + d) 16

/-- The draw factor and the pool at a boundary, and the means of the stitch that closed (R590, R595, R606). -/
def poolCompute (c : Chip) : Chip :=
  let w := { c.pwr with pcap := c.pwr.pcapNext }
  let d := nextDraw w
  { c with pwr := { w with
    draw := d
    pool := min (obj c 0x4000 9) ((w.pcap - w.pIdle) * 1024 / d)
    pkgMean := if w.winN = 0 then w.pkgMean else w.winPkg / w.winN
    inMean := if w.winN = 0 then w.inMean else w.winIn / w.winN
    winN := 0, winPkg := 0, winIn := 0, winL := 0, tjSaid := false } }

/-- The cap that the inlet, the guard and R_est give (R606). -/
def thermalCap (c : Chip) : Nat :=
  ((840 - c.pwr.inlet - 8 * (obj c 0x4000 14 : Int)) * 1000000 / (8 * (c.pwr.rEst : Int))).toNat

/-- The package cap is computed anew; it applies from the next boundary (R606). -/
def recap (c : Chip) : Chip :=
  let new := min (obj c 0x4000 1) (min (obj c 0x4000 2) (thermalCap c))
  let old := c.pwr.pcapNext
  let c := { c with pwr := { c.pwr with pcapNext := new, inletUsed := c.pwr.inlet } }
  if 25 ≤ new - old || 25 ≤ old - new then emit Src.warden St.pwrCapChange none [] c else c

/-! ### Floors and frequencies -/

/-- The die of a stand. -/
def dieOf (s : Nat) : Nat := s / 4
/-- A frequency on the grid of R20. -/
def onGrid (f : Nat) : Nat := max 375000 (f / 12500 * 12500)

/-- The frequency in force of a stand, kHz: the lowest that its target and any floor give (R23, R603). -/
def standKhz (c : Chip) (s : Nat) : Nat :=
  let t := tget 1500000 c.pwr.stand s
  let f := c.pwr.floors
  let d := dieOf s
  let f1 := onGrid (t - f.pkgDrop)
  let f2 := onGrid (t / 2 ^ tget 0 f.curShift d)
  let f3 := if thas f.trip d then 375000 else t
  let f4 := if f.burst then onGrid (t / 2) else t
  min t (min (min f1 f2) (min f3 f4))

/-- The frequency of the video clock, kHz (Table 18-4). -/
def videoKhz (c : Chip) : Nat := if thas c.pwr.floors.trip 2 then min 250000 c.pwr.video else c.pwr.video

/-- The stands held below their policy target (Table 01-10). -/
def clkLimited (c : Chip) : Nat :=
  (span 0 8).foldl (fun a s => if standKhz c s < tget 1500000 c.pwr.stand s then a + 2 ^ s else a) 0

/-- A floor acts: WD_FLOOR_SEEN and FLOOR_EVENTS. -/
def floorActed (f : Floors → Floors) (c : Chip) : Chip :=
  bump 0x4000 22 0 1 { c with pwr := { c.pwr with floors := { f c.pwr.floors with seen := true } } }

/-- The last `n` of a list. -/
def lastN {α : Type} (n : Nat) (l : List α) : List α := l.drop (l.length - n)

/-- A sample of package and input power, with the package floor (R592, Table 18-4). -/
def pkgSample (pkg inp : Nat) (c : Chip) : Chip :=
  let w := c.pwr
  let ss := lastN 100 (w.pkgSamples ++ [pkg])
  let c := { c with pwr := { w with
    pkgSamples := ss, winN := w.winN + 1, winPkg := w.winPkg + pkg, winIn := w.winIn + inp, winL := w.winL + licOut c } }
  let f := w.floors
  let above := ss.length == 100 && decide (w.pcap * 100 < ss.foldl (· + ·) 0)
  if above && f.pkgDrop = 0 then
    emit Src.warden St.pwrPkgLimit none []
      (floorActed (fun f => { f with pkgDrop := 12500, pkgTick := 0, pkgLift := false }) c)
  else if above then
    let f := { f with pkgLift := false, pkgTick := f.pkgTick + 1 }
    { c with pwr := { c.pwr with floors :=
      if f.pkgTick < 10 then f else { f with pkgTick := 0, pkgDrop := min 1275000 (f.pkgDrop + 12500) } } }
  else if f.pkgLift && f.pkgDrop ≠ 0 then
    let f := { f with pkgTick := f.pkgTick + 1 }
    { c with pwr := { c.pwr with floors :=
      if f.pkgTick < 10 then f else { f with pkgTick := 0, pkgDrop := f.pkgDrop - 12500, pkgLift := f.pkgDrop != 12500 } } }
  else c

/-- The junction floor acts on a die (Table 18-4, R605): record and count where it did not act. -/
def tripDie (d : Nat) (sensor : Nat) (c : Chip) : Chip :=
  if thas c.pwr.floors.trip d then
    { c with pwr := { c.pwr with floors := { c.pwr.floors with tripLift := tput c.pwr.floors.tripLift d false } } }
  else
    emit (Src.thermal sensor) St.pwrTjTrip none [] (floorActed (fun f => { f with
      trip := tput f.trip d true, tripLift := tput f.tripLift d false }) c)

/-- The die of a junction sensor: 0, 1, or 2 for the base die (Table 01-5). -/
def sensorDie (s : Nat) : Nat := s / 128

/-- Floors whose conditions have lifted are restored at a boundary (Table 18-4, R601). -/
def floorRestore (c : Chip) : Chip :=
  let f := c.pwr.floors
  { c with pwr := { c.pwr with floors := { f with
    curShift := f.curShift.filter fun e => !thas f.curLift e.1
    curLift := []
    trip := f.trip.filter fun e => !thas f.tripLift e.1 || thas f.stuck e.1
    tripLift := []
    burst := f.burst && !f.burstLift
    burstLift := false } } }

/-! ### Sensors and keep-warm -/

/-- A sensor. -/
def sensor (c : Chip) (s : Nat) : Sensor := tget {} c.pwr.sensors s
/-- The module with a sensor replaced. -/
def setSensor (s : Nat) (v : Sensor) (c : Chip) : Chip :=
  { c with pwr := { c.pwr with sensors := tset {} c.pwr.sensors s v } }

/-- TJ_MAX: the hottest sensor that reads (R605). -/
def tjMax (c : Chip) : Int := match liveSensors c with
  | [] => 0
  | e :: r => r.foldl (fun m x => max m x.2.last) e.2.last

/-- Failed sensors of a die. -/
def failedOn (c : Chip) (d : Nat) : Nat := c.pwr.sensors.countP fun e => e.2.failed && sensorDie e.1 == d

/-- A sensor fails (R605). -/
def failSensor (s : Nat) (c : Chip) : Chip :=
  let c := setSensor s { sensor c s with failed := true, bad := 10 } c
  let c := emit (Src.thermal s) St.pwrSensorFailed none [] c
  let d := sensorDie s
  if (if d = 2 then 4 else 16) < failedOn c d && !thas c.pwr.floors.stuck d then
    tripDie d s { c with pwr := { c.pwr with floors := { c.pwr.floors with stuck := tput c.pwr.floors.stuck d true } } }
  else c

/-- The keep-warm load (R610). Its watts while it runs are not stated: a free value of at most 300 (DESIGN CHOICE, log 2). -/
def keepWarm (c : Chip) : Chip :=
  let ss := (liveSensors c).filter fun e => decide (e.1 < 256)
  let off := { c with pwr := { c.pwr with warm := 0 } }
  if obj c 0x4000 18 = 0 || !running c || !c.pwr.waits.isEmpty || anyFloor c || ss.isEmpty then off
  else
    let sum := ss.foldl (fun a e => a + e.2.last) 0
    let t : Int := obj c 0x4000 19
    let b : Int := obj c 0x4000 20
    let n : Int := ss.length
    let start := decide (sum < 8 * (t - b) * n)
    if decide (8 * (t + b) * n < sum) then off
    else if c.pwr.warm = 0 && !start then off
    else
      let (w, c) := drawFree c
      { c with pwr := { c.pwr with warm := w.toNat % 301 } }

/-- A reading of a junction sensor (R604, R605, R598). -/
def readSensor (s : Nat) (v : Option Int) (c : Chip) : Chip :=
  if 288 ≤ s then c else
    let x := sensor c s
    let c := match v with
      | some t =>
        if decide (-320 ≤ t) && decide (t ≤ 1200) then
          setSensor s { x with last := t, peak := if x.seen then max x.peak t else t, bad := 0, seen := true } c
        else if x.failed then c else if 9 ≤ x.bad then failSensor s c else setSensor s { x with bad := x.bad + 1 } c
      | none => if x.failed then c else if 9 ≤ x.bad then failSensor s c else setSensor s { x with bad := x.bad + 1 } c
    let c := if tjHigh c && !c.pwr.tjSaid then
        emit Src.warden St.pwrTjHigh none [] { c with pwr := { c.pwr with tjSaid := true } } else c
    keepWarm c

/-- The inlet temperature changes (R604, R705): a change of 1 K recomputes the cap (R606). -/
def setInlet (i : Int) (c : Chip) : Chip :=
  let moved := decide (8 ≤ i - c.pwr.inletUsed) || decide (8 ≤ c.pwr.inletUsed - i)
  let c := { c with pwr := { c.pwr with inlet := i } }
  if moved then recap c else c

/-- An estimation window ends (R606 to R608): P in W, T and I in units of 0.125 °C. -/
def rthEnd (p : Nat) (t i : Int) (c : Chip) : Chip :=
  let w := c.pwr
  let (est, stepped) := match w.prevWin with
    | none => (none, false)
    | some (p0, t0, i0) =>
      let dp : Int := (p : Int) - p0
      if decide (40 ≤ dp) || decide (dp ≤ -40) then
        (some (((t - i) - (t0 - i0)) * 125000 / dp).toNat, true)
      else (none, false)
  let l4 := match est with
    | some r => lastN 4 (w.rLast4 ++ [r])
    | none => w.rLast4
  let rEst := if l4.isEmpty then w.rEst else max 30000 (min 200000 (l4.foldl max 0))
  let flat := if stepped then 0 else w.flatWins + 1
  let step := 8 ≤ flat && p + 100 < w.pcap && !w.rStep
  let c := { c with pwr := { w with
    rLast4 := l4, rEst := rEst, prevWin := some (p, t, i), flatWins := if step then 0 else flat
    rStep := step, warm := if step then w.warm + 60 else if w.rStep then w.warm - 60 else w.warm } }
  let c := if obj c 0x4000 13 < rEst then emit Src.warden St.pwrRthHigh none [] c else c
  recap (setObj 0x4000 12 0 rEst c)

/-! ### Costs of heavy operations -/

/-- s(f) in units of 1/8 (Table 18-3). -/
def clockFactor (khz : Nat) : Nat :=
  if khz ≤ 750000 then 3 else if khz ≤ 1125000 then 5 else if khz ≤ 1500000 then 8 else 10

/-- The cost of a tensor operation from its rating in units of 1/8 W and its arrays in service (R587). -/
def tensorCost (khz a8 n : Nat) : Nat := ceilDiv (clockFactor khz * (8 + max 1 n * a8)) 64
end Sys2Proof.Machine
end

