-- ==== Sys2Proof/Machine/Pair.lean ====
section
/-! DEFINITION. Pair operation (16): the lace and the gate, mate messages, the welt's egress packets, paired inputs,
divergence, yielding and takeover; hard completion (R55, R56). -/
namespace Sys2Proof.Machine

/-! ### States -/

/-- Pair states (Table 16-1). -/
def PSt.unpaired : Nat := 0
/-- FORMING. -/
def PSt.forming : Nat := 1
/-- ACTIVE. -/
def PSt.active : Nat := 2
/-- SOLO. -/
def PSt.solo : Nat := 3
/-- STANDBY. -/
def PSt.standby : Nat := 4
/-- OUT_OF_SYNC. -/
def PSt.outOfSync : Nat := 5
/-- TAKING. -/
def PSt.taking : Nat := 6
/-- YIELDED. -/
def PSt.yielded : Nat := 7

/-- The module with its pair state changed. -/
def modPair (f : Pair → Pair) (c : Chip) : Chip := { c with pair := f c.pair }

/-- The mate's module id. -/
def mateId (c : Chip) : Nat := obj c 0x3100 2

/-- Egress kind, destination and destination queue of a queue (Table 16-9). -/
def egKind (c : Chip) (q : Nat) : Nat := obj c 0x5840 2 q
/-- EG_PEER. -/
def egPeer (c : Chip) (q : Nat) : Nat := obj c 0x5840 3 q
/-- EG_PEER_Q. -/
def egPeerQ (c : Chip) (q : Nat) : Nat := obj c 0x5840 4 q

/-! ### Mate messages -/

/-- A mate message leaves by port 15 under the mates' session (R536); its CTR, or none where the link is not there. -/
def sendMate (op : Nat) (body : Bytes) (c : Chip) : Option Nat × Chip :=
  let d := mateId c
  if (port c 15).state = Pst.up && (sess c d).state = 2 then
    let m : Msg := { mkMsg c op 3 d 0 0 body.length 0 0 0 body [] with epoch := 0, job := 0 }
    (some (3 * 2 ^ 62 + tget 0 (sess c d).sent 3 + 1), transmit 15 ⟨m, none⟩ c)
  else (none, c)

/-- MATE_HB (Table 16-5), which a module in pair mode sends. -/
def sendHb (c : Chip) : Chip :=
  if obj c 0x3100 1 ≠ 1 then c else
  let p := c.pair
  let fl := b2n p.claim + 2 * b2n p.laceIn + 4 * b2n p.tie + 8 * (obj c 0x3100 4 % 2)
  (sendMate 0x40 (leBytes 1 p.state ++ leBytes 1 fl ++ leBytes 2 (obj c 0x3100 3) ++ leBytes 4 0 ++ leBytes 8 (countNow c)) c).2

/-- DIGEST (Table 16-5). -/
def sendDigest (q kind n seq own : Nat) (c : Chip) : Chip :=
  (sendMate 0x41 (leBytes 4 q ++ leBytes 1 kind ++ leBytes 3 0 ++ leBytes 8 n ++ leBytes 2 seq ++ leBytes 6 0 ++ leBytes 16 own) c).2

/-! ### Claim and gate -/

/-- CLAIM is raised only while LACE_IN and FENCE_N permit it, and not by a module out of service (R531, R562, R572). -/
def raiseClaim (c : Chip) : Chip :=
  if c.pair.laceIn || c.pair.fenceLow || c.life.mstate == MState.fenced || c.life.mstate == MState.failed then c else sendHb (modPair (fun p => { p with claim := true, claimWant := false }) c)
/-- CLAIM is cleared, and the gate closes (R530, R531). -/
def clearClaim (c : Chip) : Chip :=
  if c.pair.claim then sendHb (modPair (fun p => { p with claim := false, gate := false, claimWant := false }) c) else c

/-- The details of a lace or formation record (Table 17-10). -/
def laceDetail (c : Chip) : List Nat := [c.pair.state, (c.pair.hb.map (·.raw)).getD 0, b2n c.pair.laceIn]

/-- UNPAIRED is entered: CLAIM is raised, or the fault of a mate that claims is recorded (R531). -/
def enterUnpaired (c : Chip) : Chip :=
  let c := modPair (fun p => { p with state := PSt.unpaired, stage := 0, swapReq := false, swap := false, silent := false
                                      yieldSeen := false, hb := none }) c
  if c.pair.laceIn then
    emit Src.lace St.prLaceFault none (laceDetail c) (clearClaim c)
  else raiseClaim c

/-- A failed formation returns to UNPAIRED with its record (R526). -/
def failForm (st : Status) (c : Chip) : Chip :=
  let src := if st == St.prTieBad || st == St.prLaceFault then Src.lace else Src.welt
  let c := emit src st none (laceDetail c) (clearClaim c)
  enterUnpaired c

/-- A yield with its reason (R553). -/
def yieldPair (reason : Status) (c : Chip) : Chip :=
  if c.pair.state = PSt.active || c.pair.state = PSt.solo then
    let c := clearClaim c
    let c := modPair (fun p => { p with state := PSt.yielded, gate := false }) c
    let c := (sendMate 0x44 (leBytes 2 reason.toNat) c).2
    emit Src.welt St.prYield none [reason.toNat] c
  else c

/-- A standby leaves sync (R537, Table 16-7). -/
def leaveSync (reason : Status) (c : Chip) : Chip :=
  if c.pair.state = PSt.standby then
    emit Src.welt St.prOutOfSync none [reason.toNat] (modPair (fun p => { p with state := PSt.outOfSync }) c)
  else c

/-- A mate that goes out of service or is reset yields, or leaves sync where it stands by or takes over (R553; DEDUCED, log 28). -/
def leavePair (reason : Status) (c : Chip) : Chip :=
  let c := yieldPair reason c
  if c.pair.state = PSt.taking then
    let c := modPair (fun p => { p with state := PSt.outOfSync }) (clearClaim c)
    emit Src.welt St.prOutOfSync none [reason.toNat] c
  else leaveSync reason c

/-- A thread of a paired partition took POISON_CONSUMED (Table 16-7). -/
def pairPoison (c : Chip) : Chip :=
  if c.pair.poisonTaken then
    leaveSync St.poisonConsumed (yieldPair St.poisonConsumed (modPair (fun p => { p with poisonTaken := false }) c))
  else c

/-! ### Hard completion -/

/-- Whether every hard-class thread of a partition has finished the present stitch (R55). -/
def hardDone (c : Chip) (p : Nat) : Bool :=
  (threadsOf c p).all fun t => let h := hart c t; !h.hard || h.state == .empty || (h.state == .sleepStitch && !hasIssued c t)

/-- Whether R56 lets a packet of a queue be released. -/
def r56 (c : Chip) (q : Nat) (hard : Bool) (count : Nat) : Bool :=
  !hard || (count != countNow c && count != c.time.curCount) || (match queueOwner c q with
    | some p => hardDone c p
    | none => true)

/-- Packets of WELT queues without an egress entry become poppable, in order, once R56 allows (Release without a mate,
R712). -/
def weltPoppable (c : Chip) : Chip :=
  c.queues.foldl (fun c e =>
    if e.2.welt && egKind c e.1 ≠ 1 then
      (e.2.pkts.takeWhile fun p => p.poppable || r56 c e.1 p.hard p.count).foldl
        (fun c p => if p.poppable then c else makePoppable e.1 p.seq p.count c) c
    else c) c

/-! ### Egress packets -/

/-- The digest of a packet (R546). -/
def pktDigest (q n seq kind : Nat) (ws : List (Word × Bool)) : Nat :=
  let bits := ws.zipIdx.foldl (fun a e => a + b2n e.1.2 * 2 ^ e.2) 0
  leNat ((sha384 (leBytes 4 q ++ leBytes 8 n ++ leBytes 2 seq ++ leBytes 1 kind ++ [0] ++ ofWords (ws.map (·.1)) ++
    leBytes ((ws.length + 7) / 8) bits)).take 16)

/-- The welt's records of a queue, oldest first. -/
def egOf (c : Chip) (q : Nat) : List EgRec := c.pair.eg.filter fun e => e.q == q

/-- A held egress packet leaves its queue and the welt (R544). -/
def dropEg (q n seq : Nat) (c : Chip) : Chip :=
  removePkt q n seq (modPair (fun p => { p with eg := p.eg.filter fun e => !(e.q == q && e.count == n && e.seq == seq) }) c)

/-- A packet is withheld or discarded for its digest (Table 16-7). -/
def mismatchEg (e : EgRec) (c : Chip) : Chip :=
  let c := dropEg e.q e.count e.seq c
  let c := bump 0x3100 13 0 1 (modPair (fun p => { p with mismatch := true }) c)
  let c := shadowReset c
  emit Src.welt St.prDigestMismatch (queueOwner c e.q) [e.q, e.count, e.seq, e.own % 2 ^ 64, e.mate.getD 0 % 2 ^ 64] c

/-- Whether digests decide a packet's fate in a pair state (Table 16-7). -/
def compares (c : Chip) : Bool :=
  c.pair.state == PSt.active || c.pair.state == PSt.standby || c.pair.state == PSt.outOfSync

/-- The mate's digest of an output packet is compared with the welt's own (R552). -/
def compareEg (q n seq : Nat) (c : Chip) : Chip :=
  match c.pair.eg.find? fun e => e.q = q && e.count = n && e.seq = seq with
  | none => c
  | some e => match e.mate with
    | none => c
    | some d => if d = e.own || !compares c then c else mismatchEg e c

/-- A packet is confirmed (R547, R548): counted, and its cells freed. -/
def confirmEg (q n seq : Nat) (c : Chip) : Chip :=
  if c.pair.eg.any fun e => e.q = q && e.count = n && e.seq = seq then bump 0x5840 5 q 1 (dropEg q n seq c) else c

/-- A packet has been committed to a queue: on an egress queue the welt takes it, digests it and tells the mate
(R544, R546). -/
def weltCommit (q : Nat) (c : Chip) : Chip :=
  let u := queue c q
  if u.welt && egKind c q = 1 then
    match u.pkts.getLast? with
    | none => c
    | some p =>
      let own := pktDigest q p.count p.seq 0 (pktWords c p)
      let mate := (c.pair.early.find? fun x => x.1 = 0 && x.2.1 = q && x.2.2.1 = p.count && x.2.2.2.1 = p.seq).map (·.2.2.2.2)
      let conf := c.pair.early.any fun x => x.1 = 2 && x.2.1 = q && x.2.2.1 = p.count && x.2.2.2.1 = p.seq
      let c := modPair (fun x => { x with
        eg := x.eg ++ [{ q := q, count := p.count, seq := p.seq, hard := p.hard, own := own, mate := mate }]
        early := x.early.filter fun y => !(y.1 != 1 && y.2.1 == q && y.2.2.1 == p.count && y.2.2.2.1 == p.seq) }) c
      let c := if c.pair.state = PSt.unpaired then c else sendDigest q 0 p.count p.seq own c
      if conf then confirmEg q p.count p.seq c else compareEg q p.count p.seq c
  else c

/-- A whole packet from an engine producer (R315), which the welt takes on an egress queue. -/
def putPacket (hard : Bool) (src : Source) (q : Nat) (ws : List (Word × Bool)) (bad : Bool) (c : Chip) : Status × Chip :=
  let before := (queue c q).commits
  match enginePutAs hard src q ws bad c with
  | (st, c) => (st, if (queue c q).commits = before then c else weltCommit q c)

/-- Whether the flit of a queue's last CONFIRM still waits for its acknowledgement (R547). -/
def confirmOpen (c : Chip) (q : Nat) : Bool :=
  match tget none (c.pair.confirm.map fun e => (e.1, some e.2)) q with
  | none => false
  | some n =>
    let v := port c 15
    let is (b : Bytes) : Bool := leNat ((b.drop 16).take 8) == n
    v.txq.any (fun e => e.1 == 3 && is e.2) || v.replay.any fun e => is (flitBody e.2)

/-- The nominal boundary time of a count (R47). -/
def timeOfCount (t : Time) (n : Nat) : Nat :=
  ((t.anchorTime : Int) + ((n : Int) - (t.anchorCount : Int)) * (periodNs t : Int)).toNat

/-- The words of a delivered packet (Table 16-6). -/
def deliveredWords (c : Chip) (e : EgRec) (p : QPkt) (solo : Bool) : List (Word × Bool) :=
  let ws := pktWords c p
  let id := if c.pair.state = PSt.unpaired then c.moduleId else obj c 0x3100 3
  let w0 := (p.len + 3) % 65536 + b2n e.dup * 2 ^ 16 + b2n solo * 2 ^ 17 + b2n (ws.any (·.2)) * 2 ^ 18 + id % 4096 * 2 ^ 32
  (BitVec.ofNat 64 w0, false) :: (BitVec.ofNat 64 (e.count % 2 ^ 48 + e.seq * 2 ^ 48), false) ::
    (BitVec.ofNat 64 (timeOfCount c.time e.count), false) :: ws

/-- The segments of a delivered packet leave as QPKT messages (R545, R518). -/
def sendSegs (part dst dq q n seq : Nat) : Nat → Bool → List (Word × Bool) → Chip → Chip
  | 0, _, _, c => c
  | k + 1, first, ws, c =>
    if ws.isEmpty then c else
      let here := ws.take 512
      let rest := ws.drop 512
      let last := rest.isEmpty
      let tp := targetPart c dst (mapOf c part).job
      let kind := ReqKind.welt q n seq last
      let mk (r : Nat) : Msg :=
        let m := mkMsg c 4 0 dst tp part (here.length * 8) dq (epochOf c part * 2 ^ 48) r (ofWords (here.map (·.1))) (here.map (·.2))
        { m with flags := BitVec.ofNat 8 (m.flags.toNat + 8 * b2n first + 16 * b2n last) }
      sendSegs part dst dq q n seq k false rest (sendReq dst kind mk c).2

/-- The egress packet that a queue may send now, if any: the oldest, with whether it goes as SOLO (R547, R551). -/
def egReady (c : Chip) (q : Nat) : Option (EgRec × Bool) :=
  match egOf c q with
  | [] => none
  | e :: _ =>
    let agree := e.mate == some e.own
    let st := c.pair.state
    if !c.pair.gate || confirmOpen c q || !r56 c q e.hard e.count then none
    else if st = PSt.unpaired then some (e, false)
    else if st = PSt.active then (if agree then some (e, false) else none)
    else if st = PSt.solo then some (e, !agree)
    else none

/-- The oldest packet of an egress queue is sent (R545, R547, R549). -/
def sendEg (q : Nat) (want : Nat) (c : Chip) : Chip :=
  match egReady c q with
  | none => c
  | some (e, solo) =>
    if e.st ≠ want then c else
      match (queue c q).pkts.find? fun p => p.count = e.count && p.seq = e.seq with
      | none => c
      | some p =>
        let ws := deliveredWords c e p solo
        let c := modPair (fun x => { x with eg := x.eg.map fun y =>
          if y.q = q && y.count = e.count && y.seq = e.seq then { y with st := 1 } else y }) c
        let c := if e.dup then bump 0x3100 15 0 1 c else c
        sendSegs ((queueOwner c q).getD 0) (egPeer c q) (egPeerQ c q) q e.count e.seq (ws.length / 512 + 1) true ws c

/-- The destination's answer to a segment of an egress packet (R547, R549). -/
def egAnswer (q n seq : Nat) (last : Bool) (st : Status) (c : Chip) : Chip :=
  match c.pair.eg.find? fun e => e.q = q && e.count = n && e.seq = seq && e.st = 1 with
  | none => c
  | some _ =>
    let done (c : Chip) : Chip :=
      let c := confirmEg q n seq c
      if c.pair.state = PSt.unpaired then c else
        match sendMate 0x42 (leBytes 4 q ++ leBytes 4 0 ++ leBytes 8 n ++ leBytes 2 seq) c with
        | (some k, c) => modPair (fun x => { x with confirm := tins x.confirm q k }) c
        | (none, c) => c
    let again (dup : Bool) (c : Chip) : Chip := modPair (fun x => { x with eg := x.eg.map fun y =>
      if y.q = q && y.count = n && y.seq = seq then { y with st := 2, dup := y.dup || dup } else y }) c
    if st = St.ok then (if last then done c else c)
    else if st == St.qFull || st == St.qPoolEmpty || st == St.qOpenLimit then again false c
    else if st == St.addrRemoteUnreachable then again true c
    else done (emit Src.welt St.prEgressRefused (queueOwner c q) [q, n, seq, st.toNat] c)

/-- The oldest packet of each egress queue is marked as a possible duplicate after a takeover (R554). -/
def markDups (c : Chip) : Chip :=
  modPair (fun x => { x with eg := (x.eg.foldl (fun (acc : List Nat × List EgRec) e =>
    if acc.1.contains e.q then (acc.1, acc.2 ++ [e]) else (e.q :: acc.1, acc.2 ++ [{ e with dup := true, st := 0 }])) ([], [])).2 }) c

/-- Packets of closed stitches that still lack the mate's digest are withheld or discarded (Table 16-7). -/
def missingDigests (n : Nat) (c : Chip) : Chip :=
  if compares c then
    (c.pair.eg.filter fun e => e.mate.isNone && e.count < n && e.st = 0).foldl (fun c e => mismatchEg e c) c
  else c

/-- Egress and WELT packets that a partition's hard-class threads committed in a stitch are discarded (R57). -/
def discardHard (p n : Nat) (c : Chip) : Chip :=
  c.queues.foldl (fun c e =>
    if e.2.welt && queueOwner c e.1 = some p then
      (e.2.pkts.filter fun k => k.hard && k.count = n && !k.poppable).foldl (fun c k => dropEg e.1 k.count k.seq c) c
    else c) c

/-- Every egress packet of a partition not yet confirmed is discarded (R568). -/
def discardEgress (p : Nat) (c : Chip) : Chip :=
  (c.pair.eg.filter fun e => queueOwner c e.q = some p).foldl (fun c e => dropEg e.q e.count e.seq c) c

/-! ### Paired inputs -/

/-- A held input packet's cells are freed, and the packet is gone. -/
def dropInput (r : InRec) (c : Chip) : Chip :=
  let c := modPair (fun p => { p with inp := p.inp.erase r }) c
  bump 0x2300 9 0 1 (modQueue r.q (fun u => { u with held := u.held - r.pkt.cells.length }) (freeCells r.pkt.cells c))

/-- A held input packet is committed (R540). -/
def commitInput (r : InRec) (c : Chip) : Chip :=
  let c := modPair (fun p => { p with inp := p.inp.erase r }) c
  weltCommit r.q (commitPkt { r.pkt with prod := .engine Src.welt } false c)

/-- Whether both mates hold an input packet with equal digests; `alone` settles as a SOLO mate does (R540, R542). -/
def inputAgrees (alone : Bool) (r : InRec) : Bool := alone || r.mate == some r.own

/-- One input queue is settled (R540). -/
def settleQueue (alone : Bool) (q : Nat) (c : Chip) : Chip :=
  let rs := sortBy (·.seq) (c.pair.inp.filter fun r => r.q == q && r.elig)
  let good := rs.filter (inputAgrees alone)
  let bad := rs.filter fun r => !inputAgrees alone r
  let top := rs.foldl (fun m r => max m (r.seq + 1)) (tget 0 c.pair.settled q)
  let c := modPair (fun p => { p with settled := tset 0 p.settled q top }) c
  let c := good.foldl (fun c r => commitInput r c) c
  if bad.isEmpty then c else
    let c := bad.foldl (fun c r => dropInput r c) c
    shadowReset (emit Src.welt St.prInputDrop (queueOwner c q) [q, bad.length] (bump 0x3100 14 0 bad.length c))

/-- Every input queue is settled, and the input blaze of each partition is set (R540). -/
def settleInputs (alone : Bool) (c : Chip) : Chip :=
  let qs := (c.pair.inp.map (·.q)).foldl (fun l q => if l.contains q then l else insBy id q l) []
  let c := qs.foldl (fun c q => settleQueue alone q c) c
  parts16.foldl (fun c p => if assigned c p then engineSet p (obj c 0x5841 2 p) Src.welt c else c) c

/-- The mate is silent (R537). -/
def mateSilent (c : Chip) : Chip :=
  let c := modPair (fun p => { p with silent := true }) c
  if c.pair.state = PSt.active then
    if obj c 0x3100 9 = 1 then
      emit Src.welt St.prSolo none [0] (modPair (fun p => { p with state := PSt.solo }) c)
    else c
  else if c.pair.state = PSt.standby && c.pair.laceIn then leaveSync 0 c
  else c

/-- What a mate's BOUNDARY for a count does once this module has passed the same boundary (R540, Table 16-7). -/
def mateBoundary (n overs : Nat) (c : Chip) : Chip :=
  let mine := c.pair.overran
  let c := missingDigests n c
  let c := if bitsOf mine 15 0 &&& (65535 - overs % 65536) != 0 then leaveSync St.stitchOverrun (yieldPair St.stitchOverrun c) else c
  modPair (fun p => { p with mateBoundary := none, boundaryAt := none }) (settleInputs false c)

/-- BOUNDARY is sent after step 2 of R28, and inputs that are eligible are marked (R540). -/
def boundarySend (n boundary overs : Nat) (c : Chip) : Chip :=
  let st := c.pair.state
  if st = PSt.unpaired || st = PSt.forming then modPair (fun p => { p with overran := overs }) c else
    let lim := obj c 0x3100 10 * 1000
    let c := modPair (fun p => { p with
      overran := overs, boundaryAt := some n
      inp := p.inp.map fun r => if r.sendTime + lim < boundary then { r with elig := true } else r }) c
    let c := (sendMate 0x43 (leBytes 8 n ++ leBytes 2 overs) c).2
    match c.pair.mateBoundary with
    | some k => if k / 65536 = n then mateBoundary n (k % 65536) c else c
    | none => c

/-! ### Formation and takeover -/

/-- Formation begins (R526 step 1). -/
def formStart (c : Chip) : Chip :=
  sendHb (openSession (mateId c) (modPair (fun p => { p with stage := 2, hb := none }) c))

/-- The heartbeat of formation is checked (R526 steps 1 and 2). -/
def formHb (h : Hb) (c : Chip) : Chip :=
  let me := obj c 0x3100 4 % 2 = 1
  if h.tie = c.pair.tie then failForm St.prTieBad c
  else if h.id ≠ obj c 0x3100 3 || h.role = me then failForm St.prFormFail c
  else
    let c := modPair (fun p => { p with stage := 3 }) c
    if me then sendHb c else raiseClaim c

/-- One raise of the lace test ends: what each mate sampled is compared (R526 step 2). The standby opens its egress
sessions after the second (step 3). -/
def laceTestEnd (c : Chip) : Chip :=
  let me := obj c 0x3100 4 % 2 = 1
  let mateIn := (c.pair.hb.map (·.laceIn)).getD false
  let mateClaim := (c.pair.hb.map (·.claim)).getD false
  let ok := decide (mateIn = c.pair.claim) && decide (c.pair.laceIn = mateClaim)
  if c.pair.stage = 3 then
    if !ok then failForm St.prLaceFault c
    else
      let c := modPair (fun p => { p with stage := 4 }) c
      if me then (if c.pair.laceIn then modPair (fun p => { p with claimWant := true }) c else raiseClaim c) else clearClaim c
  else if c.pair.stage = 4 then
    if !ok then failForm St.prLaceFault c
    else
      let c := modPair (fun p => { p with stage := 5 }) (clearClaim c)
      if me then c else
        (c.queues.filter fun e => e.2.welt && egKind c e.1 = 1).foldl (fun c e => openSession (egPeer c e.1) c) c
  else c

/-- The egress queues whose destination has no session in a state: 0 none, 1 opening (R526 step 3). -/
def egressWants (st : Nat) (c : Chip) : List Nat :=
  (c.queues.filter fun e => e.2.welt && egKind c e.1 = 1 && (sess c (egPeer c e.1)).state = st).map (·.1)

/-- A session to an egress destination fails to open (R526 step 3). -/
def failEgress (q : Nat) (c : Chip) : Chip :=
  enterUnpaired (emit Src.welt St.prEgressUnreachable none [q, egPeer c q] (clearClaim c))

/-- Formation at a boundary: it starts, or its last step is taken (R526). A standby whose sessions are still opening takes it
at a later boundary (DEDUCED, log 28). -/
def formBoundary (n : Nat) (c : Chip) : Chip :=
  if c.pair.state ≠ PSt.forming then c
  else if c.pair.stage = 1 then (if obj c 0x3100 5 ≤ n then formStart c else c)
  else if c.pair.stage = 5 then
    if obj c 0x3100 4 % 2 = 1 then
      raiseClaim (modPair (fun p => { p with state := PSt.active, stage := 0 }) c)
    else match egressWants 0 c, egressWants 1 c with
      | q :: _, _ => failEgress q c
      | [], _ :: _ => c
      | [], [] => sendHb (modPair (fun p => { p with state := PSt.standby, stage := 0 }) c)
  else c

/-- A standby takes over (R554). -/
def takeover (c : Chip) : Chip :=
  if c.pair.state = PSt.standby && !c.pair.laceIn && (c.pair.yieldSeen || c.pair.silent) then
    raiseClaim (modPair (fun p => { p with state := PSt.taking }) c)
  else c

/-- Whether the module state lets the gate open (Table 22-1). -/
def gateState (c : Chip) : Bool := c.life.mstate == MState.service || c.life.mstate == MState.degraded

/-- The gate opens once its three conditions have held for 1 µs (R530, Table 22-1); a mate that takes over becomes SOLO, or
ACTIVE in a swap (R554, R557). -/
def gateOpen (c : Chip) : Chip :=
  let p := c.pair
  if p.claim && !p.laceIn && !p.fenceLow && !p.gate && gateState c then
    let c := modPair (fun p => { p with gate := true }) c
    if p.state = PSt.taking then
      let c := modPair (fun p => { p with
        state := if p.swap then PSt.active else PSt.solo, swap := false, yieldSeen := false }) c
      let c := setObj 0x3100 16 0 (now c) (bump 0x3100 12 0 1 c)
      let c := emit Src.welt St.prTakeover none [now c] (markDups c)
      sendHb c
    else c
  else c

/-- A swap's yield at a boundary, after step 2 of R28 (R557). -/
def swapYield (c : Chip) : Chip :=
  if c.pair.swapReq then
    yieldPair St.prSwapDone (modPair (fun p => { p with swapReq := false, swap := true }) c)
  else c

/-- The status register of the pair block (Table 16-4). -/
def pairStatus (c : Chip) : Nat :=
  let p := c.pair
  p.state * 256 + b2n p.tie * 128 + b2n p.fenceLow * 64 + b2n p.laceIn * 32 + b2n p.claim * 16 + b2n p.gate * 8 +
    b2n p.laceErr * 4 + b2n p.mismatch * 2 + b2n p.writeLost

end Sys2Proof.Machine
end

