-- ==== Sys2Proof/Machine/Hooks.lean ====
section
/-! DEFINITION. Policy firmware's hooks (20): which are present, the calls and their order, and the banks as bytes. -/
namespace Sys2Proof.Machine

/-- Hook codes (Table 20-3). -/
def Hk.init : Nat := 0
/-- RECLAIM. -/
def Hk.reclaim : Nat := 1
/-- STITCH. -/
def Hk.stitch : Nat := 2
/-- KV_PRESSURE. -/
def Hk.kvPressure : Nat := 3
/-- RATE. -/
def Hk.rate : Nat := 4
/-- FAULT. -/
def Hk.fault : Nat := 5

/-- A bank of the carrier. -/
def bank (c : Chip) (b : Nat) : Bank := tget {} c.fw.banks b
/-- The module with a bank replaced. -/
def setBank (b : Nat) (v : Bank) (c : Chip) : Chip := { c with fw := { c.fw with banks := tset {} c.fw.banks b v } }

/-- A byte of a bank: an erased byte reads 0xFF. -/
def bankByte (k : Bank) (off : Nat) : Byte := nth 0xFF (tget [] k.chunks (off / 1024)) (off % 1024)
/-- Bytes of a bank. -/
def bankBytes (k : Bank) (off : Nat) : Nat → Bytes
  | 0 => []
  | n + 1 => bankByte k off :: bankBytes k (off + 1) n
/-- A little-endian field of a bank. -/
def bankNat (k : Bank) (off n : Nat) : Nat := leNat (bankBytes k off n)

/-- Whether the running image holds a hook (HOOK_OFF of Table 20-2). The reference policy holds every hook of Table 20-5. -/
def hookPresent (c : Chip) (h : Nat) : Bool :=
  let k := bank c c.fw.runBank
  k.factory || bankNat k (bankNat k 24 4 + bankNat k 52 4 + 4 * h) 4 != 0

/-- The pair that carries a duty, 0 for every hook but RATE and 1 for RATE and the dictionary engine (R638, R639). -/
def dutyPair (c : Chip) (duty : Nat) : Nat := if thas c.fw.bad duty then 1 - duty else duty
/-- Whether hooks are called: policy firmware runs (R651). -/
def hooksOn (c : Chip) : Bool := c.fw.fwState == 1
/-- The hook under way of a duty. -/
def hookRun (c : Chip) (duty : Nat) : Option HookRun := tget none c.fw.run duty
/-- The module with a duty's hook replaced. -/
def setRun (duty : Nat) (r : Option HookRun) (c : Chip) : Chip := { c with fw := { c.fw with run := tset none c.fw.run duty r } }
/-- The duty of a hook. -/
def dutyOf (h : Nat) : Nat := if h = Hk.rate then 1 else 0

/-- A hook is called: HOOK_CALLS and HK_CALLS count it. -/
def beginHook (k : HookCall) (c : Chip) : Chip :=
  bump 0x4200 12 0 1 (bump 0x5C81 2 k.hook 1 (setRun (dutyOf k.hook) (some ⟨k, now c, false⟩) c))

/-- The next waiting call of a duty begins once no hook runs for it (R649). -/
def nextHook (duty : Nat) (c : Chip) : Chip :=
  if !hooksOn c || (hookRun c duty).isSome then c
  else if duty = 1 then
    match c.fw.rateQ with
    | [] => c
    | k :: r => beginHook k { c with fw := { c.fw with rateQ := r } }
  else match c.fw.waitQ with
    | [] => c
    | k :: r => beginHook k { c with fw := { c.fw with waitQ := r } }

/-- A call falls due: it waits behind the calls of its duty, the FAULT calls last (R649). An absent hook is not called
(R647). -/
def callHook (k : HookCall) (c : Chip) : Chip :=
  if !hooksOn c || !hookPresent c k.hook then c
  else if k.hook = Hk.rate then nextHook 1 { c with fw := { c.fw with rateQ := c.fw.rateQ ++ [k] } }
  else if k.hook = Hk.fault then
    if 64 ≤ c.fw.waitQ.countP fun x => x.hook == Hk.fault then bump 0x5C81 5 Hk.fault 1 c
    else nextHook 0 { c with fw := { c.fw with waitQ := c.fw.waitQ ++ [k] } }
  else
    let w := c.fw.waitQ
    nextHook 0 { c with fw := { c.fw with
      waitQ := (w.filter fun x => x.hook != Hk.fault) ++ [k] ++ w.filter fun x => x.hook == Hk.fault } }

/-- Whether RECLAIM runs within its deadline: the serving engine serves partitions only after it (Table 20-3). -/
def reclaiming (c : Chip) : Bool := match hookRun c 0 with
  | some r => r.call.hook == Hk.reclaim && !r.late
  | none => false
/-- Whether RECLAIM runs: the serving engine's Cobbler port accepts SEQ_CLOSE (R650). -/
def reclaimRuns (c : Chip) : Bool := match hookRun c 0 with
  | some r => r.call.hook == Hk.reclaim
  | none => false
/-- Whether KV_PRESSURE runs for a partition: the pager's Cobbler port accepts its commands (R650). -/
def pressureRuns (c : Chip) (p : Nat) : Bool := match hookRun c 0 with
  | some r => r.call.hook == Hk.kvPressure && r.call.arg == p
  | none => false

/-- A request of Table 20-4 is refused to policy firmware (R653). -/
def denied (c : Chip) : Chip := bump 0x4200 15 0 1 c

end Sys2Proof.Machine
end

