-- ==== Sys2Proof/Machine/Kv.lean ====
section
/-! DEFINITION. The KV pager (12): slots, pages, frames, moves, commands and responses. -/
namespace Sys2Proof.Machine

/-- A slot. -/
def kvSlot (c : Chip) (s : Nat) : KvSlot := tget {} c.kv.slots s
/-- The module with a slot replaced. -/
def setSlot (s : Nat) (v : KvSlot) (c : Chip) : Chip := { c with kv := { c.kv with slots := tset {} c.kv.slots s v } }
/-- A page of a slot by owned index. -/
def kvPage (c : Chip) (s i : Nat) : KvPage := tget {} (kvSlot c s).pages i
/-- The module with a page changed. -/
def modPage (s i : Nat) (f : KvPage → KvPage) (c : Chip) : Chip :=
  let v := kvSlot c s
  setSlot s { v with pages := tins v.pages i (f (tget {} v.pages i)) } c

/-- Tokens of a page (R404). -/
def pageTokens (v : KvSlot) : Nat := 2 ^ (v.tlog + 3)
/-- Whether this module owns a logical page (R425). -/
def ownsPage (v : KvSlot) (p : Nat) : Bool := v.spread != 2 || p / v.span % (v.parts + 1) == v.spart
/-- The owned index of a logical page (R409). -/
def ownIdx (v : KvSlot) (p : Nat) : Nat := if v.spread = 2 then p / v.span / (v.parts + 1) * v.span + p % v.span else p
/-- Logical pages that the tokens of a slot reach. -/
def logicalPages (v : KvSlot) : Nat := ceilDiv v.tokens (pageTokens v)

/-- Element bytes of a key format, 0x03 to 0x06 (R404, Table 06-1). -/
def kvElem (fmt : Nat) : Nat := if fmt ≤ 4 then 2 else 1

/-! ### Frames -/

/-- Every page of a partition's slots: slot, owned index, page. -/
def partPages (c : Chip) (p : Nat) : List (Nat × Nat × KvPage) :=
  ((c.kv.slots.filter fun e => e.2.part == p && e.2.state != 0).map fun e => e.2.pages.map fun g => (e.1, g.1, g.2)).flatten

/-- HBM frames of a partition in use: pages in HBM, and frames that moves back have taken. -/
def hbmUsed (c : Chip) (p : Nat) : List Nat :=
  ((partPages c p).filterMap fun g => if g.2.2.us then none else g.2.2.frame) ++
  (c.kv.moves.filterMap fun m => if m.back && (kvSlot c m.slot).part = p then some m.frame else none)
/-- Understory frames of a partition in use. -/
def usUsed (c : Chip) (p : Nat) : List Nat :=
  ((partPages c p).filterMap fun g => if g.2.2.us then g.2.2.frame else none) ++
  (c.kv.moves.filterMap fun m => if !m.back && (kvSlot c m.slot).part = p then some m.frame else none)

/-- The local address of a frame. -/
def frameAddr (c : Chip) (p : Nat) (us : Bool) (n : Nat) : Nat := obj c 0x5580 (if us then 4 else 2) p + n * 65536

/-- Free HBM frames that the pager may allocate (R422). -/
def hbmFree (c : Chip) (p : Nat) : List Nat :=
  let used := hbmUsed c p
  let size := obj c 0x5580 3 p
  if size ≤ used.length then [] else ((span 0 size).filter fun n => !used.contains n).take (size - used.length)
/-- Free understory frames, in regions that the start-up scrub has completed (R407, R422). -/
def usFree (c : Chip) (p : Nat) : List Nat :=
  let used := usUsed c p
  let size := obj c 0x5580 5 p
  if size ≤ used.length then [] else
    ((span 0 size).filter fun n => !used.contains n &&
      bitOf c.mem.usScrub ((frameAddr c p true n - usBase) / 2 ^ 30)).take (size - used.length)

/-- One of several, by a free value: the rule does not say which (DESIGN CHOICE, log 2). -/
def choose (l : List Nat) (c : Chip) : Option Nat × Chip :=
  match l with
  | [] => (none, c)
  | _ =>
    let (w, c) := drawFree c
    (l[w.toNat % l.length]?, c)

/-- HBM frames that waiting commands still need (R423). -/
def framesOwed (c : Chip) (p : Nat) : Nat :=
  (partPages c p).countP fun g => g.2.2.frame.isNone

/-- Pages that waiting commands need moved back and whose move has not begun. -/
def movesOwed (c : Chip) (p : Nat) : Nat :=
  (c.kv.waits.filter fun w => w.part == p).foldl (fun a w =>
    a + w.need.countP fun k => (kvPage c k.1 k.2).us && (kvPage c k.1 k.2).move != 2) 0

/-- Victims of spills, in the order of R418: least recently named, then slot, then logical page. -/
def victims (c : Chip) (p : Nat) : List (Nat × Nat) :=
  let l := (partPages c p).filter fun g => !g.2.2.us && g.2.2.move == 0 && g.2.2.pins == 0 && g.2.2.frame.isSome
  (sortBy (fun g => g.2.2.named) (sortBy (fun g => g.1 * 2 ^ 20 + g.2.1) l)).map fun g => (g.1, g.2.1)

/-- A spill begins: an understory frame is taken and MOVE becomes 1 (R418). -/
def startSpill (p : Nat) (k : Nat × Nat) (c : Chip) : Bool × Chip :=
  match choose (usFree c p) c with
  | (none, c) => (false, c)
  | (some f, c) =>
    let c := modPage k.1 k.2 (fun g => { g with move := 1 }) c
    (true, { c with kv := { c.kv with moves := c.kv.moves ++ [⟨k.1, k.2, false, f⟩] } })

/-- A move back begins: an HBM frame is taken and MOVE becomes 2. -/
def startBack (p : Nat) (k : Nat × Nat) (c : Chip) : Bool × Chip :=
  match choose (hbmFree c p) c with
  | (none, c) => (false, c)
  | (some f, c) =>
    let c := modPage k.1 k.2 (fun g => { g with move := 2 }) c
    (true, { c with kv := { c.kv with moves := c.kv.moves ++ [⟨k.1, k.2, true, f⟩] } })

/-! ### Responses -/

/-- A response packet (Table 12-6). -/
def kvPacket (cmd tag : Nat) (st : Status) (tokens slot : Nat) (entries : List Word) : List Word :=
  BitVec.ofNat 64 (cmd * 2 ^ 56 + tag * 2 ^ 40 + st.toNat * 2 ^ 24 + (2 + entries.length)) ::
    BitVec.ofNat 64 (tokens * 2 ^ 32 + entries.length * 65536 + slot) :: entries

/-- A response leaves for KVP_RSP_Q, or is kept while the queue refuses it (R410, R412). -/
def kvPush (p : Nat) (ws : List Word) (c : Chip) : Chip :=
  let q := obj c 0x5580 7 p
  if 1048576 ≤ q then c
  else if !(tget [] c.kv.blocked p).isEmpty then
    { c with kv := { c.kv with blocked := tmod [] c.kv.blocked p (· ++ [ws]) } }
  else match putPacket false Src.kv q (ws.map fun w => (w, false)) false c with
    | (st, c) =>
      if st = St.ok then engineSet p (obj c 0x5580 8 p) Src.kv c
      else
        let c := { c with kv := { c.kv with blocked := tset [] c.kv.blocked p [ws] } }
        if thas c.kv.blockedSaid p then c else
          emit Src.kv St.kvRspBlocked (some p) [p, q, st.toNat] { c with kv := { c.kv with blockedSaid := tput c.kv.blockedSaid p true } }

/-- The kept responses are tried again (R412). -/
def kvRetry (p : Nat) (c : Chip) : Chip :=
  match tget [] c.kv.blocked p with
  | [] => c
  | l => l.foldl (fun c ws => kvPush p ws c) { c with kv := { c.kv with blocked := tset [] c.kv.blocked p [] } }

/-- A command completes: its response to whoever asked; stalls are counted (Table 12-9). -/
def kvDone (p cmd tag slot : Nat) (dest : Nat) (st : Status) (entries : List Word) (c : Chip) : Chip :=
  let mine := kvsOwner c slot = some p
  let c := if st == St.kvStalled then
      let c := bump 0x2600 9 0 1 c
      if mine then setSlot slot { kvSlot c slot with stalls := satAdd 32 (kvSlot c slot).stalls 1 } c else c
    else c
  if dest = 2 then { c with srv := { c.srv with mapped := tset none c.srv.mapped p (if cmd = 3 then some st else none) } }
  else if dest = 1 then c
  else kvPush p (kvPacket cmd tag st (if mine then (kvSlot c slot).tokens else 0) slot entries) c

/-- The logical page of an owned index (R409). -/
def logicalOf (v : KvSlot) (i : Nat) : Nat :=
  if v.spread = 2 then (i / v.span * (v.parts + 1) + v.spart) * v.span + i % v.span else i

/-- A page entry of a response (Table 12-6). -/
def pageEntry (c : Chip) (k : Nat × Nat) : Word :=
  BitVec.ofNat 64 (logicalOf (kvSlot c k.1) k.2 * 2 ^ 32 + (kvPage c k.1 k.2).frame.getD 0)

/-- Pages of the same slot beyond a MAP's range are prefetched into free frames (R421). -/
def prefetchAhead (p slot after : Nat) (c : Chip) : Chip :=
  let l := ((kvSlot c slot).pages.filter fun g => decide (after < g.1) && g.2.us && g.2.move == 0).map (·.1)
  (l.take (obj c 0x2600 12)).foldl (fun c i =>
    if framesOwed c p + movesOwed c p < (hbmFree c p).length then (startBack p (slot, i) c).2 else c) c

/-- Waiting commands take the frames and moves they need, and complete once every page they need is in HBM (R411, R415). -/
def kvAdvance (w : KvWait) (c : Chip) : Chip :=
  let c := w.need.foldl (fun c k =>
    let g := kvPage c k.1 k.2
    if g.us then (if g.move = 0 then (startBack w.part k c).2 else c)
    else if g.frame.isNone then
      match choose (hbmFree c w.part) c with
      | (none, c) => c
      | (some f, c) => modPage k.1 k.2 (fun g => { g with frame := some f }) c
    else c) c
  let ready := (w.spills.all fun k => (kvPage c k.1 k.2).move != 1) && w.need.all fun k =>
    let g := kvPage c k.1 k.2
    !g.us && g.move == 0 && g.frame.isSome
  if ready then
    let c := { c with kv := { c.kv with waits := c.kv.waits.erase w } }
    let c := kvDone w.part w.cmd w.tag w.slot w.dest w.status (w.list.map (pageEntry c)) c
    if w.cmd = 3 then prefetchAhead w.part w.slot (w.list.foldl (fun m k => max m k.2) 0) c else c
  else c

/-- Every waiting command is advanced, oldest first. -/
def kvAdvanceAll (c : Chip) : Chip := c.kv.waits.foldl (fun c w => kvAdvance w c) c

/-- A command begins to wait, and goes on as far as it can. -/
def kvWaitFor (w : KvWait) (c : Chip) : Chip :=
  kvAdvance w { c with kv := { c.kv with waits := c.kv.waits ++ [w] } }

/-- A page move ends (R417, R418, R424): the bytes and their poison are copied and the frame behind is free. -/
def kvMoveDone (k : Nat) (ecc : Ecc) (c : Chip) : Chip :=
  match c.kv.moves[k]? with
  | none => c
  | some m =>
    let p := (kvSlot c m.slot).part
    let g := kvPage c m.slot m.idx
    let src := frameAddr c p g.us (g.frame.getD 0)
    let dst := frameAddr c p (!m.back) m.frame
    let c := { c with kv := { c.kv with moves := c.kv.moves.erase m } }
    let c := applyEcc src 65536 ecc c
    let c := forSpan 0 8192 c fun c i =>
      memWrite (dst + i * 8) (memRead c (src + i * 8) 8) (wordPoison c (src + i * 8)) c
    let c := modPage m.slot m.idx (fun g => { g with us := !m.back, move := 0, frame := some m.frame }) c
    kvAdvanceAll (bump 0x2600 (if m.back then 8 else 7) 0 1 c)

/-! ### Commands -/

/-- The frames that a command needs are to be had, with the spills it must wait for (R418, R419, R422); none when the
command stalls. -/
def planFrames (c : Chip) (p n : Nat) : Option (List (Nat × Nat)) :=
  let owed := framesOwed c p + movesOwed c p
  let used := (hbmUsed c p).length
  let size := obj c 0x5580 3 p
  let free := ((span 0 size).filter fun f => !(hbmUsed c p).contains f).length
  let vs := (victims c p).take (min 32 (usFree c p).length)
  let inSize (k : Nat × Nat) : Bool := decide ((kvPage c k.1 k.2).frame.getD 0 < size)
  let ok (k : Nat) : Bool :=
    let v := vs.take k
    decide (n + owed ≤ free + v.countP inSize) && decide (used + n + owed ≤ size + k)
  if n = 0 then some [] else
    match (span 0 (vs.length + 1)).find? ok with
    | some k => some (vs.take k)
    | none => none

/-- The spills of a plan begin. -/
def startSpills (p : Nat) (l : List (Nat × Nat)) (c : Chip) : Chip := l.foldl (fun c k => (startSpill p k c).2) c

/-- The slot named by a command, in the state it needs (R413). -/
def slotReady (c : Chip) (p slot : Nat) : Bool :=
  kvsOwner c slot == some p && ((kvSlot c slot).state == 1 || (kvSlot c slot).state == 2)

/-- OPEN (R413). -/
def kvOpen (p tag : Nat) (w1 w2 : Nat) (c : Chip) : Chip :=
  let slot := w1 % 65536
  let h := bitsOf w1 20 16
  let d := bitsOf w1 23 21
  let f := bitsOf w1 26 24
  let bytes := 2 * h * ((d + 1) * 32) * kvElem f
  let t := 65536 / bytes
  let tlog := Nat.log2 t - 3
  let spread := bitsOf w1 30 29
  let parts := bitsOf w1 42 31
  let spart := bitsOf w1 54 43
  let span_ := bitsOf w2 18 0
  let shapeOk := 1 ≤ h && h ≤ 16 && 3 ≤ f && f ≤ 6 && 65536 % bytes == 0 && 8 ≤ t && t ≤ 256 && 2 ^ Nat.log2 t == t
  let spreadOk := spread ≤ 2 && (spread == 0 || spart ≤ parts) && (spread != 2 || (span_ != 0 && span_ * t % 128 == 0))
  if kvsOwner c slot ≠ some p || (kvSlot c slot).state ≠ 0 then kvDone p 1 tag slot 0 St.kvSlotState [] c
  else if !(shapeOk && spreadOk) then kvDone p 1 tag slot 0 St.kvShapeBad [] c
  else
    let v : KvSlot := { state := 1, part := p, heads := h, dim := d, fmt := f, tlog := tlog, prio := bitsOf w1 28 27
                        spread := spread, parts := parts, spart := spart, span := span_ }
    kvDone p 1 tag slot 0 St.ok [] (setSlot slot v c)

/-- APPEND (R414, R418, R419). -/
def kvAppend (p tag w1 : Nat) (c : Chip) : Chip :=
  let slot := w1 % 65536
  let n := bitsOf w1 47 16
  let v := kvSlot c slot
  let t := pageTokens v
  let done := kvDone p 2 tag slot 0
  if !slotReady c p slot then done St.kvSlotState [] c
  else if 2097152 < v.tokens + n then done St.kvTooLong [] c
  else
    let lo := v.tokens / t
    let hi := if n = 0 then lo else (v.tokens + n + t - 1) / t
    let own := ((span lo (hi - lo)).filter (ownsPage v)).map fun g => (g, ownIdx v g)
    if 32 < own.length then done St.kvAppendLimit [] c
    else if own.any fun g => 15 ≤ (kvPage c slot g.2).pins then done St.kvPinLimit [] c
    else
      let fresh := own.filter fun g => v.pages.all fun e => e.1 != g.2
      let back := own.filter fun g => let x := kvPage c slot g.2; x.us || x.move == 1
      match planFrames c p (fresh.length + back.length) with
      | none =>
        let c := emit Src.kv St.kvParked (some p) [p, slot, v.tokens] (setSlot slot { v with state := 2 } c)
        done St.kvStalled [] c
      | some sp =>
        let clk := c.kv.clock + 1
        let c := { c with kv := { c.kv with clock := clk } }
        let c := own.foldl (fun c g => modPage slot g.2 (fun x => { x with
          pins := x.pins + 1, named := clk, fill := min t (v.tokens + n - g.1 * t) }) c) c
        let c := setSlot slot { kvSlot c slot with tokens := v.tokens + n, state := 1, lastUse := stitchNo (countNow c) } c
        let c := startSpills p sp c
        let ks := own.map fun g => (slot, g.2)
        kvWaitFor ⟨p, 2, tag, slot, 0, [], ks, ks, St.ok⟩ c

/-- The owned pages of a range (Table 12-7): none when it runs beyond the slot (R415). -/
def rangePages (v : KvSlot) (w1 : Nat) : Option (List Nat) :=
  let n := bitsOf w1 21 16 + 1
  let first := bitsOf w1 50 32
  if logicalPages v < first + n then none else some (((span first n).filter (ownsPage v)).map (ownIdx v))

/-- MAP (R415, R418, R419, R421). -/
def kvMap (p tag w1 dest : Nat) (c : Chip) : Chip :=
  let slot := w1 % 65536
  let v := kvSlot c slot
  let done := kvDone p 3 tag slot dest
  if !slotReady c p slot then done St.kvSlotState [] c
  else match rangePages v w1 with
    | none => done St.kvRange [] c
    | some is =>
      if is.any fun i => 15 ≤ (kvPage c slot i).pins then done St.kvPinLimit [] c
      else
        let clk := c.kv.clock + 1
        let pinned := is.foldl (fun c i => modPage slot i (fun x => { x with pins := x.pins + 1, named := clk }) c)
          { c with kv := { c.kv with clock := clk } }
        let back := is.filter fun i => let x := kvPage c slot i; x.us && x.move != 2 || x.move == 1
        match planFrames pinned p back.length with
        | none => done St.kvStalled [] c
        | some sp =>
          let c := setSlot slot { kvSlot pinned slot with lastUse := stitchNo (countNow c) } pinned
          let ks := is.map fun i => (slot, i)
          kvWaitFor ⟨p, 3, tag, slot, dest, [], ks, ks, St.ok⟩ (startSpills p sp c)

/-- UNPIN (R415). -/
def kvUnpin (p tag w1 dest : Nat) (c : Chip) : Chip :=
  let slot := w1 % 65536
  let v := kvSlot c slot
  let done := kvDone p 4 tag slot dest
  if !slotReady c p slot then done St.kvSlotState [] c
  else match rangePages v w1 with
    | none => done St.kvRange [] c
    | some is =>
      if is.any fun i => (kvPage c slot i).pins = 0 then done St.kvPinLimit [] c
      else done St.ok [] (is.foldl (fun c i => modPage slot i (fun x => { x with pins := x.pins - 1 }) c) c)

/-- PREFETCH (R417): moves begin into free frames only, and the response comes at once. -/
def kvPrefetch (p tag w1 dest : Nat) (c : Chip) : Chip :=
  let slot := w1 % 65536
  let done := kvDone p 5 tag slot dest
  if !slotReady c p slot then done St.kvSlotState [] c
  else match rangePages (kvSlot c slot) w1 with
    | none => done St.kvRange [] c
    | some is =>
      let c := is.foldl (fun c i =>
        let x := kvPage c slot i
        if x.us && x.move = 0 && framesOwed c p + movesOwed c p < (hbmFree c p).length then (startBack p (slot, i) c).2 else c) c
      done St.ok [] c

/-- SPILL (R417): it stops at the first page that no understory frame can take. -/
def kvSpill (p tag w1 dest : Nat) (c : Chip) : Chip :=
  let slot := w1 % 65536
  let done := kvDone p 6 tag slot dest
  if !slotReady c p slot then done St.kvSlotState [] c
  else match rangePages (kvSlot c slot) w1 with
    | none => done St.kvRange [] c
    | some is =>
      let want := is.filter fun i => let x := kvPage c slot i; !x.us && x.pins == 0 && x.move == 0 && x.frame.isSome
      let (c, ks, st) := want.foldl (fun (a : Chip × List (Nat × Nat) × Status) i =>
        if a.2.2 ≠ St.ok then a else
          match startSpill p (slot, i) a.1 with
          | (true, c) => (c, a.2.1 ++ [(slot, i)], St.ok)
          | (false, c) => (c, a.2.1, St.kvStalled)) (c, [], St.ok)
      kvWaitFor ⟨p, 6, tag, slot, dest, ks, [], [], st⟩ c

/-- A slot's pages are freed, its moves and its waiting commands end (R416, R618). -/
def closeSlot (slot : Nat) (c : Chip) : Chip :=
  setSlot slot {} { c with kv := { c.kv with
    moves := c.kv.moves.filter fun m => m.slot != slot
    waits := c.kv.waits.filter fun w => w.slot != slot } }

/-- CLOSE (R416, R428): `dest` 1 when policy firmware commands it. -/
def kvClose (p tag w1 dest : Nat) (c : Chip) : Chip :=
  let slot := w1 % 65536
  let done := kvDone p 7 tag slot dest
  if !slotReady c p slot then done St.kvSlotState [] c
  else if (kvSlot c slot).pages.any fun g => g.2.pins != 0 then done St.kvPinned [] c
  else
    let c := closeSlot slot c
    done St.ok [] (if dest = 1 then emit Src.kv St.kvPreempted (some p) [slot] c else c)

/-- The bucket of a slot's tokens (R426). -/
def bucketOf (c : Chip) (p tokens : Nat) : Nat :=
  let e := obj c 0x5580 13 p
  ((span 0 8).find? fun b => tokens ≤ e / 2 ^ (32 * b) % 2 ^ 32).getD 7

/-- BUCKET (R427). -/
def kvBucket (p tag : Nat) (ws : List Word) (c : Chip) : Chip :=
  let slots := ((ws.map fun w => (span 0 4).map fun i => w.toNat / 2 ^ (16 * i) % 65536).flatten).filter (· != 65535)
  let first := (ws.head?.map (·.toNat % 65536)).getD 0
  if slots.any fun s => !slotReady c p s then kvDone p 8 tag first 0 St.kvSlotState [] c
  else
    let es := slots.map fun s => (s, bucketOf c p (kvSlot c s).tokens, (kvSlot c s).tokens)
    let es := sortBy (fun e => e.2.1 * 65536 + e.1) es
    kvDone p 8 tag first 0 St.ok (es.map fun e => BitVec.ofNat 64 (e.1 + e.2.1 * 65536 + e.2.2 * 2 ^ 32)) c

/-- Whether the bits of a command fit Table 12-7 (R413). -/
def kvFits (cmd : Nat) (ws : List Word) : Bool :=
  let w0 := (nth 0 ws 0).toNat
  let w1 := (nth 0 ws 1).toNat
  let w2 := (nth 0 ws 2).toNat
  let len := w0 % 65536
  bitsOf w0 39 16 == 0 && ws.length == len &&
  (if cmd = 1 then len == 3 && bitsOf w1 63 55 == 0 && bitsOf w2 63 19 == 0
   else if cmd = 2 then len == 2 && bitsOf w1 63 48 == 0
   else if 3 ≤ cmd && cmd ≤ 6 then
     len == 2 && bitsOf w1 63 51 == 0 && bitsOf w1 31 22 == 0 && bitsOf w1 21 16 ≤ 31
   else if cmd = 7 then len == 2 && bitsOf w1 63 16 == 0
   else cmd == 8 && len == 9)

/-- A command packet is performed (R411, R413). -/
def kvCommand (p dest : Nat) (ws : List Word) (c : Chip) : Chip :=
  let w0 := (nth 0 ws 0).toNat
  let w1 := (nth 0 ws 1).toNat
  let cmd := bitsOf w0 63 56
  let tag := bitsOf w0 55 40
  if !kvFits cmd ws then kvDone p cmd tag (w1 % 65536) dest St.kvCmdBad [] c
  else if cmd = 1 then kvOpen p tag w1 (nth 0 ws 2).toNat c
  else if cmd = 2 then kvAppend p tag w1 c
  else if cmd = 3 then kvMap p tag w1 dest c
  else if cmd = 4 then kvUnpin p tag w1 dest c
  else if cmd = 5 then kvPrefetch p tag w1 dest c
  else if cmd = 6 then kvSpill p tag w1 dest c
  else if cmd = 7 then kvClose p tag w1 dest c
  else kvBucket p tag (ws.drop 1) c

/-- A row's command is read: from the hook's port, or from the head of KVP_REQ_Q, where it must be that command or none of
Table 12-7; the pager reads nothing of a partition whose responses are blocked (R410 to R412). The hook's port takes commands
only while KV_PRESSURE runs for the partition (R650). -/
def kvRead (cmd p : Nat) (hook : Option (List Word)) (c : Chip) : Chip :=
  match hook with
  | some ws =>
    let k := bitsOf (nth 0 ws 0).toNat 63 56
    if k = cmd && (cmd = 5 || cmd = 6 || cmd = 7) && pressureRuns c p then
      let slot := (nth 0 ws 1).toNat % 65536
      kvCommand p 1 ws (if kvsOwner c slot = some p then c else denied c)
    else c
  | none =>
    let q := obj c 0x5580 6 p
    if !(tget [] c.kv.blocked p).isEmpty then c else
      match headPacket c q with
      | none => c
      | some ws =>
        let k := bitsOf (nth 0 ws 0).toNat 63 56
        if k = cmd || k = 0 || 8 < k then kvCommand p 0 ws (dropHead q c) else c

/-- Every pin of a partition's slots is released (R568). -/
def releasePins (p : Nat) (c : Chip) : Chip :=
  (partPages c p).foldl (fun c g => if g.2.2.pins = 0 then c else modPage g.1 g.2.1 (fun x => { x with pins := 0 }) c) c

/-- A slot record's 32 bytes as a number (Table 12-4). -/
def slotWord (v : KvSlot) : Nat :=
  let cnt (f : KvPage → Bool) : Nat := v.pages.countP fun g => f g.2
  v.state + v.part * 4 + v.heads * 2 ^ 8 + v.dim * 2 ^ 13 + v.fmt * 2 ^ 16 + v.tlog * 2 ^ 19 + v.prio * 2 ^ 22 + v.tokens * 2 ^ 24 +
  v.pages.length * 2 ^ 64 + cnt (·.us) * 2 ^ 83 + cnt (fun g => g.pins != 0) * 2 ^ 102 + v.spread * 2 ^ 128 + v.parts * 2 ^ 130 +
  v.spart * 2 ^ 142 + v.span * 2 ^ 154 + v.lastUse * 2 ^ 192 + v.stalls * 2 ^ 224

/-- A page-table entry (Table 12-5). -/
def pteWord (v : KvSlot) (i : Nat) : Nat :=
  match v.pages.find? fun g => g.1 = i with
  | none => 0
  | some (_, g) => 2 ^ 63 + b2n g.us * 2 ^ 62 + g.move * 2 ^ 60 + g.pins * 2 ^ 56 + g.frame.getD 0 * 2 ^ 32 + g.fill * 2 ^ 23

end Sys2Proof.Machine
end

