-- ==== Sys2Proof/Machine/Serving.lean ====
section
/-! DEFINITION. The serving engine (13): sequences, the prefix index, steps and batches, budget accounts. -/
namespace Sys2Proof.Machine

/-- A sequence record. -/
def seqRec (c : Chip) (s : Nat) : SeqRec := tget {} c.srv.seqs s
/-- The module with a sequence record replaced. -/
def setSeq (s : Nat) (v : SeqRec) (c : Chip) : Chip := { c with srv := { c.srv with seqs := tset {} c.srv.seqs s v } }
/-- An account. -/
def acct (c : Chip) (a : Nat) : Account := tget {} c.srv.accts a
/-- The module with an account replaced. -/
def setAcct (a : Nat) (v : Account) (c : Chip) : Chip := { c with srv := { c.srv with accts := tset {} c.srv.accts a v } }
/-- A prefix entry. -/
def pfxEnt (c : Chip) (e : Nat) : Option PfxEnt := tget none c.srv.pfx e
/-- The module with a prefix entry replaced. -/
def setPfx (e : Nat) (v : Option PfxEnt) (c : Chip) : Chip := { c with srv := { c.srv with pfx := tset none c.srv.pfx e v } }
/-- The module with a prefix entry in use changed. -/
def modPfx (e : Nat) (f : PfxEnt → PfxEnt) (c : Chip) : Chip := setPfx e ((pfxEnt c e).map f) c

/-! ### Responses -/

/-- A response packet (R430, Table 13-1). -/
def srvPacket (cmd tag : Nat) (st : Status) (w1 : Nat) (more : List Word) : List Word :=
  BitVec.ofNat 64 (cmd * 2 ^ 56 + tag * 2 ^ 40 + st.toNat * 2 ^ 24 + (2 + more.length)) :: BitVec.ofNat 64 w1 :: more

/-- A response leaves for SRV_RSP_Q, or is kept while the queue refuses it (R412, R430). -/
def srvPush (p : Nat) (ws : List Word) (c : Chip) : Chip :=
  let q := obj c 0x55C0 3 p
  if 1048576 ≤ q then c
  else if !(tget [] c.srv.blocked p).isEmpty then
    { c with srv := { c.srv with blocked := tmod [] c.srv.blocked p (· ++ [ws]) } }
  else match putPacket false Src.serving q (ws.map fun w => (w, false)) false c with
    | (st, c) =>
      if st = St.ok then engineSet p (obj c 0x55C0 4 p) Src.serving c
      else
        let c := { c with srv := { c.srv with blocked := tset [] c.srv.blocked p [ws] } }
        if thas c.srv.blockedSaid p then c else
          emit Src.serving St.srvRspBlocked (some p) [p, q, st.toNat]
            { c with srv := { c.srv with blockedSaid := tput c.srv.blockedSaid p true } }

/-- The kept responses are tried again. -/
def srvRetry (p : Nat) (c : Chip) : Chip :=
  match tget [] c.srv.blocked p with
  | [] => c
  | l => l.foldl (fun c ws => srvPush p ws c) { c with srv := { c.srv with blocked := tset [] c.srv.blocked p [] } }

/-- A command is answered. -/
def srvDone (p cmd tag : Nat) (st : Status) (w1 : Nat) (more : List Word) (c : Chip) : Chip :=
  srvPush p (srvPacket cmd tag st w1 more) c

/-! ### Sequences -/

/-- SEQ_OPEN (R433). -/
def seqOpen (p tag w1 : Nat) (c : Chip) : Chip :=
  let s := w1 % 65536
  let a := bitsOf w1 31 16
  let done (st : Status) (c : Chip) : Chip := srvDone p 1 tag st 0 [] c
  let ac := acct c a
  if seqOwner c s ≠ some p || acctOwner c a ≠ some p then done St.srvNotOwned c
  else if (seqRec c s).state ≠ 0 then done St.srvSeqState c
  else if !ac.valid then done St.srvAccount c
  else if ac.quota ≤ ac.seqs then done St.srvQuota c
  else
    done St.ok (setAcct a { ac with seqs := ac.seqs + 1 }
      (setSeq s { state := 1, prio := bitsOf w1 33 32, part := p, account := a } c))

/-- A sequence closes: its prefix reference and its place on the account are released (R434). -/
def closeSeq (s : Nat) (c : Chip) : Chip :=
  let v := seqRec c s
  let c := match v.pfx with
    | some e => modPfx e (fun x => { x with refs := x.refs - 1 }) c
    | none => c
  let ac := acct c v.account
  setSeq s {} (setAcct v.account { ac with seqs := ac.seqs - 1 } c)

/-- SEQ_CLOSE (R434, R454): `hook` when policy firmware commands it. -/
def seqClose (p tag w1 : Nat) (hook : Bool) (c : Chip) : Chip :=
  let s := w1 % 65536
  let done (st : Status) (c : Chip) : Chip := if hook then c else srvDone p 2 tag st 0 [] c
  let v := seqRec c s
  if seqOwner c s ≠ some p then done St.srvNotOwned c
  else if v.state ≠ 1 && v.state ≠ 3 then done St.srvSeqState c
  else
    let c := closeSeq s c
    done St.ok (if hook then emit Src.serving St.srvPreempted (some p) [s] c else c)

/-! ### The prefix index -/

/-- Entries that a partition holds. -/
def pfxUsed (c : Chip) (p : Nat) : Nat := c.srv.pfx.countP fun e => match e.2 with
  | some x => x.part == p
  | none => false

/-- The hash of a block (R435). -/
def blockHash (key : Nat) (model tlog parent : Nat) (toks : Bytes) : Word :=
  sipHash (BitVec.ofNat 64 (key % 2 ^ 64)) (BitVec.ofNat 64 (key / 2 ^ 64))
    (leBytes 2 model ++ leBytes 1 tlog ++ leBytes 5 0 ++ leBytes 8 parent ++ toks)

/-- A block found in its set: the entry, and the hash matches that failed the comparison of token ids (R437, R438). -/
def pfxFind (c : Chip) (p model tlog : Nat) (parent : Option Nat) (h : Word) (toks : Bytes) : Option Nat × Nat :=
  let set := h.toNat % 65536
  let near := (span (set * 8) 8).filter fun e => match pfxEnt c e with
    | some x => x.part == p && x.hash == h && x.model == model && x.tlog == tlog && x.parent == parent
    | none => false
  let same (e : Nat) : Bool := match pfxEnt c e with
    | some x => memRead c x.tok toks.length == toks
    | none => false
  (near.find? same, near.countP fun e => !same e)

/-- The walk of a lookup: matched entries in order, and the false matches (R438). -/
def pfxWalk (c : Chip) (p key model tlog addr : Nat) : Nat → Option Nat → List Nat × Nat
  | 0, _ => ([], 0)
  | n + 1, parent =>
    let t := 4 * 2 ^ (tlog + 3)
    let toks := memRead c addr t
    let ph := ((parent.bind (pfxEnt c)).map (·.hash.toNat)).getD 0
    match pfxFind c p model tlog parent (blockHash key model tlog ph toks) toks with
    | (none, f) => ([], f)
    | (some e, f) =>
      let r := pfxWalk c p key model tlog (addr + t) n (some e)
      (e :: r.1, f + r.2)

/-- Whether a named parent entry is the partition's. -/
def parentOk (c : Chip) (p w3 : Nat) : Bool :=
  w3 / 2 ^ 19 % 2 == 0 || (match pfxEnt c (w3 % 2 ^ 19) with
    | some x => x.part == p
    | none => false)
/-- The parent that a request names. -/
def parentOf (w3 : Nat) : Option Nat := if w3 / 2 ^ 19 % 2 = 1 then some (w3 % 2 ^ 19) else none

/-- PFX_LOOKUP (R438, R439). -/
def pfxLookup (p tag w1 w2 w3 : Nat) (c : Chip) : Chip :=
  let s := w1 % 65536
  let model := bitsOf w1 31 16
  let tlog := bitsOf w1 34 32
  let b := bitsOf w1 45 35
  let done (st : Status) (es : List Nat) (c : Chip) : Chip :=
    srvDone p 3 tag st (s + es.length * 65536) (es.map fun e => match pfxEnt c e with
      | some x => BitVec.ofNat 64 (e + x.slot * 2 ^ 19 + x.page * 2 ^ 35)
      | none => 0) c
  let v := seqRec c s
  if seqOwner c s ≠ some p || !parentOk c p w3 then done St.srvNotOwned [] c
  else if v.state ≠ 1 && v.state ≠ 3 then done St.srvSeqState [] c
  else match (tget {} c.keys p).pfxKey with
    | none => done St.srvNoKey [] c
    | some key =>
      if (checkLocal c (some p) none false w2 (b * 4 * 2 ^ (tlog + 3))).isSome then done St.srvAddr [] c
      else
        let (es, f) := pfxWalk c p key model tlog w2 b (parentOf w3)
        let c := bump 0x2700 12 0 es.length (bump 0x2700 13 0 f c)
        let c := es.foldl (fun c e => modPfx e (fun x => { x with lastUse := stitchNo (countNow c) }) c) c
        match es.getLast? with
        | none => done St.ok es c
        | some d =>
          let c := modPfx d (fun x => { x with refs := x.refs + 1 }) c
          let c := match v.pfx with
            | some o => modPfx o (fun x => { x with refs := x.refs - 1 }) c
            | none => c
          done St.ok es (setSeq s { v with pfx := some d } c)

/-- An entry leaves the index: its parent loses a child and its page a pin (R441). -/
def evictPfx (e : Nat) (c : Chip) : Chip :=
  match pfxEnt c e with
  | none => c
  | some x =>
    let c := setPfx e none c
    let c := match x.parent with
      | some q => modPfx q (fun y => { y with kids := y.kids - 1 }) c
      | none => c
    kvUnpin x.part 0 (x.slot + x.page * 2 ^ 32) 1 c

/-- The evictable entry of greatest age in a set (R440): the lower way breaks a tie. -/
def oldestWay (c : Chip) (p set : Nat) (parent : Option Nat) : Option Nat :=
  let now := stitchNo (countNow c)
  let l := (span (set * 8) 8).filterMap fun e => match pfxEnt c e with
    | some x => if x.part = p && x.refs = 0 && x.kids = 0 && parent ≠ some e then
        some (e, (now + 2 ^ 32 - x.lastUse) % 2 ^ 32) else none
    | none => none
  (l.foldl (fun (b : Option (Nat × Nat)) x => match b with
    | none => some x
    | some y => if y.2 < x.2 then some x else some y) none).map (·.1)

/-- An insert goes on once the pager has answered its MAP (R440). -/
def pfxContinue (p : Nat) (c : Chip) : Chip :=
  match tget none c.srv.inserts p, tget none c.srv.mapped p with
  | some w, some st =>
    let c := { c with srv := { c.srv with inserts := tset none c.srv.inserts p none, mapped := tset none c.srv.mapped p none } }
    if st ≠ St.ok then srvDone p 4 w.tag st 0 [] c
    else
      let c := if w.evict then bump 0x2700 14 0 1 (evictPfx w.e c) else c
      let c := setPfx w.e (some { w.ent with lastUse := stitchNo (countNow c) }) c
      let c := match w.ent.parent with
        | some q => modPfx q (fun y => { y with kids := y.kids + 1 }) c
        | none => c
      srvDone p 4 w.tag St.ok w.e [] c
  | _, _ => c

/-- Every insert whose MAP is answered goes on. -/
def pfxContinueAll (c : Chip) : Chip := parts16.foldl (fun c p => pfxContinue p c) c

/-- PFX_INSERT (R440). -/
def pfxInsert (p tag w1 w2 w3 : Nat) (c : Chip) : Chip :=
  let slot := w1 % 65536
  let model := bitsOf w1 31 16
  let tlog := bitsOf w1 34 32
  let page := bitsOf w1 53 35
  let t := 4 * 2 ^ (tlog + 3)
  let done (st : Status) (e : Nat) (c : Chip) : Chip := srvDone p 4 tag st e [] c
  if kvsOwner c slot ≠ some p || !parentOk c p w3 then done St.srvNotOwned 0 c
  else match (tget {} c.keys p).pfxKey with
    | none => done St.srvNoKey 0 c
    | some key =>
      if (checkLocal c (some p) none false w2 t).isSome then done St.srvAddr 0 c
      else
        let parent := parentOf w3
        let toks := memRead c w2 t
        let ph := ((parent.bind (pfxEnt c)).map (·.hash.toNat)).getD 0
        let h := blockHash key model tlog ph toks
        match pfxFind c p model tlog parent h toks with
        | (some e, f) => done St.srvPfxExists e (bump 0x2700 13 0 f c)
        | (none, f) =>
          let c := bump 0x2700 13 0 f c
          let set := h.toNat % 65536
          let full := obj c 0x55C0 5 p ≤ pfxUsed c p
          let free := if full then none else (span (set * 8) 8).find? fun e => (pfxEnt c e).isNone
          let way : Option (Nat × Bool) := match free with
            | some e => some (e, false)
            | none => (oldestWay c p set parent).map fun e => (e, true)
          match way with
          | none => done (if full then St.srvPfxQuota else St.srvPfxFull) 0 c
          | some (e, ev) =>
            let ent : PfxEnt := ⟨h, w2, page, slot, model, tlog, parent, 0, 0, 0, p⟩
            let c := { c with srv := { c.srv with inserts := tset none c.srv.inserts p (some ⟨tag, ent, e, ev⟩) } }
            pfxContinue p (kvMap p 0 (slot + page * 2 ^ 32) 2 c)

/-- PFX_REMOVE (R441). -/
def pfxRemove (p tag w1 : Nat) (c : Chip) : Chip :=
  let e := w1 % 2 ^ 19
  let done (st : Status) (c : Chip) : Chip := srvDone p 5 tag st 0 [] c
  match pfxEnt c e with
  | none => done St.srvNotOwned c
  | some x =>
    if x.part ≠ p then done St.srvNotOwned c
    else if x.refs ≠ 0 || x.kids ≠ 0 then done St.srvPfxBusy c
    else done St.ok (evictPfx e c)

/-! ### Steps -/

/-- BAL − PEND of a kind (R449). -/
def headroom (a : Account) (kind : Nat) : Int := if kind = 1 then a.pBal - a.pPend else a.dBal - a.dPend

/-- One entry of an ADMIT (R443, R449): its status, and the module after it. -/
def admitEntry (h : Nat) (w : Nat) (c : Chip) : Status × Chip :=
  let s := w % 65536
  let kind := w / 65536 % 2
  let tok := bitsOf w 45 32
  let v := seqRec c s
  let a := acct c v.account
  if v.state ≠ 1 && v.state ≠ 3 then (St.srvSeqState, c)
  else if decide (headroom a kind < 1) then (St.srvBudget, c)
  else
    let a := if kind = 1 then { a with pPend := a.pPend + tok } else { a with dPend := a.dPend + tok }
    (St.ok, setAcct v.account a (setSeq s { v with state := 2, admitTok := tok, kind := kind, batch := h } c))

/-- The entries of an ADMIT in request order. -/
def admitAll (h : Nat) : List Nat → Chip → List (Nat × Status) × Chip
  | [], c => ([], c)
  | w :: r, c =>
    let (st, c) := admitEntry h w c
    let (l, c) := admitAll h r c
    ((w % 65536, st) :: l, c)

/-- ADMIT (R443). -/
def srvAdmit (p tag w1 : Nat) (ws : List Nat) (c : Chip) : Chip :=
  let q := bitsOf w1 35 16
  let bz := bitsOf w1 44 36
  let done (st : Status) (w1 : Nat) (more : List Word) (c : Chip) : Chip := srvDone p 6 tag st w1 more c
  let seqs := ws.map (· % 65536)
  let badTok := ws.any fun w => let t := bitsOf w 45 32
    t = 0 || (if w / 65536 % 2 = 1 then 8192 < t else 16 < t)
  let twice := seqs.zipIdx.any fun s => (seqs.take s.2).contains s.1
  if queueOwner c q ≠ some p || (bz ≠ 0x1FF && (mapOf c p).bzCount ≤ bz) || seqs.any (fun s => seqOwner c s ≠ some p) then
    done St.srvNotOwned 0xFFFF [] c
  else if badTok || twice then done St.srvCmdBad 0xFFFF [] c
  else
    match choose ((span 0 4096).filter fun h => (tget none c.srv.batches h).isNone) c with
    | (none, c) => done St.srvBatchFull 0xFFFF [] c
    | (some h, c) =>
      let (l, c) := admitAll h ws c
      let ok := (l.filter fun e => e.2 = St.ok).map (·.1)
      let more := l.map fun e => BitVec.ofNat 64 (e.1 + e.2.toNat * 65536)
      if ok.isEmpty then done St.ok 0xFFFF more c
      else
        let b : Batch := ⟨p, q, bz, ok, countNow c⟩
        done St.ok (h + ok.length * 65536) more
          { c with srv := { c.srv with batches := tset none c.srv.batches h (some b) } }

/-- An entry of a STEP_DONE with its token words. -/
structure StepEnt where
  seq : Nat
  status : Status
  consumed : Nat
  emitted : Nat
  ids : List Word
deriving DecidableEq, Repr

/-- The entries of a STEP_DONE, or none where its words do not fit (R432). -/
def stepEntries : Nat → List Word → Option (List StepEnt)
  | 0, [] => some []
  | 0, _ => none
  | _ + 1, [] => none
  | n + 1, w :: r =>
    let v := w.toNat
    let em := bitsOf v 52 48
    let k := (em + 1) / 2
    if bitsOf v 63 53 ≠ 0 || bitsOf v 47 46 ≠ 0 || r.length < k then none
    else (stepEntries n (r.drop k)).map fun l => ⟨v % 65536, BitVec.ofNat 16 (v / 65536), bitsOf v 45 32, em, r.take k⟩ :: l

/-- The batch packet (Table 13-4). -/
def batchPacket (c : Chip) (h : Nat) (b : Batch) (es : List StepEnt) : List Word :=
  let body := (es.map fun e =>
    let v := seqRec c e.seq
    BitVec.ofNat 64 (e.seq + e.status.toNat * 2 ^ 16 + e.consumed * 2 ^ 32 + e.emitted * 2 ^ 48 + v.kind * 2 ^ 53) ::
      BitVec.ofNat 64 ((v.step + 1) % 2 ^ 32 + v.account * 2 ^ 32) :: e.ids).flatten
  BitVec.ofNat 64 (es.length * 2 ^ 48 + h * 2 ^ 32 + (3 + body.length)) :: BitVec.ofNat 64 b.count ::
    BitVec.ofNat 64 (timeOfCount c.time b.count) :: body

/-- One entry is charged (R445 step 2, R447). -/
def chargeEntry (e : StepEnt) (c : Chip) : Chip :=
  let v := seqRec c e.seq
  let a := acct c v.account
  let a := if v.kind = 1 then { a with
      pBal := a.pBal - e.consumed, pPend := a.pPend - v.admitTok, pUsed := satAdd 48 a.pUsed e.consumed }
    else { a with dBal := a.dBal - e.consumed, dPend := a.dPend - v.admitTok, dUsed := satAdd 48 a.dUsed e.consumed }
  let c := setAcct v.account a c
  setSeq e.seq { v with
    state := if e.status == St.kvStalled then 3 else 1
    step := (v.step + 1) % 2 ^ 32, tokens := v.tokens + e.consumed + e.emitted
    lastStitch := stitchNo (countNow c), admitTok := 0, kind := 0, batch := 0 } c

/-- STEP_DONE (R444, R445, R571): `hard` when a hard-class thread committed the command. -/
def srvStepDone (p tag w1 : Nat) (ws : List Word) (hard : Bool) (c : Chip) : Chip :=
  let h := w1 % 65536
  let done (st : Status) (c : Chip) : Chip := srvDone p 7 tag st 0 [] c
  match stepEntries (bitsOf w1 31 16) ws with
  | none => done St.srvCmdBad c
  | some es =>
    match tget none c.srv.batches h with
    | none => done St.srvBatchMismatch c
    | some b =>
      let bad := es.any fun e =>
        let v := seqRec c e.seq
        !(e.status == St.ok || e.status == St.kvStalled || e.status == St.srvAbandoned) ||
        (e.status != St.ok && (e.consumed != 0 || e.emitted != 0)) ||
        (v.kind == 0 && e.emitted != e.consumed) || (v.kind == 1 && 1 < e.emitted)
      if b.part ≠ p || b.seqs ≠ es.map (·.seq) then done St.srvBatchMismatch c
      else if bad then done St.srvCmdBad c
      else if es.any fun e => (seqRec c e.seq).admitTok < e.consumed then done St.srvOverAdmit c
      else match putPacket hard Src.serving b.q ((batchPacket c h b es).map fun w => (w, false)) false c with
        | (st, c) =>
          if st ≠ St.ok then done st c
          else
            let c := bump 0x2700 11 0 (es.foldl (fun n e => n + e.emitted) 0) (bump 0x2700 10 0 1 c)
            let c := es.foldl (fun c e => chargeEntry e c) c
            let c := { c with srv := { c.srv with batches := tset none c.srv.batches h none } }
            let c := if b.blaze = 0x1FF then c else setByIndex p b.blaze (unitId c Src.serving) c
            done St.ok c

/-- Every open batch of a partition is closed without a packet (R568). -/
def closeBatches (p : Nat) (c : Chip) : Chip :=
  c.srv.batches.foldl (fun c e => match e.2 with
    | some b =>
      if b.part = p then
        let c := b.seqs.foldl (fun c s =>
          let v := seqRec c s
          let a := acct c v.account
          let a := if v.kind = 1 then { a with pPend := a.pPend - v.admitTok } else { a with dPend := a.dPend - v.admitTok }
          setSeq s { v with state := 1, admitTok := 0, kind := 0, batch := 0 } (setAcct v.account a c)) c
        { c with srv := { c.srv with batches := tset none c.srv.batches e.1 none } }
      else c
    | none => c) c

/-! ### Commands -/

/-- Whether the bits of a command fit Table 13-1 (R432). -/
def srvFits (cmd : Nat) (ws : List Word) : Bool :=
  let w (i : Nat) : Nat := (nth 0 ws i).toNat
  let len := w 0 % 65536
  bitsOf (w 0) 39 16 == 0 && ws.length == len && 2 ≤ len && len ≤ 2306 &&
  (if cmd = 1 then len == 2 && bitsOf (w 1) 63 34 == 0
   else if cmd = 2 then len == 2 && bitsOf (w 1) 63 16 == 0
   else if cmd = 3 then
     len == 4 && bitsOf (w 1) 63 46 == 0 && 1 ≤ bitsOf (w 1) 45 35 && bitsOf (w 1) 45 35 ≤ 1024 &&
     bitsOf (w 2) 63 44 == 0 && w 2 % 4 == 0 && bitsOf (w 3) 63 20 == 0 && bitsOf (w 1) 34 32 ≤ 5
   else if cmd = 4 then
     len == 4 && bitsOf (w 1) 63 54 == 0 && bitsOf (w 2) 63 44 == 0 && w 2 % 4 == 0 && bitsOf (w 3) 63 20 == 0 &&
     bitsOf (w 1) 34 32 ≤ 5
   else if cmd = 5 then len == 2 && bitsOf (w 1) 63 19 == 0
   else if cmd = 6 then
     let e := w 1 % 65536
     1 ≤ e && e ≤ 256 && len == e + 2 && bitsOf (w 1) 63 45 == 0 &&
     (ws.drop 2).all fun x => bitsOf x.toNat 63 46 == 0 && bitsOf x.toNat 31 17 == 0
   else cmd == 7 && bitsOf (w 1) 63 32 == 0)

/-- A command packet is performed (R431, R432). -/
def srvCommand (p : Nat) (hook hard : Bool) (ws : List Word) (c : Chip) : Chip :=
  let w (i : Nat) : Nat := (nth 0 ws i).toNat
  let cmd := bitsOf (w 0) 63 56
  let tag := bitsOf (w 0) 55 40
  if !srvFits cmd ws then (if hook then c else srvDone p cmd tag St.srvCmdBad (if cmd = 6 then 0xFFFF else 0) [] c)
  else if cmd = 1 then seqOpen p tag (w 1) c
  else if cmd = 2 then seqClose p tag (w 1) hook c
  else if cmd = 3 then pfxLookup p tag (w 1) (w 2) (w 3) c
  else if cmd = 4 then pfxInsert p tag (w 1) (w 2) (w 3) c
  else if cmd = 5 then pfxRemove p tag (w 1) c
  else if cmd = 6 then srvAdmit p tag (w 1) ((ws.drop 2).map (·.toNat)) c
  else srvStepDone p tag (w 1) (ws.drop 2) hard c

/-- A row's command is read from the hook's port or from the head of SRV_REQ_Q; nothing is read while a response is
blocked, an insert waits or RECLAIM runs within its deadline (R430, R431, R650, Table 20-3). -/
def srvRead (cmd p : Nat) (hook : Option (List Word)) (c : Chip) : Chip :=
  match hook with
  | some ws =>
    if cmd = 2 && bitsOf (nth 0 ws 0).toNat 63 56 = 2 && reclaimRuns c then
      let s := (nth 0 ws 1).toNat % 65536
      srvCommand p true false ws (if seqOwner c s = some p && (seqRec c s).state = 2 then denied c else c)
    else c
  | none =>
    let q := obj c 0x55C0 2 p
    if !(tget [] c.srv.blocked p).isEmpty || (tget none c.srv.inserts p).isSome || reclaiming c then c else
      match headPacket c q, (queue c q).pkts with
      | some ws, k :: _ =>
        let n := bitsOf (nth 0 ws 0).toNat 63 56
        if n = cmd || n = 0 || 7 < n then srvCommand p false k.hard ws (dropHead q c) else c
      | _, _ => c

/-! ### Accounts at a boundary -/

/-- Staged values of every account are applied (R451). -/
def stageApply (c : Chip) : Chip :=
  let c := c.srv.staged.foldl (fun c e =>
    let a := e.1
    let has (s : Nat) : Bool := bitOf e.2 (s - 3)
    let v := acct c a
    let get (s : Nat) (old : Nat) : Nat := if has s then obj c 0x55C1 s a else old
    let bal (s : Nat) (old : Int) : Int := if has s then ofTwos 32 (obj c 0x55C1 s a) else old
    setAcct a { v with
      pRate := get 3 v.pRate, dRate := get 4 v.dRate, pCap := get 5 v.pCap, dCap := get 6 v.dCap
      pBal := bal 7 v.pBal, dBal := bal 8 v.dBal, quota := get 9 v.quota
      valid := if has 10 then obj c 0x55C1 10 a = 1 else v.valid, part := (acctOwner c a).getD 0 } c) c
  { c with srv := { c.srv with staged := [], stageArmed := false } }

/-- A balance after a refill (R450). -/
def refillOne (bal : Int) (cap rate : Nat) : Int := if decide (bal < (cap : Int)) then min (cap : Int) (bal + rate) else bal

/-- Every valid account is refilled (R450). -/
def refill (c : Chip) : Chip :=
  bump 0x2700 9 0 1 { c with srv := { c.srv with
    refillArmed := false
    accts := c.srv.accts.map fun e => if e.2.valid then (e.1, { e.2 with
      pBal := refillOne e.2.pBal e.2.pCap e.2.pRate, dBal := refillOne e.2.dBal e.2.dCap e.2.dRate }) else e } }

/-! ### Records as the dictionary reads them -/

/-- A sequence record's 32 bytes as a number (Table 13-2). -/
def seqWord (v : SeqRec) : Nat :=
  v.state + v.prio * 4 + v.part * 16 + v.account * 2 ^ 48 + b2n v.pfx.isSome * 2 ^ 123 + v.pfx.getD 0 * 2 ^ 124 + v.batch * 2 ^ 143 +
  v.kind * 2 ^ 155 + v.admitTok * 2 ^ 156 + v.tokens * 2 ^ 170 + v.lastStitch * 2 ^ 192 + v.step * 2 ^ 224
/-- An account's 64 bytes as a number (Table 13-5). -/
def acctWord (a : Account) : Nat :=
  b2n a.valid + a.part * 2 + a.quota * 2 ^ 128 + a.seqs * 2 ^ 144 + a.pPend * 2 ^ 160 + a.dPend * 2 ^ 184 + a.pRate * 2 ^ 208 +
  a.dRate * 2 ^ 232 + a.pCap * 2 ^ 256 + a.dCap * 2 ^ 288 + toTwos 32 a.pBal * 2 ^ 320 + toTwos 32 a.dBal * 2 ^ 352 +
  a.pUsed * 2 ^ 416 + a.dUsed * 2 ^ 464
/-- A prefix entry's 32 bytes as a number (Table 13-3). -/
def pfxWord (o : Option PfxEnt) : Nat := match o with
  | none => 0
  | some x => 1 + x.part * 2 ^ 6 + x.lastUse * 2 ^ 10 + x.kids * 2 ^ 42 + x.refs * 2 ^ 58 + b2n x.parent.isSome * 2 ^ 74 +
      x.parent.getD 0 * 2 ^ 75 + x.tlog * 2 ^ 94 + x.model * 2 ^ 97 + x.slot * 2 ^ 113 + x.page * 2 ^ 129 + x.tok * 2 ^ 148 +
      x.hash.toNat * 2 ^ 192

/-- A released partition's records return to their reset values (13, R618). -/
def clearServing (p : Nat) (e : MapEntry) (c : Chip) : Chip :=
  let ps := (c.srv.pfx.filter fun x => match x.2 with
    | some y => y.part == p
    | none => false).map (·.1)
  let c := ps.foldl (fun c x => evictPfx x c) c
  let a0 := e.acctFirst
  let a1 := e.acctFirst + 64 * e.acctN64
  let s0 := e.seqFirst
  let s1 := e.seqFirst + 64 * e.seqN64
  { c with srv := { c.srv with
    accts := tdrop c.srv.accts a0 a1
    staged := tdrop c.srv.staged a0 a1
    seqs := tdrop c.srv.seqs s0 s1
    batches := c.srv.batches.filter fun x => match x.2 with
      | some b => b.part != p
      | none => false
    inserts := tset none c.srv.inserts p none
    mapped := tset none c.srv.mapped p none
    blocked := tset [] c.srv.blocked p [] } }

end Sys2Proof.Machine
end

