-- ==== Sys2Proof/Machine/Video.lean ====
section
/-! DEFINITION. The video cores (14): sessions and their checks, decoding and encoding by pieces, the scheduler, notices. -/
namespace Sys2Proof.Machine

/-- The scheduler's source number (R459). -/
def Src.vidSched : Source := Src.video 8

/-! ### Descriptors -/

/-- A little-endian field of a session descriptor (Table 14-5). -/
def dfield (d : Bytes) (off n : Nat) : Nat := leNat ((d.drop off).take n)
/-- DIR. -/
def Vd.enc (d : Bytes) : Bool := dfield d 0 1 == 1
/-- CODEC. -/
def Vd.codec (d : Bytes) : Nat := dfield d 1 1
/-- DEPTH. -/
def Vd.depth (d : Bytes) : Nat := dfield d 4 1
/-- CHROMA. -/
def Vd.chroma (d : Bytes) : Nat := dfield d 5 1
/-- CLASS. -/
def Vd.cls (d : Bytes) : Nat := dfield d 6 1
/-- CORE_MASK. -/
def Vd.mask (d : Bytes) : Nat := dfield d 7 1
/-- MAX_W. -/
def Vd.maxW (d : Bytes) : Nat := dfield d 8 2
/-- MAX_H. -/
def Vd.maxH (d : Bytes) : Nat := dfield d 10 2
/-- DPB. -/
def Vd.dpb (d : Bytes) : Nat := dfield d 12 1
/-- BUF_COUNT. -/
def Vd.bufCount (d : Bytes) : Nat := dfield d 13 1
/-- MODE. -/
def Vd.mode (d : Bytes) : Nat := dfield d 14 1
/-- BFRAMES. -/
def Vd.bframes (d : Bytes) : Nat := dfield d 15 1
/-- BUF_BYTES. -/
def Vd.bufBytes (d : Bytes) : Nat := dfield d 16 4
/-- OUT_Q. -/
def Vd.outQ (d : Bytes) : Nat := dfield d 20 4
/-- BLAZE. -/
def Vd.blaze (d : Bytes) : Nat := dfield d 24 2
/-- GOP. -/
def Vd.gop (d : Bytes) : Nat := dfield d 30 2
/-- BUF_BASE. -/
def Vd.bufBase (d : Bytes) : Nat := dfield d 32 8
/-- BS_BASE. -/
def Vd.bsBase (d : Bytes) : Nat := dfield d 40 8
/-- BS_BYTES. -/
def Vd.bsBytes (d : Bytes) : Nat := dfield d 48 4

/-- The geometry of one buffer (R461): P, H′, R_c and F. -/
def bufGeometry (codec depth chroma w h : Nat) : Nat × Nat × Nat × Nat :=
  let e := if depth = 10 then 2 else 1
  let a := if codec = 3 then 128 else 64
  let p := ceilDiv (w * e) 256 * 256
  let h' := ceilDiv h a * a
  let rc := if chroma = 0 then 0 else if chroma = 1 then h' / 2 else h'
  let v := ceilDiv w 16 * (h' / 16) * 16
  (p, h', rc, ceilDiv (p * (h' + rc) + v) 65536 * 65536)

/-- The luma samples of a level's largest picture, by the published standards (Table 14-2; PRESUMED, log 14). -/
def levelMax (codec lv : Nat) : Option Nat :=
  let find (t : List (Nat × Nat)) : Option Nat := (t.find? fun e => e.1 == lv).map (·.2)
  if codec = 1 then
    (find [(10, 99), (11, 396), (12, 396), (13, 396), (20, 396), (21, 792), (22, 1620), (30, 1620), (31, 3600), (32, 5120),
      (40, 8192), (41, 8192), (42, 8704), (50, 22080), (51, 36864), (52, 36864), (60, 139264), (61, 139264), (62, 139264)]).map
      (· * 256)
  else if codec = 2 then
    find [(10, 36864), (20, 122880), (21, 245760), (30, 552960), (31, 983040), (40, 2228224), (41, 2228224), (50, 8912896),
      (51, 8912896), (52, 8912896), (60, 35651584), (61, 35651584), (62, 35651584)]
  else if lv ≤ 19 then
    some (if lv = 0 then 147456 else if lv ≤ 3 then 278784 else if lv = 4 then 665856 else if lv ≤ 7 then 1065024
      else if lv ≤ 11 then 2359296 else if lv ≤ 15 then 8912896 else 35651584)
  else none

/-- Check 1 of R463: reserved bytes and ranges. -/
def vidRangesOk (d : Bytes) : Bool :=
  let enc := Vd.enc d
  let hevc := Vd.codec d == 2
  let b (i : Nat) : Nat := dfield d i 1
  let inR (v lo hi : Nat) : Bool := lo ≤ v && v ≤ hi
  d.length == 128 && (d.drop 56).all (· == 0) && b 0 ≤ 1 && (Vd.depth d == 8 || Vd.depth d == 10) && Vd.chroma d ≤ 2 &&
  Vd.cls d ≤ 3 && Vd.mask d != 0 && inR (Vd.maxW d) 16 8192 && inR (Vd.maxH d) 16 4320 &&
  inR (Vd.dpb d) 1 (if enc then 4 else 16) && inR (Vd.bufCount d) 2 64 && Vd.mode d < 8 && Vd.bufBytes d % 65536 == 0 &&
  Vd.bufBase d % 65536 == 0 &&
  (if enc then
    Vd.bframes d ≤ 3 && inR (b 26) 1 8 && inR (b 27) 1 8 && (if hevc then inR (b 28) 1 64 else b 28 == 0) &&
    b 29 ≤ (if hevc then 51 else 255) && 1 ≤ Vd.gop d && Vd.bsBase d % 64 == 0 && 65536 ≤ Vd.bsBytes d && Vd.bsBytes d % 64 == 0
  else Vd.bframes d == 0 && b 26 == 0 && b 27 == 0 && b 28 == 0 && Vd.bsBase d == 0 && Vd.bsBytes d == 0)

/-- Check 2 of R463: Tables 14-2 and 14-3. -/
def vidSupported (d : Bytes) : Bool :=
  let codec := Vd.codec d
  let prof := dfield d 2 1
  let depth := Vd.depth d
  let chroma := Vd.chroma d
  let form :=
    if codec = 1 then !Vd.enc d && 1 ≤ prof && prof ≤ 3 && depth == 8 && chroma == 1
    else if codec = 2 then
      (prof == 1 && depth == 8 && chroma == 1) || (prof == 2 && chroma == 1) || (prof == 3 && !Vd.enc d)
    else codec == 3 && prof == 1 && (chroma == 1 || (chroma == 0 && !Vd.enc d))
  form && match levelMax codec (dfield d 3 1) with
    | some m => Vd.maxW d * Vd.maxH d ≤ m
    | none => false

/-- Check 3 of R463: the buffers. -/
def vidBuffersOk (d : Bytes) : Bool :=
  (bufGeometry (Vd.codec d) (Vd.depth d) (Vd.chroma d) (Vd.maxW d) (Vd.maxH d)).2.2.2 ≤ Vd.bufBytes d &&
  (if Vd.enc d then Vd.dpb d + Vd.bframes d + 2 else Vd.dpb d + 1) ≤ Vd.bufCount d

/-- Bytes of a session's set (R461). -/
def setBytes (d : Bytes) : Nat := Vd.bufCount d * Vd.bufBytes d + 262144

/-- Whether a local range passes R135 for a partition's engine. -/
def rangeOk (c : Chip) (p a n : Nat) : Bool := a + n ≤ 2 ^ 44 && (checkLocal c (some p) none false a n).isNone

/-- Check 4 of R463: the set, the ring, OUT_Q and BLAZE. -/
def vidPlacesOk (c : Chip) (p : Nat) (d : Bytes) : Bool :=
  Vd.bufBase d + setBytes d ≤ usBase && rangeOk c p (Vd.bufBase d) (setBytes d) &&
  (!Vd.enc d || rangeOk c p (Vd.bsBase d) (Vd.bsBytes d)) &&
  queueOwner c (Vd.outQ d) == some p && (queue c (Vd.outQ d)).state == 1 &&
  (Vd.blaze d == 0xFFFF || Vd.blaze d < (mapOf c p).bzCount)

/-! ### Sessions and cores -/

/-- A session, if open. -/
def vses (c : Chip) (s : Nat) : Option VSession := tget none c.vid.sessions s
/-- The module with a session replaced. -/
def setVses (s : Nat) (v : Option VSession) (c : Chip) : Chip :=
  { c with vid := { c.vid with sessions := tset none c.vid.sessions s v } }
/-- The module with an open session changed. -/
def modVses (s : Nat) (f : VSession → VSession) (c : Chip) : Chip := setVses s ((vses c s).map f) c
/-- A session of a partition. -/
def vsesOf (c : Chip) (p s : Nat) : Option VSession := (vses c s).filter fun v => v.part == p
/-- A core. -/
def vcore (c : Chip) (k : Nat) : VCore := tget {} c.vid.cores k
/-- The module with a core replaced. -/
def setVcore (k : Nat) (v : VCore) (c : Chip) : Chip := { c with vid := { c.vid with cores := tset {} c.vid.cores k v } }
/-- Sessions open (0x2800/2). -/
def vidOpenCount (c : Chip) : Nat := c.vid.sessions.countP fun e => e.2.isSome
/-- The state of a buffer. -/
def vbuf (v : VSession) (b : Nat) : Nat := tget 0 v.bufs b
/-- The session with a buffer's state changed. -/
def putBuf (b st : Nat) (v : VSession) : VSession := { v with bufs := tset 0 v.bufs b st }

/-! ### Responses and notices -/

/-- A response leaves for VID_RSP_Q, or is kept while the queue refuses it (R459). -/
def vidPush (p : Nat) (ws : List Word) (c : Chip) : Chip :=
  let q := obj c 0x5600 3 p
  if 1048576 ≤ q then c
  else if !(tget [] c.vid.blocked p).isEmpty then
    { c with vid := { c.vid with blocked := tmod [] c.vid.blocked p (· ++ [ws]) } }
  else match putPacket false Src.vidSched q (ws.map fun w => (w, false)) false c with
    | (st, c) =>
      if st = St.ok then engineSet p (obj c 0x5600 4 p) Src.vidSched c
      else
        let c := { c with vid := { c.vid with blocked := tset [] c.vid.blocked p [ws] } }
        if thas c.vid.blockedSaid p then c else
          emit Src.vidSched St.vidRspBlocked (some p) [p, q, st.toNat]
            { c with vid := { c.vid with blockedSaid := tput c.vid.blockedSaid p true } }

/-- The kept responses are tried again. -/
def vidRetry (p : Nat) (c : Chip) : Chip :=
  match tget [] c.vid.blocked p with
  | [] => c
  | l => l.foldl (fun c ws => vidPush p ws c) { c with vid := { c.vid with blocked := tset [] c.vid.blocked p [] } }

/-- A command is answered (Table 14-4). -/
def vidDone (p cmd tag : Nat) (st : Status) (w1 : Nat) (c : Chip) : Chip :=
  vidPush p [BitVec.ofNat 64 (cmd * 2 ^ 56 + tag * 2 ^ 40 + st.toNat * 2 ^ 24 + 2), BitVec.ofNat 64 w1] c

/-- A notice leaves for OUT_Q, or waits behind the refused notices of its session; the blaze is set after it (R469). -/
def vidNotice (s : Nat) (ws : List Word) (c : Chip) : Chip :=
  match vses c s with
  | none => c
  | some v =>
    if !v.notices.isEmpty then setVses s (some { v with notices := v.notices ++ [ws] }) c
    else match putPacket false Src.vidSched (Vd.outQ v.desc) (ws.map fun w => (w, false)) false c with
      | (st, c) =>
        if st = St.ok then engineSet v.part (Vd.blaze v.desc) Src.vidSched c
        else
          let c := modVses s (fun v => { v with notices := [ws] }) c
          if c.vid.outSaid then c else
            emit Src.vidSched St.vidOutBlocked (some v.part) [s, Vd.outQ v.desc, st.toNat]
              { c with vid := { c.vid with outSaid := true } }

/-- The refused notices of a session are tried again (R469). -/
def vidOutRetry (s : Nat) (c : Chip) : Chip :=
  match vses c s with
  | none => c
  | some v => v.notices.foldl (fun c ws => vidNotice s ws c) (setVses s (some { v with notices := [] }) c)

/-- The first words of a notice (Table 14-6). -/
def noticeHead (c : Chip) (kind s count : Nat) (user : Word) : List Word :=
  [BitVec.ofNat 64 (kind * 2 ^ 56 + s * 2 ^ 48 + 8), BitVec.ofNat 64 (count % 2 ^ 48),
   BitVec.ofNat 64 (timeOfCount c.time count), user]

/-- The notice of a decoded picture. -/
def decNotice (s : Nat) (h : VHeld) (st : Status) (outNo : Nat) (c : Chip) : Chip :=
  let w4 := h.buf + h.dec.ptype.toNat * 2 ^ 8 + min 0xFFFF h.concealed * 2 ^ 16 + b2n h.damaged * 2 ^ 32 +
    b2n h.damagedRef * 2 ^ 33 + b2n h.dec.rap * 2 ^ 34 + outNo % 2 ^ 24 * 2 ^ 40
  let w5 := h.dec.codedW.toNat + h.dec.codedH.toNat * 2 ^ 16 + h.dec.dispW.toNat * 2 ^ 32 + h.dec.dispH.toNat * 2 ^ 48
  vidNotice s (noticeHead c 1 s h.count h.user ++
    [BitVec.ofNat 64 w4, BitVec.ofNat 64 w5, BitVec.ofNat 64 st.toNat, 0]) c

/-- The notice of an encoded piece, or of a whole picture. -/
def encNotice (s : Nat) (e : VEnc) (off len piece : Nat) (last : Bool) (qp : Nat) (st : Status) (soFar : Nat) (c : Chip) : Chip :=
  let w4 := off % 2 ^ 32 + len % 2 ^ 32 * 2 ^ 32
  let w5 := e.num % 2 ^ 24 + piece % 256 * 2 ^ 24 + b2n last * 2 ^ 32 + b2n (e.ptype == 0) * 2 ^ 33 + qp % 256 * 2 ^ 34
  vidNotice s (noticeHead c 2 s e.count e.user ++
    [BitVec.ofNat 64 w4, BitVec.ofNat 64 w5, BitVec.ofNat 64 st.toNat, BitVec.ofNat 64 soFar]) c

/-! ### The scheduler -/

/-- Whether a piece may start: with WPP a CTU row follows the row above (R472). -/
def pieceReady (wpp : Bool) (ps : List VPiece) (i : Nat) : Bool :=
  (nth {} ps i).st == 0 && (!wpp || i == 0 || (nth {} ps (i - 1)).st != 0)

/-- The waiting pieces that a core may take: session, index, and their rank (R478). -/
def waitingFor (c : Chip) (k : Nat) : List (Nat × Nat × List Nat) :=
  (c.vid.sessions.filterMap fun e => match e.2 with
    | some v => match v.cur with
      | some p =>
        if p.stage = 4 && bitOf (Vd.mask v.desc) k then
          some (((span 0 p.pieces.length).filter (pieceReady (Vd.enc v.desc && bitOf (Vd.mode v.desc) 2) p.pieces)).map fun i =>
            (e.1, i, [Vd.cls v.desc, p.count, p.order, e.1, i]))
        else none
      | none => none
    | none => none).flatten

/-- Lexicographic order of ranks. -/
def rankBefore : List Nat → List Nat → Bool
  | a :: r, b :: t => decide (a < b) || (a == b && rankBefore r t)
  | _, _ => false

/-- The entry of lowest rank. -/
def lowestRank : List (Nat × Nat × List Nat) → Option (Nat × Nat × List Nat)
  | [] => none
  | x :: r => match lowestRank r with
    | none => some x
    | some y => if rankBefore y.2.2 x.2.2 then some y else some x

/-- The present picture's piece changed. -/
def modPiece (s i : Nat) (f : VPiece → VPiece) (c : Chip) : Chip :=
  modVses s (fun v => { v with cur := v.cur.map fun p => { p with pieces := nthMod f p.pieces i } }) c

/-- A free core takes the waiting piece that ranks first (R478). -/
def coreTake (k : Nat) (c : Chip) : Chip :=
  match (vcore c k).ses with
  | some _ => c
  | none => match lowestRank (waitingFor c k) with
    | none => c
    | some (s, i, _) =>
      setVcore k ⟨some s, i, now c⟩ (modPiece s i (fun p => { p with st := 1, core := k, since := now c }) c)

/-- Every free core takes a piece, as long as one is ready (R478). -/
def vidSchedule (c : Chip) : Chip := forSpan 0 8 c fun c k => coreTake k c

/-- A core stops serving; its time counts (0x5602/3). -/
def coreFree (k : Nat) (c : Chip) : Chip :=
  match (vcore c k).ses with
  | none => c
  | some _ => bump 0x5602 3 k (now c - (vcore c k).since) (setVcore k {} c)

/-- Cores that serve a session stop. -/
def freeCoresOf (s : Nat) (c : Chip) : Chip :=
  forSpan 0 8 c fun c k => if (vcore c k).ses = some s then coreFree k c else c

/-- The core that a waiting live-critical piece preempts (R479): none while a core of the mask is free. -/
def preemptCore (c : Chip) (mask : Nat) : Option Nat :=
  let ks := (span 0 8).filter (bitOf mask)
  if ks.any fun k => (vcore c k).ses.isNone then none else
    let cand := ks.filterMap fun k => match (vcore c k).ses.bind (vses c) with
      | some v => if Vd.cls v.desc = 0 then none else some (k, Vd.cls v.desc, (vcore c k).since)
      | none => none
    (cand.foldl (fun (b : Option (Nat × Nat × Nat)) x => match b with
      | none => some x
      | some y => if rankBefore [y.2.1, y.2.2, y.1] [x.2.1, x.2.2, x.1] then some x else some y) none).map (·.1)

/-- Whether a live-critical piece waits that preempts a core (R479). -/
def preemptsNow (c : Chip) (k : Nat) : Bool :=
  (waitingFor c k).any fun x => nth 1 x.2.2 0 == 0 && (match vses c x.1 with
    | some v => preemptCore c (Vd.mask v.desc) == some k
    | none => false)

/-- A preempted core saves its piece and takes the live-critical piece (R479). -/
def vidPreemptNow (k : Nat) (c : Chip) : Chip :=
  if !preemptsNow c k then c else
    match (vcore c k).ses with
    | none => c
    | some s =>
      let c := modPiece s (vcore c k).piece (fun p => { p with st := 0 }) c
      vidSchedule (coreTake k (bump 0x2800 9 0 1 (coreFree k c)))

/-! ### Decoding -/

/-- A decoded picture is delivered: its buffer moves to OUT, and its notice leaves (R468). -/
def deliver (s : Nat) (h : VHeld) (c : Chip) : Chip :=
  match vses c s with
  | none => c
  | some v =>
    let c := setVses s (some { putBuf h.buf 2 v with
      outs := v.outs + 1, held := v.held.map fun x => if x.num = h.num then { x with out := true } else x }) c
    decNotice s h St.ok v.outs c

/-- Held pictures that are neither awaited nor references any more leave; their buffers, if still with the core, are free
(R464). -/
def dropHeld (refs : List Nat) (v : VSession) : VSession :=
  let gone := v.held.filter fun h => h.out && !refs.contains h.num
  { v with held := v.held.filter fun h => !(h.out && !refs.contains h.num)
           bufs := (gone.foldl (fun v h => if vbuf v h.buf = 1 then putBuf h.buf 0 v else v) v).bufs }

/-- The decoded samples are written into the picture's buffer (R462; the bits by Config.decodedByte, log 2). -/
def writePicture (v : VSession) (num buf : Nat) (d : DecPic) (c : Chip) : Chip :=
  let (_, _, _, f) := bufGeometry (Vd.codec v.desc) (Vd.depth v.desc) (Vd.chroma v.desc) d.codedW.toNat d.codedH.toNat
  let key := v.desc ++ v.stream
  memWrite (Vd.bufBase v.desc + buf * Vd.bufBytes v.desc) ((span 0 f).map fun o => Config.decodedByte key num o) false c

/-- The stream state is reset at a random-access picture after damage (R482): references dropped, CORE buffers freed. -/
def resetStream (v : VSession) : VSession :=
  { v with damaged := false, held := [], bufs := v.bufs.filter fun e => e.2 != 1 }

/-- The status of a picture: one whose coded size is above MAX_W or MAX_H is too large (R467). -/
def decStatus (d : Bytes) (p : DecPic) : Status :=
  if p.status = St.ok && (Vd.maxW d < p.codedW.toNat || Vd.maxH d < p.codedH.toNat) then St.vidPicTooLarge else p.status

/-- The first work of a decode session goes on: pictures that are not decoded yield their notices, and the next picture
starts, or the command ends for want of a FREE buffer (R467, R468). -/
def decAdvance (s : Nat) : Nat → Chip → Chip
  | 0, c => c
  | fuel + 1, c =>
    match vses c s with
    | none => c
    | some v =>
      if v.cur.isSome then c else
        match v.work with
        | [] => c
        | w :: rest =>
          let p := v.part
          if w.isEnd then
            let c := (v.held.filter fun h => !h.out).foldl (fun c h => deliver s h c) c
            let n := ((vses c s).map (·.outs)).getD 0 - w.base
            let c := modVses s (fun v => { resetStream v with work := rest, stream := [] }) c
            decAdvance s fuel (vidDone p 5 w.reqTag St.ok (n % 65536) c)
          else match w.pics with
            | [] =>
              let c := setVses s (some { v with work := rest }) c
              decAdvance s fuel (vidDone p 2 w.reqTag St.ok (w.decoded % 65536) c)
            | d :: ds =>
              if decStatus v.desc d ≠ St.ok then
                let h : VHeld := ⟨v.num, 0, d, 0, false, v.damaged, w.user, w.count, true⟩
                let c := setVses s (some { v with num := v.num + 1, outs := v.outs + 1, work := { w with pics := ds } :: rest }) c
                decAdvance s fuel (decNotice s h (decStatus v.desc d) v.outs c)
              else
                let v := if d.rap && v.damaged then resetStream v else v
                match choose ((span 0 (Vd.bufCount v.desc)).filter fun b => vbuf v b == 0) c with
                | (none, c) =>
                  let c := setVses s (some { v with work := rest }) c
                  decAdvance s fuel (vidDone p 2 w.reqTag St.vidNoBuffer (w.decoded % 65536) c)
                | (some b, c) =>
                  let pic : VPic := { dec := some d, num := v.num, buf := b, stage := 4
                                      pieces := List.replicate (max 1 d.pieces) {}
                                      start := now c, order := w.order, count := w.count, user := w.user }
                  setVses s (some { putBuf b 1 v with cur := some pic, num := v.num + 1, work := { w with pics := ds } :: rest }) c

/-- The steps that a session's work can take at once. -/
def decFuel (v : VSession) : Nat := v.work.foldl (fun n w => n + w.pics.length + 2) 1

/-- The session's work goes on, and the cores take what is ready. -/
def decGo (s : Nat) (c : Chip) : Chip :=
  match vses c s with
  | none => c
  | some v => vidSchedule (decAdvance s (decFuel v) c)

/-- A decoded picture is complete: its samples are written, its damage counted, and what the standard's order outputs is
delivered (R468, R481 to R483). -/
def decFinish (s : Nat) (v : VSession) (p : VPic) (d : DecPic) (extra : Nat) (c : Chip) : Chip :=
  let ends := p.pieces.filterMap (·.fin)
  let concealed := ends.foldl (fun n e => n + e.concealed) extra
  let stops := ends.foldl (fun n e => n + e.boundStops) 0
  let damaged := concealed != 0 || stops != 0 || ends.any (·.missingRef)
  let c := bump 0x2800 11 0 stops (bump 0x2800 7 0 concealed (bump 0x2800 5 0 1 (bump 0x5601 6 s 1 c)))
  let c := writePicture v p.num p.buf d c
  let h : VHeld := ⟨p.num, p.buf, d, concealed, damaged, v.damaged, p.user, p.count, false⟩
  let v := { v with
    cur := none, damaged := v.damaged || damaged, held := v.held ++ [h]
    work := match v.work with
      | w :: r => { w with decoded := w.decoded + 1 } :: r
      | [] => [] }
  let c := setVses s (some v) c
  let c := d.outs.foldl (fun c n => match ((vses c s).map (·.held)).getD [] |>.find? fun x => x.num == n && !x.out with
    | some x => deliver s x c
    | none => c) c
  decGo s (modVses s (dropHeld d.refs) c)

/-! ### Encoding -/

/-- The pieces of an encoded picture (R472). -/
def encPieces (d : Bytes) : Nat :=
  if Vd.codec d = 2 && bitOf (Vd.mode d) 2 then ceilDiv (Vd.maxH d) 64
  else if Vd.codec d = 2 && 1 < dfield d 28 1 then dfield d 28 1
  else dfield d 26 1 * dfield d 27 1

/-- The licence of an encoded picture, W (Table 18-1). -/
def encWatts (d : Bytes) : Nat := 2 + ceilDiv (Vd.maxW d * Vd.maxH d) 4194304

/-- The next picture of an encode session asks for its licence; an END is answered once nothing is left (R470, R471). -/
def encAdvance (s : Nat) : Nat → Chip → Chip
  | 0, c => c
  | fuel + 1, c =>
    match vses c s with
    | none => c
    | some v =>
      if v.cur.isSome then c else
        match v.encQ with
        | e :: r =>
          let e := if v.forceRap then { e with ptype := 0 } else e
          let pic : VPic := { enc := some e, num := e.num, buf := e.src, stage := 1
                              pieces := List.replicate (encPieces v.desc) {}
                              start := now c, order := e.order, count := e.count, user := e.user }
          let c := setVses s (some { v with cur := some pic, encQ := r, forceRap := false }) c
          askLicence { src := Src.vidSched, tag := none, part := some v.part, watts := encWatts v.desc
                       prio := 3 - Vd.cls v.desc, arrival := now c, kind := 1, inst := s } c
        | [] => match v.work with
          | w :: rest =>
            encAdvance s fuel (vidDone v.part 5 w.reqTag St.ok ((v.outs - w.base) % 65536) (setVses s (some { v with work := rest }) c))
          | [] => c

/-- The encode session goes on. -/
def encGo (s : Nat) (c : Chip) : Chip :=
  match vses c s with
  | none => c
  | some v => vidSchedule (encAdvance s (v.work.length + 2) c)

/-- Encode pictures whose licence the Warden has granted begin motion search; one whose request was refused asks again
(R471, R597). -/
def encGranted (c : Chip) : Chip :=
  c.vid.sessions.foldl (fun c e => match e.2 with
    | some v => match v.cur with
      | some p =>
        if p.stage ≠ 1 then c
        else if hasGrant c 1 e.1 then
          modVses e.1 (fun v => { v with cur := v.cur.map fun p => { p with stage := 2, start := now c } }) c
        else if asksGrant c 1 e.1 then c
        else askLicence { src := Src.vidSched, tag := none, part := some v.part, watts := encWatts v.desc
                          prio := 3 - Vd.cls v.desc, arrival := now c, kind := 1, inst := e.1 } c
      | none => c
    | none => c) c

/-- An accepted picture joins the coding order that GOP and BFRAMES fix (R470). -/
def encAccept (e : VEnc) (force : Bool) (v : VSession) : VSession :=
  let d := v.desc
  let rap := force || v.gopLeft = 0
  if rap then
    { v with gopLeft := Vd.gop d - 1, encWait := [],
             encQ := v.encQ ++ { e with ptype := 0 } :: v.encWait.map fun x => { x with ptype := 2 } }
  else if Vd.bframes d ≤ v.encWait.length then
    { v with gopLeft := v.gopLeft - 1, encWait := [],
             encQ := v.encQ ++ { e with ptype := 1 } :: v.encWait.map fun x => { x with ptype := 2 } }
  else { v with gopLeft := v.gopLeft - 1, encWait := v.encWait ++ [e] }

/-- The pieces of a picture may start, with their QP (R474, R475). -/
def encDecided (s qp : Nat) (map : Bool) (c : Chip) : Chip :=
  vidSchedule (modVses s (fun v => { v with cur := v.cur.map fun p => { p with stage := 4, qp := qp, hasMap := map } }) c)

/-- FALLBACK_QP and no map (R474, R475). -/
def encFallback (s : Nat) (c : Chip) : Chip :=
  match vses c s with
  | some v => encDecided s (dfield v.desc 29 1) false c
  | none => c

/-- The rate decision is late, absent or refused: FALLBACK_QP, with the event VID_RC_LATE (R475). -/
def rateLate (s : Nat) (c : Chip) : Chip :=
  match vses c s with
  | some v => match v.cur with
    | some p => if p.stage = 3 then
        encFallback s (emit Src.vidSched St.vidRcLate (some v.part) [s, p.num] (bump 0x2800 10 0 1 c)) else c
    | none => c
  | none => c

/-- RATE returns (R475, Table 20-3): bits 7:0 the QP, bit 8 a map. A QP above the codec's range is refused (Table 20-4). -/
def rateResult (s num : Nat) (a0 : Word) (pair : Nat) (c : Chip) : Chip :=
  match vses c s with
  | some v => match v.cur with
    | some p =>
      if p.stage ≠ 3 || p.num ≠ num then c
      else
        let qp := a0.toNat % 256
        if Vd.codec v.desc = 2 && 51 < qp then
          encFallback s (denied (emit (Src.cobbler (2 * pair)) St.fwResultBad (some v.part) [] c))
        else encDecided s qp (bitOf a0.toNat 8) c
    | none => c
  | none => c

/-- The rate statistics record (Table 14-7). -/
def rateRecord (s : Nat) (v : VSession) (p : VPic) (e : VEnc) (intra inter : Word) : Bytes :=
  let d := v.desc
  leBytes 1 s ++ leBytes 1 e.ptype ++ leBytes 2 0 ++ leBytes 3 p.num ++ leBytes 1 0 ++ leBytes 4 (v.prevBits % 2 ^ 32) ++
  leBytes 1 v.prevQp ++ leBytes 3 0 ++ leBytes 8 intra.toNat ++ leBytes 8 inter.toNat ++ (d.drop 52).take 4 ++
  leBytes 4 (ceilDiv (Vd.maxW d) 64 * ceilDiv (Vd.maxH d) 64) ++
  leBytes 8 (Vd.bufBase d + Vd.bufCount d * Vd.bufBytes d + 0x20000) ++ leBytes 16 0

/-- Level 1 of motion search ends (R475): the record, and the rate hook where the session asks for it (R474). -/
def motionDone (s : Nat) (intra inter : Word) (c : Chip) : Chip :=
  match vses c s with
  | none => c
  | some v => match v.cur with
    | some p => match p.enc with
      | some e =>
        if p.stage ≠ 2 then c
        else
          let r := rateRecord s v p e intra inter
          let c := { c with vid := { c.vid with record := r } }
          match e.qp with
          | some q => encDecided s q (e.map != 0) c
          | none =>
            if !bitOf (Vd.mode v.desc) 1 then encFallback s c
            else
              let c := modVses s (fun v => { v with cur := v.cur.map fun p => { p with stage := 3 } }) c
              if !hooksOn c then encFallback s c
              else if !hookPresent c Hk.rate then rateLate s c
              else callHook { hook := Hk.rate, arg := s, a1 := p.num, data := r } c
      | none => c
    | none => c

/-- Ring bytes written from an offset, modulo BS_BYTES (R476). -/
def ringWrite (d : Bytes) (off : Nat) (bs : Bytes) (c : Chip) : Chip :=
  let n := Vd.bsBytes d - off
  memWrite (Vd.bsBase d) (bs.drop n) false (memWrite (Vd.bsBase d + off) (bs.take n) false c)

/-- An encoded picture ends: the source is FREE, the licence returns, the command is answered (R460, R470, R471). -/
def encEnd (s : Nat) (e : VEnc) (ok : Bool) (c : Chip) : Chip :=
  match vses c s with
  | none => c
  | some v =>
    let p := (v.cur.getD {})
    let v := { putBuf e.src 0 v with
      cur := none, outs := v.outs + 1
      prevBits := if ok then 8 * p.bytes else v.prevBits
      prevQp := if ok then p.qpSum / max 1 p.pieces.length else v.prevQp
      forceRap := v.forceRap || !ok }
    let c := dropGrant 1 s (freeCoresOf s (setVses s (some v) c))
    let c := if ok then bump 0x2800 6 0 1 (bump 0x5601 6 s 1 c) else c
    encGo s (vidDone v.part 3 e.reqTag St.ok (e.num % 2 ^ 24) c)

/-- A picture is abandoned for want of ring space, or by the watchdog (R476, R484): the bytes that no notice has announced
leave the ring, and the next picture is a random-access picture. -/
def encAbandon (s : Nat) (e : VEnc) (st : Status) (c : Chip) : Chip :=
  match vses c s with
  | none => c
  | some v =>
    let p := v.cur.getD {}
    let perPiece := bitOf (Vd.mode v.desc) 0 && !bitOf (Vd.mode v.desc) 2
    let back := if perPiece then 0 else p.bytes
    let bs := max 1 (Vd.bsBytes v.desc)
    let v := { v with ringHead := (v.ringHead + bs - back % bs) % bs, ringUsed := v.ringUsed - back }
    encEnd s e false (encNotice s e v.ringHead 0 p.announced true 0 st (if perPiece then p.bytes else 0) (setVses s (some v) c))

/-- Ended pieces enter the ring in bitstream order (R476, R477). -/
def encPour (s : Nat) (e : VEnc) : Nat → Chip → Chip
  | 0, c => c
  | fuel + 1, c =>
    match vses c s with
    | none => c
    | some v =>
      match v.cur with
      | none => c
      | some p =>
        let i := p.announced
        let perPiece := bitOf (Vd.mode v.desc) 0 && !bitOf (Vd.mode v.desc) 2
        if p.pieces.length ≤ i then
          let first := (v.ringHead + Vd.bsBytes v.desc - p.bytes % max 1 (Vd.bsBytes v.desc)) % max 1 (Vd.bsBytes v.desc)
          let c := if perPiece then c else
            encNotice s e first p.bytes 0 true (p.qpSum / max 1 p.pieces.length) St.ok p.bytes c
          encEnd s e true c
        else match (nth {} p.pieces i).fin with
          | none => c
          | some f =>
            let n := f.bytes.length
            if Vd.bsBytes v.desc < v.ringUsed + n then encAbandon s e St.vidRingFull c
            else
              let off := v.ringHead
              let c := ringWrite v.desc off f.bytes c
              let p' := { p with announced := i + 1, bytes := p.bytes + n, qpSum := p.qpSum + f.meanQp.toNat }
              let c := setVses s (some { v with
                cur := some p', ringHead := (off + n) % max 1 (Vd.bsBytes v.desc), ringUsed := v.ringUsed + n }) c
              let c := if perPiece then
                  encNotice s e off n i (i + 1 == p.pieces.length) f.meanQp.toNat St.ok p'.bytes c else c
              encPour s e fuel c

/-! ### Pieces end -/

/-- A core finishes its piece (R472, R476, R481, R483). -/
def pieceDone (k : Nat) (e : PieceEnd) (c : Chip) : Chip :=
  match (vcore c k).ses with
  | none => c
  | some s =>
    let c := modPiece s (vcore c k).piece (fun p => { p with st := 2, fin := some e }) c
    let c := coreFree k c
    match vses c s with
    | none => vidSchedule c
    | some v => match v.cur with
      | none => vidSchedule c
      | some p =>
        match p.enc, p.dec with
        | some en, _ => vidSchedule (encPour s en (p.pieces.length + 1) (bump 0x2800 11 0 e.boundStops c))
        | none, some d => if p.pieces.all fun x => x.st == 2 then decFinish s v p d 0 c else vidSchedule c
        | none, none => vidSchedule c

/-- The watchdog stops the picture of a core (R484): its unfinished units are concealed and the core is reset. -/
def watchdog (k unfinished : Nat) (c : Chip) : Chip :=
  match (vcore c k).ses with
  | none => c
  | some s => match vses c s with
    | none => c
    | some v => match v.cur with
      | none => c
      | some p =>
        let c := emit (Src.video k) St.vidWatchdog (some v.part) [s, if p.enc.isSome then p.num else v.outs] (bump 0x2800 8 0 1 c)
        let c := freeCoresOf s c
        match p.enc, p.dec with
        | some en, _ => encAbandon s en St.vidWatchdog c
        | none, some d => decFinish s v p d (max 1 (min unfinished d.units)) c
        | none, none => c

/-! ### Commands -/

/-- OPEN (R463). -/
def vidOpenCmd (p tag w1 : Nat) (c : Chip) : Chip :=
  let a := w1 % 2 ^ 44
  let done (st : Status) (w : Nat) (c : Chip) : Chip := vidDone p 1 tag st w c
  if a % 128 ≠ 0 || !rangeOk c p a 128 then done St.vidConfigBad 0 c
  else
    let d := memRead c a 128
    if !vidRangesOk d then done St.vidConfigBad 0 c
    else if !vidSupported d then done St.vidUnsupported 0 c
    else if !vidBuffersOk d then done St.vidBufferShort 0 c
    else if !vidPlacesOk c p d then done St.vidConfigBad 0 c
    else match choose ((span 0 48).filter fun s => (vses c s).isNone) c with
      | (none, c) => done St.vidSessionsFull 0 c
      | (some s, c) => done St.ok s (setVses s (some { part := p, desc := d }) c)

/-- DECODE (R466): its bytes are read, and its pictures join the session's work. -/
def vidDecodeCmd (p tag : Nat) (w1 w2 : Nat) (user : Word) (count : Nat) (pics : List DecPic) (c : Chip) : Chip :=
  let s := w1 % 256
  match vsesOf c p s with
  | none => vidDone p 2 tag St.vidConfigBad 0 c
  | some v =>
    let n := bitsOf w1 39 8
    let a := w2 % 2 ^ 44
    if Vd.enc v.desc || n = 0 then vidDone p 2 tag St.vidConfigBad 0 c
    else if !rangeOk c p a n then vidDone p 2 tag St.vidAddr 0 c
    else
      let (o, c) := drawSerial c
      let data := memRead c a n
      let w : VWork := ⟨false, tag, user, count, o, pics, 0, 0⟩
      decGo s (setVses s (some { v with work := v.work ++ [w], stream := v.stream ++ data }) c)

/-- ENCODE (R470). -/
def vidEncodeCmd (p tag : Nat) (w1 w2 : Nat) (user : Word) (count : Nat) (c : Chip) : Chip :=
  let s := w1 % 256
  match vsesOf c p s with
  | none => vidDone p 3 tag St.vidConfigBad 0 c
  | some v =>
    let b := bitsOf w1 15 8
    let a := w2 % 2 ^ 44
    let blocks := ceilDiv (Vd.maxW v.desc) 64 * ceilDiv (Vd.maxH v.desc) 64
    if !Vd.enc v.desc then vidDone p 3 tag St.vidConfigBad 0 c
    else if Vd.bufCount v.desc ≤ b || vbuf v b ≠ 0 then vidDone p 3 tag St.vidBufState 0 c
    else if a ≠ 0 && !rangeOk c p a blocks then vidDone p 3 tag St.vidAddr 0 c
    else
      let (o, c) := drawSerial c
      let e : VEnc := { num := v.encNum % 2 ^ 24, src := b, qp := if bitOf w1 17 then some (bitsOf w1 25 18) else none
                        map := a, user := user, reqTag := tag, count := count, order := o }
      encGo s (setVses s (some (encAccept e (bitOf w1 16) { putBuf b 1 v with encNum := v.encNum + 1 })) c)

/-- RELEASE (R464). -/
def vidReleaseCmd (p tag w1 : Nat) (c : Chip) : Chip :=
  let s := w1 % 256
  match vsesOf c p s with
  | none => vidDone p 4 tag St.vidConfigBad 0 c
  | some v =>
    let b := bitsOf w1 15 8
    if Vd.bufCount v.desc ≤ b || vbuf v b ≠ 2 then vidDone p 4 tag St.vidBufState 0 c
    else vidDone p 4 tag St.ok 0 (setVses s (some (putBuf b 0 v)) c)

/-- END (R468, R470). -/
def vidEndCmd (p tag w1 count : Nat) (c : Chip) : Chip :=
  let s := w1 % 256
  match vsesOf c p s with
  | none => vidDone p 5 tag St.vidConfigBad 0 c
  | some v =>
    let (o, c) := drawSerial c
    let w : VWork := ⟨true, tag, 0, count, o, [], 0, v.outs⟩
    if Vd.enc v.desc then
      encGo s (setVses s (some { v with
        work := v.work ++ [w], encQ := v.encQ ++ v.encWait, encWait := [], gopLeft := 0 }) c)
    else decGo s (setVses s (some { v with work := v.work ++ [w] }) c)

/-- BS_FREE (R476). -/
def vidBsFreeCmd (p tag w1 : Nat) (c : Chip) : Chip :=
  let s := w1 % 256
  match vsesOf c p s with
  | none => vidDone p 6 tag St.vidConfigBad 0 c
  | some v => vidDone p 6 tag St.ok 0 (setVses s (some { v with ringUsed := v.ringUsed - w1 / 2 ^ 32 }) c)

/-- Whether a session has a DECODE or an ENCODE outstanding (R465). -/
def vidOutstanding (v : VSession) : Bool :=
  v.cur.isSome || !v.work.isEmpty || !v.encQ.isEmpty || !v.encWait.isEmpty

/-- CLOSE (R465). -/
def vidCloseCmd (p tag w1 : Nat) (c : Chip) : Chip :=
  let s := w1 % 256
  match vsesOf c p s with
  | none => vidDone p 7 tag St.vidConfigBad 0 c
  | some v =>
    if vidOutstanding v || v.bufs.any (fun e => e.2 == 1) then vidDone p 7 tag St.vidBusy 0 c
    else vidDone p 7 tag St.ok 0 (setVses s none c)

/-- The bits of a command fit Table 14-4. -/
def vidFits (cmd : Nat) (ws : List Word) : Bool :=
  let w (i : Nat) : Nat := (nth 0 ws i).toNat
  let len := w 0 % 65536
  bitsOf (w 0) 39 16 == 0 && ws.length == len &&
  (if cmd = 1 then len == 2 && bitsOf (w 1) 63 44 == 0
   else if cmd = 2 then len == 4 && bitsOf (w 1) 63 40 == 0 && bitsOf (w 2) 63 44 == 0
   else if cmd = 3 then len == 4 && bitsOf (w 1) 63 26 == 0 && bitsOf (w 2) 63 44 == 0
   else if cmd = 4 then len == 2 && bitsOf (w 1) 63 16 == 0
   else if cmd = 5 || cmd = 7 then len == 2 && bitsOf (w 1) 63 8 == 0
   else cmd == 6 && len == 2 && bitsOf (w 1) 31 8 == 0)

/-- A command packet is performed (R460). -/
def vidCommand (p count : Nat) (ws : List Word) (pics : List DecPic) (c : Chip) : Chip :=
  let w (i : Nat) : Nat := (nth 0 ws i).toNat
  let cmd := bitsOf (w 0) 63 56
  let tag := bitsOf (w 0) 55 40
  if !vidFits cmd ws then vidDone p cmd tag St.vidConfigBad 0 c
  else if cmd = 1 then vidOpenCmd p tag (w 1) c
  else if cmd = 2 then vidDecodeCmd p tag (w 1) (w 2) (nth 0 ws 3) count pics c
  else if cmd = 3 then vidEncodeCmd p tag (w 1) (w 2) (nth 0 ws 3) count c
  else if cmd = 4 then vidReleaseCmd p tag (w 1) c
  else if cmd = 5 then vidEndCmd p tag (w 1) count c
  else if cmd = 6 then vidBsFreeCmd p tag (w 1) c
  else vidCloseCmd p tag (w 1) c

/-- A row's command is read from the head of VID_REQ_Q, where it must be that command or none of Table 14-4; nothing is
read of a partition whose responses are blocked (R459). -/
def vidRead (cmd p : Nat) (pics : List DecPic) (c : Chip) : Chip :=
  let q := obj c 0x5600 2 p
  if !(tget [] c.vid.blocked p).isEmpty then c else
    match headPacket c q, (queue c q).pkts with
    | some ws, k :: _ =>
      let n := bitsOf (nth 0 ws 0).toNat 63 56
      if n = cmd || n = 0 || 7 < n then vidCommand p k.count ws pics (dropHead q c) else c
    | _, _ => c

/-- A released partition's sessions are closed at once (R465, R618). -/
def closeSessions (p : Nat) (c : Chip) : Chip :=
  c.vid.sessions.foldl (fun c e => match e.2 with
    | some v => if v.part = p then
        { dropGrant 1 e.1 (setVses e.1 none (freeCoresOf e.1 c)) with
          pwr := { (dropGrant 1 e.1 c).pwr with waits := c.pwr.waits.filter fun w => !(w.tag.isNone && w.kind == 1 && w.inst == e.1) } }
      else c
    | none => c) c

/-! ### Meanings -/

/-- VID_OPEN. -/
def execVidOpen (p : Part) (s : State) : Out := act s (vidRead 1 p.toNat [])
/-- VID_DECODE. -/
def execVidDecode (p : Part) (pics : List DecPic) (s : State) : Out := act s (vidRead 2 p.toNat pics)
/-- VID_ENCODE. -/
def execVidEncode (p : Part) (s : State) : Out := act s (vidRead 3 p.toNat [])
/-- VID_RELEASE. -/
def execVidRelease (p : Part) (s : State) : Out := act s (vidRead 4 p.toNat [])
/-- VID_END. -/
def execVidEnd (p : Part) (s : State) : Out := act s (vidRead 5 p.toNat [])
/-- VID_BS_FREE. -/
def execVidBsFree (p : Part) (s : State) : Out := act s (vidRead 6 p.toNat [])
/-- VID_CLOSE. -/
def execVidClose (p : Part) (s : State) : Out := act s (vidRead 7 p.toNat [])
/-- VIDEO_PIECE_DONE. -/
def execVideoPieceDone (core : BitVec 3) (e : PieceEnd) (s : State) : Out := act s (pieceDone core.toNat e)
/-- VIDEO_PREEMPT. -/
def execVideoPreempt (core : BitVec 3) (s : State) : Out := act s (vidPreemptNow core.toNat)
/-- MOTION_LEVEL1_DONE. -/
def execMotionLevel1Done (pic : Nat) (intra inter : Word) (s : State) : Out := act s (motionDone pic intra inter)
/-- VID_RC_LATE: the hook that was called for the picture passes its deadline (R475). -/
def execVidRcLate (pic : Nat) (s : State) : Out := act s fun c => match hookRun c 1 with
  | some r => if r.call.arg = pic then rateLate pic c else c
  | none => c
/-- VID_WATCHDOG. -/
def execVidWatchdog (core : BitVec 3) (unfinished : Nat) (s : State) : Out := act s (watchdog core.toNat unfinished)
/-- VID_OUT_BLOCKED. -/
def execVidOutBlocked (ses : BitVec 6) (s : State) : Out := act s (vidOutRetry ses.toNat)
/-- VID_RSP_BLOCKED. -/
def execVidRspBlocked (p : Part) (s : State) : Out := act s (vidRetry p.toNat)

end Sys2Proof.Machine
end

