-- ==== Sys2Proof/Machine/Faults.lean ====
section
/-! DEFINITION. Faults and the domain (17): the sequences of class 7 and of the fence, the post-mortem bundle, the fault log,
partition restarts, checkpoints, rollback, admission, the shadow run; the ends of FDP sessions (R95). -/
namespace Sys2Proof.Machine

/-! ### Sessions end -/

/-- A requester's number: a session's, 16 for the mailbox, 17 for policy firmware. -/
def whoKey : Requester → Nat
  | .session n => n.toNat
  | .mailbox => 16
  | .policy => 17

/-- An FDP session. -/
def fdpSes (c : Chip) (n : Nat) : Session := tget {} c.fdp.sessions n
/-- The module with a session replaced. -/
def setFdp (n : Nat) (v : Session) (c : Chip) : Chip := { c with fdp := { c.fdp with sessions := tset {} c.fdp.sessions n v } }

/-- A session ends: its requests, its kept responses, its selectors and its report are gone (R88, R95, R104, R107). -/
def endSession (n : Nat) (c : Chip) : Chip :=
  let c := setFdp n {} c
  { c with
    dict := { c.dict with sels := tdrop c.dict.sels (n * 2 ^ 24) ((n + 1) * 2 ^ 24) }
    sec := { c.sec with reports := tdrop c.sec.reports n (n + 1) } }
/-- Every session ends, and a handshake under way with them (R95). -/
def endSessions (c : Chip) : Chip :=
  let c := forSpan 0 16 c fun c n => endSession n c
  { c with fdp := { c.fdp with shakeMs := 0, closing := [] } }

/-! ### The post-mortem bundle -/

/-- Tags that a partition's threads hold. -/
def tagsHeldIn (c : Chip) (p : Nat) : Nat := (threadsOf c p).foldl (fun a t => a + (tagsHeldBy c t).length) 0
/-- Packets open on a partition's queues. -/
def openIn (c : Chip) (p : Nat) : Nat :=
  c.opens.countP (fun o => queueOwner c o.q == some p) + c.pair.inp.countP fun r => queueOwner c r.q == some p

/-- A partition's recovery state. -/
def partFlt (c : Chip) (p : Nat) : PartFlt := tget {} c.flt.parts p
/-- The module with a partition's recovery state changed. -/
def modPartFlt (p : Nat) (f : PartFlt → PartFlt) (c : Chip) : Chip :=
  { c with flt := { c.flt with parts := tmod {} c.flt.parts p f } }

/-- A partition's summary (Table 17-8). -/
def partSummary (c : Chip) (p : Nat) : Bytes :=
  let f := partFlt c p
  leBytes 4 (mapOf c p).job ++ leBytes 2 (epochOf c p) ++ leBytes 2 0 ++ leBytes 8 ((f.newest.map (·.count)).getD 0) ++
  leBytes 8 f.lastOverrun ++ leBytes 8 f.lastRestart ++ leBytes 8 f.lastHard ++ leBytes 4 (tagsHeldIn c p) ++
  leBytes 4 (openIn c p) ++ leBytes 16 0

/-- The dump is taken and the bundle's writing begins (R356, R574, R575). -/
def startBundle (reason : Nat) (c : Chip) : Chip :=
  let c := startDump reason c
  { c with flt := { c.flt with
    writing := some ⟨c.blz.dumpHdr, lastN 4096 c.flt.log, c.blz.dumpEnts, parts16.map (partSummary c)⟩
    writingSince := now c } }

/-- The bundle is complete: it replaces the one before it (R575). -/
def bundleDone (c : Chip) : Chip :=
  match c.flt.writing with
  | none => c
  | some b => emit Src.fault St.fltPmDone none [] { c with flt := { c.flt with writing := none, bundle := some b } }

/-- An item of the bundle by PMB_SEL (Table 17-6). -/
def bundleItem (c : Chip) (k : Nat) : Bytes :=
  match c.flt.bundle with
  | none => List.replicate 64 0
  | some b =>
    fit 64 (if k = 0 then b.header
      else if k ≤ 4096 then ((b.recs[k - 1]?).map recBytes).getD []
      else if k = 4097 then b.header
      else if k ≤ 4609 then nth [] b.dump (k - 4098)
      else nth [] b.parts (k - 4610))

/-! ### Out of service -/

/-- CLAIM is cleared and the module yields (R553, R562, R572, R684). -/
def standDown (reason : Status) (c : Chip) : Chip := clearClaim (leavePair reason c)

/-- No thread issues any more (Table 22-1). -/
def haltThreads (c : Chip) : Chip :=
  { c with harts := c.harts.map fun e =>
    if e.2.state = .empty then e else (e.1, { e.2 with state := .halted, resume := e.2.state }) }

/-- Every ISSUED tag of the module is aborted (R562). -/
def abortAll (c : Chip) : Chip :=
  c.groves.foldl (fun c g => (g.2.tags.filter fun e => e.2.state == .issued).foldl (fun c e => abortTag (g.1 * 256 + e.1) c) c) c

/-- The counter is saved to the persistent store (R36). -/
def saveTime (c : Chip) : Chip := { c with time := { c.time with saved := some c.time.tsc, lastSave := c.time.tsc } }

/-- The sequence of a class-7 condition (R562). A module that is OFF, FENCED or FAILED stays as it is (Table 22-2). -/
def moduleFail (src : Source) (st : Status) (c : Chip) : Chip :=
  if c.life.mstate == MState.off || c.life.mstate == MState.fenced || c.life.mstate == MState.failed then c
  else
    let c := haltThreads (abortAll (haltThreads (standDown St.fltFailed c)))
    let c := emit src St.fltFailed none [st.toNat] c
    saveTime (endSessions (enterState MState.failed (startBundle 2 c)))

/-- A class-7 condition that a command found ends the command with the sequence of R562. -/
def settleFatal (c : Chip) : Chip :=
  match c.flt.fatal with
  | none => c
  | some (src, st) => moduleFail src st { c with flt := { c.flt with fatal := none } }

/-- Entry to FENCED (R572, R684, R685): by FENCE_N or by the latch warning. Before L0 runs there is neither dump nor bundle
for the latch warning. -/
def enterFenced (latch : Bool) (c : Chip) : Chip :=
  if c.life.mstate == MState.off || c.life.mstate == MState.fenced || c.life.mstate == MState.failed then c
  else
    let old := c.life.mstate
    let early := latch && c.life.mstate == MState.boot && c.life.phase ≤ 3
    let reason := if latch then St.startLatch else St.fltFenced
    let c := haltThreads (endSessions (standDown reason c))
    let c := enterState MState.fenced c
    let c := if latch then emit (Src.cobbler 0) St.startLatch none [] c else emit Src.fault St.fltFenced none [old] c
    saveTime (if early then c else startBundle (if latch then 3 else 1) c)

/-- A latch warning that comes within 10 µs of FENCE_N's fall makes the entry one under R684: the dump and the bundle carry
REASON 0x03 (R685). -/
def fencedToLatch (c : Chip) : Chip :=
  if c.life.mstate == MState.fenced && c.blz.dumpReason == 1 && c.flt.writing.isSome &&
      now c ≤ c.life.since + 19000 then startBundle 3 c
  else c

/-! ### The fault log -/

/-- The record that comes first in the order of R65. -/
def firstRec : List Rec → Option Rec
  | [] => none
  | r :: l => match firstRec l with
    | none => some r
    | some x => if recBefore x r then some x else some r

/-- The log without the record that an admitted record replaces (R565). -/
def dropOld (l : List Rec) : List Rec :=
  if l.any fun r => r.cls ≤ 1 then l.eraseP fun r => r.cls ≤ 1 else l.drop 1

/-- A record that is 2 µs old joins the log in the order of R65 (R564, R565); one of class 4 to 8 calls FAULT (Table 20-3). -/
def logAdmit (c : Chip) : Chip :=
  match firstRec c.flt.inflight with
  | none => c
  | some r =>
    if now c < r.time + 2000 then c
    else
      let c := { c with flt := { c.flt with inflight := c.flt.inflight.erase r } }
      let full := 16384 ≤ c.flt.log.length
      let c := if full then bump 0x3200 2 0 1 { c with flt := { c.flt with
          log := dropOld c.flt.log, replaced := c.flt.replaced + 1, replacedAt := countNow c } } else c
      let c := { c with flt := { c.flt with log := c.flt.log ++ [r] } }
      let c := setObj 0x3200 4 0 r.time c
      if 4 ≤ r.cls && r.cls ≤ 8 then callHook { hook := Hk.fault, data := recBytes r } c else c

/-- FLT_SUPPRESS_REPORT is the first record of each unit that suppressed records in the closed stitch (R566). -/
def suppressReports (closed : Nat) (c : Chip) : Chip :=
  c.flt.suppressed.foldl (fun c e => emitRaw (BitVec.ofNat 16 e.1) St.fltSuppressReport none [e.2, closed] c)
    { c with flt := { c.flt with suppressed := [], written := [] } }

/-- FLT_LOG_WRAP for the stitch in which records were replaced (R565). -/
def wrapReport (c : Chip) : Chip :=
  let n := c.flt.replaced
  if n = 0 then c else
    emit Src.fault St.fltLogWrap none [n, c.flt.replacedAt] { c with flt := { c.flt with replaced := 0 } }

/-! ### Restart, rollback and admission -/

/-- PART_INFO's value (Table 04-4). -/
def partInfoWord (c : Chip) (p : Nat) : Nat :=
  let e := mapOf c p
  p + c.moduleId * 16 + e.firstGrove * 65536 + e.grovesM1 * 2 ^ 24
/-- RECOVERY_INFO's value (Table 17-5). -/
def recoveryWord (c : Chip) (p : Nat) : Nat :=
  let f := partFlt c p
  f.cause * 2 ^ 56 + f.causeTo % 2 ^ 48

/-- A partition runtime is started (R583). -/
def startRuntime (p cause causeTo : Nat) (c : Chip) : Chip :=
  let c := modPartFlt p (fun f => { f with cause := cause, causeTo := causeTo }) c
  let entry := obj c 0x5880 8 p
  if entry = 0 then emit Src.fault St.fltNoEntry (some p) [p, cause] c
  else
    let h : Hart := { state := .ready, priv := 1, pc := BitVec.ofNat 64 (c.moduleId * 2 ^ 44 + entry), quota := obj c 0x2000 3 }
    setHart ((mapOf c p).firstGrove * 64)
      (writeX 11 (BitVec.ofNat 64 (recoveryWord c p)) (writeX 10 (BitVec.ofNat 64 (partInfoWord c p)) h)) c

/-- The dead-letter queue of a partition (0x2301). -/
def dlqOf (c : Chip) (p : Nat) : Nat := obj c 0x2301 (p + 1)

/-- Every queue of a partition that the predicate names is reset (R329). -/
def resetQueues (p : Nat) (keep : Nat → Bool) (c : Chip) : Chip :=
  (c.queues.filter fun e => queueOwner c e.1 == some p && !keep e.1).foldl (fun c e => startReset e.1 c) c

/-- A partition restart at a boundary (R568): `image` is step 5. -/
def restartPart (p : Nat) (image : Chip → Chip) (cause causeTo : Nat) (c : Chip) : Chip :=
  if !assigned c p then c else
    let c := (threadsOf c p).foldl (fun c t => stopThread t c) c
    let c := (c.opens.filter fun o => queueOwner c o.q == some p).foldl (fun c o => rewind o c) c
    let c := discardEgress p c
    let c := releasePins p (closeBatches p c)
    let c := resetQueues p (· == dlqOf c p) c
    let c := changeEpoch p (image c)
    let c := modPartFlt p (fun f => { f with ckptAt := none, lastRestart := countNow c }) c
    let c := emit Src.fault St.fltPartRestart (some p) [0] (bump 0x5880 7 p 1 c)
    startRuntime p cause causeTo c

/-- Requested restarts (R568). -/
def restartsDue (c : Chip) : Chip :=
  let l := c.flt.restartReq
  parts16.foldl (fun c p => if l.contains p then restartPart p (clearAlloc p) 1 0 c else c)
    { c with flt := { c.flt with restartReq := [] } }

/-- The save of a partition for a count (R578, R580). -/
def saveFor (c : Chip) (p n : Nat) : Option Ckpt :=
  let f := partFlt c p
  match f.newest with
  | some k => if k.count = n then some k else f.older.filter fun o => o.count == n
  | none => f.older.filter fun o => o.count == n

/-- Whether ADMIT_AT and ROLL_AT fall on the same boundary (R580). -/
def admitsWithRoll (c : Chip) : Bool := c.flt.admitArmed && obj c 0x3200 6 == obj c 0x3200 8

/-- Whether a rollback falls due at a boundary's count (R580, R707). -/
def rollDue (c : Chip) (n : Nat) : Bool := c.flt.rollArmed && obj c 0x3200 8 ≤ n
/-- Whether an admission falls due (R582, R707). -/
def admitDue (c : Chip) (n : Nat) : Bool :=
  c.flt.admitArmed && obj c 0x3200 6 ≤ n && c.life.mstate == MState.ready

/-- The rollback of every assigned partition (R580). -/
def rollbackDue (n : Nat) (c : Chip) : Chip :=
  if !rollDue c n then c else
    let aim := obj c 0x3200 7
    let admits := admitDue c n && admitsWithRoll c
    let c := { c with flt := { c.flt with rollArmed := false, admitArmed := c.flt.admitArmed && !admits } }
    let c := parts16.foldl (fun c p =>
      if !assigned c p then c
      else if admits then restartPart p (fun c => restoredEvent p (applyImage p c)) 3 aim c
      else match saveFor c p aim with
        | some k => restartPart p (applySaved p k.image) 2 aim c
        | none => c) c
    let c := emit Src.fault St.fltRollback none [] c
    if admits then enterState MState.service (emit Src.fault St.fltAdmitted none [] c) else c

/-- The image of a partition holds no blaze (R582: the initial state of a job that has not run). -/
def imageZero (c : Chip) (p : Nat) : Bool :=
  (span 0 768).all fun i => !imageBit c p i

/-- The admission of the module (R582, R583): READY becomes SERVICE. -/
def admission (n : Nat) (c : Chip) : Chip :=
  if !admitDue c n then c else
    let c := { c with flt := { c.flt with admitArmed := false } }
    let c := parts16.foldl (fun c p =>
      if !assigned c p then c
      else
        let count := obj c 0x5501 2 (p * 2) % 2 ^ 48
        let first := imageZero c p && count = 0
        startRuntime p (if first then 4 else 3) (if first then 0 else obj c 0x3200 7) (applyImage p c)) c
    enterState MState.service (emit Src.fault St.fltAdmitted none [] c)

/-! ### Checkpoints and the shadow run -/

/-- Whether a checkpoint of a partition begins at a boundary (R577, R581). -/
def ckptBegins (c : Chip) (n p : Nat) : Bool :=
  assigned c p && c.pair.state == PSt.unpaired && n % max 1 (obj c 0x5880 2 p) == 0

/-- The snapshots of the checkpoints that begin (R577, R353). -/
def ckptImages (n : Nat) (c : Chip) : Chip :=
  parts16.foldl (fun c p => if ckptBegins c n p then takeImage p c else c) c

/-- After step 6 of R28 the checkpoints begin (R577); any earlier one can no longer be committed (R578). -/
def ckptBegin (roll : Bool) (n : Nat) (c : Chip) : Chip :=
  parts16.foldl (fun c p =>
    if !roll && ckptBegins c n p then
      let c := modPartFlt p (fun f => { f with ckptAt := some n }) c
      emit Src.fault St.fltCkptBegin (some p) [] (engineSet p (obj c 0x5880 3 p) Src.fault c)
    else if (partFlt c p).ckptAt.isSome then modPartFlt p (fun f => { f with ckptAt := none }) c else c) c

/-- The image of a partition's last snapshot, both halves (Table 10-3). -/
def imageBytes (c : Chip) (p : Nat) : Bytes :=
  leBytes 64 (obj c 0x5501 2 (p * 2)) ++ leBytes 64 (obj c 0x5501 2 (p * 2 + 1))

/-- A commit keeps the image as the newest save and one older save (R578). -/
def commitSave (p n : Nat) (c : Chip) : Chip :=
  let img := imageBytes c p
  let c := modPartFlt p (fun f => { f with newest := some ⟨n, img⟩, older := f.newest, ckptAt := none }) c
  emit Src.fault St.fltCkptDone (some p) [] c

/-- The shadow run at a boundary (R584): a stitch in which every digest agreed counts. -/
def shadowStep (c : Chip) : Chip :=
  let seen := c.flt.shadowSeen
  let c := { c with flt := { c.flt with shadowSeen := false } }
  if c.pair.state ≠ PSt.standby || seen || c.flt.shadowPassed then c
  else
    let n := c.flt.shadow + 1
    let c := { c with flt := { c.flt with shadow := min 65535 n } }
    if n < obj c 0x3200 10 then c
    else emit Src.fault St.fltShadowPassed none [] { c with flt := { c.flt with shadowPassed := true } }

/-- A hard completion of a partition is noted for the summary (R55, Table 17-8). -/
def noteHard (c : Chip) : Chip :=
  parts16.foldl (fun c p =>
    if assigned c p && (threadsOf c p).any (fun t => (hart c t).hard) && hardDone c p &&
        (partFlt c p).lastHardAt ≠ some (countNow c) then
      modPartFlt p (fun f => { f with lastHard := now c, lastHardAt := some (countNow c) }) c
    else c) c

end Sys2Proof.Machine
end

