-- ==== Sys2Proof/Machine/Fdp.lean ====
section
/-! DEFINITION. Dictionary requesters (03): their kept responses, the answers they get, and the order of their requests. -/
namespace Sys2Proof.Machine

/-- The 24 header bytes of a response and its payload (Table 03-7). -/
def respBytes (c : Chip) (m : DMsg) (r : Resp) : Bytes :=
  [1, BitVec.ofNat 8 m.svc, if r.more then 3 else 1, 0] ++ leBytes 4 m.req.reqId.toNat ++ leBytes 8 c.life.incarnation.toNat ++
  leBytes 2 m.req.index.toNat ++ [m.req.sub, m.req.count] ++ leBytes 2 r.payload.length ++ leBytes 2 r.status.toNat ++ r.payload

/-- The responses kept for a requester (R104, R114). -/
def keptOf (c : Chip) : Requester → List Kept
  | .session n => (fdpSes c n.toNat).kept
  | .mailbox => c.mbx.history
  | .policy => []

/-- A response is kept: the last 16 stay. -/
def keepResp (who : Requester) (k : Kept) (c : Chip) : Chip :=
  match who with
  | .session n => let v := fdpSes c n.toNat; setFdp n.toNat { v with kept := lastN 16 (v.kept ++ [k]) } c
  | .mailbox => { c with mbx := { c.mbx with history := lastN 16 (c.mbx.history ++ [k]) } }
  | .policy => c

/-- A frame of FDP leaves on both ports with one sequence number (Table 03-5). -/
def frameSent (c : Chip) : Chip :=
  { c with fdp := { c.fdp with frer := { c.fdp.frer with gen := (c.fdp.frer.gen + 1) % 65536 } } }

/-- A record leaves in a session; after 2^24 of them a KeyUpdate follows (Table 03-6). -/
def recordSent (n : Nat) (c : Chip) : Chip :=
  let v := fdpSes c n
  let c := frameSent (setFdp n { v with sent := if v.sent + 1 < 2 ^ 24 then v.sent + 1 else 0, lastUse := now c } c)
  if v.sent + 1 < 2 ^ 24 then c else send (.keyUpdate n) c

/-- A response leaves for its requester (R96, R113). -/
def sendResp (who : Requester) (m : DMsg) (r : Resp) (c : Chip) : Chip :=
  match who with
  | .session n => if (fdpSes c n.toNat).isOpen then recordSent n.toNat (send (.fdp n.toNat m.svc m.req r) c) else c
  | .mailbox => if c.mbx.busy then { c with mbx := { c.mbx with answer := some (respBytes c m r) } } else c
  | .policy => c

/-- A request is answered, and its answer kept unless R104 says that it is not. -/
def respond (keep : Bool) (who : Requester) (m : DMsg) (r : Resp) (c : Chip) : Chip :=
  sendResp who m r (if keep then keepResp who ⟨m, r⟩ c else c)

/-- Whether a request's counts and lengths pass the header check of its service (R97 step 4). -/
def countsOk (svc cnt len : Nat) : Bool :=
  len ≤ 1176 && (if svc = 1 || svc = 2 || svc = 9 then cnt == 1 else if svc = 7 || svc = 8 then true else cnt != 0)

/-- The first failing check of a message's header, R97 steps 2 to 4. -/
def headerFail (b : Bytes) : Option Status :=
  let f (lo n : Nat) : Nat := leNat ((b.drop lo).take n)
  let svc := f 1 1
  let cnt := f 19 1
  if f 0 1 ≠ 1 then some St.fdpVersion
  else if svc = 0 || 9 < svc then some St.fdpService
  else if f 20 2 ≠ b.length - 24 || f 2 1 % 2 ≠ 0 || 4 ≤ f 2 1 || f 3 1 ≠ 0 || !countsOk svc cnt (b.length - 24) then some St.fdpBadHeader
  else none

/-- A message's fields (Table 03-7). A message that fails a header check keeps its other header bytes above bits 7:0 of
its service code, so that messages of different content differ (R104). -/
def parseMsg (b : Bytes) : DMsg :=
  let f (lo n : Nat) : Nat := leNat ((b.drop lo).take n)
  let junk := if (headerFail b).isNone then 0 else 1 + f 0 1 + 256 * f 2 2 + 2 ^ 24 * f 20 4
  ⟨f 1 1 + 256 * junk, ⟨BitVec.ofNat 32 (f 4 4), BitVec.ofNat 64 (f 8 8), BitVec.ofNat 16 (f 16 2),
    BitVec.ofNat 8 (f 18 1), BitVec.ofNat 8 (f 19 1), b.drop 24⟩⟩

/-- Whether two requests have the same content (R104). -/
def sameReq (a b : DMsg) : Bool := decide (a = b)

/-- The request is the next of its requester (R103), and the module once the engine has begun to serve it. A request with
none queued before it is served as it comes. -/
def beginReq (who : Requester) (m : DMsg) (c : Chip) : Option Chip :=
  match who with
  | .session n =>
    let v := fdpSes c n.toNat
    if !v.isOpen then none else
      match v.queue with
      | [] => some c
      | x :: r => if sameReq x m then some (setFdp n.toNat { v with queue := r } c) else none
  | .mailbox =>
    if !c.mbx.busy then some c
    else if !c.mbx.started && (c.mbx.taken.map parseMsg) == some m then some { c with mbx := { c.mbx with started := true } }
    else none
  | .policy => some c

/-- A message that fails a header check is answered at once, and its answer is kept unless its REQ_ID is (R97, R104). -/
def answerHeader (who : Requester) (m : DMsg) (st : Status) (c : Chip) : Chip :=
  let used := (keptOf c who).any fun k => k.msg.req.reqId == m.req.reqId
  respond (!used) who m ⟨st, false, []⟩ c

end Sys2Proof.Machine
end

