-- ==== Sys2Proof/Machine/Counters.lean ====
section
/-! DEFINITION. Performance counters, snapshots, bandwidth windows and instruction sampling (21). How far a counter advances
in a stretch of time is a free value (DESIGN CHOICE, log 21). -/
namespace Sys2Proof.Machine

/-! ### Counters -/

/-- The block of a counter (Table 21-1): 0 grove, 1 stand, 2 base die, 3 link port, 4 video core, 5 HBM channel. -/
def ctrBlock (n : Nat) : Nat :=
  if n < 2048 then 0 else if n < 2176 then 1 else if n < 2304 then 2 else if n < 2432 then 3 else if n < 2560 then 4 else 5

/-- The events of a block (Table 21-4): code, whether of kind O, whether MASTER, PART, PRIV and RANGE are allowed, and the
highest CLASSF. -/
def ctrEvents : Nat → List (Nat × Bool × Bool × Bool × Bool × Bool × Nat)
  | 0 => [(1, false, false, false, false, false, 0), (2, false, false, false, true, false, 2), (3, false, false, false, true, false, 2),
      (4, true, false, false, false, false, 0), (5, true, false, false, false, false, 0), (6, true, false, false, false, false, 0),
      (7, false, false, false, true, true, 2), (8, false, false, false, true, false, 2), (9, false, true, false, false, false, 0),
      (10, false, false, false, false, true, 0), (11, false, false, false, false, false, 0)]
  | 1 => [(1, false, false, false, false, false, 0), (2, false, false, true, false, false, 2), (3, true, false, false, false, false, 0),
      (4, false, false, true, false, false, 0), (5, false, false, true, false, false, 0), (6, false, false, true, false, false, 0)]
  | 2 => [(1, false, false, false, false, false, 0), (2, false, true, true, false, true, 2), (3, false, false, true, false, false, 0),
      (4, false, false, true, false, false, 0), (5, true, false, false, false, false, 0), (6, false, true, true, false, false, 0),
      (7, true, false, false, false, false, 0), (8, true, false, false, false, false, 0), (9, true, false, false, false, false, 0),
      (10, false, false, true, false, false, 0), (11, false, false, true, false, false, 0)]
  | 3 => [(1, false, false, false, false, false, 4), (2, false, false, false, false, false, 4), (3, false, false, false, false, false, 0),
      (4, true, false, false, false, false, 0), (5, false, false, false, false, false, 0), (6, false, false, false, false, false, 4)]
  | 4 => [(1, false, false, true, false, false, 0), (2, false, false, true, false, false, 0), (3, false, false, true, false, false, 0),
      (4, false, false, true, false, false, 0), (5, false, false, true, false, false, 0), (6, false, false, false, false, false, 0),
      (7, false, false, true, false, false, 0)]
  | _ => [(1, false, true, true, false, true, 0), (2, false, true, true, false, true, 0), (3, true, false, false, false, false, 0),
      (4, false, false, false, false, false, 0), (5, false, false, false, false, false, 0)]

/-- Whether a control word is refused for a counter (R659). -/
def ctlBad (n v : Nat) : Bool :=
  let mode := bitsOf v 1 0
  let thresh := bitsOf v 63 48
  mode == 3 || bitsOf v 27 16 != 0 || bitsOf v 7 2 != 0 ||
  match (ctrEvents (ctrBlock n)).find? fun e => e.1 == bitsOf v 15 8 with
  | none => true
  | some (_, occ, master, part, priv, range, cls) =>
    (mode == 1 && (occ || thresh != 0 ||
      (!master && bitsOf v 47 43 != 0) || (!part && bitsOf v 39 35 != 0) || (!priv && bitsOf v 42 40 != 0) ||
      (if range then 8 < bitsOf v 31 28 else bitsOf v 31 28 != 0) || cls < bitsOf v 34 32)) ||
    (mode == 2 && (!occ || bitsOf v 47 28 != 0))

/-- A counter's control word. -/
def ctlOf (c : Chip) (n : Nat) : Nat := obj c 0x5CC1 2 n
/-- A counter's count. -/
def ctrVal (c : Chip) (n : Nat) : Nat := tget 0 c.ctr.val n

/-- The counters with MODE not 0, in ascending number. -/
def activeCtrs (c : Chip) : List Nat :=
  ((trange c.dict.vals (objKey 0x5CC1 2 0) (objKey 0x5CC1 2 3584)).map fun e => e.1 - objKey 0x5CC1 2 0).filter fun n =>
    ctlOf c n % 4 != 0

/-- A counter advances by a free value and stops at its largest (R658, Table 21-3; DESIGN CHOICE, log 21). -/
def advanceCtr (n : Nat) (c : Chip) : Chip :=
  if ctlOf c n % 4 = 0 then c else
    let (w, c) := drawFree c
    { c with ctr := { c.ctr with val := tmod 0 c.ctr.val n (fun v => satAdd 48 v w.toNat) } }

/-- Whether a partition's permit in force admits a counter (R670). -/
def ctrAdmits (c : Chip) (p n : Nat) : Bool :=
  let pm := tget 0 c.ctr.permit p
  let e := mapOf c p
  match ctrBlock n with
  | 0 => bitOf pm 0 && e.state == 1 && holdsGrove e (n / 8)
  | 1 =>
    let s := (n - 2048) / 16
    bitOf pm 0 && e.state == 1 && e.firstGrove ≤ s * 32 && s * 32 + 31 ≤ e.firstGrove + e.grovesM1
  | _ => bitOf pm 1

/-- A change of tenant resets the counters whose PART_V names the partition (R671). -/
def dropCounters (p : Nat) (c : Chip) : Chip :=
  ((trange c.dict.vals (objKey 0x5CC1 2 0) (objKey 0x5CC1 2 3584)).map fun e => e.1 - objKey 0x5CC1 2 0).foldl (fun c n =>
    if bitOf (ctlOf c n) 39 && bitsOf (ctlOf c n) 38 35 == p then
      setObj 0x5CC1 2 n 0 { c with ctr := { c.ctr with val := tset 0 c.ctr.val n 0 } }
    else c) c

/-! ### Snapshots and bandwidth -/

/-- The packet of a partition's snapshot (Table 21-5). -/
def snapPacket (c : Chip) (p n at_ : Nat) : List (Word × Bool) :=
  let l := (activeCtrs c).filter (ctrAdmits c p)
  let ws := [4 + l.length, n % 2 ^ 48, at_, l.length + tget 0 c.ctr.permit p * 65536] ++
    l.map fun k => tget 0 c.ctr.last k + k * 2 ^ 48
  ws.map fun w => (BitVec.ofNat 64 w, false)

/-- A partition's snapshot is committed, or discarded (R663, R665). -/
def snapshotFor (n at_ p : Nat) (c : Chip) : Chip :=
  let q := obj c 0x5CC0 3 p
  if !assigned c p || 1048576 ≤ q then c else
    match putPacket false Src.counter q (snapPacket c p n at_) false c with
    | (st, c) =>
      if st = St.ok then engineSet p (obj c 0x5CC0 4 p) Src.counter (bump 0x4300 6 0 1 c)
      else
        let c := bump 0x4300 7 0 1 c
        if thas c.ctr.snapSaid p then c else
          emit Src.counter St.ctrSnapDrop (some p) [q, st.toNat]
            { c with ctr := { c.ctr with snapSaid := tput c.ctr.snapSaid p true } }

/-- Step 3 of R28: the permits of the new stitch, the latch, the clear and the packets (R662, R663, R670; DESIGN CHOICE, log 21). -/
def snapshotCounters (n at_ : Nat) (c : Chip) : Chip :=
  let c := (activeCtrs c).foldl (fun c k => advanceCtr k c) c
  let c := { c with ctr := { c.ctr with
    permit := parts16.foldl (fun t p => tset 0 t p (obj c 0x5CC0 2 p)) []
    last := c.ctr.val
    val := if obj c 0x4300 2 = 1 then [] else c.ctr.val
    snapSaid := [], smplSaid := [] } }
  parts16.foldl (fun c p => snapshotFor n at_ p c) c

/-- Bandwidth since the window before, for each port and PCIe link (R666). The first such boundary begins a window. -/
def bandwidthStep (n at_ : Nat) (c : Chip) : Chip :=
  if n % max 1 (obj c 0x4300 5) ≠ 0 then c else
    let ns := at_ - c.ctr.bwAt
    let rate (c : Chip) (k : Nat) : Nat := min 0xFFFFFFFF ((tget 0 c.ctr.bytes k - tget 0 c.ctr.bwBase k) * 1000 / ns)
    let c := if c.ctr.bwAt = 0 || ns = 0 then c else
      forSpan 0 18 c fun c p => setObj 0x5CC2 4 p at_ (setObj 0x5CC2 3 p (rate c (32 + p)) (setObj 0x5CC2 2 p (rate c p) c))
    { c with ctr := { c.ctr with bwBase := c.ctr.bytes, bwAt := at_ } }

/-! ### Sampling -/

/-- One step of a grove's generator (R667). -/
def lfsrStep (s : Nat) : Nat := (s / 2) ^^^ (if s % 2 = 1 then 0x80200003 else 0)

/-- The load of a grove's generator at start-up (R667). -/
def lfsrSeed (c : Chip) (g : Nat) : Nat :=
  let v := obj c 0x4300 4 ^^^ g
  if v = 0 then 1 else v

/-- Whether the instruction that a thread issues is tagged, and the module after the choice (R667, R209). -/
def tagChoice (t : Nat) (c : Chip) : Bool × Chip :=
  let h := hart c t
  let s := if h.smplEn then lfsrStep (grove c (groveOf t)).lfsr else 0
  let c := if h.smplEn then modGrove (groveOf t) (fun g => { g with lfsr := s }) c else c
  let c := if h.smplForce then modHart t (fun h => { h with smplForce := false }) c else c
  (h.smplForce || (h.smplEn && s % 2 ^ obj c 0x4300 3 == 0), c)

/-- Samples of a grove under way. -/
def followed (c : Chip) (g : Nat) : Nat := c.ctr.samples.countP fun x => groveOf x.thread == g

/-- The code of the place that an access reached (Table 21-6); whether a cache held it is a free value. -/
def smplSource (c : Chip) (t pa : Nat) : Nat × Chip :=
  if pa / 2 ^ 44 ≠ c.moduleId then (7, c) else
    let a := unalias (groveOf t) (pa % 2 ^ 44)
    let (w, c) := drawFree c
    let hit := w.toNat % 2 = 1
    match tierOf a with
    | .grove => (if groveOf t = (a - groveBase) / 0x400000 then 2 else 3, c)
    | .stand => (if hit then 1 else 3, c)
    | .base => (if hit then 1 else 4, c)
    | .hbm => (if hit then 1 else 5, c)
    | .us => (if hit then 1 else 6, c)
    | _ => (0, c)

/-- The record of Table 21-6 up to STATUS, and what follows it up to STITCH: `put` places the status and COMPLETE. -/
def smplBytes (b : Bytes) (st complete : Nat) : Bytes := b.take 28 ++ leBytes 2 st ++ (b.drop 30).take 26 ++ leBytes 4 (min 0xFFFFFFFF complete) ++ (b.drop 60).take 4

/-- A sample record is committed, or discarded (R669, R670). -/
def writeSample (x : Sample) (bytes : Bytes) (c : Chip) : Chip :=
  match threadPart c x.thread with
  | none => c
  | some p =>
    let q := obj c 0x5CC0 5 p
    if !bitOf (tget 0 c.ctr.permit p) 2 || 1048576 ≤ q then c else
      let src := Src.grove (groveOf x.thread)
      let hdr : Word := BitVec.ofNat 64 (9 + src.toNat * 65536)
      match putPacket false src q ((hdr, false) :: (toWords 8 bytes).map fun w => (w, false)) false c with
      | (st, c) =>
        if st = St.ok then engineSet p (obj c 0x5CC0 6 p) src (bump 0x4300 8 0 1 c)
        else
          let c := bump 0x4300 9 0 1 c
          if thas c.ctr.smplSaid p then c else
            emit Src.counter St.ctrSmplDrop (some p) [q, st.toNat]
              { c with ctr := { c.ctr with smplSaid := tput c.ctr.smplSaid p true } }

/-- Whether a tagged instruction without an operation tag has retired: its thread waits for nothing. -/
def smplOver (c : Chip) (x : Sample) : Bool :=
  match x.tag with
  | some _ => x.fin.isSome
  | none => let s := (hart c x.thread).state; s == .ready || s == .preempted || s == .halted || s == .empty

/-- Sample records whose instructions are over are written (R668). -/
def flushSamples (c : Chip) : Chip :=
  c.ctr.samples.foldl (fun c x =>
    if smplOver c x then
      let c := { c with ctr := { c.ctr with samples := c.ctr.samples.erase x } }
      match x.tag with
      | some _ => writeSample x (smplBytes x.bytes ((x.fin.map (·.toNat)).getD 0) (now c - x.issue)) c
      | none => writeSample x x.bytes c
    else c) c

/-- The tag that an instruction of a thread took: the newest of the thread with a serial from `sn` on. -/
def newTag (c : Chip) (t sn : Nat) : Option (Nat × Tag) :=
  ((grove c (groveOf t)).tags.find? fun e => e.2.state != .free && e.2.owner == t && sn ≤ e.2.serial).map fun e =>
    (groveOf t * 256 + e.1, e.2)

/-- An instruction of a READY thread, followed where the generator or FORCE tags it (R667 to R669): `insn` is its bits,
`va` its first data address. A trap is known by the pc that did not retire. -/
def issueAs (t insn : Nat) (va : Option (Acc × Nat)) (f : Chip → Chip) (c : Chip) : Chip :=
  match tagChoice t c with
  | (false, c) => f c
  | (true, c) =>
    if 2 ≤ followed c (groveOf t) then f (bump 0x4300 10 0 1 c)
    else
      let h := hart c t
      let sn := c.serial
      let ((data : Option Nat), c) := match va with
        | none => (none, c)
        | some (k, a) => match xlate t k a c with
          | (c, .ok pa) => (some pa, c)
          | (c, .error _) => (none, c)
      let (src, c) := match data with
        | none => (0, c)
        | some pa => smplSource c t pa
      let (wait, c) := drawFree c
      let (ret, c) := drawFree c
      let at_ := now c
      let forced := h.smplForce
      let c := f c
      let h' := hart c t
      let trapped := h'.state == .ready && readCsr h' 0xB02 == readCsr h 0xB02
      let tg := newTag c t sn
      let own := threadPart c t
      let flags := own.getD 0 + b2n h.hard * 16 + b2n forced * 32 + b2n trapped * 64
      let st := if trapped then h'.xstatus.toNat else 0
      let bytes := leBytes 8 at_ ++ leBytes 8 h.pc.toNat ++ leBytes 4 insn ++ leBytes 2 (t + h.priv * 16384) ++ leBytes 1 flags ++
        leBytes 1 src ++ leBytes 2 h.smplMark ++ leBytes 2 (match tg with | some e => e.1 | none => 0xFFFF) ++ leBytes 2 st ++
        leBytes 2 0 ++ leBytes 8 ((va.map (·.2)).getD 0) ++ leBytes 8 ((data.getD 0) % 2 ^ 56) ++ leBytes 4 (wait.toNat % 2 ^ 32) ++
        leBytes 4 (ret.toNat % 2 ^ 32) ++ leBytes 4 0 ++ leBytes 4 (stitchNo (countNow c))
      let x : Sample := ⟨t, tg.map fun e => (e.1, e.2.serial), at_, bytes, match tg with
        | some e => if e.2.state == .done then some e.2.status else none
        | none => none⟩
      flushSamples { c with ctr := { c.ctr with samples := c.ctr.samples ++ [x] } }

/-- An instruction that a hart issues when READY, with its sampling. -/
def runInsn (t insn : Nat) (va : Option (Acc × Nat)) (f : Chip → Chip) (c : Chip) : Chip := hartDo t (issueAs t insn va f) c

end Sys2Proof.Machine
end

