-- ==== Sys2Proof/Machine/Partition.lean ====
section
/-! DEFINITION. The partition map, changes of tenant, memory keys, reports, debug states and fuses (19). -/
namespace Sys2Proof.Machine

/-! ### Map entries -/

/-- An entry from its 64 bytes as a number (Table 19-1). -/
def entryOf (n : Nat) : MapEntry :=
  let f (lo w : Nat) : Nat := n / 2 ^ (8 * lo) % 2 ^ (8 * w)
  { state := f 0 1, vf := f 1 1, firstGrove := f 2 1, grovesM1 := f 3 1, job := f 4 4, tenant := f 8 4, smOff := f 12 1
    smMib := f 13 1, bmOff := f 14 1, bmMib := f 15 1, hbmBase := f 16 2, hbmGib := f 18 2, usBase := f 20 2, usGib := f 22 2
    qFirst := f 24 4, qCount := f 28 4, cellQuota := f 32 4, bzBase := f 36 2, bzCount := f 38 2, acctFirst := f 40 2
    acctN64 := f 42 2, seqFirst := f 44 2, seqN64 := f 46 2, kvsFirst := f 48 2, kvsN64 := f 50 2 }

/-- An entry's 64 bytes (Table 19-1). -/
def entryBytes (e : MapEntry) : Bytes :=
  leBytes 1 e.state ++ leBytes 1 e.vf ++ leBytes 1 e.firstGrove ++ leBytes 1 e.grovesM1 ++ leBytes 4 e.job ++ leBytes 4 e.tenant ++
  leBytes 1 e.smOff ++ leBytes 1 e.smMib ++ leBytes 1 e.bmOff ++ leBytes 1 e.bmMib ++ leBytes 2 e.hbmBase ++ leBytes 2 e.hbmGib ++
  leBytes 2 e.usBase ++ leBytes 2 e.usGib ++ leBytes 4 e.qFirst ++ leBytes 4 e.qCount ++ leBytes 4 e.cellQuota ++
  leBytes 2 e.bzBase ++ leBytes 2 e.bzCount ++ leBytes 2 e.acctFirst ++ leBytes 2 e.acctN64 ++ leBytes 2 e.seqFirst ++
  leBytes 2 e.seqN64 ++ leBytes 2 e.kvsFirst ++ leBytes 2 e.kvsN64 ++ leBytes 12 0

/-- SYS_HBM_GIB (R614). -/
def sysHbmGib (c : Chip) : Nat := ceilDiv (0x1000000 + c.pool.size * 272 + 522 * 0x100000) (2 ^ 30)

/-- Order 3 of R615: the reserved bytes, ranges and alignments of an entry. -/
def entryFieldsOk (n : Nat) : Bool :=
  let e := entryOf n
  n / 2 ^ 416 % 2 ^ 96 == 0 && e.state ≤ 1 && e.vf ≤ 16 && e.firstGrove + e.grovesM1 ≤ 255 &&
  (e.state == 0 || e.tenant != 0) && e.smOff ≤ 15 && e.smOff + e.smMib ≤ 16 && e.bmOff ≤ 94 && e.bmOff + e.bmMib ≤ 95 &&
  e.hbmBase ≤ 511 && e.hbmBase + e.hbmGib ≤ 512 && e.usBase ≤ 511 && e.usBase + e.usGib ≤ 512 &&
  e.qFirst % 1024 == 0 && e.qCount % 1024 == 0 && e.qFirst + e.qCount ≤ 1048576 &&
  e.acctFirst % 64 == 0 && e.acctFirst + 64 * e.acctN64 ≤ 65536 && e.seqFirst % 64 == 0 && e.seqFirst + 64 * e.seqN64 ≤ 65536 &&
  e.kvsFirst % 64 == 0 && e.kvsFirst + 64 * e.kvsN64 ≤ 65536

/-- Whether two ranges share a member. -/
def overlap (a n b m : Nat) : Bool := decide (a < b + m) && decide (b < a + n) && n != 0 && m != 0

/-- Stands that both entries use. -/
def shareStand (a b : MapEntry) : Bool :=
  decide (a.firstGrove / 32 ≤ (b.firstGrove + b.grovesM1) / 32) && decide (b.firstGrove / 32 ≤ (a.firstGrove + a.grovesM1) / 32)

/-- Order 4 of R615 for two ASSIGNED entries. -/
def entriesClash (a b : MapEntry) : Bool :=
  overlap a.firstGrove (a.grovesM1 + 1) b.firstGrove (b.grovesM1 + 1) || (a.vf != 0 && a.vf == b.vf) ||
  overlap a.qFirst a.qCount b.qFirst b.qCount || overlap a.acctFirst (64 * a.acctN64) b.acctFirst (64 * b.acctN64) ||
  overlap a.seqFirst (64 * a.seqN64) b.seqFirst (64 * b.seqN64) || overlap a.kvsFirst (64 * a.kvsN64) b.kvsFirst (64 * b.kvsN64) ||
  overlap a.bmOff a.bmMib b.bmOff b.bmMib || overlap a.hbmBase a.hbmGib b.hbmBase b.hbmGib ||
  overlap a.usBase a.usGib b.usBase b.usGib || (shareStand a b && overlap a.smOff a.smMib b.smOff b.smMib)

/-- Whether any two of a list clash. -/
def anyPair {α : Type} (f : α → α → Bool) : List α → Bool
  | [] => false
  | x :: r => r.any (f x) || anyPair f r

/-- R336 for one entry. -/
def blazesOk (e : MapEntry) : Bool :=
  e.bzBase % 8 == 0 && e.bzCount % 8 == 0 && e.bzCount ≤ 512 && e.bzBase + e.bzCount ≤ 512

/-- The staged entries, as numbers. -/
def stagedMap (c : Chip) : List Nat := parts16.map fun p => obj c 0x5C40 2 p

/-- Whether an entry newly gains a region that awaits clearing (R619). -/
def gainsUncleared (c : Chip) (p : Nat) (e : MapEntry) : Bool :=
  let old := mapOf c p
  let gib (a : Nat) : Nat := a / 2 ^ 30
  e.state == 1 && c.mem.clears.any fun r =>
    (span (gib r.first) (ceilDiv r.len (2 ^ 30))).any fun g =>
      let inE (e : MapEntry) : Bool := if g < 512 then e.hbmBase ≤ g && g < e.hbmBase + e.hbmGib
        else e.usBase ≤ g - 512 && g - 512 < e.usBase + e.usGib
      inE e && !(old.state != 0 && inE old)

/-- The checks of MAP_ARM in their order (R615), with MAP_AT as it would stand. -/
def mapCheck (c : Chip) (at_ : Nat) (ns : List Nat) : Status :=
  let es := ns.map entryOf
  let on := es.filter fun e => e.state == 1
  if !running c then St.dictState
  else if at_ < countNow c + 2 then St.stitchChangeLate
  else if !(ns.all entryFieldsOk) then St.secMapField
  else if anyPair entriesClash on || on.any fun e => e.hbmGib != 0 && decide (512 - sysHbmGib c < e.hbmBase + e.hbmGib) then
    St.secMapOverlap
  else if !(on.all blazesOk) || anyPair (fun a b => overlap a.bzBase a.bzCount b.bzBase b.bzCount) on ||
      es.zipIdx.any (fun e => e.1.state == 1 && c.blz.shrink.any fun r =>
        r.part != e.2 && overlap r.first r.num e.1.bzBase e.1.bzCount) then St.bzAllocBad
  else if decide (c.pool.size - 4096 < on.foldl (fun a e => a + e.cellQuota) 0) then St.secMapField
  else if es.zipIdx.any fun e => gainsUncleared c e.2 e.1 then St.secRangeUncleared
  else St.ok

/-! ### Keys -/

/-- A partition's key slot. -/
def keySlot (c : Chip) (p : Nat) : KeySlot := tget {} c.keys p

/-- The key of a region (R620): the region number counts HBM regions from 0 and understory regions from 512. -/
def regionKey (c : Chip) (p m r : Nat) : Nat :=
  leNat (hkdf384 (leBytes 64 m) (leBytes 2 c.moduleId)
    (ascii "Glirvolu region" ++ leBytes 1 p ++ leBytes 1 (r / 512) ++ leBytes 2 (r % 512)) 64)

/-- The regions that an entry holds. -/
def regionsOf (e : MapEntry) : List Nat := span e.hbmBase e.hbmGib ++ span (512 + e.usBase) e.usGib

/-- A partition's key slot holds the derived key of every region of its ranges, and of no other (R620). -/
def fillKeys (p : Nat) (c : Chip) : Chip :=
  let k := keySlot c p
  match k.memKey with
  | none => c
  | some m =>
    let rs := (regionsOf (mapOf c p)).foldl (fun t r => tins t r (some (match tget none k.regions r with
      | some v => v
      | none => regionKey c p m r))) []
    { c with keys := tset {} c.keys p { k with regions := rs } }

/-- Check 1 of R624: a key blob's reserved bytes, VERSION, KIND and PART. -/
def blobFieldsOk (p : Nat) (b : Bytes) : Bool :=
  b.length == 256 && (b.drop 208).all (· == 0) && dfield b 0 2 == 1 && dfield b 2 1 == p &&
  dfield b 3 1 != 0 && dfield b 3 1 < 4

/-- The checks of a key blob in their order (R624); `plain` is what the engine's opening of it gives, 80 bytes, or none
where EPK or the tag fails (R623). -/
def blobCheck (c : Chip) (p : Nat) (b : Bytes) (plain : Option Bytes) : Status :=
  let k := keySlot c p
  let kind := dfield b 3 1
  if !blobFieldsOk p b then St.secBlobField
  else if c.fuse.debug = 0 then St.secDebugOpen
  else if !assigned c p then St.secPartFree
  else if dfield b 8 8 ≠ c.life.incarnation.toNat then St.secKeyStale
  else if dfield b 4 4 ≠ (mapOf c p).job then St.secKeyJob
  else if plain.isNone then St.secKeyAuth
  else if (bitOf kind 0 && k.memKey.isSome) || (bitOf kind 1 && k.pfxKey.isSome) then St.secKeyPresent
  else St.ok

/-- The details of a blob's record (Table 17-10). -/
def blobDetail (p : Nat) (b : Bytes) : List Nat :=
  [p, dfield b 0 2 + dfield b 3 1 * 65536, dfield b 8 8, dfield b 4 4]

/-- A blob that passes begins its installation (R625); a refused one is recorded (R624). -/
def blobWrite (who : Requester) (svc : Nat) (m : FdpReq) (p : Nat) (b : Bytes) (plain : Option Bytes) (c : Chip) : Status × Chip :=
  let st := blobCheck c p b plain
  if st ≠ St.ok then (st, emit Src.security st (some p) (blobDetail p b) c)
  else (St.ok, { c with sec := { c.sec with
    installs := c.sec.installs ++ [⟨p, plain.getD [], dfield b 3 1, blobDetail p b, who, svc, m⟩] } })

/-- The request behind an installation is answered. -/
def answerInstall (i : Install) (st : Status) (c : Chip) : Chip :=
  respond true i.who ⟨i.svc, i.req⟩ ⟨st, false, []⟩ c

/-- Keys are installed (R625): the region keys, KEY_SLOTS and PFX_KEY_SET; the write is answered. -/
def keyInstalled (p : Nat) (c : Chip) : Chip :=
  match c.sec.installs.find? fun i => i.part == p with
  | none => c
  | some i =>
    let c := { c with sec := { c.sec with installs := c.sec.installs.erase i } }
    let k := keySlot c p
    let k := { k with
      memKey := if bitOf i.kind 0 then some (leNat (i.plain.take 64)) else k.memKey
      pfxKey := if bitOf i.kind 1 then some (leNat ((i.plain.drop 64).take 16)) else k.pfxKey }
    let c := fillKeys p { c with keys := tset {} c.keys p { k with installed := k.memKey.isSome } }
    answerInstall i St.ok (emit Src.security St.secKeyInstalled (some p) i.detail c)

/-- Installations of a partition are discarded by a change of tenant (R626). -/
def dropInstalls (p : Nat) (c : Chip) : Chip :=
  (c.sec.installs.filter fun i => i.part == p).foldl (fun c i =>
    answerInstall i St.secPartChanged (emit Src.security St.secPartChanged (some p) i.detail
      { c with sec := { c.sec with installs := c.sec.installs.erase i } })) c

/-! ### The items of a partition -/

/-- The partition that holds an item of a window group, where the group's items belong to partitions. -/
def itemPart (c : Chip) (idx item : Nat) : Option Nat :=
  if idx = 0x50C0 then vfOwner c (item / 16 + 1)
  else if idx = 0x54C0 || idx = 0x5840 then queueOwner c item
  else if idx = 0x5500 then blazeOwner c item
  else if idx = 0x5501 then some (item / 2)
  else if idx = 0x5581 || idx = 0x5582 then kvsOwner c (item % 65536)
  else if idx = 0x55C1 then acctOwner c item
  else if idx = 0x55C2 then seqOwner c item
  else if idx = 0x55C3 then (pfxEnt c item).map (·.part)
  else if idx = 0x5601 then (vses c item).map (·.part)
  else some item

/-- Whether an object of persistence class 3 belongs to a partition's item (Table 03-3). -/
def keyOfPart (c : Chip) (p key : Nat) : Bool :=
  let idx := key / 2 ^ 40
  let sub := key / 2 ^ 32 % 256
  let item := key % 2 ^ 32
  ((objAt idx sub).map (·.pers)).getD 0 == 3 &&
    (if idx = 0x2301 then sub == p + 1 else itemPart c idx item == some p)

/-- Objects kept with a partition's context return to their defaults (Table 03-3). -/
def clearPartObjs (p : Nat) (c : Chip) : Chip :=
  { c with dict := { c.dict with vals := c.dict.vals.filter fun e => !keyOfPart c p e.1 } }

/-! ### Clearing -/

/-- The memory of a grove is cleared, with its TLB and the save areas of its threads (R618 step 3). -/
def clearGrove (g : Nat) (c : Chip) : Chip :=
  let c := memClear (groveBase + g * 0x400000) groveBytes c
  let c := memClear (baseBase + 0x0D000000 + g * 64 * 3072) (64 * 3072) c
  let c := { c with harts := tdrop c.harts (g * 64) (g * 64 + 64), saves := tdrop c.saves (g * 64) (g * 64 + 64) }
  if (grove c g).tlb.isEmpty then c else modGrove g (fun v => { v with tlb := [] }) c

/-- Stand-memory MiB of an entry, in every stand that holds a grove of it, are cleared. -/
def clearStands (e : MapEntry) (off mib : Nat) (c : Chip) : Chip :=
  (span (e.firstGrove / 32) ((e.firstGrove + e.grovesM1) / 32 + 1 - e.firstGrove / 32)).foldl (fun c s =>
    memClear (standBase + s * 0x1000000 + off * 2 ^ 20) (mib * 2 ^ 20) c) c

/-- A released DRAM range waits for its clearing (R294); its regions hold no key. -/
def releaseRange (p tier base gib : Nat) (c : Chip) : Chip :=
  if gib = 0 then c else
    let k := keySlot c p
    let c := { c with keys := tset {} c.keys p { k with regions := tdrop k.regions (tier * 512 + base) (tier * 512 + base + gib) } }
    { c with mem := { c.mem with clears := c.mem.clears ++ [⟨tier, (tier * 512 + base) * 2 ^ 30, gib * 2 ^ 30⟩] } }

/-- Queues of a range are reset and lose their configuration. -/
def releaseQueues (first num : Nat) (c : Chip) : Chip :=
  (c.queues.filter fun e => first ≤ e.1 && e.1 < first + num).foldl (fun c e =>
    modQueue e.1 (fun u => { u with cap := 0, resv := 0, maxpkt := 1, enable := false, welt := false }) (startReset e.1 c)) c

/-- KV slots of a range are freed. -/
def releaseSlots (first num : Nat) (c : Chip) : Chip :=
  (c.kv.slots.filter fun e => first ≤ e.1 && e.1 < first + num).foldl (fun c e => closeSlot e.1 c) c

/-- The map with an entry replaced. -/
def setMap (p : Nat) (e : MapEntry) (c : Chip) : Chip := { c with map := tset {} c.map p e }

/-- Every window of a VF is disabled (R165). -/
def closeWindows (v : Nat) (c : Chip) : Chip :=
  if v = 0 then c else forSpan 0 16 c fun c w => setObj 0x50C0 4 ((v - 1) * 16 + w) 0 c

/-- A change of tenant (R618): `new` is the entry that stands after it. -/
def changeTenant (p : Nat) (new : MapEntry) (c : Chip) : Chip :=
  let e := mapOf c p
  let c := setMap p { e with state := 2 } c
  let c := (threadsOf c p).foldl (fun c t => stopThread t c) c
  let c := (c.opens.filter fun o => queueOwner c o.q == some p).foldl (fun c o => rewind o c) c
  let c := closeBatches p (discardEgress p c)
  let c := dropInstalls p { c with keys := tset {} c.keys p {} }
  let c := (span e.firstGrove (e.grovesM1 + 1)).foldl (fun c g => clearGrove g c) c
  let c := memClear (baseBase + e.bmOff * 2 ^ 20) (e.bmMib * 2 ^ 20) (clearStands e e.smOff e.smMib c)
  let sh := (c.blz.shrink.filter fun r => r.part == p).foldl (fun c r => resetBlazes r.first r.num c) (resetBlazes e.bzBase e.bzCount c)
  let c := { sh with blz := { sh.blz with
    shrink := sh.blz.shrink.filter fun r => r.part != p
    posted := sh.blz.posted.filter fun s => s.part != p } }
  let c := releaseSlots e.kvsFirst (64 * e.kvsN64) (clearServing p e c)
  let c := { c with kv := { c.kv with blocked := tset [] c.kv.blocked p [] }, vid := { c.vid with blocked := tset [] c.vid.blocked p [] } }
  let c := changeEpoch p (closeSessions p (closeWindows e.vf c))
  let c := releaseQueues e.qFirst e.qCount c
  let c := releaseRange p 1 e.usBase e.usGib (releaseRange p 0 e.hbmBase e.hbmGib c)
  let c := { clearPartObjs p (dropCounters p c) with flt := { c.flt with parts := tset {} c.flt.parts p {} } }
  let c := { c with ctr := { c.ctr with permit := tset 0 c.ctr.permit p 0 } }
  let c := setMap p new { c with keys := tset {} c.keys p {} }
  emit Src.security St.secTenantCleared (some p) [p] (bump 0x4100 10 0 1 c)

/-- The members of a range that another range does not hold, as at most two ranges. -/
def lost (a n b m : Nat) : List (Nat × Nat) :=
  if n = 0 then [] else if m = 0 || b + m ≤ a || a + n ≤ b then [(a, n)]
  else (if a < b then [(a, b - a)] else []) ++ (if b + m < a + n then [(b + m, a + n - (b + m))] else [])

/-- Threads of a grove that leaves a partition stop. -/
def stopGrove (g : Nat) (c : Chip) : Chip :=
  (c.harts.filter fun e => groveOf e.1 == g).foldl (fun c e => stopThread e.1 c) c

/-- The blazes that a change of entry takes back (R339, R340): a decrease keeps them until they are clear, a change of BASE
releases them at once. -/
def changeBlazes (p : Nat) (old new : MapEntry) (c : Chip) : Chip :=
  if old.bzBase = new.bzBase then
    let c := { c with blz := { c.blz with shrink := c.blz.shrink.filter fun r =>
      !(r.part == p && r.index < new.bzCount) } }
    if new.bzCount < old.bzCount then
      { c with blz := { c.blz with shrink := c.blz.shrink ++
        [⟨p, old.bzBase + new.bzCount, old.bzCount - new.bzCount, new.bzCount⟩] } }
    else c
  else
    (lost old.bzBase old.bzCount new.bzBase new.bzCount).foldl (fun c r => resetBlazes r.1 r.2 c) c

/-- Resources that an entry no longer holds are taken back (R617, Table 19-2). -/
def removeResources (p : Nat) (old new : MapEntry) (c : Chip) : Chip :=
  let c := (lost old.firstGrove (old.grovesM1 + 1) new.firstGrove (new.grovesM1 + 1)).foldl (fun c r =>
    (span r.1 r.2).foldl (fun c g => clearGrove g (stopGrove g c)) c) c
  let c := (lost old.smOff old.smMib new.smOff new.smMib).foldl (fun c r => clearStands old r.1 r.2 c) c
  let c := (lost old.bmOff old.bmMib new.bmOff new.bmMib).foldl (fun c r =>
    memClear (baseBase + r.1 * 2 ^ 20) (r.2 * 2 ^ 20) c) c
  let c := (lost old.qFirst old.qCount new.qFirst new.qCount).foldl (fun c r => releaseQueues r.1 r.2 c) c
  let c := (lost old.kvsFirst (64 * old.kvsN64) new.kvsFirst (64 * new.kvsN64)).foldl (fun c r => releaseSlots r.1 r.2 c) c
  let c := (lost old.acctFirst (64 * old.acctN64) new.acctFirst (64 * new.acctN64)).foldl (fun c r =>
    { c with srv := { c.srv with accts := tdrop c.srv.accts r.1 (r.1 + r.2), staged := tdrop c.srv.staged r.1 (r.1 + r.2) } }) c
  let c := (lost old.seqFirst (64 * old.seqN64) new.seqFirst (64 * new.seqN64)).foldl (fun c r =>
    { c with srv := { c.srv with seqs := tdrop c.srv.seqs r.1 (r.1 + r.2) } }) c
  let c := (lost old.hbmBase old.hbmGib new.hbmBase new.hbmGib).foldl (fun c r => releaseRange p 0 r.1 r.2 c) c
  let c := (lost old.usBase old.usGib new.usBase new.usGib).foldl (fun c r => releaseRange p 1 r.1 r.2 c) c
  let c := if old.vf = new.vf then c else closeWindows old.vf c
  changeBlazes p old new c

/-- One entry of a staged map is applied; a change of an assigned partition's job identity changes its epoch (R510). -/
def applyEntry (p : Nat) (new : MapEntry) (c : Chip) : Chip :=
  let old := mapOf c p
  if old.state = 1 && (new.state = 0 || new.tenant ≠ old.tenant) then changeTenant p new c
  else if old.state = 1 then
    let c := fillKeys p (setMap p new (removeResources p old new c))
    if new.job = old.job then c else changeEpoch p c
  else setMap p new c

/-- The staged map is applied (R616); a map that leaves no entry ASSIGNED returns SERVICE to READY, where the gate is closed
(Table 22-1, Table 22-2). -/
def mapApply (n : Nat) (c : Chip) : Chip :=
  if !(c.sec.mapArmed && obj c 0x4100 1 ≤ n) then c else
    let es := (stagedMap c).map entryOf
    let c := { c with sec := { c.sec with mapArmed := false } }
    let c := es.zipIdx.foldl (fun c e => applyEntry e.2 e.1 c) c
    let c := emit Src.security St.secMapApplied none [] c
    if c.life.mstate == MState.service && parts16.all (fun p => !assigned c p) then
      enterState MState.ready (modPair (fun x => { x with gate := false }) c)
    else c

/-- Every partition is released and every key zeroised, with the key-wrap key (R689, Table 19-2). -/
def releaseAllParts (c : Chip) : Chip :=
  let c := parts16.foldl (fun c p => if assigned c p then changeTenant p {} c else c) c
  { c with keys := [], sec := { c.sec with kwk := [], kwkPriv := [], mapArmed := false } }

/-! ### Reports -/

/-- A requester's role and partition (R82, R112, R653). -/
def roleOf (c : Chip) : Requester → Nat × Nat
  | .session n => ((fdpSes c n.toNat).role, (fdpSes c n.toNat).part)
  | .mailbox => (c.mbx.role / 16 % 8, c.mbx.role % 16)
  | .policy => (2, 0)

/-- The value of a selector, or of another object of which each requester holds its own copy (R107, R632). -/
def selOf (c : Chip) (who : Requester) (idx sub : Nat) : Nat :=
  (tget none c.dict.sels (whoKey who * 2 ^ 24 + idx * 256 + sub)).getD (objDflt idx sub)
/-- The module with a requester's own copy set. -/
def setSel (who : Requester) (idx sub v : Nat) (c : Chip) : Chip :=
  let v' := if v = objDflt idx sub then none else some v
  { c with dict := { c.dict with sels := tset none c.dict.sels (whoKey who * 2 ^ 24 + idx * 256 + sub) v' } }

/-- Marginal fuse words, and their bitmap (R635). -/
def marginalCount (c : Chip) : Nat := (span 0 1024).countP fun w => bitOf c.fuse.marginal w

/-- The value of a fuse word as the boot ROM resolved it (R635). -/
def fuseWord (c : Chip) (w : Nat) : Nat :=
  if w < 0x200 && bitOf c.fuse.marginal w then tget 0 c.fuse.low (w + 0x200) else tget 0 c.fuse.low w

/-- The MAP field of a report (R633). -/
def reportMap (c : Chip) (role part : Nat) : Bytes :=
  (parts16.map fun p =>
    let e := mapOf c p
    if role = 1 && p ≠ part then entryBytes { state := e.state, firstGrove := e.firstGrove, grovesM1 := e.grovesM1 }
    else let b := entryBytes e; b.take 52 ++ leBytes 2 (obj c 0x5C00 2 p) ++ b.drop 54).flatten

/-- Bits of the partitions that satisfy a test. -/
def partBits (f : Nat → Bool) : Nat := parts16.foldl (fun a p => if f p then a + 2 ^ p else a) 0

/-- The report of a requester (Table 19-5). -/
def buildReport (c : Chip) (who : Requester) : Bytes :=
  let (role, part) := roleOf c who
  let body :=
    leBytes 2 1 ++ leBytes 2 1696 ++ leBytes 2 c.moduleId ++ leBytes 1 (obj c 0x1000 1) ++ leBytes 1 (obj c 0x1000 21) ++
    ((span 0x30 4).map fun w => leBytes 4 (fuseWord c w)).flatten ++ leBytes 8 c.life.incarnation.toNat ++ leBytes 8 (now c) ++
    leBytes 8 (countNow c) ++ leBytes 1 c.life.mstate ++ leBytes 1 c.fuse.lifecycle ++ leBytes 1 c.fuse.debug ++
    leBytes 1 (match c.time.tstate with | .freerun => 0 | .locked => 1 | .holdover => 2 | .lost => 3) ++
    leBytes 1 c.pair.state ++ [0] ++ leBytes 2 (marginalCount c) ++ leBytes 8 0 ++
    leBytes 32 (selOf c who 0x5C41 3) ++ fit 48 Config.romDigest ++ fit 48 c.dice.dL0 ++ fit 48 c.dice.dL1 ++ fit 48 c.dice.dShim ++
    fit 48 c.dice.dFuse ++ fit 96 c.sec.kwk ++ leBytes 128 c.fuse.marginal ++ reportMap c role part ++
    leBytes 2 (partBits fun p => (keySlot c p).memKey.isSome) ++ leBytes 2 (partBits fun p => (keySlot c p).pfxKey.isSome) ++
    leBytes 2 (role + part * 16) ++ leBytes 10 0
  body ++ fit 96 (Config.ecdsaSign (hmac384 c.dice.cdi1 (ascii "Glirvolu alias")) (sha384 body))

/-- A requester's report. -/
def reportOf (c : Chip) (who : Requester) : Report := tget {} c.sec.reports (whoKey who)

/-- ATT_GEN begins a report, or is refused while one is being built (R632). -/
def reportStart (who : Requester) (c : Chip) : Chip :=
  { c with sec := { c.sec with reports := tmod {} c.sec.reports (whoKey who) fun r => { r with building := some (buildReport c who) } } }

/-- A report is ready (R632). -/
def reportReady (who : Requester) (c : Chip) : Chip :=
  match (reportOf c who).building with
  | none => c
  | some b => { c with sec := { c.sec with reports := tset {} c.sec.reports (whoKey who) { building := none, ready := b } } }

/-! ### Fuses -/

/-- Words whose two readings differ. -/
def fuseMarginal (c : Chip) (w : Nat) : Bool := tget 0 c.fuse.low w != tget 0 c.fuse.high w

/-- A security word is doubtful: it or its copy is marginal, or they disagree (R635). -/
def fuseDoubt (c : Chip) (w : Nat) : Bool :=
  fuseMarginal c w || fuseMarginal c (w + 0x200) || tget 0 c.fuse.low w != tget 0 c.fuse.low (w + 0x200)

/-- LIFECYCLE as resolved (Table 19-7): 0 MANUFACTURE, 1 DEPLOYED, 2 RETIRED. -/
def resolveLifecycle (c : Chip) : Nat :=
  let code (v : Nat) : Nat := if bitOf v 1 then 2 else if bitOf v 0 then 1 else 0
  let copy := tget 0 c.fuse.low 0x200
  if fuseDoubt c 0 then (if !fuseMarginal c 0x200 && bitOf copy 1 then 2 else 1) else code (tget 0 c.fuse.low 0)

/-- The debug state that the fuses allow (R634): the ceiling, DBG_MAINT in place of DBG_OPEN in DEPLOYED. -/
def resolveDebug (c : Chip) : Nat :=
  let v := tget 0 c.fuse.low 1
  let ceil := if fuseDoubt c 1 then 2 else if bitOf v 1 then 2 else if bitOf v 0 then 1 else 0
  if ceil = 0 && resolveLifecycle c = 1 then 1 else ceil

/-- KEY_REVOKE of the fused maintainer digest as resolved. -/
def digestRevoked (c : Chip) : Bool := fuseDoubt c 3 || bitOf (tget 0 c.fuse.low 3) 0

/-- The fused maintainer digest, where it is blown and not revoked (R87). -/
def fusedDigest (c : Chip) : Option Nat :=
  let d := (span 0 12).foldl (fun a i => a + fuseWord c (0x20 + i) * 2 ^ (32 * i)) 0
  if d = 0 || digestRevoked c then none else some d

/-- The fuses are read at both margins and resolved (R634, R635). A word and its copy both marginal are fatal. -/
def readFuses (c : Chip) : Chip :=
  let m := (span 0 1024).foldl (fun a w => if fuseMarginal c w then a + 2 ^ w else a) 0
  let c := { c with fuse := { c.fuse with marginal := m } }
  let c := { c with fuse := { c.fuse with lifecycle := resolveLifecycle c, debug := resolveDebug c } }
  match (span 4 0x1FC).find? fun w => bitOf m w && bitOf m (w + 0x200) with
  | none => c
  | some w => moduleFail Src.fuse St.secFuseUnreadable (emit Src.fuse St.secFuseUnreadable none [w] c)

/-- Whether FUSE_PROG may set some bits of a word (R636): the range's opening is checked with the other rights. -/
def fuseAllowed (c : Chip) (w bits : Nat) : Bool :=
  w < 0x200 && (match c.fuse.lifecycle with
    | 0 => true
    | 1 => (w == 0 && bits % 2 ^ 32 == 2) || w == 1 && bits < 4 || w == 2 || w == 3
    | _ => false)

/-- FUSE_PROG sets bits of a word and of its copy; each of the four readings takes the bits that programming reached, of the
bits asked for (R636). -/
def fuseProgram (w bits : Nat) (tl th cl ch : Nat) (c : Chip) : Chip :=
  let put (t : Tbl Nat) (k took : Nat) : Tbl Nat := tmod 0 t k fun v => v ||| (bits &&& took)
  let c := { c with fuse := { c.fuse with
    low := put (put c.fuse.low w tl) (w + 0x200) cl, high := put (put c.fuse.high w th) (w + 0x200) ch } }
  let ok (t : Tbl Nat) (k : Nat) : Bool := tget 0 t k &&& bits == bits
  if ok c.fuse.low w && ok c.fuse.high w && ok c.fuse.low (w + 0x200) && ok c.fuse.high (w + 0x200) then c
  else emit Src.fuse St.secFuseProgFail none [w] c

/-- DEBUG_LOCK moves the debug state to a more restrictive code (R634). -/
def debugLock (v : Nat) (c : Chip) : Chip :=
  if c.fuse.debug < v && v ≤ 2 then { c with fuse := { c.fuse with debug := v } } else c

/-! ### Meanings -/

/-- SEC_KEY_INSTALLED: an installation ends (R625). -/
def execSecKeyInstalled (p : Part) (s : State) : Out := act s (keyInstalled p.toNat)
/-- ATT_READY: a report is signed (R632). -/
def execAttReady (who : Requester) (s : State) : Out := act s (reportReady who)

end Sys2Proof.Machine
end

