-- ==== Sys2Proof/Machine/Firmware.lean ====
section
/-! DEFINITION. Policy firmware (20): images and banks, hooks' returns and lateness, halts, restarts and lockstep. -/
namespace Sys2Proof.Machine

/-- The pair that runs the dictionary engine, as a source (R638, R639). -/
def dictSource (c : Chip) : Source := Src.cobbler (2 * dutyPair c 1)

/-! ### Images -/

/-- Whether two byte ranges share a byte. -/
def spansMeet (a n b m : Nat) : Bool := decide (a < b + m) && decide (b < a + n)

/-- The number of the first check of R642 that an image fails, 0 where it passes. The reference policy of manufacture passes
(R655, log 9). -/
def imageCheck (k : Bank) : Nat :=
  let f (off n : Nat) : Nat := bankNat k off n
  let l0 := f 16 4
  let n0 := f 20 4
  let l1 := f 24 4
  let n1 := f 28 4
  let sh := f 32 4
  let ns := f 36 4
  let hk := f 52 4
  let entry (e n : Nat) : Bool := e < n && e % 4 == 0
  if k.factory then 0
  else if f 0 4 ≠ 0x38564C47 || f 4 2 ≠ 1 || f 6 2 ≠ 256 || (bankBytes k 128 124).any (· ≠ 0) then 1
  else if (crc32c (bankBytes k 0 252)).toNat ≠ f 252 4 then 2
  else if n0 = 0 || 262144 < n0 || n1 = 0 || 6291456 < n1 || ns = 0 || 262144 < ns then 3
  else if l0 % 4096 ≠ 0 || l1 % 4096 ≠ 0 || 16777216 < l0 + n0 || 16777216 < l1 + n1 || spansMeet l0 n0 l1 n1 || n1 < sh + ns then 4
  else if !(entry (f 40 4) n0 && entry (f 44 4) n1 && entry (f 48 4) ns) || n1 < hk + 32 ||
      (span 0 8).any (fun h => let e := f (l1 + hk + 4 * h) 4; e ≠ 0 && !entry e n1) then 5
  else if (crc32c (bankBytes k l0 n0)).toNat ≠ f 56 4 || (crc32c (bankBytes k l1 n1)).toNat ≠ f 60 4 then 6
  else 0

/-- The bytes of a section as the engine measures them (R628). The reference policy's bytes are not stated: free values. -/
def sectionBytes (c : Chip) (b which : Nat) : Bytes :=
  let k := bank c b
  if k.factory then ((span 0 6).map fun i => leBytes 8 (Config.unstated 20 which i).toNat).flatten
  else
    let l1 := bankNat k 24 4
    if which = 0 then bankBytes k (bankNat k 16 4) (bankNat k 20 4)
    else if which = 1 then bankBytes k l1 (bankNat k 28 4)
    else bankBytes k (l1 + bankNat k 32 4) (bankNat k 36 4)

/-- VERSION of a bank, 0 where it is not valid (Table 20-6). -/
def bankVersion (c : Chip) (b : Nat) : Nat :=
  if !bitOf c.fw.valid b then 0
  else if (bank c b).factory then (Config.unstated 21 b 0).toNat
  else bankNat (bank c b) 8 8

/-! ### Loading -/

/-- The load bank (R644). -/
def loadBank (c : Chip) : Nat := 1 - c.fw.runBank
/-- FW_TRIAL. -/
def fwTrial (c : Chip) : Nat := obj c 0x4200 3

/-- The check of FW_ERASE (R645). -/
def eraseCheck (c : Chip) : Status := if fwTrial c = 1 then St.fwBankBusy else St.ok
/-- FW_ERASE: the valid bit clears at once and the erase begins (R644). -/
def eraseStart (c : Chip) : Chip :=
  { c with fw := { c.fw with valid := bitPut c.fw.valid (loadBank c) false, erasing := some (loadBank c) } }
/-- The erase ends. -/
def eraseDone (c : Chip) : Chip :=
  match c.fw.erasing with
  | none => c
  | some b => setBank b { factory := false, chunks := [] } { c with fw := { c.fw with erasing := none } }

/-- The check of a chunk write (R644): every chunk of the reference policy counts as written. -/
def chunkCheck (c : Chip) (k : Nat) : Status :=
  let b := bank c (loadBank c)
  if c.fw.erasing.isSome then St.fwBankBusy
  else if b.factory || b.chunks.any (fun e => e.1 == k) then St.fwNotErased
  else St.ok
/-- A chunk is written. -/
def chunkWrite (k : Nat) (bs : Bytes) (c : Chip) : Chip :=
  let b := bank c (loadBank c)
  setBank (loadBank c) { b with chunks := tins b.chunks k (fit 1024 bs) } c

/-- The check of FW_COMMIT (R644). -/
def commitCheck (c : Chip) : Status :=
  if c.fw.erasing.isSome then St.fwBankBusy
  else if imageCheck (bank c (loadBank c)) ≠ 0 then St.fwFormat else St.ok
/-- A refused FW_COMMIT records the number of the failing check (R642). -/
def commitRefused (c : Chip) : Chip :=
  if c.fw.erasing.isSome then c else emit (dictSource c) St.fwFormat none [imageCheck (bank c (loadBank c))] c
/-- FW_COMMIT sets the bank's valid bit. -/
def commitBank (c : Chip) : Chip := { c with fw := { c.fw with valid := bitPut c.fw.valid (loadBank c) true } }

/-- The check of FW_TRIAL (R645). -/
def trialCheck (c : Chip) (v : Nat) : Status := if v = 1 && !bitOf c.fw.valid (loadBank c) then St.fwFormat else St.ok

/-- FW_CONFIRM (R646). -/
def confirmBank (c : Chip) : Chip :=
  if c.fw.runBank = obj c 0x4200 2 then c
  else emit (Src.cobbler (2 * dutyPair c 0)) St.fwConfirmed none [] (setObj 0x4200 2 0 c.fw.runBank c)

/-! ### Hooks return, or do not -/

/-- A hook's deadline, ns (Table 20-3). -/
def hookDeadline (c : Chip) (h : Nat) : Nat :=
  if h = Hk.init then 100000000
  else if h = Hk.reclaim then 10000
  else if h = Hk.stitch then min (obj c 0x4200 10 * 1000) (periodNs c.time / 2)
  else if h = Hk.kvPressure then 20000
  else if h = Hk.rate then obj c 0x2800 4 * 1000
  else 1000000

/-- The duty whose hook runs on a pair: RATE preempts every other call (R638, R639). -/
def pairDuty (c : Chip) (pair : Nat) : Option Nat :=
  if dutyPair c 1 = pair && (hookRun c 1).isSome then some 1
  else if dutyPair c 0 = pair && (hookRun c 0).isSome then some 0 else none

/-- The source of a pair (R655). -/
def pairSource (pair : Nat) : Source := Src.cobbler (2 * pair)

/-- Pictures that wait for their rate decision take FALLBACK_QP (R27, R651). -/
def ratesFallBack (c : Chip) : Chip :=
  c.vid.sessions.foldl (fun c e => match e.2 with
    | some v => if (v.cur.map (·.stage)).getD 0 = 3 then encFallback e.1 c else c
    | none => c) c

/-- Policy firmware is halted (R651). -/
def haltFirmware (pair : Nat) (c : Chip) : Chip :=
  if c.fw.fwState ≠ 1 then c else
    let c := { c with fw := { c.fw with fwState := 2, run := [], waitQ := [], rateQ := [], lateRun := 0 } }
    ratesFallBack (emit (pairSource pair) St.fwHalted none [] { c with life := { c.life with initDone := true } })

/-- What the end of a call decides, on time or late: INIT lets the module proceed (R678), 16 late STITCH calls in a row halt
(R651). -/
def afterHook (h : Nat) (late : Bool) (pair : Nat) (c : Chip) : Chip :=
  if h = Hk.init then { c with life := { c.life with initDone := true } }
  else if h = Hk.stitch then
    let n := if late then c.fw.lateRun + 1 else 0
    let c := { c with fw := { c.fw with lateRun := n } }
    if 16 ≤ n then haltFirmware pair c else c
  else c

/-- A hook is late (R648): counted, and recorded at most once per hook and stitch; a late RATE decides nothing (R475). -/
def countLate (k : HookCall) (pair : Nat) (c : Chip) : Chip :=
  let c := bump 0x4200 11 0 1 (bump 0x5C81 3 k.hook 1 c)
  let c := if thas c.fw.lateSaid k.hook then c else
    emit (pairSource pair) St.fwHookLate none [] { c with fw := { c.fw with lateSaid := tput c.fw.lateSaid k.hook true } }
  let c := if k.hook = Hk.rate then rateLate k.arg c else c
  afterHook k.hook true pair c

/-- The deadline of the hook that runs on a pair passes (R648). -/
def hookLate (pair : Nat) (c : Chip) : Chip :=
  match pairDuty c pair with
  | none => c
  | some d => match hookRun c d with
    | none => c
    | some r => if r.late then c else countLate r.call pair (setRun d (some { r with late := true }) c)

/-- A hook returns to the monitor (R647, R648): its result counts within its deadline, and the next call begins. -/
def hookReturn (pair : Nat) (a0 : Word) (c : Chip) : Chip :=
  match pairDuty c pair with
  | none => c
  | some d => match hookRun c d with
    | none => c
    | some r =>
      let dt := now c - r.at_
      let c := setObj 0x5C81 4 r.call.hook (min dt 0xFFFFFFFF) (setRun d none c)
      let c :=
        if r.late then c
        else if hookDeadline c r.call.hook < dt then countLate r.call pair c
        else
          let c := if r.call.hook = Hk.rate then rateResult r.call.arg r.call.a1 a0 pair c else c
          afterHook r.call.hook false pair c
      nextHook 0 (nextHook 1 c)

/-- Policy firmware does not come back: a hook past 16 deadlines, or a trap in L1 (R651). -/
def hookLost (pair : Nat) (c : Chip) : Chip :=
  match pairDuty c pair with
  | none => c
  | some _ => haltFirmware pair c

/-- FW_RESTART (R652): a running hook is abandoned, and INIT is called before every call that waits. -/
def restartFirmware (c : Chip) : Chip :=
  let late := hookRun c 1
  let c := { c with fw := { c.fw with fwState := 1, run := [], lateRun := 0 } }
  let c := match late with
    | some r => rateLate r.call.arg c
    | none => c
  let c := emit (pairSource (dutyPair c 0)) St.fwRestarted none [] c
  let c := if hookPresent c Hk.init then
      { c with fw := { c.fw with waitQ := { hook := Hk.init } :: c.fw.waitQ } } else c
  nextHook 1 (nextHook 0 c)

/-- Lockstep mismatch on a pair (R639): the pair is retired and its hooks are late; on both pairs the module fails (R562). -/
def lockstep (pair : Nat) (c : Chip) : Chip :=
  if thas c.fw.bad pair then c
  else if thas c.fw.bad (1 - pair) then moduleFail (pairSource pair) St.fwLockstep c
  else
    let lost := (span 0 2).filterMap fun d => if dutyPair c d = pair then (hookRun c d).map fun r => (d, r) else none
    let c := { c with fw := { c.fw with bad := tput c.fw.bad pair true } }
    let c := emit (pairSource pair) St.fwLockstep none [] c
    let c := lost.foldl (fun c x =>
      let c := setRun x.1 none c
      if x.2.late then c else countLate x.2.call pair c) c
    nextHook 1 (nextHook 0 c)

/-- KV_PRESSURE calls that have not begun are dropped at the next boundary (R649). -/
def dropPressure (c : Chip) : Chip :=
  let gone := c.fw.waitQ.filter fun k => k.hook == Hk.kvPressure
  if gone.isEmpty then c else
    bump 0x5C81 5 Hk.kvPressure gone.length
      { c with fw := { c.fw with waitQ := c.fw.waitQ.filter fun k => k.hook != Hk.kvPressure } }

/-- Whether KV_PRESSURE is due for a partition (R428): a parked slot, or fewer free HBM frames than KVP_LOW_WATER. -/
def pressureDue (c : Chip) (p : Nat) : Bool :=
  assigned c p && (c.kv.slots.any (fun e => e.2.part == p && e.2.state == 2) ||
    decide ((hbmFree c p).length < obj c 0x5580 12 p))

/-- The hooks of a boundary (R649). -/
def boundaryHooks (n overs : Nat) (c : Chip) : Chip :=
  let c := callHook { hook := Hk.reclaim, arg := n } (dropPressure c)
  let c := callHook { hook := Hk.stitch, arg := n, a1 := overs } c
  parts16.foldl (fun c p =>
    if pressureDue c p then
      callHook { hook := Hk.kvPressure, arg := p
                 a1 := c.kv.slots.countP fun e => e.2.part == p && e.2.state == 2, a2 := (hbmFree c p).length } c
    else c) c

/-! ### Meanings -/

/-- FW_ERASE_DONE. -/
def execFwEraseDone (s : State) : Out := act s eraseDone
/-- FW_LOCKSTEP. -/
def execFwLockstep (pair : BitVec 1) (s : State) : Out := act s (lockstep pair.toNat)
/-- HOOK_RETURN. -/
def execHookReturn (pair : BitVec 1) (a0 : Word) (s : State) : Out := act s (hookReturn pair.toNat a0)
/-- FW_HOOK_LATE. -/
def execFwHookLate (pair : BitVec 1) (s : State) : Out := act s (hookLate pair.toNat)
/-- HOOK_NOT_RETURNED. -/
def execHookNotReturned (pair : BitVec 1) (s : State) : Out := act s (hookLost pair.toNat)
/-- L1_TRAP. -/
def execL1Trap (pair : BitVec 1) (s : State) : Out := act s (haltFirmware pair.toNat)

end Sys2Proof.Machine
end

