-- ==== Sys2Proof/Machine/Tensor.lean ====
section
/-! DEFINITION. Tensor descriptors: their fields, the checks at issue in their order (R172, R179 to R181, R215, R216, R220,
R249, R262, R359 to R364, R371, R376, R377, R386, R387), and the licence cost (R587). -/
namespace Sys2Proof.Machine

/-! ### Descriptors -/

/-- The fields of a tensor descriptor (Table 05-3). -/
structure TD where
  a : Nat
  b : Nat
  c : Nat
  d : Nat
  sa : Nat
  sb : Nat
  ext : Nat
  m : Nat
  n : Nat
  k : Nat
  lda : Nat
  ldb : Nat
  ldc : Nat
  ldd : Nat
  kind : Nat
  fa : Nat
  fb : Nat
  cd : Nat
  round : Nat
  flags : Nat
  seed : Nat
  /-- Whether a reserved bit or byte is set. -/
  bad : Bool
deriving DecidableEq, Repr

/-- A descriptor's fields from its 128 bytes. -/
def parseTD (d : Bytes) : TD :=
  { a := dfield d 0 8, b := dfield d 8 8, c := dfield d 16 8, d := dfield d 24 8, sa := dfield d 32 8, sb := dfield d 40 8
    ext := dfield d 48 8, m := dfield d 56 2, n := dfield d 58 2, k := dfield d 60 2, lda := dfield d 64 4, ldb := dfield d 68 4
    ldc := dfield d 72 4, ldd := dfield d 76 4, kind := dfield d 80 1 % 16, fa := dfield d 81 1, fb := dfield d 82 1
    cd := dfield d 83 1, round := dfield d 84 1, flags := dfield d 85 1, seed := dfield d 88 8
    bad := dfield d 62 2 != 0 || 32 ≤ dfield d 80 1 || dfield d 86 2 != 0 || dfield d 96 32 != 0 }

/-- TRANS_A. -/
def TD.ta (d : TD) : Bool := bitOf d.flags 0
/-- TRANS_B. -/
def TD.tb (d : TD) : Bool := bitOf d.flags 1
/-- Bytes of a stored row of `n` elements of a format (R219). -/
def rowBytes (code n : Nat) : Nat := ceilDiv (n * elemBits code) 8
/-- Bytes of a range of rows at a stride. -/
def rowsSpan (rows ld row : Nat) : Nat := if rows = 0 then 0 else (rows - 1) * ld + row

/-- A pass: a descriptor with its parameter block, empty where it has none. -/
abbrev Pass := TD × Bytes

/-- MODE of a parameter block. -/
def modeOf (blk : Bytes) : Nat := dfield blk 0 1
/-- Whether a pass is a sliced combine (R249). -/
def isCombine (p : Pass) : Bool := p.1.kind == 3 && !p.2.isEmpty && modeOf p.2 == 1
/-- Whether a pass is a sampling operation (R376). -/
def isSampling (p : Pass) : Bool := p.1.kind == 1 && modeOf p.2 == 0x10
/-- Whether a pass is a pooling pass. -/
def isPool (p : Pass) : Bool := p.1.kind == 1 && 2 ≤ modeOf p.2 && modeOf p.2 ≤ 4

/-! ### Convolution blocks (Table 11-2) -/

/-- The fields of a convolution or pooling block. -/
structure Cv where
  mode : Nat
  inLay : Nat
  outLay : Nat
  pad : Nat
  bcast : Bool
  act : Nat
  kr : Nat
  ks : Nat
  sy : Nat
  sx : Nat
  dy : Nat
  dx : Nat
  pt : Nat
  pb : Nat
  pl : Nat
  pr : Nat
  ch : Nat
  ih : Nat
  iw : Nat
  y0 : Nat
  x0 : Nat
  hh : Nat
  hw : Nat
  oy0 : Nat
  ox0 : Nat
  oh : Nat
  ow : Nat
  pix : Nat
  chs : Nat
  clamp : Nat
  next : Nat
  bad : Bool
deriving DecidableEq, Repr

/-- A block's fields from its 64 bytes. -/
def parseCv (b : Bytes) : Cv :=
  let lay := dfield b 1 1
  let pd := dfield b 2 1
  let fl := dfield b 3 1
  { mode := dfield b 0 1, inLay := lay % 4, outLay := lay / 4 % 4, pad := pd % 4, bcast := bitOf fl 0, act := fl / 2 % 4
    kr := dfield b 4 1, ks := dfield b 5 1, sy := dfield b 6 1 % 16, sx := dfield b 6 1 / 16, dy := dfield b 7 1 % 16
    dx := dfield b 7 1 / 16, pt := dfield b 8 1, pb := dfield b 9 1, pl := dfield b 10 1, pr := dfield b 11 1
    ch := dfield b 12 2, ih := dfield b 14 2, iw := dfield b 16 2, y0 := dfield b 18 2, x0 := dfield b 20 2
    hh := dfield b 22 2, hw := dfield b 24 2, oy0 := dfield b 26 2, ox0 := dfield b 28 2, oh := dfield b 30 2
    ow := dfield b 32 2, pix := dfield b 36 4, chs := dfield b 40 4, clamp := dfield b 44 4, next := dfield b 48 8
    bad := 16 ≤ lay || 4 ≤ pd || 8 ≤ fl || dfield b 34 2 != 0 || dfield b 56 8 != 0 }

/-- OH of R360; 0 where the window does not fit. -/
def Cv.imgOh (v : Cv) : Nat :=
  let e := v.dy * (v.kr - 1) + 1
  if v.ih + v.pt + v.pb < e then 0 else (v.ih + v.pt + v.pb - e) / v.sy + 1
/-- OW of R360. -/
def Cv.imgOw (v : Cv) : Nat :=
  let e := v.dx * (v.ks - 1) + 1
  if v.iw + v.pl + v.pr < e then 0 else (v.iw + v.pl + v.pr - e) / v.sx + 1

/-- The source position of a tap along one axis; none gives a zero value (R361). -/
def tapSrc (pos : Int) (img mode : Nat) : Option Nat :=
  if decide (0 ≤ pos) && decide (pos < (img : Int)) then some pos.toNat
  else if mode = 1 then none
  else if mode = 2 then some (if decide (pos < 0) then 0 else img - 1)
  else some (if decide (pos < 0) then (-pos).toNat else (2 * ((img : Int) - 1) - pos).toNat)

/-- The image row of tap r of output row oy (R360). -/
def Cv.rowAt (v : Cv) (oy r : Nat) : Int := (oy * v.sy + r * v.dy : Nat) - (v.pt : Int)
/-- The image column of tap s of output column ox (R360). -/
def Cv.colAt (v : Cv) (ox s : Nat) : Int := (ox * v.sx + s * v.dx : Nat) - (v.pl : Int)

/-- Whether every tap of the tile has its source inside the held input tile (R362 clause 5). -/
def Cv.held (v : Cv) : Bool :=
  let rowOk (y : Option Nat) : Bool := match y with
    | none => true
    | some y => v.y0 ≤ y && y < v.y0 + v.hh
  let colOk (x : Option Nat) : Bool := match x with
    | none => true
    | some x => v.x0 ≤ x && x < v.x0 + v.hw
  ((span v.oy0 v.oh).all fun oy => (span 0 v.kr).all fun r => rowOk (tapSrc (v.rowAt oy r) v.ih v.pad)) &&
  ((span v.ox0 v.ow).all fun ox => (span 0 v.ks).all fun s => colOk (tapSrc (v.colAt ox s) v.iw v.pad))

/-- Whether an FP32 pattern is finite and above 0. -/
def posFinite (v : Nat) : Bool := 0 < v && v ≤ 0x7F7FFFFF

/-- Whether the fields of a convolution or pooling block are in range (R362 clauses 1 to 5, 9, 10). -/
def Cv.fieldsOk (v : Cv) (cd : Nat) : Bool :=
  let dil (x : Nat) : Bool := x == 1 || x == 2 || x == 4 || x == 8
  !v.bad && v.outLay ≤ 1 && 1 ≤ v.kr && v.kr ≤ 31 && 1 ≤ v.ks && v.ks ≤ 31 &&
  1 ≤ v.sy && v.sy ≤ 4 && 1 ≤ v.sx && v.sx ≤ 4 && dil v.dy && dil v.dx &&
  v.pt ≤ v.dy * (v.kr - 1) && v.pb ≤ v.dy * (v.kr - 1) && v.pl ≤ v.dx * (v.ks - 1) && v.pr ≤ v.dx * (v.ks - 1) &&
  1 ≤ v.ch && v.ch ≤ 4096 && 1 ≤ v.ih && v.ih ≤ 16384 && 1 ≤ v.iw && v.iw ≤ 16384 &&
  1 ≤ v.hh && v.y0 + v.hh ≤ v.ih && 1 ≤ v.hw && v.x0 + v.hw ≤ v.iw && 1 ≤ v.oh && 1 ≤ v.ow &&
  (v.pad != 0 || (v.pt == 0 && v.pb == 0 && v.pl == 0 && v.pr == 0)) &&
  (v.pad != 3 || (v.pt < v.ih && v.pb < v.ih && v.pl < v.iw && v.pr < v.iw)) &&
  1 ≤ v.imgOh && 1 ≤ v.imgOw && v.oy0 + v.oh ≤ v.imgOh && v.ox0 + v.ow ≤ v.imgOw && v.held &&
  !(v.mode == 4 && 2 ≤ v.pad) && v.act != 3 && !(v.act == 2 && cd == 9) &&
  (if v.act = 2 then posFinite v.clamp else v.clamp == 0) &&
  (v.inLay == 3 || v.pix == 0) && (2 ≤ v.inLay || v.chs == 0)

/-- The layout rules of R364. -/
def Cv.layoutOk (v : Cv) (d : TD) : Bool :=
  let e := elemBits d.fa / 8
  let sub := elemBits d.fa < 8
  (v.inLay != 0 || v.ch % 32 == 0) && (v.outLay != 0 || d.n % 32 == 0) &&
  (!sub || (v.inLay ≤ 1 && v.ch % 4 == 0)) && (!isMx d.fa || v.ch % 32 == 0) &&
  (v.inLay != 2 || (v.hh * d.lda ≤ v.chs && v.chs % 64 == 0)) &&
  (v.inLay != 3 || (v.pix != 0 && v.pix % e == 0 && v.chs != 0 && v.chs % e == 0)) &&
  (match v.inLay with
    | 0 => v.hw * rowBytes d.fa 32 ≤ d.lda
    | 1 => v.hw * rowBytes d.fa v.ch ≤ d.lda
    | 2 => v.hw * e ≤ d.lda
    | _ => (v.hw - 1) * v.pix + e ≤ d.lda) && d.lda % 64 == 0

/-- Bytes of one row of the output tile (Table 11-3). -/
def Cv.outRow (v : Cv) (d : TD) : Nat := v.ow * (if v.outLay = 0 then 32 else d.n) * (elemBits d.cd / 8)
/-- Rows that the output tile takes in memory. -/
def Cv.outRows (v : Cv) (d : TD) : Nat := (if v.outLay = 0 then d.n / 32 else 1) * v.oh

/-! ### Sampling blocks (Table 11-4) -/

/-- The fields of a sampling block. -/
structure Sm where
  lay : Nat
  nearest : Bool
  norm : Bool
  half : Bool
  oh : Nat
  ow : Nat
  sy : Nat
  sx : Nat
  fh : Nat
  fw : Nat
  ld : Nat
  scale : Nat
  count : Nat
  first : Nat
  feat : Nat
  box : Nat
  out : Nat
  bad : Bool
deriving DecidableEq, Repr

/-- A block's fields from its 64 bytes. -/
def parseSm (b : Bytes) : Sm :=
  let sp := dfield b 2 1
  { lay := dfield b 1 1, nearest := bitOf sp 0, norm := bitOf sp 1, half := bitOf sp 2, oh := dfield b 4 1, ow := dfield b 5 1
    sy := dfield b 6 1 % 16, sx := dfield b 6 1 / 16, fh := dfield b 8 2, fw := dfield b 10 2, ld := dfield b 12 4
    scale := dfield b 16 4, count := dfield b 20 2, first := dfield b 22 2, feat := dfield b 24 8, box := dfield b 32 8
    out := dfield b 40 8
    bad := 2 ≤ dfield b 1 1 || 8 ≤ sp || dfield b 3 1 != 0 || dfield b 7 1 != 0 || dfield b 48 16 != 0 }

/-- Bytes of a stored feature row. -/
def Sm.row (v : Sm) (d : TD) : Nat := v.fw * (if v.lay = 0 then 32 else d.n) * (elemBits d.fa / 8)

/-- The checks of a sampling operation's descriptor and block (R376). -/
def Sm.ok (v : Sm) (d : TD) (mask : Nat) : Bool :=
  d.a == 0 && d.b == 0 && d.c == 0 && d.d == 0 && d.sa == 0 && d.sb == 0 && d.lda == 0 && d.ldb == 0 && d.ldc == 0 &&
  d.ldd == 0 && d.fb == d.fa && d.k == v.sy * v.sx && mask == 1 && !v.bad &&
  1 ≤ v.oh && v.oh ≤ 64 && 1 ≤ v.ow && v.ow ≤ 64 && 1 ≤ v.sy && v.sy ≤ 4 && 1 ≤ v.sx && v.sx ≤ 4 &&
  1 ≤ v.fh && v.fh ≤ 16384 && 1 ≤ v.fw && v.fw ≤ 16384 && v.ld % 64 == 0 && v.row d ≤ v.ld &&
  (v.lay != 0 || d.n % 32 == 0) &&
  (if v.norm then v.scale == 0 else posFinite v.scale) && 1 ≤ v.count && v.count ≤ 8192 && v.first + d.m ≤ v.count &&
  v.box % 16 == 0

/-! ### Attention blocks (Table 12-2) -/

/-- The fields of an attention block. -/
structure At where
  mode : Nat
  start : Bool
  finish : Bool
  causal : Bool
  windowed : Bool
  accKv : Bool
  pfmt : Nat
  qgroup : Nat
  scale2 : Nat
  scaleNat : Nat
  kb0 : Nat
  keyLen : Nat
  qpos : Nat
  window : Nat
  state : Nat
  stat : Nat
  aux : Nat
  aux2 : Nat
  bad : Bool
deriving DecidableEq, Repr

/-- A block's fields from its 64 bytes. -/
def parseAt (b : Bytes) : At :=
  let fl := dfield b 1 1
  { mode := dfield b 0 1, start := bitOf fl 0, finish := bitOf fl 1, causal := bitOf fl 2, windowed := bitOf fl 3
    accKv := bitOf fl 4, pfmt := dfield b 2 1, qgroup := dfield b 3 1, scale2 := dfield b 4 4, scaleNat := dfield b 8 4
    kb0 := dfield b 12 4, keyLen := dfield b 16 4, qpos := dfield b 20 4, window := dfield b 24 4, state := dfield b 28 8
    stat := dfield b 36 8, aux := dfield b 44 8, aux2 := dfield b 52 8
    bad := 32 ≤ fl || dfield b 60 4 != 0 }

/-- Key blocks of an attention operation. -/
def blocksIn (n : Nat) : Nat := ceilDiv n 128
/-- Bytes of a state record (Table 12-3). -/
def stateBytes (m d : Nat) : Nat := 64 + 8 * m + 4 * m * d

/-- The checks of an attention operation (R387, Table 12-1). -/
def At.ok (v : At) (d : TD) : Bool :=
  let merge := v.mode == 1
  let delta := v.mode == 2
  let keys := v.mode == 0 || v.mode == 3
  let z (b : Bool) (x : Nat) : Bool := !b || x == 0
  let nz (b : Bool) (x : Nat) : Bool := !b || x != 0
  v.mode ≤ 3 && !v.bad && d.sa == 0 && d.sb == 0 && d.flags == 0 &&
  (if merge then d.fa == 3 && d.fb == 3 else 3 ≤ d.fa && d.fa ≤ 6 && 3 ≤ d.fb && d.fb ≤ 6) &&
  (d.cd == 1 || (!delta && (d.cd == 3 || d.cd == 4))) && (v.pfmt == 3 || v.pfmt == d.fb) &&
  1 ≤ d.m && d.m ≤ 128 && d.k % 32 == 0 && 32 ≤ d.k && d.k ≤ 256 &&
  (if keys then (d.n % 128 == 0 || d.n + 128 * v.kb0 == v.keyLen) else d.n == 1) && 128 * v.kb0 + d.n ≤ 2097152 &&
  1 ≤ v.qgroup && v.qgroup ≤ 128 && (if keys then posFinite v.scale2 else v.scale2 == 0) &&
  (if v.mode = 3 then posFinite v.scaleNat else v.scaleNat == 0) && 1 ≤ v.keyLen && v.keyLen ≤ 2097152 && v.qpos < 2097152 &&
  (if v.windowed then 1 ≤ v.window && v.window ≤ 2097152 else v.window == 0) && v.state % 64 == 0 && v.stat % 64 == 0 &&
  (!v.start || v.mode == 0) && (!v.finish || !delta) && (!v.accKv || v.mode == 3) &&
  z merge d.a && z merge d.lda && z merge d.b && z merge d.ldb && z (!keys) d.c && z (!keys) d.ldc &&
  z (!v.finish) d.d && z (!v.finish) d.ldd && z (!merge && v.mode != 3) v.aux && z (v.mode != 3) v.aux2 &&
  nz (!merge) d.a && nz (!merge) d.b && nz keys d.c && v.state != 0 && nz delta v.stat && nz (merge || v.mode == 3) v.aux &&
  nz (v.mode == 3) v.aux2

/-! ### Step 3 of R172 -/

/-- Whether the format codes are allowed for an OP kind (R216, Table 06-3). -/
def fmtsOk (d : TD) : Bool :=
  let fl (k : Nat) : Bool := (3 ≤ k && k ≤ 6) || isMx k
  let i (k : Nat) : Bool := k == 7 || k == 8
  let fcd := d.cd == 1 || (3 ≤ d.cd && d.cd ≤ 6)
  if d.kind = 3 then (d.fa == 1 || d.fa == 2) && d.fb == d.fa && d.cd == d.fa
  else (fl d.fa && fl d.fb && fcd) || (d.kind ≤ 1 && i d.fa && i d.fb && (d.cd == 9 || d.cd == 1))

/-- A row stride against the bytes of a row (R180). -/
def ldOk (ld row : Nat) : Bool := row ≤ ld && ld % 64 == 0
/-- The whole elements of a stored row of a 4-bit or 6-bit operand (R220). -/
def packOk (code elems : Nat) : Bool :=
  (elemBits code != 4 || elems % 2 == 0) && (elemBits code != 6 || elems % 4 == 0)
/-- Scales are named exactly for MX formats (R180). -/
def scalesOk (d : TD) : Bool := (d.sa != 0) == isMx d.fa && (d.sb != 0) == isMx d.fb

/-- Elements of a stored row of A and of B for OP kinds 0x0 and 0x3. -/
def TD.aElems (d : TD) : Nat := if d.ta then d.m else d.k
/-- Stored rows of A. -/
def TD.aRows (d : TD) : Nat := if d.ta then d.k else d.m
/-- Elements of a stored row of B. -/
def TD.bElems (d : TD) : Nat := if d.tb then d.k else d.n
/-- Stored rows of B. -/
def TD.bRows (d : TD) : Nat := if d.tb then d.n else d.k

/-- PART_STRIDE of a sliced block. -/
def partStride (blk : Bytes) : Nat := dfield blk 8 8

/-- The fields of OP kinds 0x0 and 0x3 (R180, R220, R249, R262). -/
def matOk (p : Pass) : Bool :=
  let d := p.1
  let blk := p.2
  let out := ldOk d.ldd (rowBytes d.cd d.n) && (d.c == 0 || ldOk d.ldc (rowBytes d.cd d.n))
  let prod := ldOk d.lda (rowBytes d.fa d.aElems) && ldOk d.ldb (rowBytes d.fb d.bElems) &&
    packOk d.fa d.aElems && packOk d.fb d.bElems
  if d.kind = 0 then d.ext == 0 && scalesOk d && out && prod && ((!isMx d.fa && !isMx d.fb) || d.k % 32 == 0)
  else
    d.sa == 0 && d.sb == 0 && out &&
    (blk.isEmpty || (modeOf blk ≤ 1 && dfield blk 1 7 == 0 && dfield blk 16 48 == 0)) &&
    (if isCombine p then
      d.b == 0 && d.ldb == 0 && d.flags == 0 && ldOk d.lda (rowBytes d.fa d.n) && partStride blk % 64 == 0 &&
        d.m * d.lda ≤ partStride blk
    else prod && (blk.isEmpty || partStride blk == 0))

/-- The fields of a pass of OP kind 0x1 (R359, R362, R364, R376). -/
def passOk (p : Pass) (mask : Nat) : Bool :=
  let d := p.1
  let v := parseCv p.2
  let mode := modeOf p.2
  d.ext != 0 && d.flags == 0 &&
  (if mode = 0x10 then 3 ≤ d.fa && d.fa ≤ 6 && (parseSm p.2).ok d mask
   else
    mode ≤ 4 && v.fieldsOk d.cd && v.layoutOk d && d.m == v.oh * v.ow &&
    ldOk d.ldd (v.outRow d) && (d.c == 0 || v.bcast || ldOk d.ldc (v.outRow d)) &&
    (if mode ≤ 1 then
      d.k == (if mode = 0 then v.ch else 1) * v.kr * v.ks && (mode == 0 || d.n == v.ch) &&
      ldOk d.ldb (rowBytes d.fb d.n) && packOk d.fb d.n && scalesOk d &&
      ((!isMx d.fa && !isMx d.fb) || d.k % 32 == 0)
     else
      d.k == v.kr * v.ks && d.n == v.ch && d.b == 0 && d.ldb == 0 && d.sa == 0 && d.sb == 0 && d.c == 0 && d.fb == d.fa &&
      (if mode = 2 then 3 ≤ d.fa && d.fa ≤ 8 else 3 ≤ d.fa && d.fa ≤ 6)))

/-- The strides of an attention operation (R180, for the operands its mode reads or writes). -/
def attnLdOk (d : TD) (v : At) : Bool :=
  (v.mode == 1 || (ldOk d.lda (rowBytes d.fa d.k) && ldOk d.ldb (rowBytes d.fb d.k))) &&
  (v.mode == 1 || v.mode == 2 || ldOk d.ldc (rowBytes d.fb d.k)) && (!v.finish || ldOk d.ldd (rowBytes d.cd d.k))

/-- Whether a pass's fields are valid (step 3 of R172). -/
def fieldsOk (p : Pass) (mask : Nat) : Bool :=
  let d := p.1
  !d.bad && d.kind ≤ 3 && d.round ≤ 4 && d.flags ≤ 3 && fmtDefined d.fa && fmtDefined d.fb && fmtDefined d.cd &&
  1 ≤ d.m && d.m ≤ 4096 && 1 ≤ d.n && d.n ≤ 4096 && 1 ≤ d.k && d.k ≤ 4096 && fmtsOk d &&
  (if d.kind = 1 then passOk p mask
   else if d.kind = 2 then d.ext != 0 && (parseAt p.2).ok d && attnLdOk d (parseAt p.2)
   else matOk p)

/-- The chain rules (R371): at most 8 passes, each a pass of modes 0x00 to 0x04. -/
def chainOk (ps : List Pass) : Bool :=
  ps.length ≤ 1 || (ps.length ≤ 8 && ps.all fun p => p.1.kind == 1 && modeOf p.2 ≤ 4)

/-! ### Step 2: places in own grove memory -/

/-- Whether segments lie in a grove's own memory (R179, R181). -/
def ownSegs (c : Chip) (g : Nat) (ss : List Seg) : Bool :=
  ss.all fun s =>
    let a := unalias g (s.pa % 2 ^ 44)
    s.pa / 2 ^ 44 == c.moduleId && groveBase + g * 0x400000 ≤ a && a + s.len ≤ groveBase + g * 0x400000 + groveBytes

/-- A block of own grove memory read at issue: its bytes and whether a word of it carries poison; none where it is
misplaced (step 2 of R172). -/
def ownBlock (t va align n : Nat) (c : Chip) : Chip × Option (Bytes × Bool) :=
  if va % align ≠ 0 then (c, none) else
    match xlateRange t .load (pagesOf n) va n c with
    | (c, .error _) => (c, none)
    | (c, .ok ss) =>
      if ownSegs c (groveOf t) ss then (c, some (readSegs c (groveOf t) ss, poisonSegs c (groveOf t) ss)) else (c, none)

/-- The descriptors and parameter blocks that a TENSOR reads, following NEXT up to a number of passes (R179, R359, R371):
none where one is misplaced, else the bytes in order and whether any carries poison. -/
def readPasses (t : Nat) : Nat → Nat → Chip → Chip × Option (List (Bytes × Bytes) × Bool)
  | 0, _, c => (c, some ([], false))
  | fuel + 1, va, c =>
    match ownBlock t va 128 128 c with
    | (c, none) => (c, none)
    | (c, some (d, p)) =>
      let td := parseTD d
      if td.ext = 0 || td.kind = 0 || 3 < td.kind then (c, some ([(d, [])], p))
      else match ownBlock t td.ext 64 64 c with
        | (c, none) => (c, none)
        | (c, some (b, q)) =>
          if td.kind = 1 && modeOf b ≤ 4 && (parseCv b).next ≠ 0 then
            match readPasses t fuel (parseCv b).next c with
            | (c, none) => (c, none)
            | (c, some (r, z)) => (c, some ((d, b) :: r, p || q || z))
          else (c, some ([(d, b)], p || q))

/-! ### Step 4: operand ranges -/

/-- An operand range: whether the operation writes it, whether it is the D of R181, its first byte and its bytes; `stand`
where stand memory is allowed too (R377). -/
structure Rng where
  wr : Bool
  isD : Bool
  va : Nat
  len : Nat
  stand : Bool := false
deriving DecidableEq, Repr

/-- A range that is read. -/
def rd (va len : Nat) : Rng := ⟨false, false, va, len, false⟩

/-- The operand ranges of a pass, in the order of Table 05-3. -/
def passRanges (p : Pass) : List Rng :=
  let d := p.1
  let blk := p.2
  let has (b : Bool) (r : Rng) : List Rng := if b then [r] else []
  let out := rowsSpan d.m d.ldd (rowBytes d.cd d.n)
  if d.kind = 1 then
    if modeOf blk = 0x10 then
      let v := parseSm blk
      [⟨false, false, v.feat, (if v.lay = 0 then d.n / 32 else 1) * v.fh * v.ld, true⟩, ⟨false, false, v.box, 16 * v.count, true⟩,
       ⟨true, true, v.out, d.m * v.oh * v.ow * d.n * (elemBits d.cd / 8), true⟩]
    else
      let v := parseCv blk
      let inRows := match v.inLay with
        | 0 => rowsSpan (v.ch / 32 * v.hh) d.lda (v.hw * rowBytes d.fa 32)
        | 1 => rowsSpan v.hh d.lda (v.hw * rowBytes d.fa v.ch)
        | 2 => (v.ch - 1) * v.chs + rowsSpan v.hh d.lda (v.hw * (elemBits d.fa / 8))
        | _ => (v.ch - 1) * v.chs + rowsSpan v.hh d.lda ((v.hw - 1) * v.pix + elemBits d.fa / 8)
      let outB := rowsSpan (v.outRows d) d.ldd (v.outRow d)
      [rd d.a inRows] ++ has (!isPool p) (rd d.b (rowsSpan d.k d.ldb (rowBytes d.fb d.n))) ++
      has (d.c != 0) (rd d.c (if v.bcast then rowBytes d.cd d.n else rowsSpan (v.outRows d) d.ldc (v.outRow d))) ++
      [⟨true, true, d.d, outB, false⟩] ++ has (d.sa != 0) (rd d.sa (v.hh * v.hw * (v.ch / 32))) ++
      has (d.sb != 0) (rd d.sb (d.k / 32 * d.n))
  else if d.kind = 2 then
    let v := parseAt blk
    let sz := stateBytes d.m d.k
    let keys := v.mode == 0 || v.mode == 3
    has (v.mode != 1) (rd d.a (rowsSpan d.m d.lda (rowBytes d.fa d.k))) ++
    has (v.mode != 1) (rd d.b (rowsSpan (if keys then d.n else d.m) d.ldb (rowBytes d.fb d.k))) ++
    has keys (rd d.c (rowsSpan d.n d.ldc (rowBytes d.fb d.k))) ++
    has v.finish ⟨true, true, d.d, rowsSpan d.m d.ldd (rowBytes d.cd d.k), false⟩ ++
    [⟨true, false, v.state, sz, false⟩] ++
    has (v.mode == 2) (rd v.stat (4 * d.m)) ++ has (v.finish && v.mode ≤ 1) ⟨true, false, v.stat, 4 * d.m, false⟩ ++
    has (v.mode == 1) (rd v.aux sz) ++ has (v.mode == 3) (rd v.aux (rowsSpan d.m d.lda (rowBytes d.fa d.k))) ++
    has (v.mode == 3) ⟨true, false, v.aux2, 8 * d.n * d.k, false⟩
  else if isCombine p then
    [rd d.a ((d.k - 1) * partStride blk + rowsSpan d.m d.lda (rowBytes d.fa d.n))] ++
    has (d.c != 0) (rd d.c (rowsSpan d.m d.ldc (rowBytes d.cd d.n))) ++ [⟨true, true, d.d, out, false⟩]
  else
    [rd d.a (rowsSpan d.aRows d.lda (rowBytes d.fa d.aElems)), rd d.b (rowsSpan d.bRows d.ldb (rowBytes d.fb d.bElems))] ++
    has (d.c != 0) (rd d.c (rowsSpan d.m d.ldc (rowBytes d.cd d.n))) ++ [⟨true, true, d.d, out, false⟩] ++
    has (d.sa != 0) (rd d.sa (d.m * (d.k / 32))) ++ has (d.sb != 0) (rd d.sb (d.k / 32 * d.n))

/-- Whether segments lie in a grove's own memory or in the stand memory of its stand (R377). -/
def standSegs (c : Chip) (g : Nat) (ss : List Seg) : Bool :=
  ss.all fun s =>
    ownSegs c g [s] || (s.pa / 2 ^ 44 == c.moduleId && (let a := s.pa % 2 ^ 44
      standBase + g / 32 * 0x1000000 ≤ a && a + s.len ≤ standBase + (g / 32 + 1) * 0x1000000))

/-- One range translated and checked (step 4 of R172). -/
def checkRange (t : Nat) (r : Rng) (c : Chip) : Chip × Except Trap (List Seg) :=
  let k : Acc := if r.wr then .store else .load
  match xlateRange t k (pagesOf r.len) r.va r.len c with
  | (c, .error tr) => (c, .error tr)
  | (c, .ok ss) =>
    if !allLocal c ss then (c, .error ⟨24, 0, some St.extOperandPlace, false⟩)
    else match mapSegs c t ((hart c t).priv == 3) ss with
      | some st => (c, .error ⟨accessCause k, r.va, some st, false⟩)
      | none =>
        if (if r.stand then standSegs c (groveOf t) ss else ownSegs c (groveOf t) ss) then (c, .ok ss)
        else (c, .error ⟨24, 0, some St.extOperandPlace, false⟩)

/-- Ranges translated and checked in turn. -/
def checkRanges (t : Nat) : List Rng → Chip → Chip × Except Trap (List (Rng × List Seg))
  | [], c => (c, .ok [])
  | r :: l, c =>
    match checkRange t r c with
    | (c, .error tr) => (c, .error tr)
    | (c, .ok ss) => match checkRanges t l c with
      | (c, .error tr) => (c, .error tr)
      | (c, .ok rest) => (c, .ok ((r, ss) :: rest))

/-- Whether two lists of segments share a byte. -/
def segsMeet (g : Nat) (x y : List Seg) : Bool :=
  x.any fun a => y.any fun b =>
    let p := unalias g (a.pa % 2 ^ 44)
    let q := unalias g (b.pa % 2 ^ 44)
    decide (p < q + b.len) && decide (q < p + a.len)

/-- Whether D may equal C exactly (R181). -/
def sameCD (p : Pass) : Bool := p.1.c == p.1.d && p.1.ldc == p.1.ldd && !(p.1.kind == 1 && (parseCv p.2).bcast)

/-- Whether D overlaps no other range of a pass, its parameter block included (R181, R377). -/
def dApart (g : Nat) (p : Pass) (rs : List (Rng × List Seg)) (ext : List Seg) : Bool :=
  (rs.filter fun r => r.1.isD).all fun d =>
    !segsMeet g d.2 ext && rs.all fun r => r.1.isD || (sameCD p && r.1.va == p.1.c && r.1.va == d.1.va) || !segsMeet g d.2 r.2

/-- Step 4 for every pass: the segments of all ranges, or the trap. -/
def checkOperands (t : Nat) : List Pass → Chip → Chip × Except Trap (List Seg)
  | [], c => (c, .ok [])
  | p :: l, c =>
    match checkRanges t (passRanges p) c with
    | (c, .error tr) => (c, .error tr)
    | (c, .ok rs) =>
      let (c, ext) := if p.2.isEmpty then (c, Except.ok []) else xlateRange t .load (pagesOf 64) p.1.ext 64 c
      match ext with
      | .error tr => (c, .error tr)
      | .ok es =>
        if !dApart (groveOf t) p rs es then (c, .error ⟨24, 0, some St.extOperandPlace, false⟩)
        else match checkOperands t l c with
          | (c, .error tr) => (c, .error tr)
          | (c, .ok rest) => (c, .ok ((rs.map (·.2)).flatten ++ rest))

/-! ### Cost (R587) -/

/-- Element rate of an operand format in quarters (Table 06-3). -/
def rateOf (k : Nat) : Nat := if k = 8 || k = 0x14 then 8 else if k = 3 then 2 else if k = 4 then 1 else 4

/-- The per-array rating in eighths of a watt (Table 18-2). -/
def ratingOf (d : TD) : Nat :=
  if d.kind = 3 then 4
  else let r := min (rateOf d.fa) (rateOf d.fb); if r = 8 then 7 else if r = 4 then 5 else if r = 2 then 4 else 3

/-- The arrays of a mask in service; where it holds none, the lowest in service (R243). -/
def liveArrays (retired mask : Nat) : List Nat :=
  let live := (span 0 8).filter fun a => !bitOf retired a
  let m := live.filter fun a => bitOf mask a
  if m.isEmpty then live.take 1 else m

/-- The cost of a pass, in watts (R587). -/
def passCost (c : Chip) (g mask : Nat) (p : Pass) : Nat :=
  let f := standKhz c (g / 32)
  if isSampling p then ceilDiv (2 * clockFactor f) 8
  else tensorCost f (ratingOf p.1) ((span 0 8).countP fun a => bitOf mask a && !bitOf (grove c g).retiredArrays a)

/-- The cost of an operation: its most costly pass (R373). -/
def opCost (c : Chip) (g mask : Nat) (ps : List Pass) : Nat := ps.foldl (fun a p => max a (passCost c g mask p)) 0

/-! ### The passes of an operation -/

/-- Descriptors and blocks in a row, in pairs. -/
def pairUp : List Bytes → List Pass
  | d :: b :: r => (parseTD d, b) :: pairUp r
  | _ => []
/-- The passes of an operation. -/
def opPasses (o : TensorOp) : List Pass := match o.ext with
  | [] => [(parseTD o.desc, [])]
  | b :: r => (parseTD o.desc, b) :: pairUp r

end Sys2Proof.Machine
end

