-- ==== Sys2Proof/Machine/TensorOps.lean ====
section
/-! DEFINITION. What a tensor operation computes: matrix products and combines (R212, R250, R261), convolution, pooling and
region sampling (R360 to R381), attention (R388 to R401); the elements it writes, its dropped terms and its flags. -/
namespace Sys2Proof.Machine

/-! ### Reading operands -/

/-- What an operation reads through: the module, the grove and its translated ranges. -/
structure Rd where
  c : Chip
  g : Nat
  segs : List Seg

/-- The local address of a virtual address in the operation's ranges. -/
def Rd.loc (r : Rd) (va : Nat) : Nat :=
  match r.segs.find? fun s => s.va ≤ va && va < s.va + s.len with
  | some s => unalias r.g (s.pa % 2 ^ 44) + (va - s.va)
  | none => 0
/-- `n` bytes as a number. -/
def Rd.num (r : Rd) (va : Nat) : Nat → Nat
  | 0 => 0
  | n + 1 => (memByte r.c (r.loc va)).toNat + 256 * r.num (va + 1) n
/-- Whether a word under `n` bytes carries poison. -/
def Rd.pois (r : Rd) (va n : Nat) : Bool := (span va n).any fun a => wordPoison r.c (r.loc a)

/-- The bits of element `k` of the stored row at an address, and whether its words carry poison (R219). -/
def Rd.bitsAt (r : Rd) (row code k : Nat) : Nat × Bool :=
  let w := elemBits code
  let b := k * w
  let n := ceilDiv (b % 8 + w) 8
  (r.num (row + b / 8) n / 2 ^ (b % 8) % 2 ^ w, r.pois (row + b / 8) n)

/-- The value of an element, with poison. -/
def Rd.elem (r : Rd) (row code k : Nat) : Term × Bool :=
  let (v, p) := r.bitsAt row code k
  (decodeElem code v, p)

/-- A value under its block scale (R221), where the format has one. -/
def Rd.scaled (r : Rd) (code sa idx : Nat) (x : Term × Bool) : Term × Bool :=
  if isMx code then (mulT x.1 (scaleTerm (r.num (sa + idx) 1)), x.2 || r.pois (sa + idx) 1) else x

/-! ### Writing results -/

/-- An element to be written: its address, bytes, value and poison. -/
structure Wr where
  va : Nat
  n : Nat
  v : Nat
  pois : Bool
deriving DecidableEq, Repr

/-- What an operation leaves beside its elements: dropped terms and status flags (R225, Table 06-8). -/
structure Note where
  drops : Nat := 0
  ovf : Bool := false
  unf : Bool := false
  nan : Bool := false
  pois : Bool := false
deriving DecidableEq, Repr

/-- Two notes together. -/
def Note.add (a b : Note) : Note := ⟨a.drops + b.drops, a.ovf || b.ovf, a.unf || b.unf, a.nan || b.nan, a.pois || b.pois⟩
/-- A note with the notes of a list. -/
def Note.addAll (a : Note) (l : List Note) : Note := l.foldl (fun n x => n.add x) a
/-- A note of dropped terms and poison. -/
def note (n : Nat) (p : Bool) : Note := { drops := n, pois := p }
/-- A note with a rounding's flags. -/
def Note.flags (a : Note) (f : RFlags) : Note :=
  { a with ovf := a.ovf || f.ovf, unf := a.unf || f.unf, nan := a.nan || f.nan }

/-- Elements with a note. -/
abbrev Res := List Wr × Note
/-- The results of a list of elements. -/
def gather (l : List (Wr × Note)) : Res := (l.map (·.1), l.foldl (fun a x => a.add x.2) {})
/-- Runs of adjacent elements: the first address, the bytes and the elements that carry poison. -/
def runs : List Wr → List (Nat × Bytes × List (Nat × Nat))
  | [] => []
  | w :: r =>
    let own := if w.pois then [(w.va, w.n)] else []
    match runs r with
    | (a, bs, ps) :: l =>
      if w.va + w.n = a then (w.va, leBytes w.n w.v ++ bs, own ++ ps) :: l else (w.va, leBytes w.n w.v, own) :: (a, bs, ps) :: l
    | [] => [(w.va, leBytes w.n w.v, own)]

/-- The segments of a run of bytes. -/
def Rd.segsFor (r : Rd) (va n : Nat) : List Seg :=
  r.segs.filterMap fun s =>
    let lo := max va s.va
    let hi := min (va + n) (s.va + s.len)
    if lo < hi then some ⟨lo, s.pa + (lo - s.va), hi - lo⟩ else none

/-- One copy of each byte: overlapping segments of two ranges name the same byte. -/
def onceEach (va : Nat) : List Seg → List Seg
  | [] => []
  | s :: r => if s.va = va then s :: onceEach (s.va + s.len) r else onceEach va r

/-- The elements are written: whole words are clean, and every poisoned element's words take the tag (R185). -/
def writeRes (g : Nat) (segs : List Seg) (ws : List Wr) (c : Chip) : Chip :=
  (runs ws).foldl (fun c run =>
    let r : Rd := ⟨c, g, segs⟩
    let c := writeSegs g (onceEach run.1 (sortBy (·.va) (r.segsFor run.1 run.2.1.length))) run.2.1 false c
    run.2.2.foldl (fun c e => (span e.1 e.2).foldl (fun c a =>
      { c with mem := { c.mem with poison := tput c.mem.poison (r.loc a / 8) true } }) c) c) c

/-! ### Matrix products and combines -/

/-- C(i, j) of an operation whose C lies as D does, where it has one. -/
def Rd.cTerm (r : Rd) (d : TD) (row j : Nat) : List (Term × Bool) := if d.c = 0 then [] else [r.elem row d.cd j]

/-- A block summed and rounded once into an element of D (R226, R228, R231). -/
def outElem (d : TD) (below i j den : Nat) (va : Nat) (ts : List (Term × Bool)) : Wr × Note :=
  let (s, n) := blockSum below (d.round == 2) (ts.map (·.1))
  let rnd := srBits d.seed i j
  let (v, f) := match fmtOf d.cd with
    | some fm => roundF fm d.round rnd den s
    | none => roundI s
  let p := ts.any (·.2)
  (⟨va, elemBits d.cd / 8, v, p⟩, (note n p).flags f)

/-- A(i, k) (R219, R221, R222). -/
def Rd.aAt (r : Rd) (d : TD) (i k : Nat) : Term × Bool :=
  r.scaled d.fa d.sa (i * (d.k / 32) + k / 32)
    (if d.ta then r.elem (d.a + k * d.lda) d.fa i else r.elem (d.a + i * d.lda) d.fa k)
/-- B(k, j). -/
def Rd.bAt (r : Rd) (d : TD) (k j : Nat) : Term × Bool :=
  r.scaled d.fb d.sb (k / 32 * d.n + j)
    (if d.tb then r.elem (d.b + j * d.ldb) d.fb k else r.elem (d.b + k * d.ldb) d.fb j)

/-- The term of index k of an element of OP kind 0x0 or 0x3 (R223, R253, R261). -/
def Rd.matTerm (r : Rd) (p : Pass) (i j k : Nat) : Term × Bool :=
  let d := p.1
  if isCombine p then r.elem (d.a + k * partStride p.2 + i * d.lda) d.fa j
  else if d.kind = 3 then
    let (x, px) := if d.ta then r.bitsAt (d.a + k * d.lda) d.fa i else r.bitsAt (d.a + i * d.lda) d.fa k
    let (y, py) := if d.tb then r.bitsAt (d.b + j * d.ldb) d.fb k else r.bitsAt (d.b + k * d.ldb) d.fb j
    let f := (fmtOf d.fa).getD fp32
    (keptProduct f (if d.fa = 1 then 3 else 7) x y, px || py)
  else
    let a := r.aAt d i k
    let b := r.bAt d k j
    (mulT a.1 b.1, a.2 || b.2)

/-- An operation of OP kind 0x0 or 0x3. -/
def matRun (r : Rd) (p : Pass) : Res :=
  let d := p.1
  gather ((span 0 d.m).flatMap fun i => (span 0 d.n).map fun j =>
    outElem d (if d.kind = 3 then 303 else 143) i j 1 (d.d + i * d.ldd + j * (elemBits d.cd / 8))
      ((span 0 d.k).map (r.matTerm p i j) ++ r.cTerm d (d.c + i * d.ldc) j))

/-! ### Convolution and pooling -/

/-- The stored row and index of element (y, x, ch) of the input tile (Table 11-3). -/
def Cv.place (v : Cv) (d : TD) (y x ch : Nat) : Nat × Nat :=
  let y' := y - v.y0
  let x' := x - v.x0
  match v.inLay with
  | 0 => (d.a + (ch / 32 * v.hh + y') * d.lda + x' * rowBytes d.fa 32, ch % 32)
  | 1 => (d.a + y' * d.lda + x' * rowBytes d.fa v.ch, ch)
  | 2 => (d.a + ch * v.chs + y' * d.lda, x')
  | _ => (d.a + ch * v.chs + y' * d.lda + x' * v.pix, 0)

/-- The value of a tap (R361, R363); none where it is a zero value from padding. -/
def Rd.tap (r : Rd) (d : TD) (v : Cv) (oy ox a s ch : Nat) : Option (Term × Bool) :=
  match tapSrc (v.rowAt oy a) v.ih v.pad, tapSrc (v.colAt ox s) v.iw v.pad with
  | some y, some x =>
    let (row, k) := v.place d y x ch
    some (r.scaled d.fa d.sa (((y - v.y0) * v.hw + (x - v.x0)) * (v.ch / 32) + ch / 32) (r.elem row d.fa k))
  | _, _ => none

/-- Whether a tap's image position lies inside the image. -/
def Cv.inside (v : Cv) (oy ox a s : Nat) : Bool :=
  let y := v.rowAt oy a
  let x := v.colAt ox s
  decide (0 ≤ y) && decide (y < (v.ih : Int)) && decide (0 ≤ x) && decide (x < (v.iw : Int))

/-- The taps of a window, in order. -/
def Cv.taps (v : Cv) : List (Nat × Nat) := (span 0 v.kr).flatMap fun a => (span 0 v.ks).map fun s => (a, s)

/-- The address of an output element by a base and a row stride (R363). -/
def Cv.outVa (v : Cv) (d : TD) (base ld oy ox n : Nat) : Nat :=
  let e := elemBits d.cd / 8
  if v.outLay = 0 then base + (n / 32 * v.oh + (oy - v.oy0)) * ld + (ox - v.ox0) * 32 * e + n % 32 * e
  else base + (oy - v.oy0) * ld + (ox - v.ox0) * d.n * e + n * e

/-- ACT on a rounded value (R367). -/
def actOn (v : Cv) (cd x : Nat) : Nat :=
  if v.act = 0 then x
  else match fmtOf cd with
    | none => if bitOf x 31 then 0 else x
    | some f =>
      if decodeF f x = .nan then x
      else if bitOf x (f.bits - 1) then 0
      else if v.act = 2 then min x (roundF f 0 0 1 (decodeF fp32 v.clamp)).1
      else x

/-- The terms of an output element of modes 0x00 and 0x01 (R365). -/
def Rd.convTerms (r : Rd) (d : TD) (v : Cv) (oy ox n : Nat) : List (Term × Bool) :=
  let one (a s ch k : Nat) : Term × Bool :=
    let x := (r.tap d v oy ox a s ch).getD (Term.zero, false)
    let w := r.scaled d.fb d.sb (k / 32 * d.n + n) (r.elem (d.b + k * d.ldb) d.fb n)
    (mulT x.1 w.1, x.2 || w.2)
  (v.taps.flatMap fun t =>
    let k := t.1 * v.ks + t.2
    if v.mode = 1 then [one t.1 t.2 n k] else (span 0 v.ch).map fun ch => one t.1 t.2 ch (k * v.ch + ch)) ++
  (if d.c = 0 then [] else if v.bcast then [r.elem d.c d.cd n] else [r.elem (v.outVa d d.c d.ldc oy ox n) d.cd 0])

/-- The taps that a pooling window counts (R366). -/
def Rd.poolTaps (r : Rd) (d : TD) (v : Cv) (oy ox n : Nat) : List (Term × Bool) :=
  v.taps.filterMap fun t =>
    if v.mode = 3 then some ((r.tap d v oy ox t.1 t.2 n).getD (Term.zero, false))
    else if v.mode = 4 && !v.inside oy ox t.1 t.2 then none
    else r.tap d v oy ox t.1 t.2 n

/-- One output element of a pass of modes 0x00 to 0x04 (R365 to R368). -/
def Rd.passElem (r : Rd) (d : TD) (v : Cv) (oy ox n : Nat) : Wr × Note :=
  let va := v.outVa d d.d d.ldd oy ox n
  let i := oy * v.imgOw + ox
  let w : Wr × Note :=
    if v.mode ≤ 1 then outElem d 143 i n 1 va (r.convTerms d v oy ox n)
    else
      let ts := r.poolTaps d v oy ox n
      let p := ts.any (·.2)
      match ts with
      | [] => (⟨va, elemBits d.cd / 8, 0, false⟩, {})
      | t :: l =>
        if v.mode = 2 then
          let best := l.foldl (fun a x => maxT a x.1) t.1
          let (x, f) := roundTo d.cd d.round (srBits d.seed i n) best
          (⟨va, elemBits d.cd / 8, x, p⟩, (note 0 p).flags f)
        else outElem d 143 i n (if v.mode = 3 then v.kr * v.ks else ts.length) va ts
  ({ w.1 with v := actOn v d.cd w.1.v }, w.2)

/-- A pass of modes 0x00 to 0x04, its elements in address order. -/
def passRun (r : Rd) (p : Pass) : Res :=
  let d := p.1
  let v := parseCv p.2
  let rows := span v.oy0 v.oh
  let cols := span v.ox0 v.ow
  gather (if v.outLay = 0 then
    (span 0 (d.n / 32)).flatMap fun b => rows.flatMap fun oy => cols.flatMap fun ox => (span (b * 32) 32).map fun n =>
      r.passElem d v oy ox n
  else rows.flatMap fun oy => cols.flatMap fun ox => (span 0 d.n).map fun n => r.passElem d v oy ox n)

/-! ### Region sampling -/

/-- An FP32 result of one operation under RNE. -/
def f32 (ts : List Term) : Term := (rne32 ts).1
/-- An FP32 quotient by a small integer under RNE. -/
def f32div (x : Term) (n : Nat) : Term := decodeF fp32 (roundF fp32 0 0 n x).1
/-- An integer as FP32, exact below 2^24. -/
def f32nat (n : Nat) : Term := .fin false n 0

/-- An edge of a box in feature units (R378). -/
def Sm.edge (v : Sm) (x : Term) (extent : Nat) : Term :=
  let p := f32 [mulT x (if v.norm then f32nat extent else decodeF fp32 v.scale)]
  if v.half then f32 [p, .fin true 1 (-1)] else p

/-- The coordinate of sample point `a` of `s` in bin `o` of `n` (R378). -/
def samplePoint (e0 e1 : Term) (n o s a : Nat) : Term :=
  let bh := f32div (f32 [e1, negT e0]) n
  let ty := f32div (f32nat (2 * a + 1)) (2 * s)
  f32 [mulT bh (f32 [f32nat o, ty]), e0]

/-- Whether a coordinate puts the sample point off the map (R379). -/
def offMap (x : Term) (extent : Nat) : Bool := ltT x (.fin true 1 0) || ltT (f32nat extent) x

/-- A coordinate in units of 2^-16, rounded to nearest, ties to even (R379). The rule states no value for a NaN. -/
def coordQ (x : Term) : Nat :=
  match x with
  | .fin neg m e =>
    if neg then 0 else
      let n := m * 2 ^ (e + 16).toNat
      let d := 2 ^ (-(e + 16)).toNat
      let q := n / d
      q + b2n (roundsUp 0 false (q % 2 = 1) (n % d) d 0)
  | _ => (Config.unstated 378 0 0).toNat % 2 ^ 31

/-- The integer and fraction of a coordinate, clamped at the map's last position (R379). -/
def coordSplit (q extent : Nat) : Nat × Nat :=
  if extent - 1 ≤ q / 65536 then (extent - 1, 0) else (q / 65536, q % 65536)

/-- The weighted positions of a sample point: weight in units of 2^-32, row, column (R379). -/
def Sm.points (v : Sm) (y x : Term) : List (Nat × Nat × Nat) :=
  if offMap y v.fh || offMap x v.fw then []
  else
    let yq := coordQ y
    let xq := coordQ x
    if v.nearest then [(2 ^ 32, min ((yq + 0x8000) / 65536) (v.fh - 1), min ((xq + 0x8000) / 65536) (v.fw - 1))]
    else
      let (yl, fy) := coordSplit yq v.fh
      let (xl, fx) := coordSplit xq v.fw
      [((65536 - fy) * (65536 - fx), yl, xl), ((65536 - fy) * fx, yl, xl + 1), (fy * (65536 - fx), yl + 1, xl),
       (fy * fx, yl + 1, xl + 1)].filter fun t => t.1 != 0

/-- A feature element (R377, Table 11-3). -/
def Rd.feature (r : Rd) (d : TD) (v : Sm) (y x n : Nat) : Term × Bool :=
  let e := elemBits d.fa / 8
  if v.lay = 0 then r.elem (v.feat + (n / 32 * v.fh + y) * v.ld + x * 32 * e) d.fa (n % 32)
  else r.elem (v.feat + y * v.ld + x * d.n * e) d.fa n

/-- One output element of a box, with whether the box is not finite (R377 to R381). -/
def Rd.boxElem (r : Rd) (d : TD) (v : Sm) (k oy ox n : Nat) : Wr × Note :=
  let b := v.first + k
  let edge (o : Nat) : Term := decodeF fp32 (r.num (v.box + 16 * b + o) 4)
  let bp := r.pois (v.box + 16 * b) 16
  let va := v.out + (((k * v.oh + oy) * v.ow + ox) * d.n + n) * (elemBits d.cd / 8)
  let fin (x : Term) : Bool := match x with
    | .fin .. => true
    | _ => false
  if !(fin (edge 0) && fin (edge 4) && fin (edge 8) && fin (edge 12)) then
    (⟨va, elemBits d.cd / 8, ((fmtOf d.cd).bind (·.nan)).getD 0, bp⟩, { nan := true, pois := bp })
  else
    let y0 := v.edge (edge 0) v.fh
    let x0 := v.edge (edge 4) v.fw
    let y1 := v.edge (edge 8) v.fh
    let x1 := v.edge (edge 12) v.fw
    let ts := (span 0 v.sy).flatMap fun a => (span 0 v.sx).flatMap fun s =>
      (v.points (samplePoint y0 y1 v.oh oy v.sy a) (samplePoint x0 x1 v.ow ox v.sx s)).map fun t =>
        let f := r.feature d v t.2.1 t.2.2 n
        (mulT (.fin false t.1 (-32)) f.1, f.2)
    let w := outElem d 143 (b * v.oh * v.ow + oy * v.ow + ox) n (v.sy * v.sx) va ts
    ({ w.1 with pois := w.1.pois || bp }, { w.2 with pois := w.2.pois || bp })

/-- Whether a box of the list has a coordinate that is not finite (R380). -/
def Rd.boxBad (r : Rd) (v : Sm) (k : Nat) : Bool :=
  (span 0 4).any fun i => match decodeF fp32 (r.num (v.box + 16 * (v.first + k) + 4 * i) 4) with
    | .fin .. => false
    | _ => true

/-- A sampling operation. -/
def sampleRun (r : Rd) (p : Pass) : Res :=
  let d := p.1
  let v := parseSm p.2
  gather ((span 0 d.m).flatMap fun k => (span 0 v.oh).flatMap fun oy => (span 0 v.ow).flatMap fun ox =>
    (span 0 d.n).map fun n => r.boxElem d v k oy ox n)

/-! ### Attention -/

/-- An FP32 value with +0 for either zero (R392). -/
def plusZero (x : Term) : Term := if isZeroT x then .zero else x
/-- The FP32 bits of an FP32 value. -/
def f32bits (x : Term) : Nat := (roundF fp32 0 0 1 x).1
/-- An FP32 word of memory. -/
def Rd.f32at (r : Rd) (va : Nat) : Term × Bool := (decodeF fp32 (r.num va 4), r.pois va 4)

/-- A block rounded to FP32 with its drops, whether a term of it is NaN, and its overflow and underflow (R391). -/
def blk32 (ts : List Term) : Term × Note × Bool :=
  let (s, n) := blockSum 143 false ts
  let (v, f) := roundF fp32 0 0 1 s
  (decodeF fp32 v, { drops := n, ovf := f.ovf, unf := f.unf }, ts.contains .nan)

/-- Whether a key is masked for a row (R388). -/
def At.masked (v : At) (row n : Nat) : Bool :=
  let kp := 128 * v.kb0 + n
  let qp := v.qpos + row / v.qgroup
  v.keyLen ≤ kp || (v.causal && qp < kp) || (v.windowed && decide ((kp : Int) ≤ (qp : Int) - (v.window : Int)))

/-- A row of a matrix with its elements' poison joined. -/
def Rd.row (r : Rd) (va code n : Nat) : List Term × Bool :=
  let l := (span 0 n).map (r.elem va code)
  (l.map (·.1), l.any (·.2))

/-- A dot product with a factor as the terms of a block. -/
def dotTerms (f : Term) (x y : List Term) : List Term := List.zipWith (fun a b => mulT f (mulT a b)) x y

/-- A row of a forward state: m, l, o, whether a term of it was NaN, and its poison. -/
structure ARow where
  m : Term
  l : Term
  o : List Term
  pois : Bool

/-- A row of a state record. -/
def Rd.arow (r : Rd) (st m d row : Nat) : ARow :=
  let a := r.f32at (st + 64 + 8 * row)
  let b := r.f32at (st + 68 + 8 * row)
  let o := (span 0 d).map fun k => r.f32at (st + 64 + 8 * m + 4 * (row * d + k))
  ⟨a.1, b.1, o.map (·.1), a.2 || b.2 || o.any (·.2)⟩

/-- A row whose block had a NaN term (R392). -/
def ARow.fix (x : ARow) (nan : Bool) : ARow :=
  if nan then ⟨.nan, .nan, x.o.map fun _ => .nan, x.pois⟩ else ⟨plusZero x.m, plusZero x.l, x.o.map plusZero, x.pois⟩

/-- A key block folded into a row (the pseudocode of the forward computation): the keys `ns` of the block. -/
def Rd.fold (r : Rd) (d : TD) (v : At) (row : Nat) (q : List Term × Bool) (st : ARow × Note) (ns : List Nat) : ARow × Note :=
  let x := st.1
  let live := ns.filter fun n => !v.masked row n
  let sc := live.map fun n =>
    let k := r.row (d.b + n * d.ldb) d.fb d.k
    (n, blk32 (dotTerms (decodeF fp32 v.scale2) q.1 k.1), k.2)
  let mn := sc.foldl (fun a s => maxT a s.2.1.1) x.m
  let da := blk32 [x.m, negT mn]
  let same := mn = x.m && mn ≠ .nan
  let a := if same then Term.one else exp2T da.1
  let ps := sc.map fun s =>
    if s.2.1.1 = .inf true then (s.1, Term.zero, ({} : Note), false)
    else
      let e := blk32 [s.2.1.1, negT mn]
      (s.1, exp2T e.1, e.2.1, e.2.2)
  let pt := ps.map fun p => (p.1, match fmtOf v.pfmt with
    | some f => decodeF f (roundF f 0 0 1 p.2.1).1
    | none => p.2.1)
  let l := blk32 (mulT a x.l :: ps.map fun p => p.2.1)
  let vs := pt.map fun p => (p.2, r.row (d.c + p.1 * d.ldc) d.fb d.k)
  let o := x.o.zipIdx.map fun e => blk32 (mulT a e.1 :: vs.map fun w => mulT w.1 (nth Term.zero w.2.1 e.2))
  let nan := (sc.any fun s => s.2.1.2.2) || (!same && da.2.2) || (ps.any fun p => p.2.2.2) || l.2.2 || o.any fun e => e.2.2
  let pois := x.pois || q.2 || (sc.any fun s => s.2.2) || vs.any fun w => w.2.2
  let n := (st.2.addAll (sc.map fun s => s.2.1.2.1)).add (if same then {} else da.2.1)
  let n := ((n.addAll (ps.map fun p => p.2.2.1)).add l.2.1).addAll (o.map fun e => e.2.1)
  if live.isEmpty then (x, st.2)
  else ((ARow.mk mn l.1 (o.map (·.1)) pois).fix nan, { n with nan := n.nan || nan, pois := n.pois || pois })

/-- The 64 header bytes of a state record (Table 12-3). -/
def stateHead (st first next m d kind : Nat) : List Wr :=
  [⟨st, 4, first, false⟩, ⟨st + 4, 4, next, false⟩, ⟨st + 8, 2, m, false⟩, ⟨st + 10, 2, d, false⟩, ⟨st + 12, 1, kind, false⟩,
   ⟨st + 13, 51, 0, false⟩]
/-- A state record's rows: two words a row, then the accumulators. -/
def stateRows (st m d : Nat) (rows : List (Term × Term × List Term × Bool)) : List Wr :=
  (rows.zipIdx.flatMap fun e =>
    [⟨st + 64 + 8 * e.2, 4, f32bits e.1.1, e.1.2.2.2⟩, ⟨st + 68 + 8 * e.2, 4, f32bits e.1.2.1, e.1.2.2.2⟩]) ++
  rows.zipIdx.flatMap fun e => e.1.2.2.1.zipIdx.map fun o =>
    ⟨st + 64 + 8 * m + 4 * (e.2 * d + o.2), 4, f32bits o.1, e.1.2.2.2⟩

/-- The quotient o / l, formed exactly and rounded once (R393). -/
def quotient (d : TD) (i j : Nat) (o l : Term) : Nat × RFlags :=
  match fmtOf d.cd with
  | none => (0, {})
  | some f =>
    match l with
    | .nan => roundF f d.round 0 1 .nan
    | .inf b => match o with
      | .fin a _ _ => roundF f d.round 0 1 (.fin (a ^^ b) 0 0)
      | _ => roundF f d.round 0 1 .nan
    | .fin b n e =>
      if n = 0 then (0, {})
      else match o with
        | .fin a m k => roundF f d.round (srBits d.seed i j) n (.fin (a ^^ b) m (k - e))
        | .inf a => roundF f d.round 0 1 (.inf (a ^^ b))
        | .nan => roundF f d.round 0 1 .nan

/-- D and LSE of a finished row (R393). -/
def finishRow (d : TD) (v : At) (row : Nat) (x : ARow) : List Wr × Wr × Note :=
  let e := elemBits d.cd / 8
  let qs := x.o.zipIdx.map fun o => (o.2, quotient d row o.2 o.1 x.l)
  let lse := if isZeroT x.l then (Term.inf true, ({} : Note)) else let b := blk32 [x.m, log2T x.l]; (b.1, b.2.1)
  let n := qs.foldl (fun n q => n.flags q.2.2) lse.2
  (qs.map fun q => ⟨d.d + row * d.ldd + q.1 * e, e, q.2.1, x.pois⟩, ⟨v.stat + 4 * row, 4, f32bits lse.1, x.pois⟩,
    { n with nan := n.nan || lse.1 == .nan })

/-- The state record and, with FINISH, the outputs of forward rows. -/
def forwardOut (d : TD) (v : At) (first next : Nat) (rows : List (ARow × Note)) : Res :=
  let st := stateHead v.state first next d.m d.k 0 ++ stateRows v.state d.m d.k (rows.map fun x => (x.1.m, x.1.l, x.1.o, x.1.pois))
  let n := rows.foldl (fun n x => n.add { x.2 with pois := x.2.pois || x.1.pois }) {}
  if !v.finish then (st, n)
  else
    let fs := rows.zipIdx.map fun x => finishRow d v x.2 x.1.1
    (st ++ (fs.flatMap fun f => f.1) ++ fs.map (fun f => f.2.1), fs.foldl (fun n f => n.add f.2.2) n)

/-- The check of a state record (R394, R397): its status, ok where it stands. -/
def Rd.stateCheck (r : Rd) (st kind m d : Nat) (next : Option Nat) : Status :=
  if r.num (st + 12) 1 ≠ kind || r.num (st + 8) 2 ≠ m || r.num (st + 10) 2 ≠ d then St.attnState
  else match next with
    | none => St.ok
    | some k => if r.num (st + 4) 4 = k then St.ok else St.attnOrder

/-- The forward mode (R391 to R394). -/
def forwardRun (r : Rd) (d : TD) (v : At) : Status × Res :=
  let st := if v.start then St.ok else r.stateCheck v.state 0 d.m d.k (some v.kb0)
  if st ≠ St.ok then (st, ([], {}))
  else
    let init (row : Nat) : ARow :=
      if v.start then ⟨.inf true, .zero, (span 0 d.k).map fun _ => .zero, false⟩ else r.arow v.state d.m d.k row
    let blocks := (span 0 (blocksIn d.n)).map fun b => (span (128 * b) (min 128 (d.n - 128 * b)))
    let rows := (span 0 d.m).map fun row =>
      let q := r.row (d.a + row * d.lda) d.fa d.k
      blocks.foldl (fun x ns => r.fold d v row q x ns) (init row, {})
    let first := if v.start then v.kb0 else r.num v.state 4
    (St.ok, forwardOut d v first (v.kb0 + blocksIn d.n) rows)

/-- A row of a merge (R397). -/
def mergeRow (a b : ARow) : ARow × Note :=
  let m := maxT a.m b.m
  let alpha (x : Term) : Term × Note × Bool :=
    if x = m && m ≠ .nan then (Term.one, {}, false) else let e := blk32 [x, negT m]; (exp2T e.1, e.2.1, e.2.2)
  let fa := alpha a.m
  let fb := alpha b.m
  let l := blk32 [mulT fa.1 a.l, mulT fb.1 b.l]
  let o := List.zipWith (fun x y => blk32 [mulT fa.1 x, mulT fb.1 y]) a.o b.o
  let nan := fa.2.2 || fb.2.2 || l.2.2 || o.any fun e => e.2.2
  let n := o.foldl (fun n e => n.add e.2.1) ((fa.2.1.add fb.2.1).add l.2.1)
  ((ARow.mk m l.1 (o.map (·.1)) (a.pois || b.pois)).fix nan, { n with nan := nan })

/-- The merge mode (R397). -/
def mergeRun (r : Rd) (d : TD) (v : At) : Status × Res :=
  let sa := r.stateCheck v.state 0 d.m d.k none
  let sb := r.stateCheck v.aux 0 d.m d.k none
  if sa ≠ St.ok || sb ≠ St.ok then (St.attnState, ([], {}))
  else if r.num v.aux 4 ≠ r.num (v.state + 4) 4 then (St.attnOrder, ([], {}))
  else
    let rows := (span 0 d.m).map fun row => mergeRow (r.arow v.state d.m d.k row) (r.arow v.aux d.m d.k row)
    (St.ok, forwardOut d v (r.num v.state 4) (r.num (v.aux + 4) 4) rows)

/-- The delta mode (R400). -/
def deltaRun (r : Rd) (d : TD) (v : At) : Status × Res :=
  let rows := (span 0 d.m).map fun row =>
    let x := r.row (d.a + row * d.lda) d.fa d.k
    let y := r.row (d.b + row * d.ldb) d.fb d.k
    let b := blk32 (dotTerms Term.one x.1 y.1)
    let lse := r.f32at (v.stat + 4 * row)
    (lse, b, x.2 || y.2)
  let ws := stateHead v.state v.kb0 v.kb0 d.m d.k 3 ++
    (rows.zipIdx.flatMap fun e =>
      [⟨v.state + 64 + 8 * e.2, 4, f32bits (plusZero e.1.1.1), e.1.1.2⟩,
       ⟨v.state + 68 + 8 * e.2, 4, f32bits (plusZero e.1.2.1.1), e.1.2.2⟩]) ++
    (span 0 (d.m * d.k)).map fun i => ⟨v.state + 64 + 8 * d.m + 4 * i, 4, 0, false⟩
  (St.ok, ws, rows.foldl (fun n e => n.add { e.2.1.2.1 with nan := e.2.1.1 == .nan, pois := e.2.2 || e.1.2 }) {})

/-- What the backward mode holds for one row and key (the pseudocode of the backward pass). -/
structure BCell where
  n : Nat
  pt : Term
  dt : Term
  pois : Bool
  nan : Bool
  note : Note

/-- One row against the unmasked keys of a block. -/
def Rd.bcells (r : Rd) (d : TD) (v : At) (row : Nat) (q dO : List Term × Bool) (lse delta : Term × Bool) (ns : List Nat) : List BCell :=
  (ns.filter fun n => !v.masked row n).map fun n =>
    let k := r.row (d.b + n * d.ldb) d.fb d.k
    let w := r.row (d.c + n * d.ldc) d.fb d.k
    let s := blk32 (dotTerms (decodeF fp32 v.scale2) q.1 k.1)
    let e := blk32 [s.1, negT lse.1]
    let p := if s.1 = .inf true then (Term.zero, ({} : Note), false) else (exp2T e.1, e.2.1, e.2.2)
    let dp := blk32 (dotTerms Term.one dO.1 w.1)
    let dd := blk32 [dp.1, negT delta.1]
    let ds := blk32 [mulT p.1 dd.1]
    let rnd (x : Term) : Term := match fmtOf v.pfmt with
      | some f => decodeF f (roundF f 0 0 1 x).1
      | none => x
    ⟨n, rnd p.1, rnd ds.1, q.2 || dO.2 || lse.2 || delta.2 || k.2 || w.2, s.2.2 || p.2.2 || dp.2.2 || dd.2.2 || ds.2.2,
      ((s.2.1.add p.2.1).add dp.2.1).add (dd.2.1.add ds.2.1)⟩

/-- The backward mode (R401). -/
def backwardRun (r : Rd) (d : TD) (v : At) : Status × Res :=
  let st := r.stateCheck v.state 3 d.m d.k (some v.kb0)
  if st ≠ St.ok then (st, ([], {}))
  else
    let nat := decodeF fp32 v.scaleNat
    let blocks := (span 0 (blocksIn d.n)).map fun b => (span (128 * b) (min 128 (d.n - 128 * b)))
    let rows := (span 0 d.m).map fun row =>
      let q := r.row (d.a + row * d.lda) d.fa d.k
      let dO := r.row (v.aux + row * d.lda) d.fa d.k
      let lse := r.f32at (v.state + 64 + 8 * row)
      let delta := r.f32at (v.state + 68 + 8 * row)
      let dq := (span 0 d.k).map fun k => r.f32at (v.state + 64 + 8 * d.m + 4 * (row * d.k + k))
      let cells := blocks.map (r.bcells d v row q dO lse delta)
      let out := cells.foldl (fun (acc : List Term × Note × Bool) bc =>
        if bc.isEmpty then acc else
          let ks := bc.map fun x => (x.dt, (r.row (d.b + x.n * d.ldb) d.fb d.k).1)
          let es := acc.1.zipIdx.map fun e => blk32 (e.1 :: ks.map fun w => mulT nat (mulT w.1 (nth Term.zero w.2 e.2)))
          let nan := (bc.any fun x => x.nan) || es.any fun e => e.2.2
          let n := (acc.2.1.addAll (bc.map (·.note))).addAll (es.map fun e => e.2.1)
          (if nan then es.map fun _ => Term.nan else es.map fun e => plusZero e.1, { n with nan := n.nan || nan }, acc.2.2 || bc.any fun x => x.pois))
        (dq.map (·.1), {}, (dq.any (·.2)))
      (q, dO, cells.flatten, lse, delta, out)
    let dqW := rows.zipIdx.flatMap fun e =>
      let (_, _, _, lse, delta, out) := e.1
      [(⟨v.state + 64 + 8 * e.2, 4, f32bits lse.1, lse.2⟩ : Wr), ⟨v.state + 68 + 8 * e.2, 4, f32bits delta.1, delta.2⟩] ++
        out.1.zipIdx.map fun o => ⟨v.state + 64 + 8 * d.m + 4 * (e.2 * d.k + o.2), 4, f32bits o.1, out.2.2⟩
    let keyOut (base : Nat) (f : List Term × Bool → List Term × Bool → BCell → Nat → Term) : List (Wr × Note) :=
      (span 0 d.n).flatMap fun n => (span 0 d.k).map fun k =>
        let va := base + (n * d.k + k) * 4
        let prior := if v.accKv then r.f32at va else (Term.zero, false)
        let cs := rows.flatMap fun e => (e.2.2.1.filter fun x => x.n == n).map fun x => (f e.1 e.2.1 x k, x.pois)
        let b := blk32 (prior.1 :: cs.map (·.1))
        let p : Bool := prior.2 || cs.any fun e => e.2
        (⟨va, 4, f32bits b.1, p⟩, { b.2.1 with nan := b.1 == .nan, pois := p })
    let dk := keyOut v.aux2 fun q _ x k => mulT nat (mulT x.dt (nth Term.zero q.1 k))
    let dv := keyOut (v.aux2 + d.n * d.k * 4) fun _ dO x k => mulT x.pt (nth Term.zero dO.1 k)
    let fin := if !v.finish then [] else rows.zipIdx.flatMap fun e => e.1.2.2.2.2.2.1.zipIdx.map fun o =>
      let w := outElem d 143 e.2 o.2 1 (d.d + e.2 * d.ldd + o.2 * (elemBits d.cd / 8)) [(o.1, e.1.2.2.2.2.2.2.2)]
      w
    let n := ({} : Note).addAll (rows.map fun e => { e.2.2.2.2.2.2.1 with pois := e.2.2.2.2.2.2.2 })
    let rest := gather (dk ++ dv ++ fin)
    (St.ok, stateHead v.state (r.num v.state 4) (v.kb0 + blocksIn d.n) d.m d.k 3 ++ sortBy (·.va) dqW ++ rest.1, n.add rest.2)

/-- An attention operation: its status and what it writes. -/
def attnRun (r : Rd) (p : Pass) : Status × Res :=
  let v := parseAt p.2
  match v.mode with
  | 0 => forwardRun r p.1 v
  | 1 => mergeRun r p.1 v
  | 2 => deltaRun r p.1 v
  | _ => backwardRun r p.1 v

/-- One pass performed: its status, what it writes and its note. -/
def runPass (r : Rd) (p : Pass) : Status × Res :=
  if p.1.kind = 2 then attnRun r p
  else if p.1.kind = 1 then (St.ok, if modeOf p.2 = 0x10 then sampleRun r p else passRun r p)
  else (St.ok, matRun r p)

/-- The passes of an operation in chain order (R372): each reads what the ones before it wrote. -/
def runPasses (g : Nat) (segs : List Seg) : List Pass → Chip → Status × Note × Chip
  | [], c => (St.ok, {}, c)
  | p :: l, c =>
    let (st, ws, n) := runPass ⟨c, g, segs⟩ p
    let c := writeRes g segs ws c
    let (st', n', c) := runPasses g segs l c
    (if st = St.ok then st' else st, n.add n', c)

end Sys2Proof.Machine
end

