-- ==== Sys2Proof/Machine/Mover.lean ====
section
/-! DEFINITION. Movers (R186 to R188, R296 to R302) and the work of tensor tags: which operations run (R184, R243), their
completion (R185, R247, R372, R382, R395), the residue check and retirement (R241 to R244, R384). -/
namespace Sys2Proof.Machine

/-! ### Mover descriptors -/

/-- A descriptor from its 64 bytes (Table 08-7). -/
def parseMD (b : Bytes) : MDesc :=
  ⟨dfield b 0 8, dfield b 8 8, dfield b 16 4, dfield b 20 4, dfield b 24 8, dfield b 32 8, dfield b 40 1⟩
/-- Whether a descriptor obeys Table 08-7 (R296). -/
def mdOk (b : Bytes) : Bool :=
  let d := parseMD b
  d.kind ≤ 1 && dfield b 41 23 == 0 && d.rowBytes != 0 && d.rows != 0 && d.rows ≤ 16777216 &&
  (d.rows == 1 || (d.rowBytes ≤ d.dstStride && (d.kind == 1 || d.srcStride == 0 || d.rowBytes ≤ d.srcStride)))
/-- The bytes of a chain (R186). -/
def chainBytes (ds : List MDesc) : Nat := ds.foldl (fun a d => a + d.rowBytes * d.rows) 0
/-- Byte strings of 64 in a row. -/
def cut64 : Nat → Bytes → List Bytes
  | 0, _ => []
  | n + 1, bs => bs.take 64 :: cut64 n (bs.drop 64)

/-! ### Chunks -/

/-- The first destination address and the bytes of the present chunk (R297). -/
def chunkAt (d : MDesc) (row col : Nat) : Nat × Nat :=
  let va := (d.dst + row * d.dstStride + col) % 2 ^ 64
  (va, min (d.rowBytes - col) (4096 - va % 4096))

/-- The status that a translation's trap leaves in a chain's tag (R299). -/
def chainStatus (tr : Trap) : Status := tr.xst.getD St.pageFaultMove

/-- Whether a remote address may be sent to (R134). -/
def remoteOk (pa n : Nat) : Bool :=
  (blocksOf (pa % 2 ^ 44) n).all fun b => tierOf b != .aliasWin && tierOf b != .reg
/-- The status of a remote access refused at the sender, if it is (R134, Table 04-6). -/
def senderCheck (pa n : Nat) : Option Status :=
  if remoteOk pa n then
    (if (blocksOf (pa % 2 ^ 44) n).any fun b => tierOf b == .reserved then some St.addrReserved else none)
  else some St.addrAliasRemote

/-- The chain under a tag, with its tag, while it is ISSUED. -/
def chainOf (c : Chip) (name : Nat) : Option (Tag × MoverOp) :=
  let tg := tagOf c name
  match tg.state, tg.op with
  | .issued, .mover o => some (tg, o)
  | _, _ => none
/-- The module with a chain replaced. -/
def setChain (name : Nat) (o : MoverOp) (c : Chip) : Chip := setTag name { tagOf c name with op := .mover o } c

/-- The place after a chunk, or none at the chain's end (R187, R297). -/
def nextPlace (o : MoverOp) (d : MDesc) (n : Nat) : Option MoverOp :=
  let o := { o with chunks := o.chunks + 1, got := [], gotPois := [], waitReq := none }
  if o.col + n < d.rowBytes then some { o with col := o.col + n }
  else if o.row + 1 < d.rows then some { o with row := o.row + 1, col := 0 }
  else match o.descs with
    | _ :: e :: r => some { o with descs := e :: r, row := 0, col := 0 }
    | _ => none

/-- A chunk is performed (R187, R188, R298, R299). -/
def chunkDone (name : Nat) (c : Chip) : Chip :=
  match chainOf c name with
  | none => c
  | some (tg, o) => match o.descs with
    | [] => c
    | d :: _ =>
      let (_, n) := chunkAt d o.row o.col
      let p := o.poison || o.gotPois.any (· = true)
      let c := bump 0x2200 14 0 n c
      if o.bad then endChain name tg.serial St.memUncorrectable (setChain name { o with chunks := o.chunks + 1 } c)
      else match nextPlace { o with poison := p } d n with
        | some o' => setChain name o' c
        | none => endChain name tg.serial (if p then St.memPoisonMoved else St.ok) (setChain name { o with chunks := o.chunks + 1 } c)

/-- A word map of bytes' poison (R298, R501): bit w for bytes 8w to 8w + 7. -/
def wordMap : Nat → List Bool → List Bool
  | 0, _ => []
  | n + 1, l => (l.take 8).any (· = true) :: wordMap n (l.drop 8)

/-- Bytes written with poison on the words that poisoned bytes fall in (R298). -/
def writePoison (a : Nat) (bs : Bytes) (ps : List Bool) (c : Chip) : Chip :=
  let c := memWrite a bs false c
  ps.zipIdx.foldl (fun c e => if e.1 then { c with mem := { c.mem with poison := tput c.mem.poison ((a + e.2) / 8) true } } else c) c

/-- A gathered chunk is written: at once to local memory, as one WRITE to another module (R515). -/
def chunkWrite2 (name : Nat) (dpa : Nat) (ecc : Ecc) (c : Chip) : Chip :=
  match chainOf c name with
  | none => c
  | some (tg, o) =>
    if dpa / 2 ^ 44 = c.moduleId then
      let a := unalias (name / 256) (dpa % 2 ^ 44)
      chunkDone name (writePoison a o.got o.gotPois (eccStore a o.got.length ecc c))
    else
      let p := (threadPart c tg.owner).getD 0
      match sendTo p 1 (dpa / 2 ^ 44) o.got.length dpa (.mover name tg.serial true) o.got (wordMap ((o.got.length + 7) / 8) o.gotPois) c with
      | (some r, c) => (match chainOf c name with
        | some (_, o) => setChain name { o with waitReq := some r } c
        | none => c)
      | (none, c) => c

/-- The next piece of a chunk's source: its address and bytes, within one page. -/
def srcPiece (d : MDesc) (o : MoverOp) (n : Nat) : Nat × Nat :=
  let va := (d.src + o.row * (if d.srcStride = 0 || d.rows = 1 then 0 else d.srcStride) + o.col + o.got.length) % 2 ^ 64
  (va, min (n - o.got.length) (4096 - va % 4096))

/-- A chain goes on with its present chunk: it gathers the source piece by piece and writes the destination; a fault stops
it, and a remote piece makes it wait (R188, R297 to R302). -/
def chunkGo (name : Nat) (ecc : Ecc) : Nat → Chip → Chip
  | 0, c => c
  | fuel + 1, c =>
    match chainOf c name with
    | none => c
    | some (tg, o) => match o.descs with
      | [] => c
      | d :: _ =>
        let t := tg.owner
        let g := name / 256
        let (dva, n) := chunkAt d o.row o.col
        let m := (hart c t).priv == 3
        match xlate t .store dva c with
        | (c, .error tr) => endChain name tg.serial (chainStatus tr) c
        | (c, .ok dpa) =>
          let dloc := dpa / 2 ^ 44 = c.moduleId
          let dst := if dloc then checkLocal c (threadPart c t) (some g) m (dpa % 2 ^ 44) n else senderCheck dpa n
          match dst with
          | some st => endChain name tg.serial st (countViolation st c)
          | none =>
            if d.kind = 1 then
              let bs := (span dva n).map fun v => BitVec.ofNat 8 (d.src / 2 ^ (8 * (v % 8)))
              chunkWrite2 name dpa ecc (setChain name { o with got := bs, gotPois := List.replicate n false } c)
            else if n ≤ o.got.length then chunkWrite2 name dpa ecc c
            else
              let (sva, k) := srcPiece d o n
              match xlate t .load sva c with
              | (c, .error tr) => endChain name tg.serial (chainStatus tr) c
              | (c, .ok spa) =>
                if spa / 2 ^ 44 = c.moduleId then
                  match checkLocal c (threadPart c t) (some g) m (spa % 2 ^ 44) k with
                  | some st => endChain name tg.serial st (countViolation st c)
                  | none =>
                    let a := unalias g (spa % 2 ^ 44)
                    let bad := eccBad a k ecc
                    let c := applyEcc a k ecc c
                    chunkGo name ecc fuel (setChain name { o with
                      got := o.got ++ memRead c a k, gotPois := o.gotPois ++ (span a k).map (wordPoison c), bad := o.bad || bad } c)
                else match senderCheck spa k with
                  | some st => endChain name tg.serial st c
                  | none =>
                    let p := (threadPart c t).getD 0
                    match sendTo p 2 (spa / 2 ^ 44) k spa (.mover name tg.serial false) [] [] c with
                    | (some r, c) => (match chainOf c name with
                      | some (_, o) => setChain name { o with waitReq := some r } c
                      | none => c)
                    | (none, c) => c

/-- A chain's next chunk goes as far as it can; a paused chain and one that waits for an answer do nothing (R58, R297). -/
def moverChunk (name : Nat) (ecc : Ecc) (c : Chip) : Chip :=
  match chainOf c name with
  | none => c
  | some (_, o) => if o.paused || o.waitReq.isSome then c else chunkGo name ecc 4 c

/-- A chain's READ is answered (R515): the piece joins the chunk. -/
def moverData (name serial r : Nat) (bs : Bytes) (pm : List Bool) (c : Chip) : Chip :=
  match chainOf c name with
  | none => c
  | some (tg, o) =>
    if tg.serial ≠ serial || o.waitReq ≠ some r then c
    else
      let ps := (span 0 bs.length).map fun i => nth false pm (i / 8)
      chunkGo name [] 4 (setChain name { o with got := o.got ++ bs, gotPois := o.gotPois ++ ps, waitReq := none } c)

/-- A chain's WRITE is acknowledged (R187, R515). -/
def moverAcked (name serial r : Nat) (c : Chip) : Chip :=
  match chainOf c name with
  | none => c
  | some (tg, o) => if tg.serial ≠ serial || o.waitReq ≠ some r then c else chunkDone name c

/-! ### Tensor tags -/

/-- The tensor operation under a tag, while it is ISSUED. -/
def tensorOf (c : Chip) (name : Nat) : Option (Tag × TensorOp) :=
  let tg := tagOf c name
  match tg.state, tg.op with
  | .issued, .tensor o => some (tg, o)
  | _, _ => none

/-- Whether an operation uses no array (R376). -/
def isSampler (o : TensorOp) : Bool := (opPasses o).any isSampling

/-- Whether every array that an operation needs is free of the operations issued before it (R184, R243): whether it runs. -/
def tensorRuns (c : Chip) (name : Nat) : Bool :=
  let g := grove c (name / 256)
  let before := g.order.takeWhile (· != name % 256)
  match tensorOf c name with
  | none => false
  | some (_, o) =>
    let mine := liveArrays g.retiredArrays o.mask
    before.all fun k => match tensorOf c (name / 256 * 256 + k) with
      | none => true
      | some (_, q) => isSampler q || (liveArrays g.retiredArrays q.mask).all fun a => !mine.contains a

/-- The arrays with an operation running (GV_ARRAY_BUSY). -/
def arraysBusy (c : Chip) (g : Nat) : Nat :=
  let gr := grove c g
  (span 0 8).foldl (fun acc a =>
    if gr.order.any fun k => match tensorOf c (g * 256 + k) with
      | some (_, o) => !isSampler o && (liveArrays gr.retiredArrays o.mask).contains a && tensorRuns c (g * 256 + k)
      | none => false
    then acc + 2 ^ a else acc) 0

/-- The stand whose sampler serves a stand (R384). -/
def servedBy (c : Chip) (s : Nat) : Nat :=
  let out := obj c 0x2500 11
  if !bitOf out s then s
  else match (span (s / 4 * 4) 4 ++ span ((1 - s / 4) * 4) 4).find? fun k => !bitOf out k with
    | some k => k
    | none => s

/-- The sampling operations that a sampler has taken, with the serial of each tag (R383). -/
def samplerOps (c : Chip) (k : Nat) : List (Nat × Nat) :=
  c.groves.flatMap fun g =>
    if servedBy c (g.1 / 32) = k then
      g.2.tags.filterMap fun e => match e.2.state, e.2.op with
        | .issued, .tensor o => if isSampler o then some (g.1 * 256 + e.1, e.2.serial) else none
        | _, _ => none
    else []
/-- Whether a sampling operation is the one in service: the first to arrive (R383). -/
def samplerServes (c : Chip) (name : Nat) : Bool :=
  let l := samplerOps c (servedBy c (name / 256 / 32))
  match tensorOf c name with
  | none => false
  | some (tg, o) => isSampler o && l.all fun e => tg.serial ≤ e.2

/-- The flags and counters of a grove as a tensor tag becomes DONE (R247, Table 06-9). -/
def arithDone (g serial : Nat) (n : Note) (c : Chip) : Chip :=
  let gr := grove c g
  let residue := gr.repeated.any fun e => e.1 == serial
  let up (b : Bool) (i : Nat) (v : Nat) : Nat := if b then bitPut v i true else v
  let st := up residue 6 (up n.pois 5 (up n.unf 4 (up n.ovf 3 (up n.nan 2 (up (n.drops != 0) 1 gr.arith)))))
  let c := setGrove g { gr with
    arith := st, lossCount := satAdd 32 gr.lossCount n.drops, tensorOps := satAdd 32 gr.tensorOps 1
    repeated := gr.repeated.filter fun e => e.1 != serial } c
  let c := bump 0x2100 5 0 n.drops c
  if n.drops = 0 then c else bump 0x2100 6 0 1 c

/-- The counters of a completed pass (Tables 07-5, 11-6, 12-…). -/
def countPass (p : Pass) (c : Chip) : Chip :=
  if p.1.kind = 3 then bump 0x2100 (if isCombine p then 15 else 14) 0 1 c
  else if p.1.kind = 2 then bump 0x2600 10 0 1 c
  else if p.1.kind = 1 && modeOf p.2 ≤ 4 then bump 0x2500 (if modeOf p.2 ≤ 1 then 5 else 6) 0 1 c
  else c

/-- The completion of a running tensor operation: D is written and the tag completes (R185, R372, R395).
Error correction acts on the operands as they are read. -/
def tensorDone (name : Nat) (ecc : Ecc) (c : Chip) : Chip :=
  match tensorOf c name with
  | none => c
  | some (tg, o) =>
    if isSampler o || !tensorRuns c name then c
    else
      let g := name / 256
      let ps := opPasses o
      let c := o.segs.foldl (fun c s => applyEcc (unalias g (s.pa % 2 ^ 44)) s.len ecc c) c
      let (st, n, c) := runPasses g o.segs ps c
      let c := ps.foldl (fun c p => countPass p c) c
      let c := if 2 ≤ ps.length then bump 0x2500 7 0 1 c else c
      let c := if st = St.ok then c else bump 0x2600 11 0 1 c
      arithDone g tg.serial n (finishTag name (if st ≠ St.ok then st else if n.pois then St.poisonConsumed else St.ok) n.drops c)

/-- A grove without an array leaves service (R5, R17, R244): its operations are aborted and its threads stop issuing. -/
def retireGrove (g : Nat) (c : Chip) : Chip :=
  let gr := grove c g
  let c := setGrove g { gr with retired := true } c
  let c := (gr.tags.filter fun e => e.2.state == .issued).foldl (fun c e => abortTag (g * 256 + e.1) c) c
  { c with harts := c.harts.map fun e =>
    if groveOf e.1 = g && e.2.state != .empty then (e.1, { e.2 with state := .halted, resume := e.2.state }) else e }

/-- An array leaves service (R242, R244). -/
def retireArray (g a col : Nat) (c : Chip) : Chip :=
  let gr := grove c g
  if bitOf gr.retiredArrays a then c
  else
    let now := bitPut gr.retiredArrays a true
    let c := setGrove g { gr with retiredArrays := now } c
    let c := setObj 0x2100 8 0 (obj c 0x2100 8 + 1) c
    let c := emit (Src.grove g) St.arithArrayRetired none [a, col] c
    if now = 0xFF then retireGrove g (emit (Src.grove g) St.arithGroveNoArrays none [] c) else c

/-- The residue check of a tile of a running operation on an array (R241, R242). -/
def tileEnd (name tile a : Nat) (fail : Option Nat) (c : Chip) : Chip :=
  match tensorOf c name, fail with
  | some (tg, o), some col =>
    let g := name / 256
    let gr := grove c g
    if isSampler o || !tensorRuns c name || bitOf gr.retiredArrays a then c
    else
      let c := bump 0x2100 7 0 1 (setGrove g { gr with residueCount := satAdd 32 gr.residueCount 1 } c)
      if gr.repeated.contains (tg.serial, tile) then retireArray g a col c
      else
        emit (Src.grove g) St.arithResidueRetry none [a, col]
          (modGrove g (fun gr => { gr with repeated := gr.repeated ++ [(tg.serial, tile)] }) c)
  | _, _ => c

/-- A sampling operation completes (R380 to R384): `retried` and `retiredToo` say what its residue checks found. The time it
was in service is a free value. -/
def samplingDone (name : Nat) (retried retiredToo : Bool) (c : Chip) : Chip :=
  match tensorOf c name with
  | none => c
  | some (tg, o) =>
    if !samplerServes c name then c
    else
      let g := name / 256
      let s := servedBy c (g / 32)
      let r : Rd := ⟨c, g, o.segs⟩
      let ps := opPasses o
      let boxes := ps.foldl (fun a p => a + p.1.m) 0
      let bad := ps.foldl (fun a p => a + (span 0 p.1.m).countP (r.boxBad (parseSm p.2))) 0
      let (_, n, c) := runPasses g o.segs ps c
      let c := bump 0x2500 10 0 bad (bump 0x2500 9 0 boxes (bump 0x2500 8 0 1 (bump 0x5540 4 s 1 c)))
      let (busy, c) := drawFree c
      let c := bump 0x5540 5 s busy.toNat c
      let c := if retried || retiredToo then emit (Src.stand s) St.visSamplerRetry none [] c else c
      let c := if retiredToo then
          emit (Src.stand s) St.visSamplerRetired none [] (setObj 0x2500 11 0 (bitPut (obj c 0x2500 11) s true) c) else c
      let st := if n.pois then St.poisonConsumed else if bad ≠ 0 then St.visBoxNonfinite else St.ok
      arithDone g tg.serial n (finishTag name st n.drops c)

end Sys2Proof.Machine
end

