-- ==== Sys2Proof/Machine/Settle.lean ====
section
/-! DEFINITION. What follows in the same instant from a command's own effect: a class-7 condition that it met (R562), the
divergence that a consumed poison causes (Table 16-7), fences, queue commits and posted sets that may now go on (R147, R148, R150), waiting
messages, releases of R56, waiting inserts, granted pictures and finished sample records. -/
namespace Sys2Proof.Machine

/-- A command met poison or an uncorrectable error: the pair diverges, and a class-7 condition ends it (R552, R562). -/
def settleMem (c : Chip) : Chip := settleFatal (pairPoison c)

/-- The packet of a thread on a queue was rewound by a reset, which its next push, commit or abort says once (R330). -/
def wasRewound (c : Chip) (t q : Nat) : Bool := (hart c t).rewound.contains q
/-- The thread has been told. -/
def toldRewound (t q : Nat) (c : Chip) : Chip := modHart t (fun h => { h with rewound := h.rewound.filter (· != q) }) c

/-- QCOMMIT (R197, R311, R313, R330). -/
def commitStatus (t q : Nat) (c : Chip) : Status × Chip :=
  if wasRewound c t q then (St.qReset, toldRewound t q c)
  else match openOf c (.thread t) q with
    | none => (St.qNoOpen, c)
    | some o =>
      if o.written = o.len then (St.ok, weltCommit q (commitPkt o (hart c t).hard c))
      else (St.qPktShort, rewind o c)

/-- A status in rd. -/
def retireStatus (t rd : Nat) (r : Status × Chip) : Chip := retire t rd (r.1.zeroExtend 64) r.2

/-- Whether a commit of the thread would make a packet visible. -/
def commitsNow (c : Chip) (t q : Nat) : Bool :=
  !wasRewound c t q && (match openOf c (.thread t) q with
    | some o => o.written == o.len
    | none => false)

/-- Commits whose thread's earlier remote writes are all acknowledged are performed (R148). -/
def endCommits (c : Chip) : Chip :=
  c.harts.foldl (fun c e => match e.2.wait with
    | .commit rd q => if (openWrites c e.1).isEmpty then modHart e.1 unstall (retireStatus e.1 rd (commitStatus e.1 q c)) else c
    | _ => c) c

/-- Everything that may follow at once from a completion, an answer, a wake or a boundary. -/
def settle (c : Chip) : Chip :=
  settleMem (flushSamples (encGranted (flushAll (flushSets (endFences (weltPoppable (noteHard (pfxContinueAll (endCommits c)))))))))

end Sys2Proof.Machine
end

