-- ==== Sys2Proof/Machine/Ext.lean ====
section
/-! DEFINITION. The grove extension (05): its instructions with their checks in the order of R172, and the events that end
its operations. -/
namespace Sys2Proof.Machine

/-! ### Traps and encodings -/

/-- A trap of a memory access, with the count of refused accesses (0x2000/5). -/
def memTrap (t : Nat) (tr : Trap) (c : Chip) : Chip :=
  takeTrap t tr (match tr.xst with
    | some st => countViolation st c
    | none => c)

/-- A trap found while operands are translated and checked: a refusal of the extension carries the instruction (R175). -/
def operandTrap (t insn : Nat) (tr : Trap) (c : Chip) : Chip :=
  match tr.cause, tr.xst with
  | 24, some st => extFault t insn st c
  | _, _ => memTrap t tr c

/-- The pairs of opcode, funct3 and funct7 of Table 05-1, with whether rs1, rs2 and rd must be x0. -/
def extRows : List (Nat × Nat × Nat × Bool × Bool × Bool) :=
  [(0x0B, 0, 0, false, false, false), (0x0B, 1, 0, false, false, false), (0x0B, 2, 0, false, true, false),
   (0x2B, 0, 0, false, false, false), (0x2B, 1, 0, false, true, false), (0x2B, 2, 0, false, true, false),
   (0x2B, 3, 0, false, true, false), (0x2B, 4, 0, false, true, false), (0x2B, 5, 0, false, true, true),
   (0x2B, 5, 1, false, true, false), (0x2B, 5, 2, false, true, false), (0x2B, 5, 3, false, true, false),
   (0x2B, 5, 4, false, true, false), (0x5B, 0, 0, false, true, false), (0x5B, 0, 1, false, true, false),
   (0x5B, 0, 2, false, true, false), (0x5B, 0, 3, false, true, false), (0x5B, 1, 0, false, true, false),
   (0x5B, 2, 0, true, true, false), (0x5B, 3, 0, true, true, false), (0x5B, 3, 1, true, true, false),
   (0x5B, 3, 2, true, true, false), (0x5B, 4, 0, false, true, false)]

/-- Whether an instruction of the three opcode spaces is defined (R168, R169). LREL's rd is not named by R169. -/
def extDefined (i : Nat) : Bool :=
  extRows.any fun (opc, f3, f7, z1, z2, zd) =>
    bitsOf i 6 0 == opc && bitsOf i 14 12 == f3 && bitsOf i 31 25 == f7 &&
    (!z1 || bitsOf i 19 15 == 0) && (!z2 || bitsOf i 24 20 == 0) && (!zd || bitsOf i 11 7 == 0)

/-- Whether an instruction lies in the three custom opcode spaces (R167). -/
def extSpace (i : Nat) : Bool := bitsOf i 6 0 == 0x0B || bitsOf i 6 0 == 0x2B || bitsOf i 6 0 == 0x5B

/-! ### Tag-taking instructions -/

/-- An instruction that takes a tag where R152 lets it: the tag's name in rd, or TAG_NONE (R173). -/
def takeTag (t rd cost : Nat) (op : TagOp) (after : Nat → Chip → Chip) (c : Chip) : Chip :=
  match takeable c t with
  | none => retire t rd noTagWord (bump 0x2000 7 0 1 c)
  | some k =>
    let (name, c) := issueTag t k cost op c
    after name (retire t rd (BitVec.ofNat 64 name) c)

/-- The first descriptor of a chain as read, with its parameter blocks beside. -/
def chainDesc : List (Bytes × Bytes) → Bytes
  | [] => []
  | (d, _) :: _ => d
/-- The rest of a chain: the first pass's block, then each pass's descriptor and block; none for an operation without one. -/
def chainExt : List (Bytes × Bytes) → List Bytes
  | [] => []
  | (_, b) :: r => if b.isEmpty then [] else b :: r.flatMap fun e => [e.1, e.2]

/-- TENSOR's checks in their order and its issue (R172, R179 to R184, R191). -/
def tensorIssue (t rd rs1 rs2 insn : Nat) (c : Chip) : Chip :=
  let h := hart c t
  let mask := (readX h rs2).toNat
  let g := groveOf t
  if mask = 0 || 256 ≤ mask then extFault t insn St.extOperand c
  else match readPasses t 9 (readX h rs1).toNat c with
    | (c, none) => extFault t insn St.extDescPlace c
    | (c, some (l, pois)) =>
      let ps : List Pass := l.map fun e => (parseTD e.1, e.2)
      if pois then extFault t insn St.poisonConsumed c
      else if !(ps.all fun p => fieldsOk p mask) || !chainOk ps then extFault t insn St.extDescField c
      else match checkOperands t ps c with
        | (c, .error tr) => operandTrap t insn tr c
        | (c, .ok segs) =>
          let cost := opCost c g mask ps
          if h.held - h.inUse < cost then extFault t insn St.extNoLicence (bump 0x2000 9 0 1 c)
          else
            takeTag t rd cost (.tensor ⟨chainDesc l, chainExt l, mask, segs⟩) (fun name c =>
              modGrove g (fun gr => { gr with order := gr.order ++ [name % 256] }) c) c

/-- The first source and destination addresses of a chain are translated and checked at issue (step 4 of R172; R296). -/
def moveFirst (t : Nat) (d : MDesc) (c : Chip) : Chip × Option Trap :=
  let m := (hart c t).priv == 3
  let one (k : Acc) (va : Nat) (c : Chip) : Chip × Option Trap :=
    match xlate t k va c with
    | (c, .error tr) => (c, some tr)
    | (c, .ok pa) =>
      if pa / 2 ^ 44 ≠ c.moduleId then (c, none)
      else match checkMap c (threadPart c t) (some (groveOf t)) m (pa % 2 ^ 44) 1 with
        | some st => (c, some ⟨accessCause k, va, some st, false⟩)
        | none => (c, none)
  if d.kind = 1 then one .store d.dst c
  else match one .load d.src c with
    | (c, some tr) => (c, some tr)
    | (c, none) => one .store d.dst c

/-- MOVE's checks in their order and its issue (R172, R186, R191, R296). -/
def moveIssue (t rd rs1 rs2 insn : Nat) (c : Chip) : Chip :=
  let h := hart c t
  let n := (readX h rs2).toNat
  let va := (readX h rs1).toNat
  if n = 0 || 16 < n then extFault t insn St.extOperand c
  else match ownBlock t va 64 (64 * n) c with
    | (c, none) => extFault t insn St.extDescPlace c
    | (c, some (bs, pois)) =>
      let raw := cut64 n bs
      let ds := raw.map parseMD
      if pois then extFault t insn St.poisonConsumed c
      else if !(raw.all mdOk) then extFault t insn St.moveDescField c
      else match ds with
        | [] => c
        | d :: _ => match moveFirst t d c with
          | (c, some tr) => operandTrap t insn tr c
          | (c, none) =>
            let cost := if 1048576 < chainBytes ds then 3 else 0
            if h.held - h.inUse < cost then extFault t insn St.extNoLicence (bump 0x2000 9 0 1 c)
            else takeTag t rd cost (.mover { descs := ds }) (fun _ c => c) c

/-- LREQ's checks and its request (R189, R593). -/
def lreqIssue (t rd rs1 insn : Nat) (c : Chip) : Chip :=
  let h := hart c t
  let v := (readX h rs1).toNat
  let w := v % 2048
  let res := bitOf v 15
  if w = 0 || 65536 ≤ v || bitOf v 14 || bitOf v 11 then extFault t insn St.extOperand c
  else if 2047 < h.held + w then extFault t insn St.extLicLimit c
  else if res && !h.hard then extFault t insn St.extClass c
  else takeTag t rd 0 (.licence ⟨w, res, bitsOf v 13 12⟩) (fun name c =>
    askLicence { src := Src.grove (groveOf t), tag := some (name, (tagOf c name).serial), part := threadPart c t, watts := w
                 prio := bitsOf v 13 12, arrival := now c, res := res } c) c

/-! ### Tag instructions -/

/-- The checks of a tag instruction in their order (R177). -/
def tagCheck (c : Chip) (t : Nat) (v : Nat) : Option Status :=
  if 65536 ≤ v then some St.extOperand
  else if (tagOf c v).state = .free then some St.tagNotIssued
  else if v / 256 ≠ groveOf t || (tagOf c v).owner ≠ t then some St.tagNotOwner
  else none

/-- TWAIT and TWAITR (R178). -/
def tagWait (t rd rs1 insn : Nat) (reap : Bool) (c : Chip) : Chip :=
  let v := (readX (hart c t) rs1).toNat
  match tagCheck c t v with
  | some st => extFault t insn st c
  | none =>
    let tg := tagOf c v
    if tg.state = .done then
      let c := retire t rd (completionWord tg) c
      if reap then setTag v {} c else c
    else modHart t (fun h => { h with state := .stalled, wait := .tag v rd reap }) c

/-- TTEST (R174, R178). -/
def tagTest (t rd rs1 insn : Nat) (c : Chip) : Chip :=
  let v := (readX (hart c t) rs1).toNat
  match tagCheck c t v with
  | some st => extFault t insn st c
  | none =>
    let tg := tagOf c v
    retire t rd (if tg.state = .done then completionWord tg else issuedWord) c

/-- TREAP (R178). -/
def tagReap (t rd rs1 insn : Nat) (c : Chip) : Chip :=
  let v := (readX (hart c t) rs1).toNat
  match tagCheck c t v with
  | some st => extFault t insn st c
  | none =>
    let tg := tagOf c v
    if tg.state = .done then setTag v {} (retire t rd (completionWord tg) c) else extFault t insn St.extTagBusy c

/-- LREL (R192): watts held outside the reservation first. -/
def licRelease (t rs1 insn : Nat) (c : Chip) : Chip :=
  let h := hart c t
  let v := (readX h rs1).toNat
  if 2048 ≤ v then extFault t insn St.extOperand c
  else if h.held - h.inUse < v then extFault t insn St.extLicRelease c
  else
    let fromRes := v - min v (h.held - h.resHeld)
    returnRes (threadPart c t) fromRes
      (modHart t (fun h => { advance 4 h with held := h.held - v, resHeld := h.resHeld - fromRes }) c)

/-! ### Queue instructions -/

/-- The checks of a queue operand (R172 steps 1 and 5): the queue, or the status. -/
def queueCheck (c : Chip) (t : Nat) (v : Nat) : Option Status :=
  if 2 ^ 20 ≤ v then some St.extOperand
  else if (queueOwner c v).isSome && queueOwner c v == threadPart c t then none
  else some St.addrPartViolation

/-- A queue instruction that passes its checks. -/
def queueInsn (t rs1 insn : Nat) (f : Nat → Chip → Chip) (c : Chip) : Chip :=
  let v := (readX (hart c t) rs1).toNat
  match queueCheck c t v with
  | some st => extFault t insn st c
  | none => f v c

/-- QPUSH (R197, R308 to R310, R313, R330): the status and the module. -/
def pushStatus (t q : Nat) (v : Word) (c : Chip) : Status × Chip :=
  if wasRewound c t q then (St.qReset, toldRewound t q c)
  else match openOf c (.thread t) q with
    | none =>
      let st := headerCheck c (.thread t) q (v.toNat % 65536)
      if st = St.ok then (st, openPkt (.thread t) q v false c) else (st, countRefusal q st c)
    | some o =>
      if o.written < o.len then (St.ok, pushWord o v false c)
      else (St.qPktOverrun, rewind o c)

/-- QABORT (R197, R311, R330). -/
def abortStatus (t q : Nat) (c : Chip) : Status × Chip :=
  if wasRewound c t q then (St.qReset, toldRewound t q c)
  else match openOf c (.thread t) q with
    | none => (St.qNoOpen, c)
    | some o => (St.ok, rewind o c)

/-- QCOMMIT; a whole packet waits until the thread's earlier remote stores and atomics are acknowledged (R148). -/
def commitInsn (t rd q : Nat) (c : Chip) : Chip :=
  if commitsNow c t q && !(openWrites c t).isEmpty then modHart t (fun h => { h with state := .stalled, wait := .commit rd q }) c
  else weltPoppable (retireStatus t rd (commitStatus t q c))

/-- QPOP (R198, R316). -/
def popInsn (t rd q : Nat) (parityBad : Bool) (ecc : Ecc) (c : Chip) : Chip :=
  match popWord t q parityBad ecc c with
  | (v, tag, c) => retire t rd v (modHart t (fun h => { h with qtag := tag }) c)

/-! ### Blaze instructions -/

/-- The reserved bits of a blaze operand (Table 05-5). -/
def blazeReserved (v : Nat) : Bool := bitsOf v 63 32 != 0 || bitsOf v 30 28 != 0 || bitsOf v 15 9 != 0
/-- The other module that a blaze operand names (R201). -/
def blazeRemote (c : Chip) (v : Nat) : Option Nat :=
  if bitOf v 31 && bitsOf v 27 16 != c.moduleId then some (bitsOf v 27 16) else none

/-- A blaze instruction other than BSET that passes its checks: the partition, the index and the blaze number (R201). -/
def blazeInsn (t rs1 insn : Nat) (f : Nat → Nat → Nat → Chip → Chip) (c : Chip) : Chip :=
  let v := (readX (hart c t) rs1).toNat
  if blazeReserved v then extFault t insn St.extOperand c
  else if (blazeRemote c v).isSome then extFault t insn St.extRemoteForm c
  else match threadPart c t with
    | none => extFault t insn St.addrPartViolation c
    | some p => match blazeAt c p (v % 512) with
      | none => extFault t insn St.addrPartViolation c
      | some n => f p (v % 512) n c

/-- BSET: posted, with the writes it announces (R147, R201, R202, R339). -/
def blazePost (t rs1 insn : Nat) (c : Chip) : Chip :=
  let v := (readX (hart c t) rs1).toNat
  if blazeReserved v then extFault t insn St.extOperand c
  else match threadPart c t with
    | none => extFault t insn St.addrPartViolation c
    | some p =>
      let far := blazeRemote c v
      if far.isNone && !((mapOf c p).state = 1 && v % 512 < (mapOf c p).bzCount) then extFault t insn St.addrPartViolation c
      else
        let x : PostedSet := ⟨t, v % 512, p, far, openSerials c t, openWrites c t⟩
        modHart t (advance 4) { c with blz := { c.blz with posted := c.blz.posted ++ [x] } }

/-- A posted set of this module's blazes whose announced writes are visible is performed (R147, R337, R339). -/
def setPerformed (k : Nat) (c : Chip) : Chip :=
  match c.blz.posted[k]? with
  | none => c
  | some x =>
    if x.remote.isSome || !setReady c x then c else
      let c := { c with blz := { c.blz with posted := c.blz.posted.erase x } }
      match blazeAt c x.part x.index with
      | some n =>
        if (mapOf c x.part).state = 1 && x.index < (mapOf c x.part).bzCount then setBlaze n (threadId c x.thread) c
        else refuseSet (some x.part) x.index (threadId c x.thread) St.addrPartViolation c
      | none => refuseSet (some x.part) x.index (threadId c x.thread) St.addrPartViolation c

/-- BCLR (R203, R341, R347). -/
def blazeClear (t rd p index n : Nat) (c : Chip) : Chip :=
  if (blaze c n).set then retire t rd 0 (clearBlaze n (threadId c t) c)
  else retire t rd (St.bzUnderflow.zeroExtend 64) (underflow n index p (threadId c t) c)

/-- BWAIT and BWAITC (R204, R205). -/
def blazeWait (t rd n : Nat) (clears : Bool) (c : Chip) : Chip :=
  if (blaze c n).set then
    retire t rd 1 (if clears then clearBlaze n (threadId c t) c else c)
  else modHart t (fun h => { h with state := .sleepBlaze, wait := .blaze n rd clears (now c) }) c

/-! ### Stitch and sampling instructions -/

/-- GV_SMPL (Table 05-2). -/
def smplWord (h : Hart) : Word := BitVec.ofNat 64 (h.smplMark % 65536 * 65536 + b2n h.smplForce * 2 + b2n h.smplEn)
/-- GV_LIC (Table 05-2). -/
def licWord (h : Hart) : Word := BitVec.ofNat 64 (h.resHeld % 2048 * 2 ^ 32 + h.inUse % 2048 * 2 ^ 16 + h.held % 2048)

/-- SWAIT (R206). -/
def stitchWait (t rd : Nat) (c : Chip) : Chip :=
  let n := countNow c
  modHart t (fun h => { h with state := .sleepStitch, wait := .stitch, finished := some n }) (retire t rd (BitVec.ofNat 64 n) c)

/-- SMPLCTL (R208, R210). -/
def samplingControl (t rd rs1 insn : Nat) (c : Chip) : Chip :=
  let h := hart c t
  let v := (readX h rs1).toNat
  let may := match threadPart c t with
    | some p => bitOf (tget 0 c.ctr.permit p) 2
    | none => false
  if bitsOf v 63 32 ≠ 0 || bitsOf v 15 2 ≠ 0 then extFault t insn St.extOperand c
  else if v % 4 ≠ 0 && !may then extFault t insn St.extSampleDenied c
  else modHart t (fun h => { h with smplEn := bitOf v 0, smplForce := bitOf v 1, smplMark := bitsOf v 31 16 })
    (retire t rd (smplWord h) c)

/-! ### Meanings -/

/-- A thread instruction whose effect ends with itself. -/
def insnAct (t : Thread) (insn : Nat) (va : Option (Acc × Nat)) (f : Chip → Chip) (s : State) : Out :=
  act s (runInsn t.toNat insn va f)

/-- EXT_ILLEGAL: an instruction of the three opcode spaces that R169 names raises cause 2 with its bits in stval. -/
def execExtIllegal (t : Thread) (insn : BitVec 32) (s : State) : Out :=
  insnAct t insn.toNat none (fun c =>
    if extSpace insn.toNat && !extDefined insn.toNat then takeTrap t.toNat ⟨2, insn.toNat, none, false⟩ c else c) s

/-- TENSOR (R179 to R184). -/
def execTensor (t : Thread) (rd rs1 rs2 : RegNo) (s : State) : Out :=
  let insn := rType 0 rs2.toNat rs1.toNat 0 rd.toNat 0x0B
  insnAct t insn none (fun c => settleMem (tensorIssue t.toNat rd.toNat rs1.toNat rs2.toNat insn c)) s

/-- TENSOR_TILE_END: a tile's residue checks (R241, R242, R244). -/
def execTensorTileEnd (tag : BitVec 16) (tile : Nat) (arr : BitVec 3) (fail : Option (BitVec 5)) (s : State) : Out :=
  act s fun c => settle (tileEnd tag.toNat tile arr.toNat (fail.map (·.toNat)) c)

/-- TENSOR_COMPLETE: D is written and the tag completes (R185). -/
def execTensorComplete (tag : BitVec 16) (ecc : Ecc) (s : State) : Out :=
  act s fun c => settle (tensorDone tag.toNat ecc c)

/-- SAMPLING_COMPLETE: a region-sampling operation completes (R380 to R384). -/
def execSamplingComplete (tag : BitVec 16) (retried retiredToo : Bool) (s : State) : Out :=
  act s fun c => settle (samplingDone tag.toNat retried retiredToo c)

/-- MOVE (R186 to R188). -/
def execMove (t : Thread) (rd rs1 rs2 : RegNo) (s : State) : Out :=
  let insn := rType 0 rs2.toNat rs1.toNat 1 rd.toNat 0x0B
  insnAct t insn none (fun c => settleMem (moveIssue t.toNat rd.toNat rs1.toNat rs2.toNat insn c)) s

/-- MOVER_CHUNK: a chain's next chunk (R297). -/
def execMoverChunk (tag : BitVec 16) (ecc : Ecc) (s : State) : Out := act s fun c => settle (moverChunk tag.toNat ecc c)

/-- LREQ (R189). -/
def execLreq (t : Thread) (rd rs1 : RegNo) (s : State) : Out :=
  let insn := rType 0 0 rs1.toNat 2 rd.toNat 0x0B
  insnAct t insn none (lreqIssue t.toNat rd.toNat rs1.toNat insn) s

/-- LREL (R192). -/
def execLrel (t : Thread) (rs1 : RegNo) (s : State) : Out :=
  let insn := rType 0 0 rs1.toNat 1 0 0x5B
  insnAct t insn none (licRelease t.toNat rs1.toNat insn) s

/-- LICENCE_GRANT: one cycle of the Warden (R190, R593 to R595). -/
def execLicenceGrant (s : State) : Out := act s fun c => settle (keepWarm (wardenCycle c))

/-- QPUSH (R197). -/
def execQpush (t : Thread) (rd rs1 rs2 : RegNo) (s : State) : Out :=
  let insn := rType 0 rs2.toNat rs1.toNat 0 rd.toNat 0x2B
  insnAct t insn none (queueInsn t.toNat rs1.toNat insn fun q c =>
    retireStatus t.toNat rd.toNat (pushStatus t.toNat q (readX (hart c t.toNat) rs2.toNat) c)) s

/-- QCOMMIT (R148, R197). -/
def execQcommit (t : Thread) (rd rs1 : RegNo) (s : State) : Out :=
  let insn := rType 0 0 rs1.toNat 2 rd.toNat 0x2B
  insnAct t insn none (queueInsn t.toNat rs1.toNat insn fun q c =>
    commitInsn t.toNat rd.toNat q c) s

/-- QABORT (R197). -/
def execQabort (t : Thread) (rd rs1 : RegNo) (s : State) : Out :=
  let insn := rType 0 0 rs1.toNat 3 rd.toNat 0x2B
  insnAct t insn none (queueInsn t.toNat rs1.toNat insn fun q c =>
    retireStatus t.toNat rd.toNat (abortStatus t.toNat q c)) s

/-- QPOP (R198). -/
def execQpop (t : Thread) (rd rs1 : RegNo) (parityBad : Bool) (ecc : Ecc) (s : State) : Out :=
  let insn := rType 0 0 rs1.toNat 1 rd.toNat 0x2B
  insnAct t insn none (queueInsn t.toNat rs1.toNat insn fun q c =>
    settleMem (popInsn t.toNat rd.toNat q parityBad ecc c)) s

/-- QCNT (R199, R320). -/
def execQcnt (t : Thread) (rd rs1 : RegNo) (s : State) : Out :=
  let insn := rType 0 0 rs1.toNat 4 rd.toNat 0x2B
  insnAct t insn none (queueInsn t.toNat rs1.toNat insn fun q c => retire t.toNat rd.toNat (countWord (queue c q)) c) s

/-- BSET (R202). -/
def execBset (t : Thread) (rs1 : RegNo) (s : State) : Out :=
  let insn := rType 0 0 rs1.toNat 5 0 0x2B
  insnAct t insn none (fun c => flushSets (blazePost t.toNat rs1.toNat insn c)) s

/-- BLAZE_SET_PERFORMED: a posted set of this module is performed (R147, R341, R344). -/
def execBlazeSetPerformed (k : Nat) (s : State) : Out := act s fun c => settle (setPerformed k c)

/-- BCLR (R203). -/
def execBclr (t : Thread) (rd rs1 : RegNo) (s : State) : Out :=
  let insn := rType 1 0 rs1.toNat 5 rd.toNat 0x2B
  insnAct t insn none (blazeInsn t.toNat rs1.toNat insn fun p i n c => blazeClear t.toNat rd.toNat p i n c) s

/-- BTEST (R203). -/
def execBtest (t : Thread) (rd rs1 : RegNo) (s : State) : Out :=
  let insn := rType 2 0 rs1.toNat 5 rd.toNat 0x2B
  insnAct t insn none (blazeInsn t.toNat rs1.toNat insn fun _ _ n c =>
    retire t.toNat rd.toNat (if (blaze c n).set then 1 else 0) c) s

/-- BWAIT (R204). -/
def execBwait (t : Thread) (rd rs1 : RegNo) (s : State) : Out :=
  let insn := rType 3 0 rs1.toNat 5 rd.toNat 0x2B
  insnAct t insn none (blazeInsn t.toNat rs1.toNat insn fun _ _ n c => blazeWait t.toNat rd.toNat n false c) s

/-- BWAITC (R205). -/
def execBwaitc (t : Thread) (rd rs1 : RegNo) (s : State) : Out :=
  let insn := rType 4 0 rs1.toNat 5 rd.toNat 0x2B
  insnAct t insn none (blazeInsn t.toNat rs1.toNat insn fun _ _ n c => blazeWait t.toNat rd.toNat n true c) s

/-- TWAIT (R178). -/
def execTwait (t : Thread) (rd rs1 : RegNo) (s : State) : Out :=
  let insn := rType 0 0 rs1.toNat 0 rd.toNat 0x5B
  insnAct t insn none (tagWait t.toNat rd.toNat rs1.toNat insn false) s

/-- TWAITR (R178). -/
def execTwaitr (t : Thread) (rd rs1 : RegNo) (s : State) : Out :=
  let insn := rType 1 0 rs1.toNat 0 rd.toNat 0x5B
  insnAct t insn none (tagWait t.toNat rd.toNat rs1.toNat insn true) s

/-- TTEST (R178). -/
def execTtest (t : Thread) (rd rs1 : RegNo) (s : State) : Out :=
  let insn := rType 2 0 rs1.toNat 0 rd.toNat 0x5B
  insnAct t insn none (tagTest t.toNat rd.toNat rs1.toNat insn) s

/-- TREAP (R178). -/
def execTreap (t : Thread) (rd rs1 : RegNo) (s : State) : Out :=
  let insn := rType 3 0 rs1.toNat 0 rd.toNat 0x5B
  insnAct t insn none (tagReap t.toNat rd.toNat rs1.toNat insn) s

/-- SWAIT (R206). -/
def execSwait (t : Thread) (rd : RegNo) (s : State) : Out :=
  insnAct t (rType 0 0 0 2 rd.toNat 0x5B) none (fun c => weltPoppable (noteHard (stitchWait t.toNat rd.toNat c))) s

/-- SREAD.C (R207). -/
def execSreadC (t : Thread) (rd : RegNo) (s : State) : Out :=
  insnAct t (rType 0 0 0 3 rd.toNat 0x5B) none (fun c => retire t.toNat rd.toNat (BitVec.ofNat 64 (countNow c)) c) s

/-- SREAD.B (R207). -/
def execSreadB (t : Thread) (rd : RegNo) (s : State) : Out :=
  insnAct t (rType 1 0 0 3 rd.toNat 0x5B) none (fun c =>
    retire t.toNat rd.toNat (BitVec.ofNat 64 (boundaryOf c.time (now c))) c) s

/-- SREAD.R (R207). -/
def execSreadR (t : Thread) (rd : RegNo) (s : State) : Out :=
  insnAct t (rType 2 0 0 3 rd.toNat 0x5B) none (fun c =>
    retire t.toNat rd.toNat (BitVec.ofNat 64 (boundaryOf c.time (now c) + periodNs c.time - now c)) c) s

/-- SMPLCTL (R208, R210). -/
def execSmplctl (t : Thread) (rd rs1 : RegNo) (s : State) : Out :=
  let insn := rType 0 0 rs1.toNat 4 rd.toNat 0x5B
  insnAct t insn none (samplingControl t.toNat rd.toNat rs1.toNat insn) s

end Sys2Proof.Machine
end

