-- ==== Sys2Proof/Machine/DictRead.lean ====
section
/-! DEFINITION. What a read of the object dictionary returns (R70, R77, R106, R107): the value of every object as a number
of little-endian bytes, derived from the state for the objects that hardware keeps. -/
namespace Sys2Proof.Machine

/-- Time states' codes (Table 02-2). -/
def tstateCode : TState → Nat
  | .freerun => 0
  | .locked => 1
  | .holdover => 2
  | .lost => 3

/-- Thread states' codes (Table 04-2). -/
def hstateCode : HState → Nat
  | .empty => 0
  | .ready => 1
  | .stalled => 2
  | .sleepBlaze => 3
  | .sleepStitch => 4
  | .preempted => 5
  | .halted => 6

/-- The number of members of a set of numbers below `n`. -/
def popCount (v n : Nat) : Nat := (span 0 n).countP fun i => bitOf v i
/-- Bits of the numbers below `n` that satisfy a test. -/
def bitsWhere (n : Nat) (f : Nat → Bool) : Nat := (span 0 n).foldl (fun a i => if f i then a + 2 ^ i else a) 0

/-- Groves in service (0x1000/5). -/
def grovesActive (c : Chip) : Nat := 256 - c.groves.countP fun e => e.2.retired

/-- The frequency of a clock domain, kHz (Table 01-6). -/
def clkKhz (c : Chip) (d : Nat) : Nat :=
  if d ≤ 8 then standKhz c (d - 1)
  else if d ≤ 10 then 2000000
  else if d = 11 then 1200000
  else if d = 12 then 1000000
  else if d = 13 then 1066700
  else if d = 14 then videoKhz c
  else if d = 15 then 1562500
  else 1000000

/-- Objects of 0x1000 to 0x1300: identity, time, field ports, host interface. -/
def val1 (c : Chip) (idx sub : Nat) : Option Nat :=
  match idx, sub with
  | 0x1000, 5 => some (grovesActive c)
  | 0x1001, 19 => some (clkLimited c)
  | 0x1001, d => some (clkKhz c d)
  | 0x1100, 1 => some (now c)
  | 0x1100, 2 => some (tstateCode c.time.tstate)
  | 0x1100, 3 => some (toTwos 64 c.time.offset)
  | 0x1100, 5 => some (c.time.portSel.getD 0xFF)
  | 0x1100, 6 => some c.time.gm.toNat
  | 0x1100, 9 => some c.time.periodUs
  | 0x1100, 10 => some c.time.anchorTime
  | 0x1100, 11 => some c.time.anchorCount
  | 0x1100, 12 => some (countNow c)
  | 0x1100, 13 => some (boundaryOf c.time (now c))
  | 0x1100, 17 => some (b2n c.time.pendArmed)
  | 0x1100, 19 => some c.time.lastOverrun
  | 0x1200, 2 => some ((Config.unstated 30 0 0).toNat % 2 ^ 48)
  | 0x1200, 5 => some c.fdp.links
  | 0x1200, 12 => some (bitsWhere 16 fun n => (fdpSes c n).isOpen)
  | 0x1200, 16 => some c.life.incarnation.toNat
  | 0x1200, 18 => some ((span 0 32).countP fun e => obj c 0x5080 5 e == 1)
  | 0x1300, 2 => some c.host.link0
  | 0x1300, 3 => some c.host.link1
  | 0x1300, 5 => some c.host.vfEnabled
  | 0x1300, 6 => some c.host.ide
  | _, _ => none

/-- Objects of 0x2000 to 0x2200 and their windows: threads, arithmetic, memory. -/
def val2 (c : Chip) (idx sub item : Nat) : Option Nat :=
  match idx, sub with
  | 0x2000, 1 => some (c.harts.countP fun e => e.2.state != .empty)
  | 0x2000, 2 => some (c.harts.countP fun e => e.2.state != .empty && e.2.hard)
  | 0x2000, 4 => some (c.groves.foldl (fun a g => a + g.2.tags.countP fun e => e.2.state != .free) 0)
  | 0x5400, 2 => some (hstateCode (hart c item).state)
  | 0x5400, 3 => some (b2n (hart c item).hard + 2 * b2n (hart c item).clsReq)
  | 0x5400, 4 => some (if (hart c item).state = .empty then 0 else (hart c item).priv)
  | 0x5400, 5 => some (hart c item).pc.toNat
  | 0x5400, 6 => some (tagsHeldBy c item).length
  | 0x5400, 7 => some (hart c item).quota
  | 0x5400, 8 => some (licWord (hart c item)).toNat
  | 0x5400, 9 => some (hart c item).xstatus.toNat
  | 0x5400, 10 => some (smplWord (hart c item)).toNat
  | 0x5440, 2 => some ((grove c item).arith / 2 % 64 * 2)
  | 0x5440, 3 => some (grove c item).lossCount
  | 0x5440, 4 => some (grove c item).tensorOps
  | 0x5440, 5 => some (grove c item).retiredArrays
  | 0x2200, 1 => some c.mem.hbmReady
  | 0x2200, 2 => some c.mem.usReady
  | 0x2200, 3 => some c.mem.usScrub
  | 0x2200, 4 => some (popCount c.mem.usScrub 512)
  | 0x2200, 11 => some (c.mem.clears.foldl (fun a r => a + r.len) 0)
  | 0x2200, 12 => some (partBits fun p => (keySlot c p).installed)
  | _, _ => none

/-- A cell's words (0x54C1/3). -/
def cellData (c : Chip) (k : Nat) : Nat :=
  (span 0 32).foldl (fun a i => a + (tget 0 (cell c k).words i).toNat * 2 ^ (64 * i)) 0

/-- Objects of 0x2300 to 0x2500 and their windows: queues, blazes, samplers. -/
def val3 (c : Chip) (idx sub item : Nat) : Option Nat :=
  match idx, sub with
  | 0x2300, 2 => some (poolFree c)
  | 0x2300, 3 => some (c.queues.foldl (fun a e => if e.2.enable then a + e.2.resv else a) 0)
  | 0x2300, 4 => some (poolShort c)
  | 0x2300, 5 => some (poolBase c)
  | 0x2300, 6 => some (c.queues.countP fun e => e.2.state == 1)
  | 0x2300, 15 => some (c.opens.length + c.pair.inp.length)
  | 0x54C0, 2 => some (b2n (queue c item).enable)
  | 0x54C0, 3 => some (queue c item).maxpkt
  | 0x54C0, 4 => some (queue c item).cap
  | 0x54C0, 5 => some (queue c item).resv
  | 0x54C0, 6 => some (b2n (queue c item).welt)
  | 0x54C0, 7 => some (queue c item).state
  | 0x54C0, 8 => some (queue c item).depth
  | 0x54C0, 9 => some (queue c item).held
  | 0x54C0, 10 => some (openOn c item)
  | 0x54C0, 11 => some ((queue c item).bound.getD 0xFFFF)
  | 0x54C0, 12 => some ((queueOwner c item).getD 0xFF)
  | 0x54C0, 13 => some (queue c item).commits
  | 0x54C0, 14 => some (queue c item).refused
  | 0x54C1, 2 => some (leNat (cellRecBytes item (cell c item)))
  | 0x54C1, 3 => some (cellData c item)
  | 0x2400, 2 => some (c.blz.entries.countP fun e => e.2.set)
  | 0x2400, 7 => some c.blz.dumpState
  | 0x2400, 8 => some ((span 0 512).countP fun n => (blazeOwner c n).isSome)
  | 0x2400, 11 => some (bitsWhere 16 fun p => thas c.blz.snapReq p || thas c.blz.restoreReq p)
  | 0x5500, 2 => some (leNat (blazeBytes c item))
  | 0x5500, 3 => some (b2n (blaze c item).set)
  | 0x5502, 2 => some (leNat (if item = 512 then c.blz.dumpHdr else nth [] c.blz.dumpEnts item))
  | 0x5540, 2 => some (servedBy c item)
  | 0x5540, 3 => some ((samplerOps c item).length - 1)
  | _, _ => none

/-- Objects of 0x2600 to 0x2800 and their windows: KV pager, serving, video. -/
def val4 (c : Chip) (idx sub item : Nat) : Option Nat :=
  match idx, sub with
  | 0x2600, 4 => some (poolBase c - 516 * 2 ^ 20)
  | 0x2600, 5 => some (parts16.foldl (fun a p => a + (hbmUsed c p).length) 0)
  | 0x2600, 6 => some (parts16.foldl (fun a p => a + (usUsed c p).length) 0)
  | 0x5580, 9 => some (hbmUsed c item).length
  | 0x5580, 10 => some (usUsed c item).length
  | 0x5580, 11 => some (c.kv.slots.countP fun e => e.2.state == 2 && e.2.part == item)
  | 0x5581, 2 => some (slotWord (kvSlot c item))
  | 0x5582, 2 => some (pteWord (kvSlot c (item % 65536)) (item / 2 ^ 32))
  | 0x2700, 4 => some (poolBase c - 522 * 2 ^ 20)
  | 0x2700, 8 => some (b2n c.srv.stageArmed)
  | 0x2700, 15 => some (c.srv.batches.countP fun e => e.2.isSome)
  | 0x55C0, 6 => some (pfxUsed c item)
  | 0x55C0, 7 => some (b2n (keySlot c item).pfxKey.isSome)
  | 0x55C1, 2 => some (acctWord (acct c item))
  | 0x55C1, 11 => some (tget 0 c.srv.staged item)
  | 0x55C2, 2 => some (seqWord (seqRec c item))
  | 0x55C3, 2 => some (pfxWord (pfxEnt c item))
  | 0x2800, 2 => some (vidOpenCount c)
  | 0x5601, 2 => some (leNat ((vses c item).map (·.desc)).toList.flatten)
  | 0x5601, 3 => some (((vses c item).map (·.part)).getD 0xFF)
  | 0x5601, 4 => some (((vses c item).map fun v => (span 0 64).foldl (fun a b => a + vbuf v b * 4 ^ b) 0).getD 0)
  | 0x5601, 5 => some (b2n (((vses c item).map (·.damaged)).getD false))
  | 0x5602, 2 => some ((vcore c item).ses.getD 0xFF)
  | _, _ => none

/-- LACE_STATUS (0x3100/11): bits 7:3 of the pair block's status in bits 4:0. -/
def laceStatus (c : Chip) : Nat := pairStatus c % 256 / 8

/-- Objects of 0x3000 to 0x3200 and their windows: links, pair, faults. -/
def val5 (c : Chip) (idx sub item : Nat) : Option Nat :=
  match idx, sub with
  | 0x3000, 1 => some (bitsWhere 16 fun p => (port c p).state == Pst.up)
  | 0x3000, 5 => some (c.lnk.sess.countP fun e => e.2.state == 2)
  | 0x3000, 12 => some (c.lnk.outReq.countP fun e => e.2.isSome)
  | 0x3001, p => some (epochOf c (p - 1))
  | 0x5800, 2 => some (port c item).state
  | 0x5800, 3 => some (port c item).peer
  | 0x5800, 4 => some (port c item).peerInc.toNat
  | 0x5801, 3 => some ((routePort c item).getD 0xFF)
  | 0x5802, 2 => some (roleEntry c (item / 16) (item % 16)).2.1
  | 0x5802, 3 => some (roleEntry c (item / 16) (item % 16)).2.2
  | 0x5802, 4 => some (b2n (roleEntry c (item / 16) (item % 16)).1)
  | 0x5803, 2 => some (sess c item).state
  | 0x5803, 3 => some (sess c item).peerInc.toNat
  | 0x3100, 7 => some c.pair.state
  | 0x3100, 11 => some (laceStatus c)
  | 0x5840, 6 => some (egOf c item).length
  | 0x3200, 1 => some c.flt.log.length
  | 0x3200, 11 => some c.flt.shadow
  | 0x3200, 12 => some (b2n c.flt.shadowPassed)
  | 0x3200, 13 => some (if c.flt.writing.isSome then 1 else if c.flt.bundle.isSome then 2 else 0)
  | 0x5880, 4 => some (((partFlt c item).newest.map (·.count)).getD 0)
  | 0x5880, 5 => some (((partFlt c item).older.map (·.count)).getD 0)
  | 0x5881, 2 => some (leNat (bundleItem c item))
  | 0x5882, 2 => some ((classOf (BitVec.ofNat 16 item)).getD 0xFF)
  | _, _ => none

/-- A sensor as the dictionary reads it (0x5C01). -/
def sensorVal (c : Chip) (s : Nat) : Nat :=
  if s = 288 then (if c.board.failA then 0x7FFF else toTwos 16 (c.board.inA.getD 0))
  else if s = 289 then (if c.board.failB then 0x7FFF else toTwos 16 (c.board.inB.getD 0))
  else if (sensor c s).failed then 0x7FFF else toTwos 16 (sensor c s).last

/-- INLET_USED (0x4500/6). -/
def inletUsed (c : Chip) : Nat := b2n c.board.failB + 2 * b2n c.board.failA

/-- A fuse word as the raw window shows it: the unique device secret never leaves the engine (R629). -/
def fuseRaw (t : Tbl Nat) (w : Nat) : Nat :=
  if 0x10 ≤ w % 0x200 && w % 0x200 ≤ 0x1B then 0 else tget 0 t w

/-- SLOT_SIGNALS (0x4400/11). -/
def slotSignals (c : Chip) : Nat :=
  b2n c.board.prsntN + 2 * b2n c.board.latchN + 4 * b2n (!c.pair.fenceLow) + 8 * b2n c.pair.tie

/-- Objects of 0x4000 to 0x4500, their windows and the locked range: power, partitions, firmware, counters, start-up,
board. -/
def val6 (c : Chip) (who : Requester) (idx sub item : Nat) : Option Nat :=
  match idx, sub with
  | 0x4000, 3 => some c.pwr.pcap
  | 0x4000, 4 => some c.pwr.pkgMean
  | 0x4000, 5 => some c.pwr.inMean
  | 0x4000, 6 => some c.pwr.pIdle
  | 0x4000, 7 => some c.pwr.draw
  | 0x4000, 8 => some c.pwr.pool
  | 0x4000, 10 => some (licOut c)
  | 0x4000, 12 => some c.pwr.rEst
  | 0x4000, 15 => some (toTwos 16 c.pwr.inlet)
  | 0x4000, 16 => some (toTwos 16 (tjMax c))
  | 0x5C00, 4 => some (partHeld c item)
  | 0x5C00, 5 => some (tget 0 c.pwr.resBal item)
  | 0x5C01, 2 => some (sensorVal c item)
  | 0x5C01, 3 => if item < 288 then some (toTwos 16 (sensor c item).peak) else none
  | 0x4100, 3 => some (b2n c.sec.mapArmed)
  | 0x4100, 4 => some c.fuse.lifecycle
  | 0x4100, 5 => some c.fuse.debug
  | 0x4100, 7 => some c.fuse.marginal
  | 0x4100, 8 => some (leNat c.sec.kwk)
  | 0x4100, 9 => some (sysHbmGib c)
  | 0x5C40, 3 => some (leNat (entryBytes (mapOf c item)))
  | 0x5C41, 2 => some (leNat (((reportOf c who).ready.drop (512 * item)).take 512))
  | 0x5C41, 3 => some (selOf c who 0x5C41 3)
  | 0x5C41, 5 => some (b2n ((reportOf c who).building.isNone && !(reportOf c who).ready.isEmpty))
  | 0x5C42, 2 => some (leNat (((certBytes c (item / 256)).drop (512 * (item % 256))).take 512))
  | 0x5C42, 3 => some (certBytes c (item / 256)).length
  | 0xF000, 2 => some (fuseRaw c.fuse.low item)
  | 0xF000, 3 => some (fuseRaw c.fuse.high item)
  | 0x4200, 1 => some c.fw.runBank
  | 0x4200, 5 => some c.fw.fwState
  | 0x4200, 7 => some (bankVersion c 0)
  | 0x4200, 8 => some (bankVersion c 1)
  | 0x4200, 9 => some c.fw.valid
  | 0x4200, 16 => some (bitsWhere 2 fun k => !thas c.fw.bad k)
  | 0x5CC1, 3 => some (ctrVal c item)
  | 0x5CC1, 4 => some (tget 0 c.ctr.last item)
  | 0x4400, 1 => some c.life.mstate
  | 0x4400, 2 => some c.life.since
  | 0x4400, 10 => some c.life.phase
  | 0x4400, 11 => some (slotSignals c)
  | 0x5D00, 2 => some (tget 0 c.life.phStart item)
  | 0x5D00, 3 => some (tget 0 c.life.phEnd item)
  | 0x4500, 4 => some (if c.board.failA then 0x7FFF else toTwos 16 (c.board.inA.getD 0))
  | 0x4500, 5 => some (if c.board.failB then 0x7FFF else toTwos 16 (c.board.inB.getD 0))
  | 0x4500, 6 => some (inletUsed c)
  | _, _ => none

/-- A measured quantity whose value no rule gives: the input's voltage and current, the heat-sink base, the rails
(Table 23-11; DESIGN CHOICE, log 22). -/
def isReading (idx sub : Nat) : Bool :=
  (idx == 0x4500 && (sub == 2 || sub == 3 || sub == 9)) || (idx == 0x5D40 && 2 ≤ sub)

/-- The value of an object for an item, as a number of its size (R70, R106, R107). -/
def dictVal (c : Chip) (who : Requester) (idx sub item : Nat) : Nat :=
  let size := ((objAt idx sub).map (·.size)).getD 0
  let cls := ((objAt idx sub).map (·.cls)).getD 0
  let v :=
    if sub = 0 || cls = 6 then objDflt idx sub
    else if isWindow idx && sub = 1 then selOf c who idx 1
    else match val1 c idx sub with
      | some v => v
      | none => match val2 c idx sub item with
        | some v => v
        | none => match val3 c idx sub item with
          | some v => v
          | none => match val4 c idx sub item with
            | some v => v
            | none => match val5 c idx sub item with
              | some v => v
              | none => (val6 c who idx sub item).getD (obj c idx sub item)
  v % 256 ^ size

/-- SIDE_WAITS (R332): how many requests were delayed is timing, which the model leaves out; the counter advances by a free
value (DESIGN CHOICE, log 17). -/
def sideWaits (c : Chip) : Chip := match drawFree c with
  | (w, c) => bump 0x2300 16 0 w.toNat c

/-- A read of an object: its bytes, and the module once the hardware has brought the value up to the read: a counter has
advanced by what no rule states, and a measured quantity is a free value (DESIGN CHOICE, log 21, log 22). -/
def dictRead (who : Requester) (idx sub item : Nat) (c : Chip) : Bytes × Chip :=
  let size := ((objAt idx sub).map (·.size)).getD 0
  if isReading idx sub then
    match drawFree c with
    | (w, c) => (leBytes size w.toNat, c)
  else
    let c := if idx = 0x5CC1 && sub = 3 then advanceCtr item c else if idx = 0x2300 && sub = 16 then sideWaits c else c
    (leBytes size (dictVal c who idx sub item), c)

end Sys2Proof.Machine
end

