-- ==== Sys2Proof/Machine/DictCheck.lean ====
section
/-! DEFINITION. The checks of a dictionary request (R71, R76, R83 to R87, R100, R101, R108, R653): existence, rights, classes,
states, ranges, selectors, a tenant's partition, and the checks that the owning chapters attach. A write is checked against
the module as it would stand after the whole request. -/
namespace Sys2Proof.Machine

/-! ### Rights and states -/

/-- Objects that policy firmware alone writes (R450, R654). -/
def policyOnly (idx sub : Nat) : Bool := idx == 0x4201 || (idx == 0x2700 && sub == 5)

/-- Writes that policy firmware is refused with FW_DENIED (Table 20-4); its own selectors stay open to it. -/
def policyDenied (idx sub : Nat) : Bool :=
  (idx == 0x1100 || idx == 0x3100) ||
  ((idx == 0x5840 || idx == 0x5841 || idx == 0x5801 || idx == 0x5802 || idx == 0x5080 || idx == 0x5C40 || idx == 0x5C80) && sub != 1) ||
  (idx == 0x5C00 && (sub == 2 || sub == 3)) || (idx == 0x4000 && (sub == 11 || sub == 13 || sub == 14)) ||
  (idx == 0x4100 && (sub == 1 || sub == 2 || sub == 6)) || (idx == 0x5C43 && sub == 2) || (idx == 0x1200 && sub == 15) ||
  (idx == 0x3000 && sub == 2) || (idx == 0x3200 && (sub == 6 || sub == 7 || sub == 8 || sub == 9 || sub == 14)) ||
  (idx == 0x5880 && sub == 6) ||
  (idx == 0x4200 && (sub == 2 || sub == 3 || sub == 4 || sub == 6 || sub == 13 || sub == 14))

/-- Whether a refusal is one of Table 20-4, which FW_DENIED_COUNT counts (R653). -/
def countsDenied (idx : Nat) (st : Status) : Bool :=
  st == St.fwDenied || st == St.pwrCapBad || (idx == 0x4000 && (st == St.dictReadOnly || st == St.dictRange)) ||
  ((idx == 0x4201 || idx == 0x5C00) && st == St.dictRange)

/-- Whether the locked range is closed (R85). -/
def lockedRange (c : Chip) (idx : Nat) : Bool :=
  decide (0xF000 ≤ idx) && (c.fuse.debug == 2 || (c.fuse.debug == 1 && c.life.mstate != MState.maintenance))

/-- A role's two bits of an object's rights (Table 03-4 with the chapters' departures). -/
def roleBits (o : ObjDef) (role : Nat) : Nat := o.rights / 4 ^ role % 4

/-- Whether a tenant's permit in force lets it reach an object of the counters' range (R670). -/
def permitRead (c : Chip) (part idx item : Nat) : Bool :=
  let pm := tget 0 c.ctr.permit part
  if idx = 0x5CC1 then ctrAdmits c part item
  else if idx = 0x5CC2 then bitOf pm 1
  else if idx = 0x4300 || idx = 0x5CC0 || idx = 0x5CC3 then pm != 0
  else true

/-- Steps 1 to 5 of R100 for one part. -/
def preCheck (c : Chip) (who : Requester) (write : Bool) (idx sub item : Nat) : Status :=
  match objAt idx sub with
  | none => if (objsAt idx).isNone then St.dictNoObject else St.dictNoSubindex
  | some o =>
    let (role, part) := roleOf c who
    let policy := who == .policy
    let right := bitOf (roleBits o role) (b2n write) || (write && policy && policyOnly idx sub)
    if policy && (decide (0xF000 ≤ idx) || (write && policyDenied idx sub)) then St.fwDenied
    else if lockedRange c idx then St.dictLocked
    else if !right || (role == 1 && !permitRead c part idx item) then St.dictRole
    else if write && o.cls == 0 then St.dictReadOnly
    else if !write && o.cls == 6 then St.dictWriteOnly
    else if idx == 0x54C1 && sub != 1 && c.life.mstate != MState.maintenance then St.dictState
    else St.ok

/-! ### Selectors and items -/

/-- Whether a selector value names an item of its group (R108). -/
def itemOk (c : Chip) (idx v : Nat) : Bool :=
  match idx with
  | 0x54C1 => v < c.pool.size
  | 0x5582 => bitsOf v 31 16 == 0 && v < 2 ^ 51
  | 0x5C42 => v / 256 ≤ 1
  | _ => match objAt idx 1 with
    | none => false
    | some o => o.rmin ≤ v && v ≤ o.rmax

/-- Whether an item of a window group is a tenant's to name (R84): the groups of units that serve every partition are open
to each. -/
def tenantItem (c : Chip) (idx item part : Nat) : Bool :=
  if idx = 0x5400 then groveOwner c (item / 64) == some part
  else if idx = 0x5440 then groveOwner c item == some part
  else if idx = 0x5502 then item == 512 || blazeOwner c item == some part
  else if idx = 0x5802 then
    let e := roleEntry c (item / 16) (item % 16)
    e.1 && e.2.2 == (mapOf c part).job && (mapOf c part).state != 0
  else if idx = 0x5480 || idx = 0x5540 || idx = 0x5602 || idx = 0x5800 || idx = 0x5801 || idx = 0x5803 || idx = 0x5882 ||
      idx = 0x5C01 || idx = 0x5C41 || idx = 0x5C42 || idx = 0x5C80 || idx = 0x5C81 || idx = 0x5CC1 || idx = 0x5CC2 || idx = 0x5CC3 ||
      idx = 0x5D00 || idx = 0x5D40 then true
  else itemPart c idx item == some part

/-- Whether an object's value names a queue. -/
def namesQueue (idx sub : Nat) : Bool :=
  idx == 0x2301 || (idx == 0x5580 && (sub == 6 || sub == 7)) || (idx == 0x55C0 && (sub == 2 || sub == 3)) ||
  (idx == 0x5600 && (sub == 2 || sub == 3)) || (idx == 0x5CC0 && (sub == 3 || sub == 5))

/-- Whether a local range lies wholly in a partition's allocation. -/
def rangeOwned (e : MapEntry) (a n : Nat) : Bool :=
  decide (a + n ≤ 2 ^ 44) && (span (a / 65536) ((a + n + 65535) / 65536 - a / 65536)).all fun k => blockIn e none (k * 65536)

/-- Whether a tenant's write keeps to its own partition (R84): the item, and what the value names. `t` is the module as it
would stand. -/
def tenantWrite (t : Chip) (idx sub item v part : Nat) : Bool :=
  (!isWindow idx || tenantItem t idx item part) &&
  (!(idx == 0x2301) || sub == part + 1) &&
  (!namesQueue idx sub || v == 0xFFFFFFFF || queueOwner t v == some part) &&
  (!(idx == 0x2400 && (sub == 9 || sub == 10)) || v == part) &&
  (!(idx == 0x50C0 && (sub == 2 || sub == 3)) || obj t 0x50C0 3 item == 0 ||
    rangeOwned (mapOf t part) (obj t 0x50C0 2 item) (obj t 0x50C0 3 item))

/-- Whether a value fits its object's type and range (R71). -/
def valueOk (c : Chip) (idx sub item v : Nat) : Bool :=
  match objAt idx sub with
  | none => false
  | some o =>
    (o.ty == 0x0A || (o.rmin ≤ v && v ≤ o.rmax)) &&
    (!(idx == 0x1200 && sub == 15) || v < 48) &&
    (!(idx == 0x2300 && sub == 1) || (v % 65536 == 0 && 65536 ≤ v && v ≤ 67108864)) &&
    (!(idx == 0x4201 && sub ≤ 8) || v % 12500 == 0) &&
    (!(idx == 0x4400 && sub == 3) || v == 1 || v == 8) &&
    (!(idx == 0x4100 && sub == 6) || v ≤ 2) &&
    (!(idx == 0x5C00 && sub == 6) || v == 0 || ((mapOf c item).state != 0 && v ≤ (mapOf c item).grovesM1))

/-! ### The chapters' checks -/

/-- Whether a blaze index is inside a partition's allocation, or names none (R406). -/
def blazeIdxOk (t : Chip) (p v : Nat) : Bool := v == 0xFFFF || v < (mapOf t p).bzCount
/-- Whether a queue is a partition's, or no queue is named. -/
def queueNameOk (t : Chip) (p v : Nat) : Bool := v == 0xFFFFFFFF || queueOwner t v == some p
/-- Whether a response queue is a partition's and holds `n` cells (R406, R430). -/
def rspQueueOk (t : Chip) (p v n : Nat) : Bool :=
  v == 0xFFFFFFFF || (queueOwner t v == some p && n ≤ (queue t v).maxpkt && n ≤ (queue t v).resv)

/-- The command interface's checks of a partition's request queue, response queue and blaze (R406, R430, R459). -/
def portCheck (t : Chip) (p v n which : Nat) (bad : Status) : Status :=
  let fine := match which with
    | 0 => queueNameOk t p v
    | 1 => rspQueueOk t p v n
    | _ => blazeIdxOk t p v
  if fine then St.ok else bad

/-- An arena's checks (R406). -/
def arenaCheck (c t : Chip) (p sub v : Nat) : Status :=
  let us := decide (4 ≤ sub)
  let base := obj t 0x5580 (if us then 4 else 2) p
  let n := obj t 0x5580 (if us then 5 else 3) p * 65536
  let tier := if us then Tier.us else Tier.hbm
  if base % 65536 ≠ 0 || (n ≠ 0 && !(rangeOwned (mapOf t p) base n && tierOf base == tier && tierOf (base + n - 1) == tier)) then
    St.kvConfigBad
  else if (sub == 2 || sub == 4) && v != obj c 0x5580 sub p && !(if us then usUsed c p else hbmUsed c p).isEmpty then
    St.kvArenaBusy
  else St.ok

/-- The eight bucket edges (R426). -/
def bucketCheck (v : Nat) : Status :=
  let e (i : Nat) : Nat := bitsOf v (32 * i + 31) (32 * i)
  if e 7 == 2097152 && (span 0 7).all fun i => decide (e i < e (i + 1)) || (e i == e (i + 1) && e i == e 7) then St.ok
  else St.kvBucketBad

/-- RESV over all queues of a partition. -/
def partResv (c : Chip) (p : Nat) : Nat :=
  c.queues.foldl (fun a e => if queueOwner c e.1 = some p then a + e.2.resv else a) 0

/-- Queue configuration (R324). -/
def queueCfgCheck (c t : Chip) (q sub : Nat) : Status :=
  let old := queue c q
  let new := queue t q
  let d := shortfall new - shortfall old
  if new.cap < new.maxpkt then St.qCapTooSmall
  else if new.cap < new.resv then St.qResvAboveCap
  else if d ≠ 0 && (poolFree c - poolShort c < d || (match queueOwner t q with
      | some p => decide ((mapOf t p).cellQuota < partResv t p)
      | none => false)) then St.qResvOvercommit
  else if sub = 2 && new.enable && (queueOwner t q).isNone then St.dictOutOfPartition
  else if sub = 2 && !new.enable && old.enable && (old.held ≠ 0 || openOn c q ≠ 0) then St.qNotEmpty
  else St.ok

/-- A dead-letter queue (R327). -/
def dlqCheck (t : Chip) (p v : Nat) : Status :=
  if v == 0xFFFFFFFF || (queueOwner t v == some p && (queue t v).state == 1 && 2 ≤ (queue t v).maxpkt && 2 ≤ (queue t v).resv) then
    St.ok else St.qDlqBad

/-- A host window (R163). -/
def windowCheck (t : Chip) (item : Nat) : Status :=
  let base := obj t 0x50C0 2 item
  let size := obj t 0x50C0 3 item
  match vfOwner t (item / 16 + 1) with
  | some p =>
    if base % 4096 == 0 && size % 4096 == 0 && 4096 ≤ size && size ≤ 4294967296 && rangeOwned (mapOf t p) base size then St.ok
    else St.hostWindowBad
  | none => St.hostWindowBad

/-- The role table (R87): what the cabinet manager may not touch, and one digest with two roles. -/
def roleTableCheck (c t : Chip) (role item : Nat) : Status :=
  let high (x : Chip) : Bool := obj x 0x5080 5 item == 1 && 2 ≤ obj x 0x5080 3 item
  let dup := (span 0 32).any fun i => obj t 0x5080 5 i == 1 &&
    ((span 0 32).any (fun k => k != i && obj t 0x5080 5 k == 1 && obj t 0x5080 2 k == obj t 0x5080 2 i) ||
      fusedDigest t == some (obj t 0x5080 2 i))
  if role ≠ 3 && (high c || high t) then St.dictRole
  else if dup then St.dictDuplicate else St.ok

/-- Whether the module runs paired (R506): its pair state is not UNPAIRED. -/
def runsPaired (c : Chip) : Bool := c.pair.state != PSt.unpaired

/-- An egress entry (R543). -/
def egressCheck (t : Chip) (q : Nat) : Status :=
  if egKind t q ≠ 1 then St.ok
  else if !(queue t q).welt || 255 < (queue t q).maxpkt || egPeer t q = t.moduleId || egPeer t q = mateId t ||
      524288 < (t.queues.foldl (fun a e => if e.2.welt && egKind t e.1 = 1 then a + e.2.cap else a) 0) then St.prEgressBad
  else St.ok

/-- Whether every assigned partition can roll back to ROLL_TO, or is admitted at ROLL_AT (R580). -/
def rollCheck (t : Chip) : Status :=
  let admits := t.flt.admitArmed && obj t 0x3200 6 == obj t 0x3200 8
  if !(parts16.all fun p => !assigned t p || admits || (saveFor t p (obj t 0x3200 7)).isSome) then St.fltRollbackBad
  else if obj t 0x3200 8 < countNow t + 2 then St.stitchChangeLate else St.ok

/-- A partition runtime's entry (R583). -/
def entryCheck (t : Chip) (p v : Nat) : Status :=
  let k := tierOf v
  if v = 0 || (v % 4 = 0 && (k == .grove || k == .stand || k == .base || k == .hbm) && blockIn (mapOf t p) none v) then St.ok
  else St.addrPartViolation

/-- A snapshot or sample queue (R664). -/
def ctrQueueCheck (t : Chip) (p sub v : Nat) : Status :=
  if v == 0xFFFFFFFF then St.ok
  else if queueOwner t v ≠ some p || (queue t v).state ≠ 1 || (queue t v).welt then St.ctrConfigBad
  else if sub = 3 && (queue t v).maxpkt < 113 then St.ctrQShort else St.ok

/-- A counter's address range (R661). -/
def ctrRangeCheck (t : Chip) (k : Nat) : Status :=
  let b := obj t 0x5CC3 2 k
  let l := obj t 0x5CC3 3 k
  if b % 4096 ≠ 0 || (l + 1) % 4096 ≠ 0 || l < b then St.ctrConfigBad else St.ok

/-- The conditions of STATE_REQ (R681, R689). -/
def stateReqCheck (c : Chip) (role v : Nat) : Status :=
  if v ≠ 8 || (role = 3 && running c && c.fuse.debug ≤ 1) then St.ok else St.startReqDenied

/-- Step 9 of R100 (R101) for one part of a write: `c` is the module, `t` the module as it would stand after the whole
request. The check of a key blob comes with its bytes. -/
def chapterCheck (c t : Chip) (who : Requester) (idx sub item v : Nat) (plain : Option Bytes) : Status :=
  let role := (roleOf c who).1
  match idx, sub with
  | 0x1100, 16 =>
    if obj t 0x1100 14 < 125 || 100000 < obj t 0x1100 14 then St.stitchPeriodBad
    else if obj t 0x1100 15 < countNow c + 2 then St.stitchChangeLate else St.ok
  | 0x5080, 1 => St.ok
  | 0x5080, _ => roleTableCheck c t role item
  | 0x50C0, 2 => windowCheck t item
  | 0x50C0, 3 => windowCheck t item
  | 0x50C0, 4 => if v = 1 then windowCheck t item else St.ok
  | 0x54C0, 15 => St.ok
  | 0x54C0, 1 => St.ok
  | 0x54C0, 13 => St.ok
  | 0x54C0, 14 => St.ok
  | 0x54C0, s => queueCfgCheck c t item s
  | 0x2301, s => dlqCheck t (s - 1) v
  | 0x2400, 6 => if c.blz.dumpState = 1 then St.bzBusy else St.ok
  | 0x2400, 10 =>
    if !imageFits c v then St.bzImageRange
    else if c.blz.dumpState = 1 || !c.blz.snapReq.isEmpty || !c.blz.restoreReq.isEmpty then St.bzBusy else St.ok
  | 0x5580, 6 => portCheck t item v 0 0 St.kvConfigBad
  | 0x5580, 7 => portCheck t item v 2 1 St.kvConfigBad
  | 0x5580, 8 => portCheck t item v 0 2 St.kvConfigBad
  | 0x5580, 13 => bucketCheck v
  | 0x5580, 2 => arenaCheck c t item 2 v
  | 0x5580, 3 => arenaCheck c t item 3 v
  | 0x5580, 4 => arenaCheck c t item 4 v
  | 0x5580, 5 => arenaCheck c t item 5 v
  | 0x55C0, 2 => portCheck t item v 0 0 St.srvConfigBad
  | 0x55C0, 3 => portCheck t item v 33 1 St.srvConfigBad
  | 0x55C0, 4 => portCheck t item v 0 2 St.srvConfigBad
  | 0x5600, 2 => portCheck t item v 0 0 St.vidConfigBad
  | 0x5600, 3 => portCheck t item v 2 1 St.vidConfigBad
  | 0x5600, 4 => portCheck t item v 0 2 St.vidConfigBad
  | 0x2700, 7 => if obj t 0x2700 6 < countNow c + 2 then St.srvStageLate else St.ok
  | 0x5801, 2 => if runsPaired c && bitOf v 15 then St.lnRouteBad else St.ok
  | 0x3100, 6 =>
    if c.pair.state ≠ PSt.unpaired then St.prState
    else if obj t 0x3100 5 < countNow c + 2 then St.stitchChangeLate else St.ok
  | 0x3100, 8 =>
    if c.pair.state = PSt.active && (c.pair.hb.map (·.state)) == some PSt.standby then St.ok else St.prState
  | 0x5840, 1 => St.ok
  | 0x5840, 5 => St.ok
  | 0x5840, _ => egressCheck t item
  | 0x3200, 6 =>
    if v < countNow c + 2 then St.stitchChangeLate
    else if c.life.mstate ≠ MState.ready then St.fltState else St.ok
  | 0x3200, 9 => rollCheck t
  | 0x5880, 8 => entryCheck t item v
  | 0x4000, 2 => if v < 300 || obj c 0x4000 1 < v then St.pwrCapBad else St.ok
  | 0x5C00, 2 => if obj t 0x4000 11 < parts16.foldl (fun a p => a + obj t 0x5C00 2 p) 0 then St.pwrResOver else St.ok
  | 0x4100, 2 => mapCheck c (obj t 0x4100 1) (stagedMap t)
  | 0x5C41, 4 => if (reportOf c who).building.isSome then St.dictBusy else St.ok
  | 0x5C43, 2 => blobCheck c item (leBytes 256 v) plain
  | 0xF001, 3 => if fuseAllowed c (obj t 0xF001 1) (obj t 0xF001 2) then St.ok else St.secFuseDenied
  | 0x4200, 3 => trialCheck c v
  | 0x4200, 13 => eraseCheck t
  | 0x4200, 14 => commitCheck c
  | 0x5C80, 2 => chunkCheck c item
  | 0x5CC0, 3 => ctrQueueCheck t item 3 v
  | 0x5CC0, 5 => ctrQueueCheck t item 5 v
  | 0x5CC0, 4 => if blazeIdxOk t item v then St.ok else St.ctrConfigBad
  | 0x5CC0, 6 => if blazeIdxOk t item v then St.ok else St.ctrConfigBad
  | 0x5CC1, 2 => if ctlBad item v then St.ctrConfigBad else St.ok
  | 0x5CC3, 2 => ctrRangeCheck t item
  | 0x5CC3, 3 => ctrRangeCheck t item
  | 0x4400, 3 => stateReqCheck c role v
  | _, _ => St.ok

/-- Steps 7 to 9 of R100 for one part of a write. -/
def valCheck (c t : Chip) (who : Requester) (idx sub item v : Nat) (plain : Option Bytes) : Status :=
  let (role, part) := roleOf c who
  if isWindow idx && sub = 1 then
    if !itemOk c idx v then St.dictSelector
    else if role = 1 && !tenantItem c idx v part then St.dictOutOfPartition else St.ok
  else if !valueOk c idx sub item v then St.dictRange
  else if role = 1 && !tenantWrite t idx sub item v part then St.dictOutOfPartition
  else chapterCheck c t who idx sub item v plain

end Sys2Proof.Machine
end

