-- ==== Sys2Proof/Machine/DictWrite.lean ====
section
/-! DEFINITION. Writes of the dictionary (R72 to R81, R100, R105, R109): storing a value, the doorbells' actions, what follows
from a stored value, and a request of several parts. -/
namespace Sys2Proof.Machine

/-! ### Stored values -/

/-- A value stored in an object that holds one, by its field class (Table 03-2). -/
def storePart (who : Requester) (idx sub item v : Nat) (c : Chip) : Chip :=
  if isWindow idx && sub = 1 then setSel who idx 1 v c else
  match idx, sub with
  | 0x5C41, 3 => setSel who idx 3 v c
  | 0x54C0, 2 => modQueue item (fun q => { q with enable := v == 1, state := if q.state = 2 then 2 else v }) c
  | 0x54C0, 3 => modQueue item (fun q => { q with maxpkt := v }) c
  | 0x54C0, 4 => modQueue item (fun q => { q with cap := v }) c
  | 0x54C0, 5 => modQueue item (fun q => { q with resv := v }) c
  | 0x54C0, 6 => modQueue item (fun q => { q with welt := v == 1 }) c
  | 0x54C0, 13 => modQueue item (fun q => { q with commits := v }) c
  | 0x54C0, 14 => modQueue item (fun q => { q with refused := v }) c
  | 0x5440, 2 => modGrove item (fun g => { g with arith := g.arith - (g.arith &&& (v &&& 0x7E)) }) c
  | 0x5440, 3 => modGrove item (fun g => { g with lossCount := v }) c
  | 0x5440, 4 => modGrove item (fun g => { g with tensorOps := v }) c
  | 0x5CC1, 3 => { c with ctr := { c.ctr with val := tset 0 c.ctr.val item (v % 2 ^ 48) } }
  | 0x3200, 6 => setObj idx sub item v { c with flt := { c.flt with admitArmed := true } }
  | 0x55C1, s => setObj idx s item v { c with srv := { c.srv with staged := tmod 0 c.srv.staged item fun b => bitPut b (s - 3) true } }
  | _, _ => setObj idx sub item v c

/-- Ports whose enable bit is clear are held DOWN; one whose bit is set again trains (0x3000/2, R499). -/
def applyPorts (c : Chip) : Chip :=
  forSpan 0 16 c fun c p =>
    if portEnabled c p then
      (if (port c p).state = Pst.down && 4 ≤ c.life.mstate && c.life.mstate ≤ 8 then modPort p (fun v => { v with state := Pst.training }) c else c)
    else if (port c p).state = Pst.down then c
    else modPort p (fun v => { v with state := Pst.down, locked := false }) (leaveUp p c)

/-- PAIR_MODE is written (R531, R556, Table 16-9): 0 enters UNPAIRED, and any value ends YIELDED. -/
def pairModeSet (v : Nat) (c : Chip) : Chip :=
  if c.pair.state ≠ PSt.unpaired && (v = 0 || c.pair.state = PSt.yielded) then enterUnpaired (clearClaim c) else c

/-- What follows at once from a stored value. -/
def storeEffect (idx sub item v : Nat) (c : Chip) : Chip :=
  match idx, sub with
  | 0x5501, 2 => memWrite (imageAddr (item / 2) (item % 2)) (leBytes 64 v) false c
  | 0x3000, 2 => applyPorts c
  | 0x3100, 1 => pairModeSet v c
  | 0x4000, 2 => recap c
  | 0x4000, 14 => recap c
  | _, _ => c

/-! ### Doorbells -/

/-- What a write carries beside its value: what happens in the same cycle, a key blob's opening, and the bits that fuse
programming reached. -/
structure Side where
  env : WriteEnv := ⟨[], false⟩
  plain : Option Bytes := none
  took : Nat × Nat × Nat × Nat := (0, 0, 0, 0)

/-- Formation is armed (R525): CLAIM is cleared on leaving UNPAIRED (R531). -/
def armPair (c : Chip) : Chip := modPair (fun p => { p with state := PSt.forming, stage := 1 }) (clearClaim c)

/-- A doorbell's action; those that follow the response are `afterResponse`. -/
def actPart (who : Requester) (svc : Nat) (m : FdpReq) (sd : Side) (idx sub item v : Nat) (c : Chip) : Chip :=
  match idx, sub with
  | 0x1100, 16 => { c with time := { c.time with pendArmed := true } }
  | 0x1200, 17 => { c with fdp := { c.fdp with closing := c.fdp.closing ++ [v] } }
  | 0x54C0, 15 => startReset item c
  | 0x2400, 6 => startDump 0 c
  | 0x2400, 9 => { c with blz := { c.blz with snapReq := tput c.blz.snapReq v true } }
  | 0x2400, 10 => { c with blz := { c.blz with restoreReq := tput c.blz.restoreReq v true } }
  | 0x2700, 5 => { c with srv := { c.srv with refillArmed := true } }
  | 0x2700, 7 => { c with srv := { c.srv with stageArmed := true } }
  | 0x5803, 4 => openSession item c
  | 0x3100, 6 => armPair c
  | 0x3100, 8 => modPair (fun p => { p with swapReq := true }) c
  | 0x3200, 9 => { c with flt := { c.flt with rollArmed := true } }
  | 0x3200, 14 => { c with flt := { c.flt with bundle := none } }
  | 0x5880, 6 => { c with flt := { c.flt with restartReq := if c.flt.restartReq.contains item then c.flt.restartReq
                                                              else c.flt.restartReq ++ [item] } }
  | 0x4100, 2 => { c with sec := { c.sec with mapArmed := true } }
  | 0x4100, 6 => debugLock v c
  | 0x5C41, 4 => reportStart who c
  | 0x5C43, 2 => (blobWrite who svc m item (leBytes 256 v) sd.plain c).2
  | 0xF001, 3 => fuseProgram (obj c 0xF001 1) (obj c 0xF001 2) sd.took.1 sd.took.2.1 sd.took.2.2.1 sd.took.2.2.2 c
  | 0x4200, 4 => confirmBank c
  | 0x4200, 6 => restartFirmware c
  | 0x4200, 13 => eraseStart c
  | 0x4200, 14 => commitBank c
  | 0x5C80, 2 => chunkWrite item (leBytes 1024 v) c
  | _, _ => c

/-- Entry to MAINTENANCE (R689, R553, R95, Table 19-2). -/
def enterMaintenance (c : Chip) : Chip :=
  let c := releaseAllParts (haltThreads (endSessions (modPair (fun p => { p with gate := false }) (leavePair St.startState c))))
  enterState MState.maintenance c

/-- What a request causes once its response has been sent: sessions it closes (R88), a module reset 1 ms later (R681), entry
to MAINTENANCE (R689). -/
def afterResponse (parts : List (Nat × Nat)) (idx : Nat) (c : Chip) : Chip :=
  let c := c.fdp.closing.foldl (fun c n => endSession n c) { c with fdp := { c.fdp with closing := [] } }
  if idx = 0x4400 && parts.contains (3, 1) then
    { c with life := { c.life with resetAt := some (now c + 1000000), resetKind := 1 } }
  else if idx = 0x4400 && parts.contains (3, 8) then enterMaintenance c
  else c

/-! ### A request of several parts -/

/-- The values of a span from a payload, if its length matches the types (step 6 of R100). -/
def cutValues (idx : Nat) : List Nat → Bytes → Option (List (Nat × Nat))
  | [], bs => if bs.isEmpty then some [] else none
  | s :: r, bs =>
    let n := ((objAt idx s).map (·.size)).getD 0
    if bs.length < n then none
    else (cutValues idx r (bs.drop n)).map fun l => (s, leNat (bs.take n)) :: l

/-- The class of an object. -/
def clsOf (idx sub : Nat) : Nat := ((objAt idx sub).map (·.cls)).getD 0
/-- Stored objects among parts (R81). -/
def storedCount (idx : Nat) (parts : List (Nat × Nat)) : Nat :=
  parts.countP fun e => ((objAt idx e.1).map (·.pers)).getD 2 == 1
/-- Stored writes performed in the last second (R81). -/
def recentWrites (c : Chip) : List Nat := c.dict.writes.filter fun t => now c < t + 1000000000

/-- The item that a request's window objects name: its own selector value where it writes one, else the requester's. -/
def itemOf (c : Chip) (who : Requester) (idx : Nat) (parts : List (Nat × Nat)) : Nat :=
  if isWindow idx then ((parts.find? fun e => e.1 == 1).map (·.2)).getD (selOf c who idx 1) else 0

/-- The module as it would stand after a request's values (R100). -/
def trial (who : Requester) (idx item : Nat) (parts : List (Nat × Nat)) (c : Chip) : Chip :=
  parts.foldl (fun c e => if clsOf idx e.1 = 6 then c else storePart who idx e.1 item e.2 c) c

/-- The first failing check of the first failing part (R100). -/
def firstFail (c t : Chip) (who : Requester) (idx item : Nat) (plain : Option Bytes) : List (Nat × Nat) → Status
  | [] => St.ok
  | (s, v) :: r =>
    let st := preCheck c who true idx s item
    if st ≠ St.ok then st
    else
      let st := valCheck c t who idx s item v plain
      if st ≠ St.ok then st else firstFail c t who idx item plain r

/-- WRITE_LOST of the block that holds an RWH object (R74). -/
def markLost (idx item : Nat) (c : Chip) : Chip :=
  if idx = 0x50C0 then { c with host := { c.host with vfWriteLost := tput c.host.vfWriteLost (item / 16 + 1) true } }
  else if idx = 0x3100 then modPair (fun p => { p with writeLost := true }) c
  else { c with dict := { c.dict with lost := tput c.dict.lost idx true } }

/-- Whether a hardware update wins over a write of a part (R72, R75). -/
def partLost (sd : Side) (idx sub : Nat) : Bool := clsOf idx sub == 2 && sd.env.hw.contains sub

/-- One part of an accepted request takes effect. -/
def applyPart (who : Requester) (svc : Nat) (m : FdpReq) (sd : Side) (idx item : Nat) (c : Chip) (e : Nat × Nat) : Chip :=
  if partLost sd idx e.1 then markLost idx item c
  else if clsOf idx e.1 = 6 then actPart who svc m sd idx e.1 item e.2 c
  else storeEffect idx e.1 item e.2 (storePart who idx e.1 item e.2 c)

/-- What a refused write leaves behind: the record of a refused key blob (R624) and of a refused image (R642), and policy
firmware's count (R653). -/
def refusedWrite (who : Requester) (idx item : Nat) (parts : List (Nat × Nat)) (st : Status) (c : Chip) : Chip :=
  let c := if who == .policy && countsDenied idx st then denied c else c
  if idx = 0x5C43 && 0x0E06 ≤ st.toNat && st.toNat ≤ 0x0E0D then
    match parts.find? fun e => e.1 == 2 with
    | some e => emit Src.security st (some item) (blobDetail item (leBytes 256 e.2)) c
    | none => c
  else if idx = 0x4200 && st == St.fwFormat && parts.any (fun e => e.1 == 14) then commitRefused c
  else c

/-- A write of several parts: the checks in their order, then every value in ascending subindex order (R81, R100, R105).
The status, whether the response is kept (R104), and the module. -/
def writeParts (who : Requester) (svc : Nat) (m : FdpReq) (sd : Side) (idx : Nat) (parts : List (Nat × Nat)) (c : Chip) :
    Status × Bool × Chip :=
  let item := itemOf c who idx parts
  let t := trial who idx item parts c
  let st := firstFail c t who idx item sd.plain parts
  let n := storedCount idx parts
  if st ≠ St.ok then (st, true, refusedWrite who idx item parts st c)
  else if n ≠ 0 && 8 < (recentWrites c).length + n then (St.dictBusy, false, c)
  else if n ≠ 0 && sd.env.storeFail then (St.dictStoreFail, true, c)
  else
    let c := { c with dict := { c.dict with writes := recentWrites c ++ List.replicate n (now c) } }
    let c := parts.foldl (applyPart who svc m sd idx item) c
    (if parts.any (fun e => partLost sd idx e.1) then St.dictWriteLost else St.ok, true, c)

/-- Whether a request leaves a key blob's installation to be answered (R625, R626). -/
def defersAnswer (idx : Nat) (parts : List (Nat × Nat)) : Bool := idx == 0x5C43 && parts.any fun e => e.1 == 2

/-- Steps 1 to 5 for the first part of a span whose length is wrong, then DICT_LENGTH (R100). -/
def lengthFail (c : Chip) (who : Requester) (write : Bool) (idx item : Nat) (subs : List Nat) : Status :=
  match subs with
  | [] => St.dictLength
  | s :: _ => let st := preCheck c who write idx s item; if st ≠ St.ok then st else St.dictLength

/-- Whether every subindex of a span exists (R99, step 1 of R100). -/
def spanCheck (idx : Nat) (subs : List Nat) : Status :=
  if (objsAt idx).isNone then St.dictNoObject
  else if subs.any fun s => (objAt idx s).isNone then St.dictNoSubindex else St.ok

end Sys2Proof.Machine
end

