-- ==== Sys2Proof/Machine/Dict.lean ====
section
/-! DEFINITION. The dictionary engine's services (R96 to R105, Table 03-8) and their rows. -/
namespace Sys2Proof.Machine

/-! ### Reads -/

/-- Steps 1 to 8 of R100 for the parts of a read: the first failing check. -/
def readFail (c : Chip) (who : Requester) (idx item : Nat) : List Nat → Status
  | [] => St.ok
  | s :: r =>
    let (role, part) := roleOf c who
    let st := preCheck c who false idx s item
    if st ≠ St.ok then st
    else if role = 1 && ((isWindow idx && s ≠ 0 && s ≠ 1 && !tenantItem c idx item part) ||
        (idx == 0x2301 && s ≠ 0 && s ≠ part + 1)) then St.dictOutOfPartition
    else readFail c who idx item r

/-- The values of a span, in ascending subindex order, from one state of the item (R77, R109). -/
def readSpan (who : Requester) (idx item : Nat) : List Nat → Chip → Bytes × Chip
  | [], c => ([], c)
  | s :: r, c =>
    let (b, c) := dictRead who idx s item c
    let (bs, c) := readSpan who idx item r c
    (b ++ bs, c)

/-- Bytes of a span. -/
def spanSize (idx : Nat) (subs : List Nat) : Nat := subs.foldl (fun a s => a + ((objAt idx s).map (·.size)).getD 0) 0

/-- A refused read (R653). -/
def refusedRead (who : Requester) (st : Status) (c : Chip) : Chip :=
  if who == .policy && st == St.fwDenied then denied c else c

/-- READ and READ_LIST. -/
def serveRead (who : Requester) (m : FdpReq) (c : Chip) : Resp × Bool × Chip :=
  let idx := m.index.toNat
  let subs := span m.sub.toNat m.count.toNat
  let item := if isWindow idx then selOf c who idx 1 else 0
  let st := spanCheck idx subs
  let st := if st ≠ St.ok then st
    else if !m.payload.isEmpty || 1176 < spanSize idx subs then lengthFail c who false idx item subs
    else readFail c who idx item subs
  if st ≠ St.ok then (⟨st, false, []⟩, true, refusedRead who st c)
  else
    let (b, c) := readSpan who idx item subs c
    (⟨St.ok, false, b⟩, true, c)

/-- The checks of the selector of a WINDOW_READ, which every role that may read the group sets for itself (R107 to R109). -/
def selectorCheck (c : Chip) (who : Requester) (idx v : Nat) : Status :=
  let (role, part) := roleOf c who
  let st := preCheck c who false idx 1 v
  if st ≠ St.ok then st
  else if !itemOk c idx v then St.dictSelector
  else if role = 1 && !tenantItem c idx v part then St.dictOutOfPartition else St.ok

/-- WINDOW_READ. -/
def serveWindowRead (who : Requester) (m : FdpReq) (c : Chip) : Resp × Bool × Chip :=
  let idx := m.index.toNat
  let subs := span m.sub.toNat m.count.toNat
  let n := ((objAt idx 1).map (·.size)).getD 0
  let v := leNat m.payload
  let st := spanCheck idx subs
  let st := if !isWindow idx then St.dictNoObject
    else if st ≠ St.ok then st
    else if m.payload.length ≠ n || 1176 < spanSize idx subs then lengthFail c who false idx v (1 :: subs)
    else
      let st := selectorCheck c who idx v
      if st ≠ St.ok then st else readFail c who idx v subs
  if st ≠ St.ok then (⟨st, false, []⟩, true, refusedRead who st c)
  else
    let (b, c) := readSpan who idx v subs (setSel who idx 1 v c)
    (⟨St.ok, false, b⟩, true, c)

/-- RECORD_FETCH (R102): at most 18 records strictly after the key. -/
def serveFetch (m : FdpReq) (c : Chip) : Resp × Bool × Chip :=
  let b := m.payload
  if b.length ≠ 13 then (⟨St.dictLength, false, []⟩, true, c)
  else
    let t := dfield b 0 8
    let mo := dfield b 8 2
    let src := dfield b 10 2
    let n := min 18 (dfield b 12 1)
    let after := c.flt.log.filter fun r => decide (t < r.time) || (r.time == t && (decide (mo < r.module) ||
      (r.module == mo && decide (src < r.source.toNat))))
    (⟨St.ok, decide (n < after.length), ((after.take n).map recBytes).flatten⟩, true, c)

/-- IDENTIFY (R98, Table 03-8). -/
def identifyBytes (c : Chip) : Bytes :=
  leBytes 2 c.moduleId ++ leBytes 1 (obj c 0x1000 21) ++ leBytes 1 (obj c 0x1000 1) ++ leBytes 8 c.life.incarnation.toNat ++
  leBytes 1 c.life.mstate ++ leBytes 3 0

/-- The rights that DESCRIBE shows (R711). -/
def shownRights (o : ObjDef) : Nat :=
  (span 0 4).foldl (fun a r =>
    let b := roleBits o r
    a + (if o.cls = 0 then b % 2 else if o.cls = 6 then b / 2 * 2 else b) * 4 ^ r) 0

/-- DESCRIBE (R711, Table 03-8): refused where the role holds no right at all. -/
def serveDescribe (who : Requester) (m : FdpReq) (c : Chip) : Resp × Bool × Chip :=
  let idx := m.index.toNat
  let sub := m.sub.toNat
  let st := spanCheck idx [sub]
  match objAt idx sub with
  | none => (⟨st, false, []⟩, true, c)
  | some o =>
    let st := if who == .policy && decide (0xF000 ≤ idx) then St.fwDenied
      else if lockedRange c idx then St.dictLocked
      else if roleBits o (roleOf c who).1 = 0 then St.dictRole
      else if !m.payload.isEmpty then St.dictLength else St.ok
    if st ≠ St.ok then (⟨st, false, []⟩, true, refusedRead who st c)
    else
      let d := if o.pers = 0 then dictVal c who idx sub 0 else o.dflt
      (⟨St.ok, false, leBytes 1 o.ty ++ leBytes 2 o.size ++ leBytes 1 o.cls ++ leBytes 1 o.pers ++ leBytes 1 (shownRights o) ++
        leBytes o.size d⟩, true, c)

/-! ### Writes -/

/-- WRITE and WRITE_LIST. -/
def serveWrite (who : Requester) (svc : Nat) (m : FdpReq) (sd : Side) (c : Chip) : Resp × Bool × List (Nat × Nat) × Chip :=
  let idx := m.index.toNat
  let subs := span m.sub.toNat m.count.toNat
  let item := if isWindow idx then selOf c who idx 1 else 0
  let st := spanCheck idx subs
  match cutValues idx subs m.payload with
  | none =>
    let st := if st ≠ St.ok then st else lengthFail c who true idx item subs
    (⟨st, false, []⟩, true, [], refusedWrite who idx item [] st c)
  | some parts =>
    if st ≠ St.ok then (⟨st, false, []⟩, true, [], c)
    else
      let (st, keep, c) := writeParts who svc m sd idx parts c
      (⟨st, false, []⟩, keep, if st = St.ok || st = St.dictWriteLost then parts else [], c)

/-- WINDOW_WRITE (R109): the selector's value, then the window objects. -/
def serveWindowWrite (who : Requester) (m : FdpReq) (sd : Side) (c : Chip) : Resp × Bool × List (Nat × Nat) × Chip :=
  let idx := m.index.toNat
  let subs := span m.sub.toNat m.count.toNat
  let st := spanCheck idx subs
  if !isWindow idx then (⟨St.dictNoObject, false, []⟩, true, [], c)
  else if st ≠ St.ok then (⟨st, false, []⟩, true, [], c)
  else match cutValues idx (1 :: subs) m.payload with
  | none =>
    let st := lengthFail c who true idx (selOf c who idx 1) (1 :: subs)
    (⟨st, false, []⟩, true, [], refusedWrite who idx 0 [] st c)
  | some parts =>
    let (st, keep, c) := writeParts who 6 m sd idx parts c
    (⟨st, false, []⟩, keep, if st = St.ok || st = St.dictWriteLost then parts else [], c)

/-! ### The engine -/

/-- Whether the dictionary is served (Table 22-1): in BOOT from the start of L0. -/
def dictServed (c : Chip) : Bool :=
  c.life.mstate != MState.off && !(c.life.mstate == MState.boot && c.life.phase < 3)

/-- The service of a request whose header and incarnation passed: its response, whether it is kept, the parts that took
effect, and the module. -/
def service (who : Requester) (m : DMsg) (sd : Side) (c : Chip) : Resp × Bool × List (Nat × Nat) × Chip :=
  let plain (r : Resp × Bool × Chip) : Resp × Bool × List (Nat × Nat) × Chip := (r.1, r.2.1, [], r.2.2)
  match m.svc with
  | 1 => plain (serveRead who m.req c)
  | 2 => serveWrite who 2 m.req sd c
  | 3 => plain (serveRead who m.req c)
  | 4 => serveWrite who 4 m.req sd c
  | 5 => plain (serveWindowRead who m.req c)
  | 6 => serveWindowWrite who m.req sd c
  | 7 => plain (serveFetch m.req c)
  | 8 => if m.req.payload.isEmpty then (⟨St.ok, false, identifyBytes c⟩, true, [], c) else (⟨St.dictLength, false, []⟩, true, [], c)
  | _ => plain (serveDescribe who m.req c)

/-- The source and details of a stale request's record (R98, Table 17-10). -/
def staleDetail (who : Requester) (m : DMsg) : List Nat :=
  let w := match who with
    | .session n => n.toNat
    | _ => 0xFF
  [m.req.inc.toNat, m.req.reqId.toNat + w * 2 ^ 32, m.svc + m.req.index.toNat * 2 ^ 8 + m.req.sub.toNat * 2 ^ 24]

/-- The dictionary engine serves one request (R98, R104, R105): a kept answer is sent again, a reused REQ_ID and a stale
incarnation are refused, and every other request is served. -/
def serve (who : Requester) (m : DMsg) (sd : Side) (c : Chip) : Chip :=
  if !dictServed c then c else
  match beginReq who m c with
  | none => c
  | some c =>
    if !countsOk m.svc m.req.count.toNat m.req.payload.length then answerHeader who m St.fdpBadHeader c else
    match (keptOf c who).find? fun k => k.msg.req.reqId == m.req.reqId with
    | some k =>
      if sameReq k.msg m then respond false who m k.resp c
      else respond false who m ⟨St.fdpIdReused, false, []⟩ c
    | none =>
      if m.svc ≠ 8 && m.req.inc ≠ c.life.incarnation then
        respond true who m ⟨St.fdpStaleIncarnation, false, []⟩ (emit (dictSource c) St.fdpStaleIncarnation none (staleDetail who m) c)
      else
        let (r, keep, parts, c) := service who m sd c
        let c := settle c
        if defersAnswer m.req.index.toNat parts then c
        else afterResponse parts m.req.index.toNat (respond keep who m r c)

/-- The header of a one-object write. -/
def oneWrite (h : ReqHdr) (idx sub n v : Nat) : DMsg :=
  ⟨2, ⟨h.reqId, h.inc, BitVec.ofNat 16 idx, BitVec.ofNat 8 sub, 1, leBytes n v⟩⟩

/-- The header of a one-object WINDOW_WRITE, whose selector has `sn` bytes. -/
def windowWrite (h : ReqHdr) (idx sub sn sel : Nat) (bs : Bytes) : DMsg :=
  ⟨6, ⟨h.reqId, h.inc, BitVec.ofNat 16 idx, BitVec.ofNat 8 sub, 1, leBytes sn sel ++ bs⟩⟩

/-- What a general write carries of itself: the opening of a key blob it may hold (R623), and the bits that fuse programming
reaches, which no rule gives (R636; DESIGN CHOICE, log 2). -/
def sideOf (env : WriteEnv) (m : FdpReq) (c : Chip) : Side × Chip :=
  let idx := m.index.toNat
  if idx = 0x5C43 then
    let bs := m.payload.drop (m.payload.length - 256)
    (⟨env, Config.openBlob c.sec.kwkPriv bs, (0, 0, 0, 0)⟩, c)
  else if idx = 0xF001 then
    let (a, c) := drawFree c
    let (b, c) := drawFree c
    (⟨env, none, (a.toNat % 2 ^ 32, a.toNat / 2 ^ 32, b.toNat % 2 ^ 32, b.toNat / 2 ^ 32)⟩, c)
  else (⟨env, none, (0, 0, 0, 0)⟩, c)

/-- A general write is served with what it carries of itself. -/
def serveGeneral (who : Requester) (svc : Nat) (m : FdpReq) (env : WriteEnv) (c : Chip) : Chip :=
  let (sd, c) := sideOf env m c
  serve who ⟨svc, m⟩ sd c

/-- A one-object write by a row of its own. -/
def serveOne (who : Requester) (m : DMsg) (env : WriteEnv) (c : Chip) : Chip := serve who m { env := env } c
/-- No hardware update and no failure of the store. -/
def noEnv : WriteEnv := ⟨[], false⟩

end Sys2Proof.Machine
end

