-- ==== Sys2Proof/Machine/DictCommands.lean ====
section
/-! DEFINITION. The rows that are requests to the dictionary: the services of Table 03-8, and the writes of one object that
have a row of their own, each in the chapter that owns the object. -/
namespace Sys2Proof.Machine

/-! ### The services (03) -/

/-- READ (R100, R101). -/
def execRead (who : Requester) (r : FdpReq) (s : State) : Out := act s (serve who ⟨1, r⟩ {})
/-- WRITE (R100). -/
def execWrite (who : Requester) (r : FdpReq) (env : WriteEnv) (s : State) : Out := act s (serveGeneral who 2 r env)
/-- READ_LIST (R77, R100). -/
def execReadList (who : Requester) (r : FdpReq) (s : State) : Out := act s (serve who ⟨3, r⟩ {})
/-- WRITE_LIST (R100). -/
def execWriteList (who : Requester) (r : FdpReq) (env : WriteEnv) (s : State) : Out := act s (serveGeneral who 4 r env)
/-- WINDOW_READ (R109). -/
def execWindowRead (who : Requester) (r : FdpReq) (s : State) : Out := act s (serve who ⟨5, r⟩ {})
/-- WINDOW_WRITE (R109). -/
def execWindowWrite (who : Requester) (r : FdpReq) (env : WriteEnv) (s : State) : Out := act s (serveGeneral who 6 r env)
/-- RECORD_FETCH (R102). -/
def execRecordFetch (who : Requester) (r : FdpReq) (s : State) : Out := act s (serve who ⟨7, r⟩ {})
/-- IDENTIFY (R98). -/
def execIdentify (who : Requester) (r : FdpReq) (s : State) : Out := act s (serve who ⟨8, r⟩ {})
/-- DESCRIBE (R711). -/
def execDescribe (who : Requester) (r : FdpReq) (s : State) : Out := act s (serve who ⟨9, r⟩ {})

/-! ### Writes of one object -/

/-- HOLDOVER_MAX_S, 0x1100/7 (R41). -/
def execHoldoverMaxS (who : Requester) (h : ReqHdr) (v : BitVec 16) (env : WriteEnv) (s : State) : Out :=
  act s (serveOne who (oneWrite h 0x1100 7 2 v.toNat) env)

/-- PEND_ARM, 0x1100/16 (R51). -/
def execPendArm (who : Requester) (h : ReqHdr) (v : BitVec 8) (s : State) : Out :=
  act s (serveOne who (oneWrite h 0x1100 16 1 v.toNat) noEnv)

/-- SESSION_CLOSE, 0x1200/17 (R88). -/
def execSessionClose (who : Requester) (h : ReqHdr) (v : BitVec 8) (s : State) : Out :=
  act s (serveOne who (oneWrite h 0x1200 17 1 v.toNat) noEnv)

/-- Q_RESET_REQ, 0x54C0/15, with its selector (R329). -/
def execQResetReq (who : Requester) (h : ReqHdr) (q : BitVec 32) (v : BitVec 8) (s : State) : Out :=
  act s (serveOne who (windowWrite h 0x54C0 15 4 q.toNat [v]) noEnv)

/-- BZ_SNAP_REQ, 0x2400/9 (R353). -/
def execBzSnapReq (who : Requester) (h : ReqHdr) (v : BitVec 8) (s : State) : Out :=
  act s (serveOne who (oneWrite h 0x2400 9 1 v.toNat) noEnv)

/-- BZ_RESTORE_REQ, 0x2400/10 (R354). -/
def execBzRestoreReq (who : Requester) (h : ReqHdr) (v : BitVec 8) (s : State) : Out :=
  act s (serveOne who (oneWrite h 0x2400 10 1 v.toNat) noEnv)

/-- DUMP_REQ, 0x2400/6 (R356). -/
def execDumpReq (who : Requester) (h : ReqHdr) (v : BitVec 8) (s : State) : Out :=
  act s (serveOne who (oneWrite h 0x2400 6 1 v.toNat) noEnv)

/-- REFILL_ARM, 0x2700/5 (R452). -/
def execRefillArm (who : Requester) (h : ReqHdr) (v : BitVec 8) (s : State) : Out :=
  act s (serveOne who (oneWrite h 0x2700 5 1 v.toNat) noEnv)

/-- STAGE_ARM, 0x2700/7 (R451). -/
def execStageArm (who : Requester) (h : ReqHdr) (v : BitVec 8) (s : State) : Out :=
  act s (serveOne who (oneWrite h 0x2700 7 1 v.toNat) noEnv)

/-- SES_OPEN, 0x5803/4, with its selector (R504). -/
def execSesOpen (who : Requester) (h : ReqHdr) (peer : BitVec 16) (v : BitVec 8) (s : State) : Out :=
  act s (serveOne who (windowWrite h 0x5803 4 2 peer.toNat [v]) noEnv)

/-- PAIR_ARM, 0x3100/6 (R525). -/
def execPairArm (who : Requester) (h : ReqHdr) (v : BitVec 8) (s : State) : Out :=
  act s (serveOne who (oneWrite h 0x3100 6 1 v.toNat) noEnv)

/-- PAIR_SWAP, 0x3100/8 (R557). -/
def execPairSwap (who : Requester) (h : ReqHdr) (v : BitVec 8) (s : State) : Out :=
  act s (serveOne who (oneWrite h 0x3100 8 1 v.toNat) noEnv)

/-- PAIR_MODE, 0x3100/1 (R525, R556). -/
def execPairMode (who : Requester) (h : ReqHdr) (v : BitVec 8) (env : WriteEnv) (s : State) : Out :=
  act s (serveOne who (oneWrite h 0x3100 1 1 v.toNat) env)

/-- PRT_RESTART, 0x5880/6, with its selector (R568). -/
def execPrtRestart (who : Requester) (h : ReqHdr) (p : BitVec 8) (v : BitVec 8) (s : State) : Out :=
  act s (serveOne who (windowWrite h 0x5880 6 1 p.toNat [v]) noEnv)

/-- ROLL_ARM, 0x3200/9 (R580). -/
def execRollArm (who : Requester) (h : ReqHdr) (v : BitVec 8) (s : State) : Out :=
  act s (serveOne who (oneWrite h 0x3200 9 1 v.toNat) noEnv)

/-- ADMIT_AT, 0x3200/6 (R582). -/
def execAdmitAt (who : Requester) (h : ReqHdr) (v : Word) (env : WriteEnv) (s : State) : Out :=
  act s (serveOne who (oneWrite h 0x3200 6 8 v.toNat) env)

/-- PM_CLEAR, 0x3200/14 (R575). -/
def execPmClear (who : Requester) (h : ReqHdr) (v : BitVec 8) (s : State) : Out :=
  act s (serveOne who (oneWrite h 0x3200 14 1 v.toNat) noEnv)

/-- POLICY_CAP, 0x4000/2 (R588). -/
def execPolicyCap (who : Requester) (h : ReqHdr) (v : BitVec 16) (env : WriteEnv) (s : State) : Out :=
  act s (serveOne who (oneWrite h 0x4000 2 2 v.toNat) env)

/-- MAP_ARM, 0x4100/2 (R615). -/
def execMapArm (who : Requester) (h : ReqHdr) (v : BitVec 8) (s : State) : Out :=
  act s (serveOne who (oneWrite h 0x4100 2 1 v.toNat) noEnv)

/-- KEY_BLOB, 0x5C43/2, with its selector (R622 to R626); `plain` is what the security engine's opening of the blob gives. -/
def execKeyBlob (who : Requester) (h : ReqHdr) (sel : BitVec 8) (blob : Bytes) (plain : Option Bytes) (s : State) : Out :=
  act s (serve who (windowWrite h 0x5C43 2 1 sel.toNat blob) { env := noEnv, plain := plain })

/-- ATT_GEN, 0x5C41/4, with its selector (R632). -/
def execAttGen (who : Requester) (h : ReqHdr) (sel : BitVec 8) (v : BitVec 8) (s : State) : Out :=
  act s (serveOne who (windowWrite h 0x5C41 4 1 sel.toNat [v]) noEnv)

/-- DEBUG_LOCK, 0x4100/6 (R637). -/
def execDebugLock (who : Requester) (h : ReqHdr) (v : BitVec 8) (s : State) : Out :=
  act s (serveOne who (oneWrite h 0x4100 6 1 v.toNat) noEnv)

/-- FUSE_PROG, 0xF001/3 (R636); the operands are the bits that the programming reached, at either margin. -/
def execFuseProg (who : Requester) (h : ReqHdr) (v : BitVec 8) (tookLow tookHigh copyLow copyHigh : BitVec 32) (s : State) : Out :=
  act s (serve who (oneWrite h 0xF001 3 1 v.toNat)
    { env := noEnv, took := (tookLow.toNat, tookHigh.toNat, copyLow.toNat, copyHigh.toNat) })

/-- FW_ERASE, 0x4200/13 (R641). -/
def execFwErase (who : Requester) (h : ReqHdr) (v : BitVec 8) (s : State) : Out :=
  act s (serveOne who (oneWrite h 0x4200 13 1 v.toNat) noEnv)

/-- FW_CHUNK, 0x5C80/2, with its selector (R641). -/
def execFwChunk (who : Requester) (h : ReqHdr) (sel : BitVec 16) (data : Bytes) (s : State) : Out :=
  act s (serveOne who (windowWrite h 0x5C80 2 2 sel.toNat data) noEnv)

/-- FW_COMMIT, 0x4200/14 (R642). -/
def execFwCommit (who : Requester) (h : ReqHdr) (v : BitVec 8) (s : State) : Out :=
  act s (serveOne who (oneWrite h 0x4200 14 1 v.toNat) noEnv)

/-- FW_TRIAL, 0x4200/3 (R644). -/
def execFwTrial (who : Requester) (h : ReqHdr) (v : BitVec 8) (env : WriteEnv) (s : State) : Out :=
  act s (serveOne who (oneWrite h 0x4200 3 1 v.toNat) env)

/-- FW_CONFIRM, 0x4200/4 (R644). -/
def execFwConfirm (who : Requester) (h : ReqHdr) (v : BitVec 8) (s : State) : Out :=
  act s (serveOne who (oneWrite h 0x4200 4 1 v.toNat) noEnv)

/-- FW_RESTART, 0x4200/6 (R651). -/
def execFwRestart (who : Requester) (h : ReqHdr) (v : BitVec 8) (s : State) : Out :=
  act s (serveOne who (oneWrite h 0x4200 6 1 v.toNat) noEnv)

/-- MODULE_RESET_REQ: 0x4400/3 written 1 (R681). -/
def execModuleResetReq (who : Requester) (h : ReqHdr) (v : BitVec 8) (s : State) : Out :=
  act s (serveOne who (oneWrite h 0x4400 3 1 v.toNat) noEnv)

/-- MAINTENANCE_REQ: 0x4400/3 written 8 (R689). -/
def execMaintenanceReq (who : Requester) (h : ReqHdr) (v : BitVec 8) (s : State) : Out :=
  act s (serveOne who (oneWrite h 0x4400 3 1 v.toNat) noEnv)

end Sys2Proof.Machine
end

