-- ==== Sys2Proof/Machine/Boundary.lean ====
section
/-! DEFINITION. The boundary sequence of R28 with everything that other chapters place in it, performed once for the stitch
that begins (R49, R708). -/
namespace Sys2Proof.Machine

/-! ### Step 1: the stitch is closed -/

/-- A thread's stitch-overrun trap: an interrupt to S mode that nothing masks (R57, R131). -/
def overrunTrap (t : Nat) (c : Chip) : Chip :=
  modHart t (fun h =>
    let h' := hartTrap ⟨16, 0, some St.stitchOverrun, true⟩ { h with priv := min h.priv 1 }
    if h.state = .halted then { h' with resume := .ready, wait := .none } else { h' with state := .ready, wait := .none }) c

/-- Hard-class threads of a partition that have not finished the present stitch (R55). -/
def unfinished (c : Chip) (p : Nat) : List Nat :=
  (threadsOf c p).filter fun t =>
    let h := hart c t
    h.hard && h.state != .empty && !(h.state == .sleepStitch && !hasIssued c t)

/-- The partitions that overran, one bit each. No tenant work runs outside READY, SERVICE and DEGRADED (Table 22-1, R708). -/
def overruns (c : Chip) : Nat := if running c then partBits fun p => assigned c p && !(unfinished c p).isEmpty else 0

/-- One partition's overrun of the stitch that closes (R57). -/
def overrunPart (n p : Nat) (c : Chip) : Chip :=
  let us := unfinished c p
  let c := emit Src.timebase St.stitchOverrun (some p) [n, us.length] c
  let c := us.foldl (fun c t => rewindThread t (abortTags t c)) c
  let c := us.foldl (fun c t => overrunTrap t c) (discardHard p n c)
  let c := modPartFlt p (fun f => { f with lastOverrun := n }) c
  bump 0x1100 18 0 1 { c with time := { c.time with lastOverrun := n } }

/-- Every overrun of the stitch that closes. -/
def closeStitch (n overs : Nat) (c : Chip) : Chip :=
  parts16.foldl (fun c p => if bitOf overs p then overrunPart n p c else c) c

/-! ### Step 2: soft-class work stops -/

/-- Mover chains of a soft-class thread pause or go on (R58). -/
def pauseMovers (on : Bool) (hs : Tbl Hart) (e : Nat × Tag) : Nat × Tag :=
  match e.2.op with
  | .mover o => if (tget {} hs e.2.owner).hard then e else (e.1, { e.2 with op := .mover { o with paused := on } })
  | _ => e

/-- Mover chains of every soft-class thread pause or go on. -/
def pauseAll (on : Bool) (c : Chip) : Chip :=
  { c with groves := c.groves.map fun e => (e.1, { e.2 with tags := e.2.tags.map (pauseMovers on c.harts) }) }

/-- Soft-class threads stop issuing, and their transfers pause (R58). -/
def softStop (c : Chip) : Chip :=
  let c := pauseAll true c
  { c with harts := c.harts.map fun e =>
    if !e.2.hard && e.2.state == .ready then (e.1, { e.2 with state := .preempted }) else e }

/-- Step 6: soft-class work resumes where tenant work runs (R28, Table 04-2). -/
def softResume (c : Chip) : Chip :=
  if !running c then c else
    let c := pauseAll false c
    { c with harts := c.harts.map fun e => if e.2.state == .preempted then (e.1, { e.2 with state := .ready }) else e }

/-! ### Steps 3 to 5 -/

/-- Targets requested during the closed stitch take effect, and floors whose conditions have lifted (R21, R654, R603). -/
def applyClocks (c : Chip) : Chip :=
  floorRestore { c with pwr := { c.pwr with
    stand := forSpan 0 8 [] fun t s => tset 1500000 t s (obj c 0x4201 (s + 1))
    video := obj c 0x4201 9
    rotShift := parts16.foldl (fun t p => tset 0 t p (obj c 0x5C00 6 p)) [] } }

/-- An armed change of period applies at the first boundary at or above its count (R52, R707). -/
def periodApply (n : Nat) (c : Chip) : Chip :=
  let t := c.time
  if !t.pendArmed || n < obj c 0x1100 15 then c else
    { c with time := { t with
      anchorTime := timeOfCount t n, anchorCount := n, periodUs := obj c 0x1100 14, pendArmed := false } }

/-- The event of every source that corrected errors in the closed stitch (R283). -/
def correctedReports (closed : Nat) (c : Chip) : Chip :=
  c.mem.corrected.foldl (fun c e => emit (BitVec.ofNat 16 e.1) St.memCorrected none [e.2, closed] c)
    { c with mem := { c.mem with corrected := [] } }

/-- Blaze images that were requested are taken and applied, and shrunken ranges that are clear leave (R353, R354, R339). -/
def blazeRequests (c : Chip) : Chip :=
  let snap := c.blz.snapReq
  let rest := c.blz.restoreReq
  let c := { c with blz := { c.blz with snapReq := [], restoreReq := [] } }
  let c := snap.foldl (fun c e => takeImage e.1 c) c
  shrinkDone (rest.foldl (fun c e => restoredEvent e.1 (applyImage e.1 c)) c)

/-- Staged budget values apply, then an armed refill (R450, R451, R707). -/
def budgets (n : Nat) (c : Chip) : Chip :=
  let c := if c.srv.stageArmed && obj c 0x2700 6 ≤ n then
      stageApply { c with srv := { c.srv with stageArmed := false } } else c
  if c.srv.refillArmed then refill { c with srv := { c.srv with refillArmed := false } } else c

/-- The Warden's part: reservations lapse, waiting requests age, the pool is computed and the new reservations stand
(R194, R590, R597, R599). -/
def wardenBoundary (c : Chip) : Chip := resGrant (poolCompute (licTimeouts (resLapse c)))

/-! ### Step 6 -/

/-- Requested classes take effect (R122), and sleeps end (R121, R206, R346). -/
def dispatchWork (c : Chip) : Chip :=
  let c := { c with harts := c.harts.map fun e =>
    (e.1, { e.2 with
      hard := e.2.clsReq
      state := if e.2.state = .sleepStitch then .ready else e.2.state
      wait := if e.2.state = .sleepStitch then .none else e.2.wait }) }
  softResume (wakeAllBlaze c)

/-- What is recorded at most once a stitch may be recorded again. -/
def newStitch (n : Nat) (c : Chip) : Chip :=
  { c with
    time := { c.time with curCount := n }
    kv := { c.kv with blockedSaid := [] }
    srv := { c.srv with blockedSaid := [] }
    vid := { c.vid with blockedSaid := [], outSaid := false }
    fw := { c.fw with lateSaid := [] } }

/-! ### The sequence -/

/-- Steps 1 and 2 of R28, with BOUNDARY and what follows them (R540, R557): the partitions that overran, and the module. -/
def boundaryClose (closed n at_ : Nat) (c : Chip) : Nat × Chip :=
  let c := suppressReports closed (newStitch n c)
  let c := if closed / 2 ^ 32 = n / 2 ^ 32 then c else emit Src.timebase St.stitchEpochWrap none [n / 2 ^ 32] c
  let overs := overruns c
  let c := softStop (closeStitch closed overs c)
  (overs, swapYield (boundarySend n at_ overs (correctedReports closed c)))

/-- Steps 3 to 5 of R28 and what other chapters place before step 6. -/
def boundaryApply (n at_ : Nat) (c : Chip) : Chip :=
  let c := wardenBoundary (applyClocks (snapshotCounters n at_ c))
  let c := blazeRequests (bandwidthStep n at_ c)
  let c := if rollDue c n then c else ckptImages n c
  mapApply n (budgets n (periodApply n c))

/-- Restarts, rollback and admission, the pair's formation, held epochs and the fault collector's reports. -/
def boundaryDomain (n : Nat) (c : Chip) : Chip :=
  admission n (rollbackDue n (restartsDue (formBoundary n (heldEpochs (shadowStep (wrapReport c))))))

/-- The boundary sequence for the stitch that the count now names. -/
def boundarySeq (c : Chip) : Chip :=
  let closed := c.time.curCount
  let n := countNow c
  let at_ := boundaryOf c.time (now c)
  let (overs, c) := boundaryClose closed n at_ c
  let c := boundaryApply n at_ c
  let roll := rollDue c n
  let c := ckptBegin roll n (dispatchWork (boundaryDomain n c))
  settle (boundaryHooks n overs c)

/-- STITCH_BOUNDARY: the next boundary is reached. Where the boundary of the present count has been performed, the counter
stands at the next one (DESIGN CHOICE, log 1). -/
def stitchBoundary (c : Chip) : Chip :=
  if !c.life.powered then c
  else if countNow c = c.time.curCount then
    boundarySeq { c with time := { c.time with tsc := boundaryOf c.time (now c) + periodNs c.time } }
  else boundarySeq c

end Sys2Proof.Machine
end

