-- ==== Sys2Proof/Machine/Startup.lean ====
section
/-! DEFINITION. Start-up, resets, insertion and removal (22), with the input, the hot-swap stage and the inlet sensors (23).
A phase without an end of its own ends with the event that ends the next phase that has one (DEDUCED, log 23). -/
namespace Sys2Proof.Machine

/-! ### Phases and resets -/

/-- A phase ends and the next begins (R677). -/
def nextPhase (k : Nat) (c : Chip) : Chip :=
  { c with life := { c.life with
    phase := k, phEnd := tset 0 c.life.phEnd (k - 1) (now c), phStart := tset 0 c.life.phStart k (now c) } }

/-- Objects that a power cycle keeps (Table 03-3): the stored ones and the fixed ones. -/
def storedVals (vals : Tbl (Option Nat)) : Tbl (Option Nat) :=
  vals.filter fun e => ((objAt (e.1 / 2 ^ 40) (e.1 / 2 ^ 32 % 256)).map (·.pers)).getD 2 ≤ 1

/-- The banks as a reset finds them: an erase that it cuts short leaves an erased bank, which no check passes. -/
def keptBanks (c : Chip) : Tbl Bank := match c.fw.erasing with
  | none => c.fw.banks
  | some b => tset {} c.fw.banks b { factory := false, chunks := [] }

/-- Every unit cleared, keeping what Table 22-4 keeps at a power-on reset, the board and the levels of its pins. -/
def clearUnits (c : Chip) : Chip :=
  { time := { saved := c.time.saved, lastSave := c.time.lastSave, anchorTime := c.time.anchorTime
              anchorCount := c.time.anchorCount, periodUs := c.time.periodUs }
    dict := { vals := storedVals c.dict.vals }
    fuse := { low := c.fuse.low, high := c.fuse.high }
    fw := { banks := keptBanks c }
    flt := { bundle := c.flt.bundle }
    pwr := { rEst := max 34000 (obj c 0x4000 12) }
    pair := { laceIn := c.pair.laceIn, fenceLow := c.pair.fenceLow }
    board := { c.board with inA := none, inB := none, badA := 0, badB := 0, failA := false, failB := false, diffSince := none }
    moduleId := c.moduleId, outbox := c.outbox, serial := c.serial, freeCtr := c.freeCtr }

/-- The start of the counter at a power-on reset (R36). -/
def startTime (c : Chip) : Nat :=
  let s := c.time.saved.getD 0
  let b := (c.flt.bundle.map fun b => leNat (b.header.take 8)).getD 0
  if c.time.saved.isNone && c.flt.bundle.isNone then 0 else max s b + 1000000000

/-- The power stages turn off and the module is OFF (R686, R695, R698): volatile state is lost. -/
def powerOff (c : Chip) : Chip :=
  let c := { c with board := { c.board with ramping := false } }
  if c.life.mstate = MState.off then { c with life := { c.life with powered := false } }
  else
    let d := clearUnits (enterState MState.off c)
    { d with life := { mstate := MState.off, since := now c, phase := 1, powered := false } }

/-- The rails begin to ramp (phase 1): the input is in range, PRSNT_N is debounced, and neither a trip nor a latch warning
holds the stage (R683, R685, R695, R698). -/
def startRamp (c : Chip) : Chip :=
  let b := c.board
  if c.life.mstate ≠ MState.off || b.ramping || !b.inputOk || b.prsntN || !b.debounced || b.tripOff || b.tripHold ||
      c.life.latchHeld then c
  else
    let t0 := startTime c
    let d := clearUnits c
    let n := countOf d.time t0
    { d with
      time := { d.time with tsc := t0, curCount := n }
      board := { d.board with ramping := true }
      life := { mstate := MState.off, since := t0, phase := 1, phStart := tset 0 [] 1 t0, powered := true } }

/-- A nonce that is neither 0 nor the last one (R675). -/
def drawNonce : Nat → Chip → Chip
  | 0, c => c
  | n + 1, c =>
    let (w, c) := drawFree c
    if w = 0 || w.toNat = obj c 0x4400 4 then drawNonce n c
    else setObj 0x4400 4 0 w.toNat { c with life := { c.life with incarnation := w } }

/-- Phase 2: the fuses, the nonce and the straps (R635, R675, R700); the start-up is counted. -/
def bootRom (slot : Nat) (tie : Bool) (c : Chip) : Chip :=
  let c := drawNonce 8 (bump 0x4400 5 0 1 c)
  let c := setObj 0x1000 21 0 slot (modPair (fun p => { p with tie := tie }) c)
  readFuses { c with life := { c.life with phase2 := true } }

/-- Phase 2 of a power-on reset, at which the lace logic enters UNPAIRED (R531). -/
def powerOnBoot (slot : Nat) (tie : Bool) (c : Chip) : Chip := enterUnpaired (bootRom slot tie c)

/-- BOOT is entered at the end of phase 1 or by a reset (Table 22-3). -/
def enterBoot (c : Chip) : Chip := nextPhase 2 (enterState MState.boot c)

/-- RAILS_RAMPED: phase 1 ends, or the boot ROM of the power-on reset runs (R676). -/
def railsRamped (slot : Nat) (tie : Bool) (c : Chip) : Chip :=
  if c.life.mstate = MState.off && c.board.ramping then
    let c := powerOnBoot slot tie (enterBoot { c with board := { c.board with ramping := false } })
    if c.board.tripped then
      emit (Src.cobbler 0) St.brdHotswapTrip none [] { c with board := { c.board with tripped := false } }
    else c
  else if c.life.mstate = MState.boot && !c.life.phase2 then powerOnBoot slot tie c
  else c

/-! ### Phase 3: firmware -/

/-- The bank that the boot ROM starts (R643), if any passes R642. -/
def bankChoice (c : Chip) : Option Nat × Chip :=
  let boot := obj c 0x4200 2
  let b := if fwTrial c = 1 then 1 - boot else boot
  let c := if fwTrial c = 1 then setObj 0x4200 3 0 0 c else c
  let passes (b : Nat) : Bool := imageCheck (bank c b) == 0
  let c := { c with fw := { c.fw with valid := b2n (passes 0) + 2 * b2n (passes 1) } }
  if passes b then (some b, c)
  else if passes (1 - b) then (some (1 - b), emit (Src.cobbler 0) St.fwBankFallback none [] c)
  else (none, c)

/-- The unique device secret (R629). -/
def deviceSecret (c : Chip) : Bytes := ((span 0x10 12).map fun w => leBytes 4 (fuseWord c w)).flatten

/-- The layers are measured and the DICE values derived; RETIRED derives none (R628, R629). -/
def measure (c : Chip) : Chip :=
  let b := c.fw.runBank
  let l0 := sha384 (sectionBytes c b 0)
  let l1 := sha384 (sectionBytes c b 1)
  let sh := sha384 (sectionBytes c b 2)
  let fu := sha384 ((span 0x30 0x1D0).map fun w => leBytes 4 (fuseWord c w)).flatten
  let uds := deviceSecret c
  let cdi0 := hmac384 uds (l0 ++ fu ++ leBytes 1 c.fuse.lifecycle ++ leBytes 1 c.fuse.debug)
  let on (x : Bytes) : Bytes := if c.fuse.lifecycle = 2 then [] else x
  { c with dice := { dL0 := l0, dL1 := l1, dShim := sh, dFuse := fu
                     cdi1 := on (hmac384 cdi0 (l1 ++ sh))
                     deviceId := on (Config.p384Public (hmac384 uds (ascii "Glirvolu DeviceID"))) } }

/-- The key-wrap key pair of the incarnation (R621). -/
def drawKwk (c : Chip) : Chip :=
  let (k, c) := drawBytes 6 c
  { c with sec := { c.sec with kwkPriv := k, kwk := Config.p384Public k } }

/-- The configuration that a start-up reads: the pool, the host mode and the sampling generators (R304, R158, R667). -/
def readConfig (c : Chip) : Chip :=
  let c := { c with pool := { c.pool with size := obj c 0x2300 1 }, host := { c.host with mode := obj c 0x1300 1 } }
  forSpan 0 256 c fun c g => modGrove g (fun v => { v with lfsr := lfsrSeed c g }) c

/-- L0_START: phase 3 ends, policy firmware runs and SELFTEST begins (R676, R643, R647). -/
def l0Start (c : Chip) : Chip :=
  if c.life.mstate ≠ MState.boot then c else
    let c := if c.life.phase2 then c else powerOnBoot (obj c 0x1000 21) c.pair.tie c
    if c.life.mstate ≠ MState.boot then c else
      match bankChoice (nextPhase 3 c) with
      | (none, c) => moduleFail (Src.cobbler 0) St.fwNoImage (emit (Src.cobbler 0) St.fwNoImage none [] c)
      | (some b, c) =>
        let c := drawKwk (measure { c with fw := { c.fw with runBank := b, fwState := 1 } })
        let c := nextPhase 4 (enterState MState.selftest (readConfig c))
        if hookPresent c Hk.init then callHook { hook := Hk.init } c else { c with life := { c.life with initDone := true } }

/-! ### Phase 4: BIST -/

/-- The source that names a unit (Table 01-5). -/
def unitSource : BistUnit → Source
  | .array g _ => Src.grove g.toNat
  | .grove g => Src.grove g.toNat
  | .sampler s => Src.stand s.toNat
  | .cobbler p => pairSource p.toNat
  | .securityEngine => Src.security
  | .queueEngine => Src.queue
  | .blazeFile => Src.blaze
  | .warden => Src.warden
  | .baseMemory => Src.baseMem
  | .hbmStack s => Src.hbm (s.toNat * 32)

/-- Units whose failure alone is fatal (R679). -/
def fatalUnit : BistUnit → Bool
  | .securityEngine | .queueEngine | .blazeFile | .warden | .baseMemory | .hbmStack _ => true
  | .array .. | .grove _ | .sampler _ | .cobbler _ => false

/-- The bit of BIST_RESULT of a unit's kind (0x4400/9). -/
def resultBit : BistUnit → Nat
  | .array .. => 1
  | .grove _ => 2
  | .sampler _ => 4
  | .cobbler _ => 8
  | _ => 0

/-- A unit that fails after repair is left out of service (R679). -/
def retireUnit (c : Chip) (u : BistUnit) : Chip :=
  let c := match u with
    | .array g a => modGrove g.toNat (fun v => { v with retiredArrays := bitPut v.retiredArrays a.toNat true }) c
    | .grove g => modGrove g.toNat (fun v => { v with retired := true }) c
    | .sampler s => setObj 0x2500 11 0 (bitPut (obj c 0x2500 11) s.toNat true) c
    | .cobbler p => { c with fw := { c.fw with bad := tput c.fw.bad p.toNat true } }
    | _ => c
  if fatalUnit u then c else
    let d := match u with
      | .array _ a => [a.toNat]
      | _ => []
    emit (unitSource u) St.startBistRetired none d
      (setObj 0x4400 9 0 (obj c 0x4400 9 ||| resultBit u) c)

/-- The unit that makes a result fatal, if any: groves below the least number, both Cobbler pairs, or a vital unit (R679). -/
def fatalResult (c : Chip) (failed : List BistUnit) : Option Source :=
  match failed.find? fatalUnit with
  | some u => some (unitSource u)
  | none =>
    if thas c.fw.bad 0 && thas c.fw.bad 1 then some (Src.cobbler 0)
    else if grovesActive c < obj c 0x4400 8 then
      some (match failed.find? fun u => match u with | .grove _ => true | _ => false with
        | some u => unitSource u
        | none => Src.cobbler 0)
    else none

/-- BIST_DONE (R679, R590). -/
def bistDone (failed : List BistUnit) (pIdle : Nat) (c : Chip) : Chip :=
  if c.life.mstate ≠ MState.selftest then c else
    let c := failed.foldl retireUnit { c with pwr := { c.pwr with pIdle := pIdle } }
    match fatalResult c failed with
    | some src => moduleFail src St.startBistFail (emit src St.startBistFail none [] c)
    | none => recap (nextPhase 5 (enterState MState.scrub { c with life := { c.life with bistDone := true } }))

/-! ### Phases 5 to 9 -/

/-- DRAM_TRAINED: every stack and package is trained, and the scrubs start (R676, R292). -/
def dramTrained (c : Chip) : Chip :=
  if c.life.mstate = MState.scrub && c.life.phase = 5 then
    nextPhase 6 { c with mem := { c.mem with usReady := 0xFFFF, usBegan := now c } }
  else c

/-- HBM_SCRUB_DONE: every HBM line is cleared, the pool key is drawn, and the enabled ports train (R292, R306, R499). -/
def hbmScrubDone (c : Chip) : Chip :=
  if c.life.mstate = MState.scrub && c.life.phase = 6 then
    let c := memClear 0 usBase c
    let c := nextPhase 7 { c with mem := { c.mem with hbmReady := 0xFF }, pool := { c.pool with keyDrawn := true } }
    forSpan 0 16 c fun c p =>
      if portEnabled c p && (port c p).state = Pst.down then modPort p (fun v => { v with state := Pst.training }) c else c
  else c

/-- LINK_TRAINING_DONE: phase 7 ends; enabled ports that are not UP are recorded (R678). -/
def linkTrainingDone (c : Chip) : Chip :=
  if c.life.mstate = MState.scrub && c.life.phase = 7 then
    nextPhase 8 (forSpan 0 16 c fun c p =>
      if portEnabled c p && (port c p).state ≠ Pst.up then emit (Src.link p) St.lnDown none [(port c p).peer] c else c)
  else c

/-- R45. -/
def timeOk (c : Chip) : Bool :=
  c.time.tstate == .locked || (c.time.tstate == .freerun && obj c 0x1100 8 == 1)

/-- The conditions of R678 apart from R45. -/
def readyBut (c : Chip) : Bool :=
  c.life.mstate == MState.scrub && 8 ≤ c.life.phase && c.life.bistDone && c.mem.hbmReady == 0xFF &&
  c.mem.usReady == 0xFFFF && c.life.initDone

/-- READY is entered when every condition holds; PHASE reads 0 and READY_MS holds the duration (R677, R678). -/
def tryReady (c : Chip) : Chip :=
  if readyBut c && timeOk c then
    let l := c.life
    let s := if tget 0 l.phStart 1 = 0 then tget 0 l.phStart 2 else tget 0 l.phStart 1
    let ms := (((now c : Int) - s - l.stepped) / 1000000).toNat
    let c := { c with life := { l with phEnd := tset 0 l.phEnd l.phase (now c), phase := 0 } }
    enterState MState.ready (setObj 0x4400 7 0 (min ms 0xFFFFFFFF) c)
  else c

/-- TIME_NOT_LOCKED: only R45 fails at the end of phase 9 (R678). -/
def timeNotLocked (c : Chip) : Chip :=
  if readyBut c && !timeOk c then
    let c := if c.life.phase = 8 then nextPhase 9 c else c
    emit Src.timebase St.timeNotLocked none [tstateCode c.time.tstate] c
  else c

/-- A moment at which R45 comes to hold in phase 9 (R678). -/
def lockedReady (c : Chip) : Chip := if c.life.phase = 9 then tryReady c else c

/-! ### Module resets -/

/-- What a module reset keeps of the pair: the lace logic of clock domain 18 (R529). A formation under way is over. -/
def keptPair (p : Pair) : Pair :=
  { state := if p.state = PSt.forming then PSt.unpaired else p.state
    claim := p.claim, claimWant := p.claimWant, laceIn := p.laceIn, tie := p.tie, fenceLow := p.fenceLow
    laceErr := p.laceErr, mismatch := p.mismatch, writeLost := p.writeLost }

/-- A module reset begins: every unit but clock domain 18 is cleared, and phase 2 follows (R680, Table 22-4). -/
def runReset (kind : Nat) (c : Chip) : Chip :=
  let old := c.life.mstate
  let c := endSessions (leavePair St.startState c)
  let c := if c.pair.state = PSt.forming then clearClaim c else c
  let d := clearUnits c
  let d := { d with time := { c.time with lastOverrun := 0 }, pair := keptPair c.pair }
  let d := setObj 0x1100 14 0 (obj c 0x1100 14) (setObj 0x1100 15 0 (obj c 0x1100 15) d)
  let d := { d with life := { mstate := old, since := c.life.since, phase := 2, powered := true } }
  let d := setObj 0x4400 6 0 kind (enterState MState.boot d)
  let d := { d with life := { d.life with phStart := tset 0 [] 2 (now d) } }
  let d := bootRom (obj c 0x1000 21) c.pair.tie d
  if d.pair.state = PSt.unpaired && !d.pair.claim then enterUnpaired d else d

/-- A requested reset whose time has come: it waits for a bundle under way for at most 40 ms, and in FENCED for FENCE_N
(R681). -/
def moduleReset (c : Chip) : Chip :=
  match c.life.resetAt with
  | none => c
  | some _ =>
    if c.life.mstate = MState.off then c
    else if c.flt.writing.isSome && now c < c.flt.writingSince + 40000000 then c
    else if c.life.mstate = MState.fenced && c.pair.fenceLow then
      if c.life.held then c
      else emit (Src.cobbler 0) St.startResetHeld none [] { c with life := { c.life with held := true } }
    else runReset c.life.resetKind c

/-- A reset whose time has passed begins once what held it has ended (R681). -/
def resetDue (c : Chip) : Chip := match c.life.resetAt with
  | some t => if t ≤ now c then moduleReset c else c
  | none => c

/-! ### Insertion, removal and the input -/

/-- PRSNT_N falls: the debounce starts (R683). -/
def prsntLow (c : Chip) : Chip :=
  if c.board.prsntN then { c with board := { c.board with prsntN := false, debounced := false } } else c

/-- PRSNT_N has been low for 100 ms (R683). -/
def prsntHeld (c : Chip) : Chip :=
  if c.board.prsntN then c else startRamp { c with board := { c.board with debounced := true } }

/-- PRSNT_N rises: the power stages turn off (R686); a stage held off by two trips is released (R698). -/
def prsntHigh (c : Chip) : Chip :=
  powerOff { c with board := { c.board with
    prsntN := true, debounced := false, tripHold := false, tripOff := false, tripAt := none } }

/-- The input enters its range (R695). -/
def inputIn (c : Chip) : Chip := startRamp { c with board := { c.board with inputOk := true } }
/-- The input leaves its range (R695, R698). -/
def inputOut (c : Chip) : Chip :=
  powerOff { c with board := { c.board with inputOk := false, tripHold := false, tripOff := false, tripAt := none } }

/-- The hot-swap stage trips: it turns off, once to retry after 1 s, a second time within 60 s to stay off (R698). `tripAt`
is the time of the retry, 1 s after the first trip, by the counter of the start-up that it began. -/
def hotswapTrip (c : Chip) : Chip :=
  if c.life.mstate = MState.off && !c.board.ramping then c else
    let c := bump 0x4500 8 0 1 c
    let second := match c.board.tripAt with
      | some t => decide ((now c : Int) - c.life.stepped ≤ t + 59000000000)
      | none => false
    let b := { c.board with tripped := true, tripAt := none, tripOff := !second, tripHold := second }
    powerOff { c with board := b }

/-- The stage turns on again (R698). -/
def hotswapRetry (c : Chip) : Chip :=
  if c.board.tripOff then
    let c := startRamp { c with board := { c.board with tripOff := false } }
    if c.board.ramping then { c with board := { c.board with tripAt := some (now c) } } else c
  else c

/-- LATCH_N falls (R684). -/
def latchLow (c : Chip) : Chip :=
  { c with board := { c.board with latchN := false }, life := { c.life with latchWait := false } }

/-- The latch warning: LATCH_N has been low for 10 µs (R684, R685). -/
def latchWarning (c : Chip) : Chip :=
  if c.board.latchN then c
  else if c.life.mstate = MState.off then
    if c.board.ramping then
      { c with board := { c.board with ramping := false }, life := { c.life with latchHeld := true, powered := false } }
    else c
  else if c.life.mstate = MState.fenced then fencedToLatch c
  else enterFenced true c

/-- LATCH_N rises (R685). -/
def latchHigh (c : Chip) : Chip :=
  { c with board := { c.board with latchN := true }, life := { c.life with latchWait := c.life.latchHeld } }

/-- LATCH_N has been high for 100 ms with PRSNT_N low: a start-up that a latch warning held begins again (R685). -/
def latchHeldHigh (c : Chip) : Chip :=
  if c.life.latchWait && c.board.latchN && !c.board.prsntN then
    startRamp { c with life := { c.life with latchHeld := false, latchWait := false } }
  else c

/-- An input outside 48 V to 60 V, recorded at most once a second (R696). -/
def inputRange (c : Chip) : Chip :=
  if !c.board.inputOk || c.life.mstate = MState.off then c else
    let due := match c.board.rangeAt with
      | some t => decide (t + 1000000000 ≤ now c) || decide (now c < t)
      | none => true
    if due then
      emit (Src.cobbler 0) St.brdInputRange none [] { c with board := { c.board with rangeAt := some (now c) } }
    else c

/-- An interruption that the bulk capacitance carried (R697). -/
def inputDip (c : Chip) : Chip :=
  if c.life.mstate = MState.off then c else emit (Src.cobbler 0) St.brdInputDip none [] (bump 0x4500 7 0 1 c)

/-! ### Inlet sensors -/

/-- One inlet sensor after a reading: its bad readings, whether it has failed, and its last good reading, each in units of
0.125 °C (R705). -/
def inletOne (last : Option Int) (bad : Nat) (failed : Bool) (v : Option Int) : Option Int × Nat × Bool :=
  if failed then (last, bad, true)
  else match v with
    | some t => if decide (-320 ≤ t) && decide (t ≤ 1000) then (some t, 0, false) else (last, bad + 1, 9 ≤ bad)
    | none => (last, bad + 1, 9 ≤ bad)

/-- I of the sensors in service: the higher one, or 55 °C (R705). -/
def inletOf (a b : Option Int) : Int :=
  match a, b with
  | some x, some y => max x y
  | some x, none => x
  | none, some y => y
  | none, none => 440

/-- A reading's peak (0x5C01/3 of instances 288 and 289). -/
def inletPeak (s : Nat) (had v : Option Int) (c : Chip) : Chip :=
  match v with
  | none => c
  | some t =>
    let p := ofTwos 16 (obj c 0x5C01 3 s)
    setObj 0x5C01 3 s (toTwos 16 (if had.isNone then t else max p t)) c

/-- The record of two sensors that differ for 60 s, once an hour (R705). -/
def inletDiffer (c : Chip) : Chip :=
  let b := c.board
  match b.failA, b.failB, b.inA, b.inB with
  | false, false, some x, some y =>
    if decide (24 < x - y) || decide (24 < y - x) then
      match b.diffSince with
      | none => { c with board := { b with diffSince := some (now c) } }
      | some t =>
        let due := match b.diffSaid with
          | some s => decide (s + 3600000000000 ≤ now c) || decide (now c < s)
          | none => true
        if t + 60000000000 ≤ now c && due then
          emit (Src.thermal 288) St.brdInletDisagree none [] { c with board := { b with diffSaid := some (now c) } }
        else c
    else { c with board := { b with diffSince := none, diffSaid := none } }
  | _, _, _, _ => { c with board := { b with diffSince := none, diffSaid := none } }

/-- INLET_READING (R705). -/
def inletReading (va vb : Option Int) (c : Chip) : Chip :=
  if !c.life.powered then c else
    let b := c.board
    let (a, na, fa) := inletOne b.inA b.badA b.failA va
    let (d, nb, fb) := inletOne b.inB b.badB b.failB vb
    let c := inletPeak 288 b.inA (if a = b.inA && na ≠ 0 then none else a) c
    let c := inletPeak 289 b.inB (if d = b.inB && nb ≠ 0 then none else d) c
    let c := { c with board := { b with inA := a, inB := d, badA := na, badB := nb, failA := fa, failB := fb } }
    let c := if fa && !b.failA then emit (Src.thermal 288) St.brdInletFailed none [] c else c
    let c := if fb && !b.failB then emit (Src.thermal 289) St.brdInletFailed none [] c else c
    setInlet (inletOf (if fa then none else a) (if fb then none else d)) (inletDiffer c)

/-! ### Meanings -/

/-- PRSNT_N_LOW. -/
def execPrsntNLow (s : State) : Out := act s prsntLow
/-- PRSNT_DEBOUNCE_END. -/
def execPrsntDebounceEnd (s : State) : Out := act s prsntHeld
/-- POWER_INPUT_IN_RANGE. -/
def execPowerInputInRange (s : State) : Out := act s inputIn
/-- RAILS_RAMPED. -/
def execRailsRamped (slotId : BitVec 6) (laceTie : Bool) (s : State) : Out := act s fun c => settle (railsRamped slotId.toNat laceTie c)
/-- L0_START. -/
def execL0Start (s : State) : Out := act s fun c => settle (l0Start c)
/-- BIST_DONE; a unit that its repair mended stays in service. -/
def execBistDone (failed _repaired : List BistUnit) (pIdle : Nat) (s : State) : Out := act s (bistDone failed pIdle)
/-- DRAM_TRAINED. -/
def execDramTrained (s : State) : Out := act s dramTrained
/-- HBM_SCRUB_DONE. -/
def execHbmScrubDone (s : State) : Out := act s hbmScrubDone
/-- LINK_TRAINING_DONE. -/
def execLinkTrainingDone (s : State) : Out := act s linkTrainingDone
/-- ENTER_READY. -/
def execEnterReady (s : State) : Out := act s tryReady
/-- TIME_NOT_LOCKED. -/
def execTimeNotLocked (s : State) : Out := act s timeNotLocked
/-- MODULE_RESET. -/
def execModuleReset (s : State) : Out := act s moduleReset
/-- LATCH_N_LOW. -/
def execLatchNLow (s : State) : Out := act s latchLow
/-- START_LATCH. -/
def execStartLatch (s : State) : Out := act s fun c => settle (latchWarning c)
/-- PRSNT_N_HIGH. -/
def execPrsntNHigh (s : State) : Out := act s prsntHigh
/-- POWER_INPUT_OUT_OF_RANGE. -/
def execPowerInputOutOfRange (s : State) : Out := act s inputOut
/-- BRD_INPUT_DIP. -/
def execBrdInputDip (s : State) : Out := act s inputDip
/-- BRD_INPUT_RANGE. -/
def execBrdInputRange (s : State) : Out := act s inputRange
/-- BRD_HOTSWAP_TRIP. -/
def execBrdHotswapTrip (s : State) : Out := act s hotswapTrip
/-- HOTSWAP_RETRY. -/
def execHotswapRetry (s : State) : Out := act s hotswapRetry
/-- INLET_READING. -/
def execInletReading (a b : Option Int) (s : State) : Out := act s (inletReading a b)
/-- LATCH_N_HIGH. -/
def execLatchNHigh (s : State) : Out := act s latchHigh
/-- LATCH_N_HIGH_DEBOUNCE_END. -/
def execLatchNHighDebounceEnd (s : State) : Out := act s latchHeldHigh

end Sys2Proof.Machine
end

