-- ==== Sys2Proof/Machine/Time.lean ====
section
/-! DEFINITION. The commands of time (02): the boundary, what a Sync does to the counter and to the time state (R36, R39 to
R44, R708), the losses of Sync, and the other messages of gPTP. -/
namespace Sys2Proof.Machine

/-- Whether the module is in a state in which the counter may be stepped (R43). -/
def mayStep (c : Chip) : Bool :=
  c.life.mstate == MState.boot || c.life.mstate == MState.selftest || c.life.mstate == MState.scrub ||
  c.life.mstate == MState.fenced || c.life.mstate == MState.maintenance || c.life.mstate == MState.failed

/-- What a port's PTP instance holds. -/
def portClock (c : Chip) (p : Nat) : PortClock := tget {} c.time.ports p

/-- The port that the best master clock algorithm selects of those that receive Sync; port 0 of equals (R39). -/
def bestPort (c : Chip) : Option Nat :=
  let a := portClock c 0
  let b := portClock c 1
  if a.heard && b.heard then some (if b.rank < a.rank then 1 else 0)
  else if a.heard then some 0
  else if b.heard then some 1
  else none

/-- A step of the counter by a signed number of nanoseconds; where the count changes, the boundary sequence runs once for
the stitch whose count the counter then holds (R43, R708). -/
def stepCounter (d : Int) (c : Chip) : Chip :=
  let t := c.time
  let c := { c with
    time := { t with tsc := ((t.tsc : Int) + d).toNat % 2 ^ 64, slew := 0, slewPhase := 0, everLocked := true }
    life := { c.life with stepped := c.life.stepped + d } }
  if countNow c = c.time.curCount then c else boundarySeq c

/-- An offset is to be removed by slewing at 100 ppm (R42). -/
def slewCounter (offset : Int) (c : Chip) : Chip := { c with time := { c.time with slew := -offset } }

/-- How a measured offset is corrected: a step in either direction at the first lock and forward beyond 10 µs in the states
of R43, otherwise a slew; a change of port slews alone (R36, R39, R42, R43). -/
def correct (offset : Int) (changed : Bool) (c : Chip) : Chip :=
  if mayStep c && !changed && !c.time.everLocked then stepCounter (-offset) c
  else if mayStep c && !changed && decide (offset < -10000) then stepCounter (-offset) c
  else slewCounter offset c

/-- TIME_OFFSET_LARGE for the first Sync after HOLDOVER or LOST (R44). -/
def offsetRecord (offset : Int) (c : Chip) : Chip :=
  if !c.time.awaitFirst then c else
    let c := { c with time := { c.time with awaitFirst := false } }
    if running c && (decide (10000 < offset) || decide (offset < -10000)) then
      emit Src.timebase St.timeOffsetLarge none [toTwos 64 offset, c.time.gm.toNat] c
    else c

/-- LOCKED is entered after 16 consecutive Sync intervals within 50 ns (Table 02-2). -/
def lockStep (offset : Int) (c : Chip) : Chip :=
  let t := c.time
  let run := if decide (-50 ≤ offset) && decide (offset ≤ 50) then min 16 (t.lockRun + 1) else 0
  let c := { c with time := { t with lockRun := run } }
  if run = 16 && t.tstate ≠ .locked then
    lockedReady { c with time := { c.time with tstate := .locked, everLocked := true } }
  else c

/-- GPTP_SYNC: a Sync of a port with its grandmaster's rank and the counter's offset from it (R39 to R44). Time is taken
from the end of phase 3 (R676). -/
def gptpSync (p : Nat) (gm : Word) (rank : Nat) (offset : Int) (c : Chip) : Chip :=
  if !c.life.powered || c.life.mstate < MState.selftest then c else
    let old := c.time.portSel
    let c := { c with time := { c.time with
      ports := tmod {} c.time.ports p fun v => { v with heard := true, rank := rank, gm := gm } } }
    let sel := bestPort c
    let c := { c with time := { c.time with portSel := sel, gm := (sel.map fun q => (portClock c q).gm).getD c.time.gm } }
    if sel ≠ some p then c else
      let changed := old.isSome && old ≠ sel
      let c := offsetRecord offset { c with time := { c.time with offset := offset } }
      lockStep offset (correct offset changed c)

/-- Neither port is heard any more. -/
def unheard (c : Chip) : Chip :=
  { c with time := { c.time with portSel := none, ports := c.time.ports.map fun e => (e.1, { e.2 with heard := false }) } }

/-- TIME_HOLDOVER: no Sync for 3 Sync intervals while LOCKED (Table 02-2, R44). -/
def timeHoldover (c : Chip) : Chip :=
  if c.time.tstate ≠ .locked then c else
    let c := unheard { c with time := { c.time with
      tstate := .holdover, holdSince := now c, awaitFirst := true, lockRun := 0, slew := 0 } }
    emit Src.timebase St.timeHoldover none [toTwos 64 c.time.offset, c.time.gm.toNat] c

/-- TIME_LOST: the holdover has lasted longer than HOLDOVER_MAX_S (Table 02-2, R44, R710). -/
def timeLost (c : Chip) : Chip :=
  if c.time.tstate ≠ .holdover then c else
    emit Src.timebase St.timeLost none [now c - c.time.holdSince, obj c 0x1100 7]
      { c with time := { c.time with tstate := .lost } }

/-- COUNTER_SAVE (R36). -/
def counterSave (c : Chip) : Chip := if running c then saveTime c else c

/-- The other messages of gPTP (R39, Table 02-1). -/
def gptpAnnounce (p : Nat) (m : GptpMsg) (c : Chip) : Chip :=
  if !c.life.powered || c.life.mstate < MState.selftest then c else
    { c with time := { c.time with ports := tmod {} c.time.ports p fun v => match m with
      | .announce rank gm => { v with rank := rank, gm := gm }
      | .pdelay ns => { v with pdelay := ns }
      | .signalling i => { v with logInt := i.toNat } } }

/-! ### Meanings -/

/-- STITCH_BOUNDARY. -/
def execStitchBoundary (s : State) : Out := act s stitchBoundary
/-- GPTP_SYNC. -/
def execGptpSync (port : BitVec 1) (gm : Word) (rank : Nat) (offset : Int) (s : State) : Out :=
  act s fun c => settle (gptpSync port.toNat gm rank offset c)
/-- TIME_HOLDOVER. -/
def execTimeHoldover (s : State) : Out := act s timeHoldover
/-- TIME_LOST. -/
def execTimeLost (s : State) : Out := act s timeLost
/-- COUNTER_SAVE. -/
def execCounterSave (s : State) : Out := act s counterSave
/-- GPTP_ANNOUNCE. -/
def execGptpAnnounce (port : BitVec 1) (m : GptpMsg) (s : State) : Out := act s (gptpAnnounce port.toNat m)

end Sys2Proof.Machine
end

