-- ==== Sys2Proof/Machine/FdpCommands.lean ====
section
/-! DEFINITION. The commands of the field ports and of the host mailbox (03): datagrams, frame replication, sessions and
handshakes (R86 to R97, R103), and the mailbox's registers and buffers (R111 to R114). -/
namespace Sys2Proof.Machine

/-! ### Datagrams -/

/-- An IPv6 address as its 16 octets, first octet first. -/
def ipBytes (ip : BitVec 128) : Bytes := (leBytes 16 ip.toNat).reverse
/-- A record number passes the anti-replay window of 64 records (Table 03-6). -/
def freshRecord (v : Session) (n : Nat) : Bool := !(v.seen.contains n) && decide (v.high < n + 64)
/-- The window after a record. -/
def tookRecord (n : Nat) (v : Session) : Session :=
  let h := max v.high n
  { v with high := h, seen := (n :: v.seen).filter fun k => decide (h < k + 64) }

/-- A datagram is discarded and counted (R90, R97). -/
def dropDatagram (c : Chip) : Chip := bump 0x1200 11 0 1 c

/-- FDP_DATAGRAM: a datagram at the FDP port; `data` is the message that its record protects (R90, R97, R103). -/
def fdpDatagram (s : Nat) (dtls : Bool) (recSeq : Nat) (data : Bytes) (c : Chip) : Chip :=
  if !dictServed c then c
  else if !dtls then dropDatagram c
  else
    let v := fdpSes c s
    if !v.isOpen || !freshRecord v recSeq then c
    else
      let c := setFdp s { tookRecord recSeq v with lastUse := now c } c
      let who := Requester.session (BitVec.ofNat 4 s)
      let m := parseMsg data
      if data.length < 24 then dropDatagram c
      else match headerFail data with
        | some st => answerHeader who m st c
        | none =>
          let v := fdpSes c s
          if 8 ≤ v.queue.length then respond false who m ⟨St.dictBusy, false, []⟩ c
          else setFdp s { v with queue := v.queue ++ [m] } c

/-! ### Frame replication (R92, Table 03-5) -/

/-- The vector recovery algorithm on a frame's sequence number. -/
def frerFrame (seq : Nat) (c : Chip) : Chip :=
  if obj c 0x1200 6 = 0 then c else
    let f := c.fdp.frer
    let hist := obj c 0x1200 8
    let set (g : Frer) (c : Chip) : Chip := { c with fdp := { c.fdp with frer := g } }
    let ahead := (seq + 65536 - f.high) % 65536
    let behind := (f.high + 65536 - seq) % 65536
    if !f.started then set { f with started := true, high := seq, seen := [seq] } c
    else if ahead ≠ 0 && ahead < hist then
      set { f with high := seq, seen := (seq :: f.seen).filter fun k => decide ((seq + 65536 - k) % 65536 < hist) } c
    else if behind < hist then
      if f.seen.contains seq then bump 0x1200 7 0 1 c else set { f with seen := seq :: f.seen } c
    else bump 0x1200 10 0 1 c

/-- The recovery function resets after FRER_RESET_MS without a frame. -/
def frerReset (c : Chip) : Chip :=
  { c with fdp := { c.fdp with frer := { c.fdp.frer with started := false, high := 0, seen := [] } } }

/-- A port silent for 1 s while its twin delivers. -/
def portLatent (p : Nat) (c : Chip) : Chip :=
  if dictServed c && obj c 0x1200 6 = 1 then emit (dictSource c) St.fdpPortLatent none [p] c else c

/-! ### Sessions (R86, R93 to R95) -/

/-- The record of a handshake that failed (R94, Table 17-10). -/
def handshakeFail (ip : BitVec 128) (udp alert : Nat) (c : Chip) : Chip :=
  let b := ipBytes ip
  frameSent (send (.alert ip (BitVec.ofNat 16 udp) alert)
    (emit (dictSource c) St.fdpHandshake none [leNat (b.take 8), leNat (b.drop 8), udp, alert] (bump 0x1200 14 0 1 c)))

/-- The role and partition that a certificate's key digest gives (R86, R87); the digest's octets as a little-endian
number. -/
def roleFor (c : Chip) (d : Nat) : Option (Nat × Nat) :=
  if fusedDigest c = some d then some (3, 0)
  else ((span 0 32).find? fun e => obj c 0x5080 5 e = 1 && obj c 0x5080 2 e = d).map fun e =>
    (obj c 0x5080 3 e, obj c 0x5080 4 e)

/-- The lowest session number that is not open. -/
def freeSession (c : Chip) : Option Nat := (span 0 16).find? fun n => !(fdpSes c n).isOpen

/-- A handshake completes under a session number with a role. -/
def openFdp (n role part : Nat) (digest : BitVec 384) (ip : BitVec 128) (udp : BitVec 16) (c : Chip) : Chip :=
  setFdp n { isOpen := true, role := role, part := part, digest := digest, ip := ip, udp := udp, lastUse := now c } c

/-- A handshake completes while every session number is open. -/
def sessionsFull (ip : BitVec 128) (udp : BitVec 16) (c : Chip) : Chip :=
  let b := ipBytes ip
  frameSent (send (.alert ip udp 40)
    (emit (dictSource c) St.fdpSessionsFull none [leNat (b.take 8), leNat (b.drop 8), udp.toNat] c))

/-- A handshake with a certificate: the role its digest gives (R86, R87). The alert for a certificate with no entry is
not stated: a free value (DESIGN CHOICE, log 2). -/
def openRole (n : Nat) (ip : BitVec 128) (udp : BitVec 16) (d : BitVec 384) (role : Option (Nat × Nat)) (c : Chip) : Chip :=
  match role with
  | some (role, part) => openFdp n role part d ip udp c
  | none => handshakeFail ip udp.toNat ((Config.unstated 86 0 0).toNat % 256) c

/-- A completed handshake under the session number that is free, if one is. -/
def shakeDone (ip : BitVec 128) (udp : BitVec 16) (r : Shake) (free : Option Nat) (c : Chip) : Chip :=
  match r with
  | .failed alert => handshakeFail ip udp.toNat alert.toNat c
  | .noCert => match free with
    | none => sessionsFull ip udp c
    | some n => openFdp n 0 0 0 ip udp c
  | .cert d => match free with
    | none => sessionsFull ip udp c
    | some n => openRole n ip udp d (roleFor c d.toNat) c

/-- DTLS_HANDSHAKE. -/
def dtlsHandshake (ip : BitVec 128) (udp : BitVec 16) (r : Shake) (c : Chip) : Chip :=
  if !dictServed c then c
  else shakeDone ip udp r (freeSession c) { c with fdp := { c.fdp with shakeMs := 0 } }

/-- SESSION_IDLE_TIMEOUT (Table 03-6). -/
def sessionIdle (s : Nat) (c : Chip) : Chip := if (fdpSes c s).isOpen then endSession s c else c

/-- DTLS_RETRANSMIT: 100 ms, doubled to at most 6.4 s (Table 03-6). -/
def dtlsRetransmit (c : Chip) : Chip :=
  if !dictServed c then c else
    let n := if c.fdp.shakeMs = 0 then 200 else min 6400 (2 * c.fdp.shakeMs)
    frameSent (send (.flight n) { c with fdp := { c.fdp with shakeMs := n } })

/-! ### The ports (R89) -/

/-- A field port's link comes up or goes down; a port that is down delivers no Sync (R39). -/
def fieldLink (p : Nat) (up : Bool) (c : Chip) : Chip :=
  if !c.life.powered then c else
    let c := { c with fdp := { c.fdp with links := bitPut c.fdp.links p up } }
    if up then c else
      { c with time := { c.time with ports := tmod {} c.time.ports p fun v => { v with heard := false } } }

/-- The octets of MAC_ADDR, first octet first; the address is fixed for a part (DESIGN CHOICE, log 22). -/
def macBytes : Bytes := (leBytes 6 ((Config.unstated 30 0 0).toNat % 2 ^ 48)).reverse
/-- The link-local address formed from MAC_ADDR under the modified EUI-64 rule (R89). -/
def linkLocal : Bytes :=
  [0xFE, 0x80, 0, 0, 0, 0, 0, 0] ++ (macBytes.take 1).map (· ^^^ 2) ++ (macBytes.drop 1).take 2 ++ [0xFF, 0xFE] ++ macBytes.drop 3

/-- A solicitation for one of the module's addresses is answered on its port (R89). -/
def neighbour (p : Nat) (target src : BitVec 128) (c : Chip) : Chip :=
  let t := ipBytes target
  let own := obj c 0x1200 3
  if dictServed c && (t == linkLocal || (own != 0 && leNat t == own)) then send (.advert p target src) c else c

/-! ### The mailbox (R111 to R114, Table 03-10) -/

/-- The request buffer's first bytes. -/
def mbxRequest (c : Chip) (n : Nat) : Bytes := (span 0 n).map fun k => tget 0 c.mbx.reqBuf k

/-- CB_MBX_DOORBELL: the request is copied under the role of MBX_ROLE as it stands (R112, R113). -/
def mbxDoorbell (c : Chip) : Chip :=
  if c.mbx.busy || !dictServed c then c else
    let n := c.mbx.reqLen
    let bad := n < 24 || 1200 < n
    let b := mbxRequest c (min 1200 n)
    let c := { c with mbx := { c.mbx with
      busy := true, taken := some b, started := false, answer := none, role := obj c 0x1200 15 } }
    match if bad then some St.fdpBadHeader else headerFail b with
    | some st => answerHeader .mailbox (parseMsg b) st { c with mbx := { c.mbx with started := true } }
    | none => c

/-- CB_MBX_ABORT: a request taken and not begun is discarded (R113). -/
def mbxAbort (c : Chip) : Chip :=
  if c.mbx.busy && !c.mbx.started then { c with mbx := { c.mbx with busy := false, taken := none } } else c

/-- One byte written to the mailbox: the request buffer and CB_MBX_REQ_LEN take it unless BUSY is set; the others of
this row are read-only. -/
def mbxByte (off : Nat) (b : Byte) (m : Mbx) : Mbx :=
  let buf := 0x100 ≤ off && off ≤ 0x5AF
  let len := off = 0x10 || off = 0x11
  if !buf && !len then m
  else if m.busy then { m with overwrite := true }
  else if buf then { m with reqBuf := tset 0 m.reqBuf (off - 0x100) b }
  else if off = 0x10 then { m with reqLen := m.reqLen / 256 * 256 + b.toNat }
  else { m with reqLen := b.toNat * 256 + m.reqLen % 256 }

/-- Bytes written to the mailbox from an offset up. -/
def mbxBytes : Nat → Bytes → Mbx → Mbx
  | _, [], m => m
  | off, b :: bs, m => mbxBytes (off + 1) bs (mbxByte off b m)

/-- MBX_RESPONSE: the response is written, BUSY clears and DONE sets in the same cycle (R113). -/
def mbxRespond (c : Chip) : Chip :=
  match c.mbx.busy, c.mbx.answer with
  | true, some a =>
    let c := { c with mbx := { c.mbx with
      busy := false, done := true, started := false, taken := none, answer := none, rspBuf := a, rspLen := a.length } }
    if c.mbx.doneIe then send (.msix 0 0) c else c
  | _, _ => c

/-! ### Meanings -/

/-- FDP_DATAGRAM. -/
def execFdpDatagram (ses : BitVec 4) (dtls : Bool) (recSeq : Nat) (data : Bytes) (s : State) : Out :=
  act s (fdpDatagram ses.toNat dtls recSeq data)
/-- FRER_FRAME. -/
def execFrerFrame (_port : BitVec 1) (seq : BitVec 16) (s : State) : Out := act s (frerFrame seq.toNat)
/-- FRER_RESET_TIMEOUT. -/
def execFrerResetTimeout (s : State) : Out := act s frerReset
/-- FDP_PORT_LATENT. -/
def execFdpPortLatent (port : BitVec 1) (s : State) : Out := act s (portLatent port.toNat)
/-- DTLS_HANDSHAKE. -/
def execDtlsHandshake (ip : BitVec 128) (udp : BitVec 16) (r : Shake) (s : State) : Out := act s (dtlsHandshake ip udp r)
/-- SESSION_IDLE_TIMEOUT. -/
def execSessionIdleTimeout (n : BitVec 4) (s : State) : Out := act s (sessionIdle n.toNat)
/-- CB_MBX_DOORBELL. -/
def execCbMbxDoorbell (s : State) : Out := act s mbxDoorbell
/-- CB_MBX_ABORT. -/
def execCbMbxAbort (s : State) : Out := act s mbxAbort
/-- MBX_BUFFER_WRITE. -/
def execMbxBufferWrite (off : BitVec 12) (data : Bytes) (s : State) : Out :=
  act s fun c => { c with mbx := mbxBytes off.toNat data c.mbx }
/-- MBX_RESPONSE. -/
def execMbxResponse (s : State) : Out := act s mbxRespond
/-- NEIGHBOUR_SOLICITATION. -/
def execNeighbourSolicitation (port : BitVec 1) (target src : BitVec 128) (s : State) : Out :=
  act s (neighbour port.toNat target src)
/-- DTLS_RETRANSMIT. -/
def execDtlsRetransmit (s : State) : Out := act s dtlsRetransmit
/-- FIELD_PORT_LINK_CHANGE. -/
def execFieldPortLinkChange (port : BitVec 1) (up : Bool) (s : State) : Out := act s (fieldLink port.toNat up)

end Sys2Proof.Machine
end

