-- ==== Sys2Proof/Machine/HostPort.lean ====
section
/-! DEFINITION. The PCIe side (R157 to R165, R627, R703): virtual-function doorbells and windows, link changes, fundamental
resets and IDE stream keys. -/
namespace Sys2Proof.Machine

/-- Whether the module is bifurcated into two links (R158). -/
def twoLinks (c : Chip) : Bool := c.host.mode == 1
/-- The link that presents a virtual function (R158, 0x1300/4). -/
def vfLink (c : Chip) (v : Nat) : Nat := if twoLinks c && bitOf (obj c 0x1300 4) (v - 1) then 1 else 0

/-- A fault of a window or a doorbell (R160, R164, Table 17-10): kind 0 read, 1 write, 2 doorbell. -/
def windowFault (v w kind off : Nat) (c : Chip) : Chip :=
  let c := { c with host := { c.host with vfFault := tput c.host.vfFault v true } }
  emit (Src.pcie v) St.hostWindowFault (vfOwner c v) [v + w * 2 ^ 8 + vfLink c v * 2 ^ 16 + kind * 2 ^ 20, off] c

/-- PR_VF_DOORBELL (R160): a blaze number within the partition's allocation is set under the function's identity. -/
def vfDoorbell (v val : Nat) (c : Chip) : Chip :=
  if v = 0 || 16 < v then c else
    match vfOwner c v with
    | some p =>
      let e := mapOf c p
      if val < e.bzCount then setBlaze (e.bzBase + val) (unitId c (Src.pcie v)) c else windowFault v 0 2 val c
    | none => windowFault v 0 2 val c

/-! ### Windows (R162 to R165) -/

/-- What a host access finds: outside its window, refused by a memory check, or the local address. -/
inductive WinHit where
  | noPart
  | outside
  | refused (st : Status)
  | at_ (p a : Nat)
deriving DecidableEq, Repr

/-- A host access of `n` bytes at a BAR2 offset, translated with the window values in force (R162, R164, R165). -/
def winHit (c : Chip) (v off n : Nat) (wr : Bool) : WinHit :=
  match vfOwner c v with
  | none => .noPart
  | some p =>
    let i := (v - 1) * 16 + off / 2 ^ 32
    let o := off % 2 ^ 32
    if obj c 0x50C0 4 i ≠ 1 || obj c 0x50C0 3 i < o + n || (wr && obj c 0x50C0 5 i ≠ 1) then .outside
    else
      let a := obj c 0x50C0 2 i + o
      match checkLocal c (some p) none false a n with
      | some st => .refused st
      | none => .at_ p a

/-- A host read (R164, Table 08-5). A refusal of the memory checks also ends in a Completer Abort (DEDUCED, log 24). -/
def hostRead (v off n : Nat) (ecc : Ecc) (c : Chip) : Chip :=
  if v = 0 || 16 < v then c else
    match winHit c v off n false with
    | .noPart => send (.hostAbort v) c
    | .outside => send (.hostAbort v) (windowFault v (off / 2 ^ 32) 0 off c)
    | .refused st => send (.hostAbort v) (windowFault v (off / 2 ^ 32) 0 off (countViolation st c))
    | .at_ _ a =>
      let c := applyEcc a n ecc c
      let ep := rangePoison c a n
      send (.hostData v (memRead c a n) ep) c

/-- A host write (R164). -/
def hostWrite (v off : Nat) (bs : Bytes) (ecc : Ecc) (c : Chip) : Chip :=
  if v = 0 || 16 < v then c else
    match winHit c v off bs.length true with
    | .noPart => c
    | .outside => windowFault v (off / 2 ^ 32) 1 off c
    | .refused st => windowFault v (off / 2 ^ 32) 1 off (countViolation st c)
    | .at_ _ a => memWrite a bs false (eccStore a bs.length ecc c)

/-! ### Links -/

/-- A PCIe link goes down or comes up at a speed and a width (0x1300/2, /3); link 1 exists in 2 x x8 mode (R158). -/
def pcieLink (link speed width : Nat) (c : Chip) : Chip :=
  if !dictServed c || (link = 1 && !twoLinks c) then c else
    let v := if speed = 0 || width = 0 then 0 else speed + 16 * width
    { c with host := if link = 0 then { c.host with link0 := v } else { c.host with link1 := v } }

/-- A PCIe fundamental reset of a link (R703): the link goes down, and its functions hold their reset values (DEDUCED, log 24). In
x16 mode PERST1_N is ignored. -/
def perst (link : Nat) (low : Bool) (c : Chip) : Chip :=
  if !low || !c.life.powered || (link = 1 && !twoLinks c) then c else
    let mine (v : Nat) : Bool := 1 ≤ v && v ≤ 16 && vfLink c v == link
    let h := c.host
    { c with host := { h with
      link0 := if link = 0 then 0 else h.link0
      link1 := if link = 1 then 0 else h.link1
      vfFault := h.vfFault.filter fun e => !mine e.1
      vfWriteLost := h.vfWriteLost.filter fun e => !mine e.1
      msixTable := h.msixTable.filter fun e => !mine (e.1 / 64)
      msixPend := h.msixPend.filter fun e => !mine (e.1 / 16)
      vfEnabled := forSpan 1 16 h.vfEnabled fun a v => if mine v then bitPut a (v - 1) false else a
      ide := forSpan 1 16 (bitPut h.ide link false) fun a v => if mine v then bitPut a (v + 1) false else a } }

/-- IDE_KM: the security engine draws a stream key, delivers it and keeps no copy (R627). Streams are numbered as the bits
of 0x1300/6. -/
def ideKeyed (stream : Nat) (c : Chip) : Chip :=
  if !dictServed c || 18 ≤ stream then c else
    let (k, c) := drawBytes 4 c
    send (.ideKey stream k) { c with host := { c.host with ide := bitPut c.host.ide stream true } }

/-! ### Meanings -/

/-- PR_VF_DOORBELL. -/
def execPrVfDoorbell (v : BitVec 5) (val : BitVec 32) (s : State) : Out :=
  act s fun c => settle (vfDoorbell v.toNat val.toNat c)
/-- HOST_WINDOW_READ. -/
def execHostWindowRead (v : BitVec 5) (off : BitVec 36) (len : BitVec 13) (ecc : Ecc) (s : State) : Out :=
  act s fun c => settleMem (hostRead v.toNat off.toNat len.toNat ecc c)
/-- HOST_WINDOW_WRITE. -/
def execHostWindowWrite (v : BitVec 5) (off : BitVec 36) (data : Bytes) (ecc : Ecc) (s : State) : Out :=
  act s fun c => settleMem (hostWrite v.toNat off.toNat data ecc c)
/-- PERST_N. -/
def execPerstN (link : BitVec 1) (low : Bool) (s : State) : Out := act s (perst link.toNat low)
/-- PCIE_LINK_CHANGE. -/
def execPcieLinkChange (link : BitVec 1) (speed : BitVec 4) (width : BitVec 6) (s : State) : Out :=
  act s (pcieLink link.toNat speed.toNat width.toNat)
/-- IDE_KM. -/
def execIdeKm (stream : BitVec 5) (s : State) : Out := act s (ideKeyed stream.toNat)

end Sys2Proof.Machine
end

