-- ==== Sys2Proof/Machine/Regs.lean ====
section
/-! DEFINITION. Registers that software writes directly, by the field classes of Table 03-2: the grove arithmetic block
(Table 06-8), the pair block (Table 16-4), the Warden's (Table 18-8), the counters (R657, Tables 21-2 and 21-3), the mailbox
(Table 03-10) and the registers of a virtual function (Table 04-12); and register space as M mode reaches it (R134). -/
namespace Sys2Proof.Machine

/-! ### Field classes (Table 03-2) -/

/-- A W1C field after a write of `v`: a hardware set wins over the clear of the same bit. -/
def w1c (old v hw : Nat) : Nat := (old - (old &&& v)) ||| hw
/-- One W1C bit. -/
def w1cBit (old : Bool) (v hw bit : Nat) : Bool := (old && !bitOf v bit) || bitOf hw bit

/-! ### The blocks -/

/-- The arithmetic block of a grove (R247). -/
def writeArith (g off v hw : Nat) (c : Chip) : Chip :=
  match off with
  | 0x000 => modGrove g (fun x => { x with arith := w1c x.arith (v % 128) (hw % 128) }) c
  | 0x008 => modGrove g (fun x => { x with lossCount := v % 2 ^ 32 }) c
  | 0x00C => modGrove g (fun x => { x with tensorOps := v % 2 ^ 32 }) c
  | 0x010 => modGrove g (fun x => { x with residueCount := v % 2 ^ 32 }) c
  | _ => c

/-- The pair status register. -/
def writePair (off v hw : Nat) (c : Chip) : Chip :=
  if off ≠ 0 then c else modPair (fun p => { p with
    laceErr := w1cBit p.laceErr v hw 2, mismatch := w1cBit p.mismatch v hw 1, writeLost := w1cBit p.writeLost v hw 0 }) c

/-- The Warden's status register. -/
def writeWarden (off v hw : Nat) (c : Chip) : Chip :=
  if off ≠ 0 then c else { c with pwr := { c.pwr with floors := { c.pwr.floors with
    seen := w1cBit c.pwr.floors.seen v hw 1, writeLost := w1cBit c.pwr.floors.writeLost v hw 0 } } }

/-- A counter's pair of registers: a control word that R659 refuses changes nothing; COUNT takes a software write whatever
the hardware adds in that cycle (R660). -/
def writeCounter (n off v : Nat) (c : Chip) : Chip :=
  if 3584 ≤ n then c
  else if off = 0 then (if ctlBad n v then c else setObj 0x5CC1 2 n v c)
  else if off = 8 then { c with ctr := { c.ctr with val := tset 0 c.ctr.val n (v % 2 ^ 48) } }
  else c

/-- The counter block's status register. -/
def writeCounterStatus (v hw : Nat) (c : Chip) : Chip :=
  { c with ctr := { c.ctr with writeLost := w1cBit c.ctr.writeLost v hw 0 } }

/-- The mailbox's registers; a doorbell written with an abort is taken after it (R113). -/
def writeMailbox (off v hw : Nat) (c : Chip) : Chip :=
  match off with
  | 0x000 =>
    let c := if bitOf v 1 then mbxAbort c else c
    if bitOf v 0 then mbxDoorbell c else c
  | 0x004 => { c with mbx := { c.mbx with
      overwrite := w1cBit c.mbx.overwrite v hw 3, writeLost := w1cBit c.mbx.writeLost v hw 2, done := w1cBit c.mbx.done v hw 1 } }
  | 0x00C => { c with mbx := { c.mbx with doneIe := bitOf v 0 } }
  | 0x010 => { c with mbx := mbxBytes 0x10 (leBytes 2 v) c.mbx }
  | _ => c

/-- A pending vector whose mask has been cleared is sent. -/
def unmasked (v k : Nat) (c : Chip) : Chip :=
  if thas c.host.msixPend (v * 16 + k) && !bitOf (tget (0 : Word) c.host.msixTable (v * 64 + k * 4 + 3)).toNat 0 then
    send (.msix v k) { c with host := { c.host with msixPend := tput c.host.msixPend (v * 16 + k) false } }
  else c

/-- A VF's registers (Table 04-12); the MSI-X table is written in words of 32 bits. -/
def writeVf (v off w hw : Nat) (c : Chip) : Chip :=
  if v = 0 || 16 < v then c
  else if off = 0 then { c with host := { c.host with
    vfFault := tput c.host.vfFault v (w1cBit (thas c.host.vfFault v) w hw 3)
    vfWriteLost := tput c.host.vfWriteLost v (w1cBit (thas c.host.vfWriteLost v) w hw 0) } }
  else if off = 8 then vfDoorbell v (w % 2 ^ 32) c
  else if 0x8000 ≤ off && off < 0x8100 && off % 4 = 0 then
    let d := (off - 0x8000) / 4
    unmasked v (d / 4) { c with host := { c.host with msixTable := tset 0 c.host.msixTable (v * 64 + d) (BitVec.ofNat 64 (w % 2 ^ 32)) } }
  else c

/-- A write of a block's register at an offset, with the bits that the hardware sets in the same cycle (R72, R73). -/
def regWrite (b : RegBlock) (off v hw : Nat) (c : Chip) : Chip :=
  match b with
  | .groveArith g => writeArith g.toNat off v hw c
  | .pair => writePair off v hw c
  | .warden => writeWarden off v hw c
  | .counterStatus => if off = 0 then writeCounterStatus v hw c else c
  | .counter n => writeCounter n.toNat off v c
  | .mailbox => writeMailbox off v hw c
  | .vf k => writeVf k.toNat off v hw c

/-! ### Reads -/

/-- The Warden's registers. -/
def wardenReg (c : Chip) (off : Nat) : Nat :=
  let f := c.pwr.floors
  if off = 0 then
    c.pwr.burst * 256 + b2n (tjHigh c) * 128 + b2n (f.pkgDrop != 0) * 64 + b2n (thas f.trip 1) * 32 + b2n (thas f.trip 0) * 16 +
    b2n (tget 0 f.curShift 1 != 0) * 8 + b2n (tget 0 f.curShift 0 != 0) * 4 + b2n f.seen * 2 + b2n f.writeLost
  else if off = 4 then licOut c * 2 ^ 16 + c.pwr.pool
  else 0

/-- A grove's arithmetic registers. -/
def arithReg (c : Chip) (g off : Nat) : Nat :=
  let v := grove c g
  match off with
  | 0x000 => v.arith
  | 0x004 => arraysBusy c g * 256 + v.retiredArrays
  | 0x008 => v.lossCount
  | 0x00C => v.tensorOps
  | 0x010 => v.residueCount
  | _ => 0

/-- The block and offset of a register-space address whose registers the spec gives. -/
def regAt (a : Nat) : Option (RegBlock × Nat) :=
  let o := a - regBase
  if 0x1000000000 ≤ o && o < 0x1000000000 + 256 * 0x1000 then
    some (.groveArith (BitVec.ofNat 8 ((o - 0x1000000000) / 0x1000)), o % 0x1000)
  else if 0x3000000000 ≤ o && o < 0x3000001000 then some (.pair, o % 0x1000)
  else if 0x4000000000 ≤ o && o < 0x4000001000 then some (.warden, o % 0x1000)
  else if 0x6000000000 ≤ o && o < 0x6000000000 + 3584 * 16 then
    some (.counter (BitVec.ofNat 12 ((o - 0x6000000000) / 16)), o % 16)
  else if 0x6000010000 ≤ o && o < 0x6000010008 then some (.counterStatus, o % 8)
  else none

/-- First address of the shim's read-only window (R641). -/
def shimBase : Nat := regBase + 0x5000000000

/-- The 32-bit register at an aligned address; an address whose register no rule gives reads a free value (DESIGN CHOICE, log 2). -/
def regWord (c : Chip) (a : Nat) : Nat :=
  match regAt a with
  | some (.groveArith g, off) => arithReg c g.toNat off
  | some (.pair, off) => if off = 0 then pairStatus c else 0
  | some (.warden, off) => wardenReg c off
  | some (.counter n, off) =>
    if off < 8 then ctlOf c n.toNat / 2 ^ (8 * off) % 2 ^ 32 else ctrVal c n.toNat / 2 ^ (8 * (off - 8)) % 2 ^ 32
  | some (.counterStatus, off) => if off = 0 then b2n c.ctr.writeLost else 0
  | _ =>
    if shimBase ≤ a && a < shimBase + 0x1000000000 then leNat (((sectionBytes c c.fw.runBank 2).drop (a - shimBase)).take 4)
    else (Config.unstated 35 a 0).toNat % 2 ^ 32

/-- One byte of register space. -/
def regByte (c : Chip) (a : Nat) : Byte := BitVec.ofNat 8 (regWord c (a / 4 * 4) / 2 ^ (8 * (a % 4)))

/-- Bytes of register space read in one access (R77); a counter read is brought up to the read (DESIGN CHOICE, log 21). -/
def regLoad (a n : Nat) (c : Chip) : Bytes × Chip :=
  let c := match regAt a with
    | some (.counter k, off) => if 8 ≤ off then advanceCtr k.toNat c else c
    | _ => c
  ((span a n).map fun k => regByte c k, c)

/-- A store to one doubleword of a counter's registers, bytes not stored keeping their old values. -/
def putCounter (n a : Nat) (bs : Bytes) (at_ off old : Nat) (c : Chip) : Chip :=
  if at_ + 8 ≤ a || a + bs.length ≤ at_ then c
  else writeCounter n off (leNat ((span at_ 8).map fun k =>
    if a ≤ k && k < a + bs.length then nth 0 bs (k - a) else BitVec.ofNat 8 (old / 2 ^ (8 * (k - at_))))) c

/-- A store to the register word at `w`, bytes not stored keeping a counter's old value and otherwise 0. -/
def putReg (a : Nat) (bs : Bytes) (w : Nat) (at_ : Option (RegBlock × Nat)) (c : Chip) : Chip :=
  match at_ with
  | some (b, off) =>
    let cnt := match b with
      | .groveArith _ => off != 0
      | _ => false
    let old := if cnt then regWord c (w * 4) else 0
    regWrite b off (leNat ((span (w * 4) 4).map fun k =>
      if a ≤ k && k < a + bs.length then nth 0 bs (k - a) else BitVec.ofNat 8 (old / 2 ^ (8 * (k - w * 4))))) 0 c
  | none => c

/-- A store whose first byte reaches a register: both doublewords of a counter, or each word. -/
def storeAt (at_ : Option (RegBlock × Nat)) (a : Nat) (bs : Bytes) (c : Chip) : Chip :=
  match at_ with
  | some (.counter n, _) =>
    let base := a / 16 * 16
    putCounter n.toNat a bs (base + 8) 8 (ctrVal c n.toNat) (putCounter n.toNat a bs base 0 (ctlOf c n.toNat) c)
  | _ => (span (a / 4) ((a + bs.length + 3) / 4 - a / 4)).foldl (fun c w => putReg a bs w (regAt (w * 4)) c) c

/-- A store to register space: each register takes the bytes that reach it; the bytes of a register that no store reaches
keep what they hold, and clear no W1C bit. -/
def regStore (a : Nat) (bs : Bytes) (c : Chip) : Chip := storeAt (regAt a) a bs c

/-! ### Meaning -/

/-- REGISTER_WRITE. -/
def execRegisterWrite (b : RegBlock) (off : BitVec 16) (v hw : Word) (s : State) : Out :=
  act s fun c => settle (regWrite b off.toNat v.toNat hw.toNat c)

end Sys2Proof.Machine
end

