-- ==== Sys2Proof/Machine/Hart.lean ====
section
/-! DEFINITION. What a thread's ordinary instructions do (04): loads, stores and atomics on local and remote addresses (R133
to R137, R143, R149 to R151), fences, the TLB, instruction fetch, and writes of CSRs (R130, R140, R176). Everything else of
RV64 follows the published architecture and no rule (PRESUMED, log 25). -/
namespace Sys2Proof.Machine

/-! ### Addresses -/

/-- An alignment exception, or one for an access that no single message and no single module can serve (PRESUMED, log 25). -/
def misaligned (t : Nat) (k : Acc) (va : Nat) (c : Chip) : Chip :=
  takeTrap t ⟨match k with | .fetch => 0 | .load => 4 | .store => 6, va, none, false⟩ c

/-- An illegal-instruction exception. -/
def illegal (t insn : Nat) (c : Chip) : Chip := takeTrap t ⟨2, insn, none, false⟩ c

/-- A local access passed its checks: the local segments; a remote access: its one segment; or the trap. -/
inductive Reach where
  | here (ss : List Seg)
  | far (s : Seg)
  | trap (tr : Trap)
deriving DecidableEq, Repr

/-- The first address of an access on this module. -/
def firstLocal (t : Nat) : List Seg → Nat
  | [] => 0
  | s :: _ => unalias (groveOf t) (s.pa % 2 ^ 44)

/-- Translation and the checks of R133 to R136 for an access as a whole. -/
def reach (t : Nat) (k : Acc) (va n : Nat) (c : Chip) : Chip × Reach :=
  match xlateRange t k (pagesOf n) va n c with
  | (c, .error tr) => (c, .trap tr)
  | (c, .ok ss) =>
    let bad (st : Status) : Reach := .trap ⟨accessCause k, va, some st, false⟩
    if allLocal c ss then
      match checkSegs c t (effPriv (hart c t) k == 3) ss with
      | some st => (c, bad st)
      | none => (c, .here ss)
    else if allRemote c ss then
      match wholeCode (ss.filterMap fun s => senderCheck s.pa s.len) with
      | some st => (c, bad st)
      | none => match ss with
        | [s] => (c, .far s)
        | _ => (c, .trap ⟨match k with | .fetch => 0 | .load => 4 | .store => 6, va, none, false⟩)
    else (c, .trap ⟨match k with | .fetch => 0 | .load => 4 | .store => 6, va, none, false⟩)

/-- The domain address of the first poisoned word of local segments. -/
def firstPoison (c : Chip) (t : Nat) (ss : List Seg) : Option Nat :=
  ss.findSome? fun s =>
    let a := unalias (groveOf t) (s.pa % 2 ^ 44)
    ((span (a / 8) ((a + s.len + 7) / 8 - a / 8)).find? fun w => thas c.mem.poison w).map fun w => c.moduleId * 2 ^ 44 + w * 8

/-- Whether local segments lie in register space, which M mode alone reaches. -/
def inRegs (ss : List Seg) : Bool := ss.any fun s => tierOf (s.pa % 2 ^ 44) == .reg

/-- Bytes read through local segments, with error correction; a poisoned word raises cause 25 (R130). -/
def readHere (t : Nat) (ss : List Seg) (n : Nat) (ecc : Ecc) (c : Chip) : Chip × Except Trap Bytes :=
  if inRegs ss then
    match regLoad (firstLocal t ss) n c with
    | (bs, c) => (c, .ok bs)
  else
    let c := ss.foldl (fun c s => applyEcc (unalias (groveOf t) (s.pa % 2 ^ 44)) s.len ecc c) c
    match firstPoison c t ss with
    | some a => (c, .error ⟨25, a, some St.poisonConsumed, false⟩)
    | none => (c, .ok (readSegs c (groveOf t) ss))

/-- A remote request of a thread: none where no entry is free and the thread waits to issue (R508). The entry that the
request will take is the lowest that is free. -/
def threadReq (t op len addr : Nat) (kind : ReqKind) (body : Bytes) (before : Nat → Chip → Chip) (c : Chip) : Chip :=
  match freeReq c.lnk.outReq 65536 0, threadPart c t with
  | some r, some p => (sendTo p op (addr / 2 ^ 44) len addr kind body [] (before r c)).2
  | some _, none => c
  | none, _ => c

/-! ### Loads -/

/-- A register takes a loaded value, and the hart goes past the instruction. -/
def takeLoad (rd size : Nat) (uns fp : Bool) (len : Nat) (bs : Bytes) (h : Hart) : Hart :=
  let v := loadValue size uns fp bs
  advance len (if fp then { h with f := tset 0 h.f rd v } else writeX rd v h)

/-- LOAD (R133 to R135, R151). -/
def loadInsn (t rd va size : Nat) (uns fp : Bool) (len : Nat) (ecc : Ecc) (c : Chip) : Chip :=
  let n := 2 ^ size
  match reach t .load va n c with
  | (c, .trap tr) => memTrap t tr c
  | (c, .here ss) =>
    match readHere t ss n ecc c with
    | (c, .error tr) => settleMem (memTrap t tr c)
    | (c, .ok bs) => settleMem (modHart t (takeLoad rd size uns fp len bs) c)
  | (c, .far s) =>
    threadReq t 2 n s.pa (.load t rd size uns fp va s.pa) [] (fun r c =>
      modHart t (fun h => { h with state := .stalled, wait := .resp r rd size uns fp len }) c) c

/-! ### Stores -/

/-- STORE (R133 to R135, R149, R282, R641). -/
def storeInsn (t va size : Nat) (v : Word) (len : Nat) (ecc : Ecc) (c : Chip) : Chip :=
  let n := 2 ^ size
  let bs := leBytes n v.toNat
  match reach t .store va n c with
  | (c, .trap tr) => memTrap t tr c
  | (c, .here ss) =>
    let a := firstLocal t ss
    if inRegs ss then
      if shimBase ≤ a && a < shimBase + 0x1000000000 then memTrap t ⟨7, va, some St.addrReserved, false⟩ c
      else settle (modHart t (advance len) (regStore a bs c))
    else
      let c := ss.foldl (fun c s => eccStore (unalias (groveOf t) (s.pa % 2 ^ 44)) s.len ecc c) c
      settleMem (modHart t (advance len) (writeSegs (groveOf t) ss bs false c))
  | (c, .far s) => threadReq t 1 n s.pa (.store t va) bs (fun _ c => modHart t (advance len) c) c

/-! ### Atomics -/

/-- AMO (R137). -/
def amoInsn (t rd rs1 rs2 f5 : Nat) (dbl : Bool) (ecc : Ecc) (c : Chip) : Chip :=
  let h := hart c t
  let size := 2 + b2n dbl
  let n := 2 ^ size
  let va := (readX h rs1).toNat
  let opnd := (readX h rs2).toNat
  if !amoDefined f5 then illegal t (amoBits f5 rs2 rs1 rd dbl) c
  else if va % n ≠ 0 then misaligned t .store va c
  else match reach t .store va n c with
  | (c, .trap tr) => memTrap t tr c
  | (c, .here ss) =>
    match readHere t ss n ecc c with
    | (c, .error tr) => settleMem (memTrap t tr c)
    | (c, .ok bs) =>
      let new := leBytes n (amoValue f5 (8 * n) (leNat bs) opnd)
      let c := if inRegs ss then regStore (firstLocal t ss) new c else writeSegs (groveOf t) ss new false c
      settle (modHart t (takeLoad rd size false false 4 bs) c)
  | (c, .far s) =>
    threadReq t 3 16 s.pa (.atomic t rd dbl va s.pa) (leBytes 1 f5 ++ leBytes 7 n ++ leBytes 8 opnd) (fun r c =>
      modHart t (fun h => { h with state := .stalled, wait := .resp r rd size false false 4 }) c) c

/-- LR and SC (R137, A extension). -/
def lrScInsn (t rd rs1 rs2 : Nat) (sc dbl : Bool) (ecc : Ecc) (c : Chip) : Chip :=
  let h := hart c t
  let size := 2 + b2n dbl
  let n := 2 ^ size
  let va := (readX h rs1).toNat
  let k : Acc := if sc then .store else .load
  if va % n ≠ 0 then misaligned t k va c
  else match reach t k va n c with
  | (c, .trap tr) => memTrap t tr c
  | (c, .far _) => memTrap t ⟨7, va, some St.addrRemoteLrsc, false⟩ c
  | (c, .here ss) =>
    let a := firstLocal t ss
    if sc then
      if h.lr = some (a, n) then
        let c := writeSegs (groveOf t) ss (leBytes n (readX h rs2).toNat) false (eccStore a n ecc c)
        settleMem (modHart t (fun h => { advance 4 (writeX rd 0 h) with lr := none }) c)
      else modHart t (fun h => { advance 4 (writeX rd 1 h) with lr := none }) c
    else match readHere t ss n ecc c with
      | (c, .error tr) => settleMem (memTrap t tr c)
      | (c, .ok bs) => settleMem (modHart t (fun h => { takeLoad rd size false false 4 bs h with lr := some (a, n) }) c)

/-! ### Fences, the TLB and instruction fetch -/

/-- FENCE (R150): with W in its predecessor set it waits for the thread's remote writes. -/
def fenceInsn (t pred : Nat) (c : Chip) : Chip :=
  if bitOf pred 0 && !(openWrites c t).isEmpty then modHart t (fun h => { h with state := .stalled, wait := .fence }) c
  else modHart t (advance 4) c

/-- Whether S mode is kept from the translation controls (mstatus.TVM). -/
def keptOut (h : Hart) : Bool := h.priv = 0 || (h.priv = 1 && bitOf (readCsr h Csr.mstatus).toNat 20)

/-- The entries that an SFENCE.VMA removes: an address in rs1, an address space in rs2, which spares global entries. -/
def fenceHits (h : Hart) (rs1 rs2 : Nat) (e : TlbEnt) : Bool :=
  (rs1 = 0 || (readX h rs1).toNat % 2 ^ 57 / 2 ^ (12 + 9 * e.level) * 2 ^ (9 * e.level) = e.vpn) &&
  (rs2 = 0 || (e.asid = (readX h rs2).toNat % 65536 && !bitOf e.pte 5))

/-- SFENCE.VMA acts on the executing grove's TLB alone (R129). -/
def sfenceInsn (t rs1 rs2 insn : Nat) (c : Chip) : Chip :=
  let h := hart c t
  if keptOut h then illegal t insn c
  else modHart t (advance 4) (modGrove (groveOf t) (fun g => { g with tlb := g.tlb.filter fun e => !fenceHits h rs1 rs2 e }) c)

/-- INSTRUCTION_FETCH (R130, R135, R138): the bytes at the pc are translated, checked and read. Bytes of another module are
read as a remote load is. -/
def fetchInsn (t n : Nat) (ecc : Ecc) (c : Chip) : Chip :=
  let va := (hart c t).pc.toNat
  match reach t .fetch va n c with
  | (c, .trap tr) => memTrap t tr c
  | (c, .here ss) =>
    match readHere t ss n ecc c with
    | (c, .error tr) => settleMem (memTrap t tr c)
    | (c, .ok _) => settleMem c
  | (c, .far s) =>
    threadReq t 2 n s.pa (.load t 0 (if n = 2 then 1 else 2) true false va s.pa) [] (fun r c =>
      modHart t (fun h => { h with state := .stalled, wait := .resp r 0 (if n = 2 then 1 else 2) true false 0 }) c) c

/-! ### CSRs -/

/-- Fields of sstatus that software writes. -/
def sMask : Nat := 0xC6722
/-- Fields of mstatus that software writes. -/
def mMask : Nat := 0x7E7FAA

/-- CSRs that software writes and that hold what is written. -/
def plainCsrs : List Nat :=
  [0x008, 0x009, 0x00A, 0x00F, 0x104, 0x106, 0x10A, 0x140, 0x142, 0x143, 0x144, 0x302, 0x303, 0x304, 0x306, 0x30A, 0x320, 0x340,
   0x342, 0x343, 0x344, 0xB00, 0xB02]

/-- Whether a CSR exists and software may write it; event counters 3 to 31 read 0 and keep no write (Table 04-1). -/
def csrWritable (n : Nat) : Bool :=
  plainCsrs.contains n || [1, 2, 3, 0x100, 0x105, 0x141, 0x180, 0x300, 0x301, 0x305, 0x341].contains n ||
  (0xB03 ≤ n && n ≤ 0xB1F) || (0x323 ≤ n && n ≤ 0x33F)

/-- The floating-point control and status register. -/
def fcsr (h : Hart) : Nat := (readCsr h 3).toNat

/-- Whether a read-only CSR exists: the counters, the vector CSRs, Table 05-2, GV_XSTATUS, GV_THREADID and the identity of
the hart. -/
def csrReadOnly (n : Nat) : Bool :=
  (0xC00 ≤ n && n ≤ 0xC22) || (0xCC0 ≤ n && n ≤ 0xCC2) || n = 0xDC0 || n = 0xDC1 || (0xF11 ≤ n && n ≤ 0xF15)

/-- GV_THREADID (R132). -/
def threadIdWord (c : Chip) (t : Nat) : Nat :=
  let h := hart c t
  t + c.moduleId * 2 ^ 14 + (threadPart c t).getD 0 * 2 ^ 26 + b2n h.hard * 2 ^ 30 + b2n h.clsReq * 2 ^ 31

/-- A CSR as a read gives it; misa, the cycle and instruction counters and the vendor's identity are what no rule states
(DESIGN CHOICE, log 2). -/
def csrRead (c : Chip) (t n : Nat) : Nat :=
  let h := hart c t
  if n = 1 then fcsr h % 32
  else if n = 2 then fcsr h / 32 % 8
  else if n = 0x100 then (readCsr h Csr.mstatus).toNat &&& (sMask ||| 0x300000000)
  else if n = 0x301 then (Config.unstated 36 0 0).toNat
  else if n = 0xB00 || n = 0xC00 then (Config.unstated 37 (now c * 2 ^ 14 + t) (readCsr h 0xB00).toNat).toNat
  else if n = 0xB02 || n = 0xC02 then (Config.unstated 39 (now c * 2 ^ 14 + t) (readCsr h 0xB02).toNat).toNat
  else if n = 0xC01 then now c
  else if n = 0xC22 then 64
  else if n = 0xCC0 then h.qtag.toNat
  else if n = 0xCC1 then (licWord h).toNat
  else if n = 0xCC2 then (smplWord h).toNat
  else if n = 0xDC0 then h.xstatus.toNat
  else if n = 0xDC1 then threadIdWord c t
  else if n = 0xF14 then c.moduleId * 2 ^ 14 + t
  else if 0xF11 ≤ n && n ≤ 0xF15 then (Config.unstated 40 n 0).toNat
  else (readCsr h n).toNat

/-- satp takes Bare and Sv57 alone (R140). -/
def satpWrite (v : Nat) (h : Hart) : Hart :=
  if bitsOf v 63 60 = 0 || bitsOf v 63 60 = 10 then writeCsr Csr.satp (BitVec.ofNat 64 v) h else h

/-- A hart with a CSR written. -/
def csrPut (n v : Nat) (h : Hart) : Hart :=
  let w (k x : Nat) : Hart := writeCsr k (BitVec.ofNat 64 x) h
  let ms := (readCsr h Csr.mstatus).toNat
  if n = 1 then w 3 (fcsr h / 32 * 32 + v % 32)
  else if n = 2 then w 3 (v % 8 * 32 + fcsr h % 32)
  else if n = 3 then w 3 (v % 256)
  else if n = 0x100 then w Csr.mstatus ((ms - (ms &&& sMask)) ||| (v &&& sMask))
  else if n = 0x300 then w Csr.mstatus ((ms - (ms &&& mMask)) ||| (v &&& mMask))
  else if n = 0x105 || n = 0x305 then (if v % 4 ≤ 1 then w n v else h)
  else if n = 0x141 || n = 0x341 then w n (v / 2 * 2)
  else if n = 0x180 then satpWrite v h
  else if plainCsrs.contains n then w n v
  else h

/-- Whether the counter-enable registers keep a counter from a mode. -/
def counterOff (h : Hart) (n : Nat) : Bool :=
  0xC00 ≤ n && n ≤ 0xC1F && ((h.priv != 3 && !bitOf (readCsr h 0x306).toNat (n - 0xC00)) ||
    (h.priv = 0 && !bitOf (readCsr h 0x106).toNat (n - 0xC00)))

/-- A CSR instruction: a more privileged, absent or withheld CSR, and a write of a read-only one, which those of Table 05-2
are (R176), raise an illegal-instruction exception. -/
def csrInsn (t csr : Nat) (op : CsrOp) (rd src insn : Nat) (c : Chip) : Chip :=
  let h := hart c t
  let old := csrRead c t csr
  let new := csrNew op h src old
  if h.priv < bitsOf csr 9 8 || !(csrWritable csr || (csrReadOnly csr && new.isNone)) || (csr = 0x180 && keptOut h) ||
      counterOff h csr then illegal t insn c
  else
    modHart t (fun h => advance 4 (writeX rd (BitVec.ofNat 64 old) (match new with
      | some v => csrPut csr v h
      | none => h))) c

/-! ### Meanings -/

/-- LOAD. -/
def execLoad (t : Thread) (rd rs1 : RegNo) (imm : BitVec 12) (size : BitVec 2) (uns fp comp : Bool) (ecc : Ecc) (s : State) : Out :=
  let va := effAddr (hart s.m t.toNat) rs1.toNat imm
  insnAct t (loadBits rd.toNat rs1.toNat imm.toNat size.toNat uns fp comp) (some (.load, va))
    (loadInsn t.toNat rd.toNat va size.toNat uns fp (if comp then 2 else 4) ecc) s
/-- STORE. -/
def execStore (t : Thread) (rs1 rs2 : RegNo) (imm : BitVec 12) (size : BitVec 2) (fp comp : Bool) (ecc : Ecc) (s : State) : Out :=
  let h := hart s.m t.toNat
  let va := effAddr h rs1.toNat imm
  let v := if fp then tget 0 h.f rs2.toNat else readX h rs2.toNat
  insnAct t (storeBits rs1.toNat rs2.toNat imm.toNat size.toNat fp comp) (some (.store, va))
    (storeInsn t.toNat va size.toNat v (if comp then 2 else 4) ecc) s
/-- AMO. -/
def execAmo (t : Thread) (rd rs1 rs2 : RegNo) (funct5 : BitVec 5) (dbl : Bool) (ecc : Ecc) (s : State) : Out :=
  insnAct t (amoBits funct5.toNat rs2.toNat rs1.toNat rd.toNat dbl) (some (.store, (readX (hart s.m t.toNat) rs1.toNat).toNat))
    (amoInsn t.toNat rd.toNat rs1.toNat rs2.toNat funct5.toNat dbl ecc) s
/-- LR_SC. -/
def execLrSc (t : Thread) (rd rs1 rs2 : RegNo) (sc dbl : Bool) (ecc : Ecc) (s : State) : Out :=
  insnAct t (amoBits (2 + b2n sc) (if sc then rs2.toNat else 0) rs1.toNat rd.toNat dbl)
    (some (if sc then .store else .load, (readX (hart s.m t.toNat) rs1.toNat).toNat))
    (lrScInsn t.toNat rd.toNat rs1.toNat rs2.toNat sc dbl ecc) s
/-- FENCE. -/
def execFence (t : Thread) (pred succ : BitVec 4) (s : State) : Out :=
  insnAct t (iType (pred.toNat * 16 + succ.toNat) 0 0 0 0x0F) none (fenceInsn t.toNat pred.toNat) s
/-- SFENCE_VMA. -/
def execSfenceVma (t : Thread) (rs1 rs2 : RegNo) (s : State) : Out :=
  let insn := rType 9 rs2.toNat rs1.toNat 0 0 0x73
  insnAct t insn none (sfenceInsn t.toNat rs1.toNat rs2.toNat insn) s
/-- SATP_WRITE: CSRRW of satp (R140). -/
def execSatpWrite (t : Thread) (rd rs1 : RegNo) (s : State) : Out :=
  let insn := iType Csr.satp rs1.toNat 1 rd.toNat 0x73
  insnAct t insn none (csrInsn t.toNat Csr.satp .rw rd.toNat rs1.toNat insn) s
/-- INSTRUCTION_FETCH. -/
def execInstructionFetch (t : Thread) (four : Bool) (ecc : Ecc) (s : State) : Out :=
  act s (hartDo t.toNat (fetchInsn t.toNat (if four then 4 else 2) ecc))
/-- CSR_WRITE. -/
def execCsrWrite (t : Thread) (csr : BitVec 12) (op : CsrOp) (rd src : RegNo) (s : State) : Out :=
  let insn := iType csr.toNat src.toNat (csrFunct op) rd.toNat 0x73
  insnAct t insn none (csrInsn t.toNat csr.toNat op rd.toNat src.toNat insn) s

end Sys2Proof.Machine
end

