-- ==== Sys2Proof/Machine/LinkCmd.lean ====
section
/-! DEFINITION. The rows of the links (15): codewords and flits, training, messages as they arrive, answers, sessions. -/
namespace Sys2Proof.Machine

/-! ### Codewords (R487 to R492) -/

/-- The marker of R489 but for its second byte, which names the sender's port. -/
def markerByte (i : Nat) : Nat := if i = 0 then 0x4B else (37 * i + 0x5C) % 256
/-- Whether a block's 256 bits equal the marker of some port. -/
def isMarker (b : BitVec 256) : Bool :=
  let v := b.toNat
  (span 0 32).all fun i =>
    let x := bitsOf v (8 * i + 7) (8 * i)
    if i = 1 then decide (0xA0 ≤ x) && decide (x ≤ 0xAF) else x == markerByte i

/-- Whether a codeword decodes: up to 15 symbol errors (R487). -/
def decodes (symErrors : Nat) : Bool := symErrors ≤ 15
/-- Whether block 0 of a codeword is a marker candidate (R490). -/
def candidate (bs : List Block) (symErrors : Nat) : Bool := match bs with
  | [] => false
  | b :: _ => decodes symErrors && !b.sync && isMarker b.bits

/-- Lock is lost: the flit under assembly is lost with it, and the port trains again (R491, R499). -/
def loseLock (p : Nat) (c : Chip) : Chip :=
  leaveUp p (modPort p (fun v => { v with
    locked := false, relock := true, marks := 0, badMarks := 0, badWords := 0, sinceMark := 0, blks := [] }) c)

/-- The search for lock: three candidates 4,096 codewords apart, with every codeword between them decodable (R491). -/
def seekLock (p : Nat) (cand ok : Bool) (c : Chip) : Chip :=
  let v := port c p
  let n := v.sinceMark + 1
  if cand && (v.marks = 0 || n ≠ 4096) then setPort p { v with marks := 1, sinceMark := 0 } c
  else if cand then
    if 2 ≤ v.marks then
      let c := if v.relock then bump 0x5800 9 p 1 c else c
      setPort p { v with locked := true, marks := 0, sinceMark := 0, badMarks := 0, badWords := 0, blks := [] } c
    else setPort p { v with marks := v.marks + 1, sinceMark := 0 } c
  else if !ok || 4096 ≤ n then setPort p { v with marks := 0, sinceMark := 0 } c
  else setPort p { v with sinceMark := n } c

/-- Lock is kept or lost: the marker is checked at each expected position, and the uncorrectable codewords are counted
(R491). -/
def holdLock (p : Nat) (cand ok : Bool) (c : Chip) : Chip :=
  let v := port c p
  let due := decide (4096 ≤ v.sinceMark + 1)
  let bm := if due then (if cand then 0 else v.badMarks + 1) else v.badMarks
  let bw := if ok then 0 else v.badWords + 1
  let c := setPort p { v with sinceMark := if due then 0 else v.sinceMark + 1, badMarks := bm, badWords := bw } c
  if 2 ≤ bm || 8 ≤ bw then loseLock p c else c

/-- The 256 bytes of eight blocks, the first in the low bytes (Table 15-1). -/
def flitOf (bs : List (Bool × BitVec 256)) : BitVec 2048 :=
  BitVec.ofNat 2048 (bs.foldr (fun b a => b.2.toNat + a * 2 ^ 256) 0)

/-- Blocks join the flit under assembly; every eight make a flit, which is discarded where any of its bytes came from an
uncorrectable codeword or from a control block (R487, R493). -/
def takeBlocks (p : Nat) : List (Bool × BitVec 256) → Chip → Chip
  | [], c => c
  | b :: r, c =>
    let v := port c p
    let bs := v.blks ++ [b]
    if bs.length < 8 then takeBlocks p r (setPort p { v with blks := bs } c)
    else if bs.all (·.1) then takeBlocks p r (setPort p { v with blks := [], rx := v.rx ++ [flitOf bs] } c)
    else takeBlocks p r (discardFlit p (setPort p { v with blks := [] } c))

/-- CODEWORD (R487 to R491). -/
def codewordIn (p : Nat) (bs : List Block) (symErrors : Nat) (c : Chip) : Chip :=
  if (port c p).state = Pst.down then c else
    let ok := decodes symErrors
    let cand := candidate bs symErrors
    let c := if ok then bump 0x5800 7 p symErrors c else bump 0x5800 8 p 1 c
    if !(port c p).locked then seekLock p cand ok c
    else
      let mark := decide (4096 ≤ (port c p).sinceMark + 1)
      let c := holdLock p cand ok c
      if (port c p).locked then
        takeBlocks p ((if mark then bs.drop 1 else bs).map fun b => (ok && b.sync, b.bits)) c
      else c

/-! ### Flits (R493 to R500) -/

/-- A flit of a kind reaches a port that is UP: discarded unless it is valid, else acknowledged as its header says. -/
def flitIn (p kind : Nat) (f : BitVec 2048) (g : Chip → Chip) (c : Chip) : Chip :=
  let c := takeFlit p f c
  if (port c p).state ≠ Pst.up then c
  else if !flitGood f || flitKind f ≠ kind then discardFlit p c
  else flitAck p f (g c)

/-- FLIT_DATA: accepted only in sequence, and handed upward on its VC (R494, R496). -/
def dataFlit (p : Nat) (f : BitVec 2048) (c : Chip) : Chip :=
  let v := port c p
  let h := flitHead f
  let vc := bitsOf h 27 26
  if bitsOf h 11 0 ≠ v.rxSeq then askReplay p c
  else
    let c := setPort p { v with
      rxSeq := (v.rxSeq + 1) % 4096, nakSent := false
      asm := tset [] v.asm vc (tget [] v.asm vc ++ [flitBody f]) } c
    sendPlain p 0 false [] (countFlits 1 p 1 c)

/-- FLIT_CREDIT: the cumulative credits of each VC, each a counter modulo 2^16 (R493, R497). -/
def creditFlit (p : Nat) (f : BitVec 2048) (c : Chip) : Chip :=
  forSpan 0 4 c fun c vc =>
    let new := leNat (((flitBody f).drop (2 * vc)).take 2)
    modPort p (fun v =>
      let old := tget 0 v.txCredit vc
      { v with txCredit := tset 0 v.txCredit vc (old + (new + 65536 - old % 65536) % 65536) }) c

/-- The TRAIN flit of a port (Table 15-2, R499). -/
def sendTrain (p : Nat) (c : Chip) : Chip :=
  sendPlain p 3 false (leBytes 2 c.moduleId ++ leBytes 1 p ++ leBytes 1 0 ++ leBytes 8 c.life.incarnation.toNat ++
    leBytes 8 (port c p).peerInc.toNat) c

/-- The session with an endpoint whose incarnation has changed ends (R500, R504). -/
def endSess (peer : Nat) (inc : Word) (c : Chip) : Chip :=
  if (sess c peer).state = 2 && (sess c peer).peerInc ≠ inc then setSess peer {} c else c

/-- The third valid TRAIN flit in a row: the port enters UP, and resumes or resets its link state (R499, R500). What waits in
the port's queue goes with the replay buffer (DEDUCED, log 27). -/
def enterUp (p : Nat) (b : Bytes) (c : Chip) : Chip :=
  let v := port c p
  let id := leNat (b.take 2) % 4096
  let inc : Word := BitVec.ofNat 64 (leNat ((b.drop 4).take 8))
  let told := leNat ((b.drop 12).take 8)
  let sw := leNat ((b.drop 3).take 1) % 2
  let peer := id + leNat ((b.drop 2).take 1) % 16 * 4096 + sw * 65536
  let v := { v with state := Pst.up, trains := 0, peer := peer, peerInc := inc, nakSent := false }
  let c := if (port c p).peerInc = inc && told = c.life.incarnation.toNat then setPort p v c
    else
      let c := emit (Src.link p) St.lnPeerNew none [id, (port c p).peerInc.toNat, inc.toNat] (setPort p { v with
        replay := [], replays := 0, txSeq := 0, rxSeq := 0, txCredit := [], txSent := [], rxFreed := [], asm := [], txq := [] } c)
      if sw = 0 then endSess id inc c else c
  flushAll (emit (Src.link p) St.lnUp none [peer] c)

/-- FLIT_TRAIN. -/
def trainFlit (p : Nat) (f : BitVec 2048) (c : Chip) : Chip :=
  let c := takeFlit p f c
  let v := port c p
  if v.state ≠ Pst.training then c
  else if !flitGood f || flitKind f ≠ 3 then discardFlit p (setPort p { v with trains := 0 } c)
  else
    let c := sendTrain p c
    if v.trains < 2 then setPort p { v with trains := v.trains + 1 } c else enterUp p (flitBody f) c

/-! ### Held sets (R516, R517) -/

/-- A message with the operation that its row names; an operation that Table 15-4 lacks stays, and is malformed (R502). -/
def asOp (k : Nat) (m : Msg) : Msg := if malformed m then m else { m with op := BitVec.ofNat 8 k }

/-- The identity of a remote set's thread. The message names the module alone; the thread is a free value (DEDUCED, log 20). -/
def remoteId (m : Msg) (c : Chip) : Nat × Chip :=
  let (w, c) := drawFree c
  (m.src.toNat % 4096 * 2 ^ 20 + 2 ^ 16 + w.toNat % 2 ^ 14, c)

/-- A remote set is checked and performed, or refused (R202, R350, Table 15-5 step 5). -/
def performSet (m : Msg) (c : Chip) : Chip :=
  let dp := m.dst.toNat / 4096
  let idx := m.addr.toNat % 512
  let (who, c) := remoteId m c
  if check5 m (fun _ => true) c && idx < (mapOf c dp).bzCount then
    answer m 0x15 St.ok [] [] (bump 0x2400 4 0 1 (bump 0x3000 7 0 1 (setBlaze ((mapOf c dp).bzBase + idx) who c)))
  else
    answer m 0x15 St.addrRemoteDenied [] [] (bump 0x2000 6 0 1 (refuseSet (some dp) idx who St.addrRemoteDenied c))

/-- MARK of a set. -/
def markOf (m : Msg) : Nat := m.arg.toNat % 2 ^ 48
/-- Whether a set's MARK has been reached (R516). -/
def markReached (c : Chip) (m : Msg) : Bool := markOf m ≤ tget 0 (sess c (m.src.toNat % 4096)).accepted 0

/-- Held sets whose MARK is reached are applied, in the order of arrival (R516). -/
def applyHeld (c : Chip) : Chip :=
  let l := c.lnk.held
  let c1 := { c with lnk := { c.lnk with held := l.filter fun h => !markReached c h.msg } }
  (l.filter fun h => markReached c h.msg).foldl (fun x h => performSet h.msg x) c1

/-- BLAZE_SET: steps 1 to 4, then the set is applied or held (R516). -/
def setIn (p : Nat) (m : Msg) (c : Chip) : Chip :=
  let c := takeMsg p m c
  if !accepting c then c else
    match checks123 p m c with
    | (false, c) => c
    | (true, c) => match check4 p m c with
      | (false, c) => answer m 0x15 St.lnRoleStale [] [] c
      | (true, c) =>
        let c := noteCtr m c
        if markReached c m then performSet m c
        else { c with lnk := { c.lnk with held := c.lnk.held ++ [⟨p, m⟩] } }

/-- LN_ANNOUNCE_LOST: a held set is discarded (R517). -/
def setLost (k : Nat) (c : Chip) : Chip :=
  match c.lnk.held[k]? with
  | none => c
  | some h =>
    let src := h.msg.src.toNat % 4096
    let c := { c with lnk := { c.lnk with held := c.lnk.held.eraseIdx k } }
    let c := emit (Src.link h.port) St.lnAnnounceLost (some (h.msg.dst.toNat / 4096))
      [src, markOf h.msg, tget 0 (sess c src).accepted 0, h.msg.addr.toNat % 512] c
    answer h.msg 0x15 St.lnAnnounceLost [] [] c

/-! ### Requests to memory (R515) -/

/-- The poison of each of a body's bytes (R501). -/
def bytePoison (m : Msg) (n : Nat) : List Bool :=
  if bitOf m.flags.toNat 2 then (span 0 n).map fun i => nth false m.poisonMap (i / 8) else []

/-- MSG_WRITE. -/
def writeIn (p : Nat) (m : Msg) (ecc : Ecc) (c : Chip) : Chip :=
  let m := asOp 1 m
  let n := m.len.toNat
  arriveMem p m n (fun c =>
    let a := m.addr.toNat % 2 ^ 44
    applyHeld (answer m 0x11 St.ok [] [] (writePoison a (fit n m.body) (bytePoison m n) (eccStore a n ecc c)))) c

/-- MSG_READ: the words of the answer that are poisoned are marked (R515). -/
def readIn (p : Nat) (m : Msg) (ecc : Ecc) (c : Chip) : Chip :=
  let m := asOp 2 m
  let n := m.len.toNat
  arriveMem p m n (fun c =>
    let a := m.addr.toNat % 2 ^ 44
    let c := applyEcc a n ecc c
    applyHeld (answer m 0x12 St.ok (memRead c a n) (wordMap ((n + 7) / 8) ((span a n).map (wordPoison c))) c)) c

/-- The width of an ATOMIC's operand. -/
def atomicWidth (m : Msg) : Nat := leNat ((m.body.drop 1).take 1)
/-- An ATOMIC whose operation, width or alignment the A extension lacks is malformed (DEDUCED, log 27). -/
def atomicOk (m : Msg) : Bool :=
  (atomicWidth m == 4 || atomicWidth m == 8) && amoDefined (leNat (m.body.take 1)) && m.addr.toNat % max 1 (atomicWidth m) == 0

/-- ATOMIC: the old value is the answer; a poisoned one is returned marked, and nothing is written (R137, R515). -/
def atomicIn (p : Nat) (m : Msg) (ecc : Ecc) (c : Chip) : Chip :=
  let m := asOp 3 m
  let m := if atomicOk m then m else { m with op := 0 }
  let n := atomicWidth m
  arriveMem p m n (fun c =>
    let a := m.addr.toNat % 2 ^ 44
    let c := applyEcc a n ecc c
    let old := memRead c a n
    let bad := wordPoison c a
    let c := if bad then c else
      memWrite a (leBytes n (amoValue (leNat (m.body.take 1)) (8 * n) (leNat old) (leNat ((m.body.drop 8).take 8)))) false c
    applyHeld (answer m 0x13 St.ok (fit 8 old) [bad] c)) c

/-! ### Queue packets (R518, R538, R539) -/

/-- The open packet of a session at a port, if any. -/
def openAt (c : Chip) (p src : Nat) : Option OpenPkt := c.opens.find? fun o => o.prod == .port p src
/-- The segments accepted of a session's open packet. -/
def segCount (c : Chip) (p src : Nat) : Nat :=
  ((c.lnk.segs.find? fun e => e.1 = p && e.2.1 = src).map (·.2.2)).getD 0
/-- The module with that number set. -/
def setSegs (p src n : Nat) (c : Chip) : Chip :=
  let l := c.lnk.segs.filter fun e => !(e.1 = p && e.2.1 = src)
  { c with lnk := { c.lnk with segs := if n = 0 then l else l ++ [(p, src, n)] } }

/-- A queue packet is marked bad and rewound (R518). -/
def breakPkt (p src : Nat) (o : OpenPkt) (c : Chip) : Chip :=
  let n := segCount c p src
  emit (Src.link p) St.lnPktBroken (queueOwner c o.q) [src, o.q, n] (setSegs p src 0 (rewind o c))

/-- Whether a queue holds its packets for the welt: a paired input of a paired module (R538, R542). -/
def pairedInput (c : Chip) (q : Nat) : Bool := c.pair.state != PSt.unpaired && egKind c q == 2
/-- Packets that the welt holds or receives (R539). -/
def inputsHeld (c : Chip) : Nat := c.pair.inp.length + c.opens.countP fun o => !isThread o.prod && pairedInput c o.q

/-- A whole packet of a port: on a paired input queue the welt holds it and tells the mate its digest, or discards it where
its sequence is settled already; on another queue it is committed (R315, R539, R540). -/
def portCommit (o : OpenPkt) (sent : Nat) (ws : List (Word × Bool)) (c : Chip) : Chip :=
  if pairedInput c o.q then
    let seq := (ws.headD (0, false)).1.toNat / 2 ^ 32
    if seq < tget 0 c.pair.settled o.q then rewind o c
    else
      let own := pktDigest o.q seq 0 1 ws
      let mate := (c.pair.early.find? fun x => x.1 = 1 && x.2.1 = o.q && x.2.2.1 = seq).map (·.2.2.2.2)
      let r : InRec := { q := o.q, seq := seq, sendTime := sent, pkt := o, own := own, mate := mate }
      sendDigest o.q 1 seq 0 own (modPair (fun x => { x with
        inp := x.inp ++ [r]
        early := x.early.filter fun y => !(y.1 = 1 && y.2.1 = o.q && y.2.2.1 = seq) }) (dropOpen o.prod o.q c))
  else weltCommit o.q (commitPkt o false c)

/-- The words of an open packet as its cells hold them. -/
def openWords (c : Chip) (o : OpenPkt) : List (Word × Bool) :=
  (span 0 o.written).map fun i => let r := cell c (nth 0 o.cells (i / 32)); (tget 0 r.words (i % 32), bitOf r.pois (i % 32))

/-- The words of a segment with their poison. -/
def segWords (m : Msg) : List (Word × Bool) :=
  (toWords (m.len.toNat / 8) (fit m.len.toNat m.body)).zipIdx.map fun e =>
    (e.1, bitOf m.flags.toNat 2 && nth false m.poisonMap e.2)

/-- The words of an accepted segment join the packet, which ends with the segment that has LAST set. -/
def putSegment (p src q : Nat) (m : Msg) (ws : List (Word × Bool)) (c : Chip) : Chip :=
  let c := ws.foldl (fun c w => match openOf c (.port p src) q with
    | some o => pushWord o w.1 w.2 c
    | none => c) (setSegs p src (segCount c p src + 1) c)
  match openOf c (.port p src) q with
  | none => c
  | some o => if bitOf m.flags.toNat 4 then setSegs p src 0 (portCommit o m.sendTime.toNat (openWords c o) c) else c

/-- Whether a segment of `n` words fits a packet with `left` words to come, and has LAST set just where it ends it. -/
def segFits (m : Msg) (n left : Nat) : Bool := n ≤ left && (bitOf m.flags.toNat 4 == (n == left))

/-- The status of a first segment: the sender of a paired input, the limits of open packets, the checks of R309 (R518, R538,
R539). -/
def firstStatus (c : Chip) (p src q len : Nat) : Status :=
  if pairedInput c q && egPeer c q ≠ src then St.addrRemoteDenied
  else
    let st := headerCheck c (.port p src) q len
    if st == St.qReset || st == St.qDisabled then st
    else if 256 ≤ c.opens.countP (fun o => match o.prod with | .port k _ => k == p | _ => false) ||
      (pairedInput c q && 2048 ≤ inputsHeld c) then St.qOpenLimit
    else st

/-- The rest of a refused packet, by its session and queue. -/
def refusedOf (c : Chip) (p src q : Nat) : Option RefusedPkt :=
  c.lnk.refused.find? fun r => r.port == p && r.sender == src && r.q == q
/-- The module without that mark. -/
def dropRefused (p src : Nat) (c : Chip) : Chip :=
  { c with lnk := { c.lnk with refused := c.lnk.refused.filter fun r => !(r.port == p && r.sender == src) } }

/-- A first segment (R518). -/
def firstSegment (p src q : Nat) (m : Msg) (c : Chip) : Status × Chip :=
  let c := dropRefused p src c
  let ws := segWords m
  match ws with
  | [] => (St.qBadHeader, c)
  | (hdr, hp) :: rest =>
    let len := hdr.toNat % 65536
    let st := firstStatus c p src q len
    if st ≠ St.ok then
      let c := countRefusal q st c
      (st, if bitOf m.flags.toNat 4 then c else { c with lnk := { c.lnk with refused := c.lnk.refused ++ [⟨p, src, q, st⟩] } })
    else if segFits m ws.length len then (St.ok, putSegment p src q m rest (openPkt (.port p src) q hdr hp c))
    else
      let c := setSegs p src 1 (openPkt (.port p src) q hdr hp c)
      (St.lnPktBroken, match openAt c p src with
        | some o => breakPkt p src o c
        | none => c)

/-- A segment of a queue packet that passed Table 15-5: its status and the module after it (R518). A segment that is not the
next one breaks the packet that is open. -/
def segmentIn (p src q : Nat) (m : Msg) (c : Chip) : Status × Chip :=
  let n := m.len.toNat / 8
  let first := bitOf m.flags.toNat 3
  let isNext := match openAt c p src with
    | some o => !first && o.q == q && segFits m n (o.len - o.written)
    | none => false
  if isNext then (St.ok, putSegment p src q m (segWords m) c)
  else
    let c := match openAt c p src with
      | some o => breakPkt p src o c
      | none => c
    if first then firstSegment p src q m c
    else match refusedOf c p src q with
      | some r => (r.status, if bitOf m.flags.toNat 4 then dropRefused p src c else c)
      | none => (St.lnPktBroken, c)

/-- QPKT (R518). -/
def qpktIn (p : Nat) (m : Msg) (c : Chip) : Chip :=
  let m := asOp 4 m
  let q := m.addr.toNat % 2 ^ 20
  arriveReq p m (fun e => decide (e.qFirst ≤ q) && decide (q < e.qFirst + e.qCount)) (fun _ => none) (fun c =>
    let (st, c) := segmentIn p (m.src.toNat % 4096) q m c
    applyHeld (answer m 0x14 st [] [] c)) c

/-- LN_PKT_BROKEN: 100 µs have passed without the next segment of a port's open packet (R518). -/
def pktBroken (p k : Nat) (c : Chip) : Chip :=
  match (c.opens.filterMap fun o => match o.prod with | .port n s => if n = p then some (s, o) else none | _ => none)[k]? with
  | some (src, o) => breakPkt p src o c
  | none => c

/-! ### Answers (R508, R512) -/

/-- An answer reaches its requester where the entry waits for one of its kind; it is else an orphan. -/
def answerIn (p : Nat) (m : Msg) (is : ReqKind → Bool) (f : ReqKind → Chip → Chip) (c : Chip) : Chip :=
  match arriveAnswer p m c with
  | (none, c) => c
  | (some o, c) =>
    if !is o.kind then bump 0x3000 14 0 1 c
    else if answerStatus m ≠ St.ok then refusedAnswer m c
    else f o.kind (normWaits (releaseReq m.reqRef.toNat c))

/-- WRITE_ACK: a remote store is complete, or a chain's chunk. -/
def writeAckIn (p : Nat) (m : Msg) (c : Chip) : Chip :=
  let m := asOp 0x11 m
  answerIn p m (fun k => match k with | .store .. => true | .mover _ _ w => w | _ => false) (fun k c => match k with
    | .mover name serial _ => moverAcked name serial m.reqRef.toNat c
    | _ => c) c

/-- The domain address of the first word that an answer marks as poisoned. -/
def answerPoison (m : Msg) (pa : Nat) : Option Nat :=
  if bitOf m.flags.toNat 2 then ((m.poisonMap.zipIdx.find? (·.1)).map fun e => (pa + 8 * e.2) / 8 * 8) else none

/-- A stalled thread takes the value of its answer, or POISON_CONSUMED for a word marked in it (R130, R151, R515). An
instruction fetch has no register to write. -/
def loadAnswer (t rd size : Nat) (uns fp : Bool) (pa : Nat) (m : Msg) (c : Chip) : Chip :=
  match (hart c t).wait with
  | .resp r _ _ _ _ len =>
    if r ≠ m.reqRef.toNat then c
    else match answerPoison m pa with
      | some a => takeTrap t ⟨25, a, some St.poisonConsumed, false⟩ (modHart t unstall c)
      | none => modHart t (fun h => unstall (if len = 0 then h else takeLoad rd size uns fp len m.body h)) c
  | _ => c

/-- READ_RESP. -/
def readRespIn (p : Nat) (m : Msg) (c : Chip) : Chip :=
  let m := asOp 0x12 m
  answerIn p m (fun k => match k with | .load .. => true | .mover _ _ w => !w | _ => false) (fun k c => match k with
    | .load t rd size uns fp _ pa => loadAnswer t rd size uns fp pa m c
    | .mover name serial _ =>
      moverData name serial m.reqRef.toNat m.body (if bitOf m.flags.toNat 2 then m.poisonMap else []) c
    | _ => c) c

/-- ATOMIC_RESP. -/
def atomicRespIn (p : Nat) (m : Msg) (c : Chip) : Chip :=
  let m := asOp 0x13 m
  answerIn p m (fun k => match k with | .atomic .. => true | _ => false) (fun k c => match k with
    | .atomic t rd dbl _ pa => loadAnswer t rd (2 + b2n dbl) false false pa m c
    | _ => c) c

/-- QPKT_ACK: the welt acts on every status of a packet's segment (R547, R549). -/
def qpktAckIn (p : Nat) (m : Msg) (c : Chip) : Chip :=
  let m := asOp 0x14 m
  match arriveAnswer p m c with
  | (none, c) => c
  | (some o, c) => match o.kind with
    | .welt q n k last =>
      let st := answerStatus m
      let c := if st == St.lnRoleStale || st == St.addrRemoteDenied then bump 0x2000 6 0 1 c else c
      egAnswer q n k last st (normWaits (releaseReq m.reqRef.toNat c))
    | _ => bump 0x3000 14 0 1 c

/-- BLAZE_ACK (R202, R517). -/
def blazeAckIn (p : Nat) (m : Msg) (c : Chip) : Chip :=
  let m := asOp 0x15 m
  answerIn p m (fun k => match k with | .blaze .. => true | _ => false) (fun _ c => c) c

/-- RESP_TIMEOUT: a request without an answer 120 µs after SEND_TIME fails (R508). -/
def respTimeout (r : Nat) (c : Chip) : Chip :=
  match tget none c.lnk.outReq r with
  | some o => if o.sendTime.isSome then unreachable r c else c
  | none => c

/-! ### Sessions (R503, R504) -/

/-- Messages that wait for a session that failed to open fail with it (R504, R508). -/
def failWaiting (peer : Nat) (c : Chip) : Chip :=
  let ws := waitList c peer
  ws.foldl (fun c w => match w.req with
    | some r => unreachable r c
    | none => c) (setWaits peer [] c)

/-- A handshake fails at a stage (R503, Table 17-10); the formation that asked for the session fails with it (R526). -/
def sessFail (p peer stage : Nat) (c : Chip) : Chip :=
  let c := emit (Src.link p) St.lnSessionFail none [peer, stage] (setSess peer {} c)
  let c := failWaiting peer c
  if c.pair.state = PSt.forming && c.pair.stage = 5 && obj c 0x3100 4 % 2 = 0 then
    match c.queues.find? fun e => e.2.welt && egKind c e.1 = 1 && egPeer c e.1 = peer with
    | some e => failEgress e.1 c
    | none => c
  else c

/-- The session keys of R503. The ECDH secret is a free value. -/
def sessionKeys (peer : Nat) (inc : Word) (c : Chip) : Nat × Chip :=
  let (ikm, c) := drawBytes 6 c
  let me := c.life.incarnation
  let low := decide (c.moduleId < peer)
  let salt := if low then leBytes 8 me.toNat ++ leBytes 8 inc.toNat else leBytes 8 inc.toNat ++ leBytes 8 me.toNat
  let ids := if low then leBytes 2 c.moduleId ++ leBytes 2 peer else leBytes 2 peer ++ leBytes 2 c.moduleId
  (leNat (hkdf384 ikm salt (ascii "Naloroth session" ++ ids) 72), c)

/-- A session opens, and what waits for it leaves (R503, R504). -/
def sessOpen (peer : Nat) (c : Chip) : Chip :=
  let s := sess c peer
  let (k, c) := sessionKeys peer s.peerInc c
  let c := setSess peer { s with state := 2, key := k, accepted := [], sent := [] } c
  let c := if c.pair.state = PSt.forming && peer = mateId c && c.pair.stage = 2 then sendHb c else c
  flushTo peer (waitList c peer).length c

/-- HELLO: the handshake is joined. Of two that cross, that of the lower module id goes on (DEDUCED, log 20). -/
def helloIn (p : Nat) (h : Hand) (c : Chip) : Chip :=
  let peer := h.peer.toNat
  let s := sess c peer
  if !accepting c then c
  else if s.state = 1 && s.opener && c.moduleId < peer then c
  else if h.refused then sessFail p peer 3 c
  else if !h.verified then sessFail p peer 2 c
  else sendHand 0x31 peer (setSess peer { state := 1, peerInc := h.inc, transcript := h.transcript } c)

/-- HELLO_REPLY: the opener ends the handshake. -/
def replyIn (p : Nat) (h : Hand) (c : Chip) : Chip :=
  let peer := h.peer.toNat
  let s := sess c peer
  if !accepting c || s.state ≠ 1 || !s.opener then c
  else if h.refused then sessFail p peer 3 c
  else if !h.verified then sessFail p peer 2 c
  else sessOpen peer (sendHand 0x32 peer (setSess peer { s with peerInc := h.inc, transcript := h.transcript } c))

/-- FINISHED: the handshake is complete. -/
def finishedIn (p : Nat) (h : Hand) (c : Chip) : Chip :=
  let peer := h.peer.toNat
  let s := sess c peer
  if !accepting c || s.state ≠ 1 || s.opener then c
  else if h.refused then sessFail p peer 3 c
  else if !h.verified then sessFail p peer 2 c
  else sessOpen peer (setSess peer { s with peerInc := h.inc, transcript := h.transcript } c)

/-- LN_SESSION_FAIL: no answer in time. -/
def noAnswer (peer : Nat) (c : Chip) : Chip :=
  if (sess c peer).state = 1 then sessFail ((routePort c peer).getD 0) peer 1 c else c

/-- PORT_LICENCE_RELEASE (R589). -/
def portRelease (p : Nat) (c : Chip) : Chip :=
  let v := port c p
  if v.licence && v.txq.isEmpty then dropGrant 3 p (setPort p { v with licence := false } c) else c

/-! ### Meanings -/

/-- CODEWORD. -/
def execCodeword (p : Port) (blocks : List Block) (symErrors : Nat) (s : State) : Out := act s (codewordIn p.toNat blocks symErrors)
/-- FLIT_DATA. -/
def execFlitData (p : Port) (flit : BitVec 2048) (s : State) : Out :=
  act s (flitIn p.toNat 1 flit (dataFlit p.toNat flit))
/-- FLIT_CREDIT. -/
def execFlitCredit (p : Port) (flit : BitVec 2048) (s : State) : Out :=
  act s (flitIn p.toNat 2 flit (creditFlit p.toNat flit))
/-- FLIT_IDLE. -/
def execFlitIdle (p : Port) (flit : BitVec 2048) (s : State) : Out := act s (flitIn p.toNat 0 flit id)
/-- FLIT_TRAIN. -/
def execFlitTrain (p : Port) (flit : BitVec 2048) (s : State) : Out := act s fun c => settle (trainFlit p.toNat flit c)
/-- REPLAY_TIMEOUT. -/
def execReplayTimeout (p : Port) (s : State) : Out :=
  act s fun c => if (port c p.toNat).state = Pst.up then startReplay p.toNat c else c
/-- MSG_WRITE. -/
def execMsgWrite (p : Port) (m : Msg) (ecc : Ecc) (s : State) : Out := act s fun c => settle (writeIn p.toNat m ecc c)
/-- MSG_READ. -/
def execMsgRead (p : Port) (m : Msg) (ecc : Ecc) (s : State) : Out := act s fun c => settle (readIn p.toNat m ecc c)
/-- ATOMIC. -/
def execAtomic (p : Port) (m : Msg) (ecc : Ecc) (s : State) : Out := act s fun c => settle (atomicIn p.toNat m ecc c)
/-- QPKT. -/
def execQpkt (p : Port) (m : Msg) (s : State) : Out := act s fun c => settle (qpktIn p.toNat m c)
/-- WRITE_ACK. -/
def execWriteAck (p : Port) (m : Msg) (s : State) : Out := act s fun c => settle (writeAckIn p.toNat m c)
/-- READ_RESP. -/
def execReadResp (p : Port) (m : Msg) (s : State) : Out := act s fun c => settle (readRespIn p.toNat m c)
/-- ATOMIC_RESP. -/
def execAtomicResp (p : Port) (m : Msg) (s : State) : Out := act s fun c => settle (atomicRespIn p.toNat m c)
/-- QPKT_ACK. -/
def execQpktAck (p : Port) (m : Msg) (s : State) : Out := act s fun c => settle (qpktAckIn p.toNat m c)
/-- BLAZE_ACK. -/
def execBlazeAck (p : Port) (m : Msg) (s : State) : Out := act s fun c => settle (blazeAckIn p.toNat m c)
/-- BLAZE_SET. -/
def execBlazeSet (p : Port) (m : Msg) (s : State) : Out := act s fun c => settle (setIn p.toNat (asOp 0x20 m) c)
/-- LN_ANNOUNCE_LOST. -/
def execLnAnnounceLost (k : Nat) (s : State) : Out := act s (setLost k)
/-- RESP_TIMEOUT. -/
def execRespTimeout (r : BitVec 16) (s : State) : Out := act s fun c => settle (respTimeout r.toNat c)
/-- LN_PKT_BROKEN. -/
def execLnPktBroken (p : Port) (k : Nat) (s : State) : Out := act s (pktBroken p.toNat k)
/-- HELLO. -/
def execHello (p : Port) (h : Hand) (s : State) : Out := act s fun c => settle (helloIn p.toNat h c)
/-- HELLO_REPLY. -/
def execHelloReply (p : Port) (h : Hand) (s : State) : Out := act s fun c => settle (replyIn p.toNat h c)
/-- FINISHED. -/
def execFinished (p : Port) (h : Hand) (s : State) : Out := act s fun c => settle (finishedIn p.toNat h c)
/-- PORT_LICENCE_RELEASE. -/
def execPortLicenceRelease (p : Port) (s : State) : Out := act s (portRelease p.toNat)
/-- LN_SESSION_FAIL. -/
def execLnSessionFail (peer : ModId) (s : State) : Out := act s fun c => settle (noAnswer peer.toNat c)

end Sys2Proof.Machine
end

