-- ==== Sys2Proof/Machine/PairCmd.lean ====
section
/-! DEFINITION. The rows of the pair (16): formation and the lace, mate messages, takeover, and the welt's sends. -/
namespace Sys2Proof.Machine

/-! ### Formation and the lace -/

/-- PR_FORM_FAIL: no MATE_HB has come within 100 µs (R526 step 1). -/
def formTimeout (c : Chip) : Chip :=
  if c.pair.state = PSt.forming && c.pair.stage = 2 then failForm St.prFormFail c else c

/-- LACE_IN_CHANGE: the mate is told (R526 step 2; DEDUCED, log 28); LACE_IN high closes the gate; where the second raise of the lace test waited for it to be low, that raise
follows (R530, R531). -/
def laceInChange (high : Bool) (c : Chip) : Chip :=
  let c := modPair (fun p => { p with laceIn := high, gate := p.gate && !high }) c
  let c := if !high && c.pair.claimWant then raiseClaim c else c
  if c.pair.state = PSt.unpaired then c else sendHb c

/-- PR_TIE_RESOLVED: both claims have been high for 1 µs, and this module's LACE_TIE is 0 (R532). -/
def tieResolved (c : Chip) : Chip :=
  if c.pair.claim && c.pair.laceIn && !c.pair.tie then
    emit Src.lace St.prTieResolved none [] (modPair (fun p => { p with state := PSt.yielded }) (clearClaim c))
  else c

/-- PR_LACE_FAULT: LACE_IN has disagreed for 2 µs with the CLAIM that the mate reports (R534). -/
def laceFault (c : Chip) : Chip :=
  match c.pair.hb with
  | none => c
  | some h =>
    if c.pair.state = PSt.unpaired || c.pair.state = PSt.forming || c.pair.silent || h.claim = c.pair.laceIn then c
    else
      let c := emit Src.lace St.prLaceFault none (laceDetail c) (modPair (fun p => { p with laceErr := true }) c)
      leaveSync St.prLaceFault (yieldPair St.prLaceFault c)

/-- MATE_SILENT: no message has come from the mate for 2 µs (R537). -/
def mateQuiet (c : Chip) : Chip :=
  if c.pair.state = PSt.unpaired || c.pair.state = PSt.forming then c else mateSilent c

/-- BOUNDARY_TIMEOUT: the mate's BOUNDARY has not come 10 µs after the boundary (R542). -/
def boundaryLate (c : Chip) : Chip :=
  if c.pair.boundaryAt.isNone then c else
    let c := if c.pair.silent then c else mateSilent c
    if c.pair.state = PSt.solo then settleInputs true (modPair (fun p => { p with boundaryAt := none }) c) else c

/-! ### Mate messages (R536, Table 16-5) -/

/-- A mate message arrives by port 15: steps 1 to 3 of Table 15-5, then its effect. Outside pair operation, and from any other
module, its operation is not one of Table 15-4. -/
def mateIn (op : Nat) (m : Msg) (f : Bytes → Chip → Chip) (c : Chip) : Chip :=
  let m := asOp op m
  let c := takeMsg 15 m c
  if !accepting c then c
  else
    let mate := c.pair.state != PSt.unpaired && m.src.toNat % 4096 == mateId c
    match checks123 15 (if mate then m else { m with op := 0xFF }) c with
    | (false, c) => c
    | (true, c) => f m.body (modPair (fun p => { p with silent := false }) (acceptCtr m c))

/-- A field of a mate message's body. -/
def mField (b : Bytes) (at_ n : Nat) : Nat := leNat ((b.drop at_).take n)

/-- A MATE_HB body. -/
def parseHb (b : Bytes) : Hb :=
  let fl := mField b 1 1
  { state := mField b 0 1, claim := bitOf fl 0, laceIn := bitOf fl 1, tie := bitOf fl 2, role := bitOf fl 3
    id := mField b 2 2, count := mField b 8 8, raw := mField b 0 8 }

/-- MATE_HB: formation goes on or fails with the mate's; a mate whose gate has opened in a swap lets the former active stand
by (R526, R557). -/
def hbIn (b : Bytes) (c : Chip) : Chip :=
  let h := parseHb b
  let c := modPair (fun p => { p with hb := some h }) c
  if c.pair.state = PSt.forming then
    if c.pair.stage = 2 then formHb h c
    else if 3 ≤ c.pair.stage && h.state = PSt.unpaired then failForm St.prFormFail c
    else c
  else if c.pair.state = PSt.yielded && c.pair.swap && h.state = PSt.active then
    emit Src.welt St.prSwapDone none []
      (setObj 0x3100 4 0 0 (modPair (fun p => { p with state := PSt.standby, swap := false }) c))
  else c

/-- DIGEST: the mate's digest of an output or an input packet; one that comes before its packet is kept for it (R546,
R552). -/
def digestIn (b : Bytes) (c : Chip) : Chip :=
  let q := mField b 0 4
  let n := mField b 8 8
  let seq := mField b 16 2
  let d := mField b 24 16
  if mField b 4 1 = 1 then
    if c.pair.inp.any fun r => r.q == q && r.seq == n then
      modPair (fun p => { p with inp := p.inp.map fun r => if r.q = q && r.seq = n then { r with mate := some d } else r }) c
    else modPair (fun p => { p with early := p.early ++ [(1, q, n, 0, d)] }) c
  else if c.pair.eg.any fun e => e.q == q && e.count == n && e.seq == seq then
    compareEg q n seq (modPair (fun p => { p with eg := p.eg.map fun e =>
      if e.q = q && e.count = n && e.seq = seq then { e with mate := some d } else e }) c)
  else modPair (fun p => { p with early := p.early ++ [(0, q, n, seq, d)] }) c

/-- CONFIRM: a mate that sends nothing frees its copy, or will when it commits it (R548). -/
def confirmIn (b : Bytes) (c : Chip) : Chip :=
  let q := mField b 0 4
  let n := mField b 8 8
  let seq := mField b 16 2
  if c.pair.state = PSt.active || c.pair.state = PSt.solo then c
  else if c.pair.eg.any fun e => e.q == q && e.count == n && e.seq == seq then confirmEg q n seq c
  else modPair (fun p => { p with early := p.early ++ [(2, q, n, seq, 0)] }) c

/-- BOUNDARY: the inputs are settled once both mates have passed the boundary (R540). -/
def boundaryIn (b : Bytes) (c : Chip) : Chip :=
  let n := mField b 0 8
  let overs := mField b 8 2
  if c.pair.boundaryAt = some n then mateBoundary n overs c
  else modPair (fun p => { p with mateBoundary := some (n * 65536 + overs) }) c

/-- YIELD: a standby may take over; a planned swap makes it ACTIVE (R554, R557). -/
def yieldIn (b : Bytes) (c : Chip) : Chip :=
  if c.pair.state = PSt.standby then
    modPair (fun p => { p with yieldSeen := true, swap := decide (mField b 0 2 = St.prSwapDone.toNat) }) c
  else c

/-! ### Meanings -/

/-- PR_FORM_FAIL. -/
def execPrFormFail (s : State) : Out := act s formTimeout
/-- LACE_TEST_END. -/
def execLaceTestEnd (s : State) : Out :=
  act s fun c => if c.pair.state = PSt.forming then laceTestEnd c else c
/-- LACE_IN_CHANGE. -/
def execLaceInChange (high : Bool) (s : State) : Out := act s (laceInChange high)
/-- GATE_OPEN. -/
def execGateOpen (s : State) : Out := act s fun c => settle (gateOpen c)
/-- PR_TIE_RESOLVED. -/
def execPrTieResolved (s : State) : Out := act s tieResolved
/-- PR_LACE_FAULT. -/
def execPrLaceFault (s : State) : Out := act s laceFault
/-- MATE_SILENT. -/
def execMateSilent (s : State) : Out := act s mateQuiet
/-- MATE_HB. -/
def execMateHb (m : Msg) (s : State) : Out := act s fun c => settle (mateIn 0x40 m hbIn c)
/-- DIGEST. -/
def execDigest (m : Msg) (s : State) : Out := act s fun c => settle (mateIn 0x41 m digestIn c)
/-- CONFIRM. -/
def execConfirm (m : Msg) (s : State) : Out := act s fun c => settle (mateIn 0x42 m confirmIn c)
/-- BOUNDARY. -/
def execBoundary (m : Msg) (s : State) : Out := act s fun c => settle (mateIn 0x43 m boundaryIn c)
/-- BOUNDARY_TIMEOUT. -/
def execBoundaryTimeout (s : State) : Out := act s fun c => settle (boundaryLate c)
/-- YIELD. -/
def execYield (m : Msg) (s : State) : Out := act s fun c => settle (mateIn 0x44 m yieldIn c)
/-- PR_TAKEOVER. -/
def execPrTakeover (s : State) : Out := act s takeover
/-- WELT_SEND. -/
def execWeltSend (q : QNum) (s : State) : Out := act s fun c => settle (sendEg q.toNat 0 c)
/-- WELT_RETRY. -/
def execWeltRetry (q : QNum) (s : State) : Out := act s fun c => settle (sendEg q.toNat 2 c)

end Sys2Proof.Machine
end

