-- ==== Sys2Proof/Machine/FaultCmd.lean ====
section
/-! DEFINITION. The rows of the fence, the fault log and the bundle (17), and the debug port (23). -/
namespace Sys2Proof.Machine

/-- FENCE_N_LOW: the gate closes, and CLAIM is cleared (R530, R531, R572). A module that claimed claims again after a
glitch. -/
def fenceDown (c : Chip) : Chip :=
  let had := c.pair.claim
  let c := modPair (fun p => { p with fenceLow := true, gate := false }) c
  if had then modPair (fun p => { p with claimWant := true }) (clearClaim c) else c

/-- FLT_FENCED: FENCE_N has been low for 1 µs (R572); with LATCH_N low too the entry is one under R684 (R685). -/
def fenceHeld (c : Chip) : Chip := if c.pair.fenceLow then enterFenced (!c.board.latchN) c else c

/-- FENCE_N_HIGH: after a low that entered no state the glitch is recorded and CLAIM is raised again; a reset that FENCED held
runs (R572, R681). -/
def fenceUp (c : Chip) : Chip :=
  if !c.pair.fenceLow then c else
    let c := modPair (fun p => { p with fenceLow := false }) c
    let m := c.life.mstate
    if m = MState.off || m = MState.failed then c
    else if m = MState.fenced then (if c.life.held then moduleReset c else c)
    else
      let c := emit Src.fault St.fltFenceGlitch none [] c
      if c.pair.claimWant then raiseClaim c else c

/-- FLT_PM_DONE: the bundle is complete, and a reset that waited for it begins (R575, R681). -/
def bundleEnd (c : Chip) : Chip := if c.flt.writing.isSome then resetDue (bundleDone c) else c

/-! ### The debug port (R702, Table 19-6) -/

/-- Bytes that the debug port shifts out and no rule gives: free values. -/
def freeBytes (n : Nat) (c : Chip) : Bytes × Chip :=
  match drawBytes ((n + 7) / 8) c with
  | (b, c) => (b.take n, c)

/-- What an instruction that the debug state does not allow does: the bypass register of IEEE 1149.1, one bit (PRESUMED, log 9). -/
def bypass (bits : Bytes) (c : Chip) : Chip := send (.tdo (leBytes bits.length (2 * leNat bits))) c

/-- A scan shifts bits in and out; what the chain holds is not stated. -/
def scan (allowed : Bool) (bits : Bytes) (c : Chip) : Chip :=
  if allowed then
    match freeBytes bits.length c with
    | (b, c) => send (.tdo b) c
  else bypass bits c

/-- DEBUG_TAP. -/
def debugTap (op : TapOp) (c : Chip) : Chip :=
  if !c.life.powered then c else
    let isOpen := c.fuse.debug = 0
    match op with
    | .reset => c
    | .idcode => send (.tdo (leBytes 4 0x188050A7)) c
    | .boundaryScan bits => scan true bits c
    | .internalScan bits => scan isOpen bits c
    | .cobblerDebug bits => scan isOpen bits c
    | .debugReset =>
      if isOpen then moduleReset { c with life := { c.life with resetAt := some (now c), resetKind := 2 } } else c

/-! ### Meanings -/

/-- FENCE_N_LOW. -/
def execFenceNLow (s : State) : Out := act s fenceDown
/-- FLT_FENCED. -/
def execFltFenced (s : State) : Out := act s fun c => settle (fenceHeld c)
/-- FENCE_N_HIGH. -/
def execFenceNHigh (s : State) : Out := act s fenceUp
/-- FLT_LOG_ADMIT. -/
def execFltLogAdmit (s : State) : Out := act s logAdmit
/-- FLT_PM_DONE. -/
def execFltPmDone (s : State) : Out := act s bundleEnd
/-- DEBUG_TAP. -/
def execDebugTap (op : TapOp) (s : State) : Out := act s (debugTap op)

end Sys2Proof.Machine
end

