-- ==== Sys2Proof/Machine/MemCommands.lean ====
section
/-! DEFINITION. Commands of the memory tiers (R278 to R286, R293, R294), of the queue engine and the blaze file that no
thread gives (R315, R329, R357), of the KV pager (12) and of the serving engine (13). -/
namespace Sys2Proof.Machine

/-! ### Patrols, scrubs and clears -/

/-- SRAM_PATROL: one word of base, stand or grove memory (R284). -/
def sramPatrol (a : Nat) (e : Ecc) (c : Chip) : Chip :=
  match tierOf a with
  | .base | .stand | .grove => if c.life.powered then applyEcc (a / 8 * 8) 8 e c else c
  | _ => c

/-- The address that the patrol of a channel reads after a line: the next line of the same channel (R272, R273, R285). -/
def patrolNext (a : Nat) : Nat :=
  let us := tierOf a == .us
  let base := if us then usBase else 0
  let line := a / 64 * 64
  let ch := memchOf a
  if !us && line / 64 % 2 = 0 then line + 64
  else
    let b := line / 4096
    let inBlock (k : Nat) : Nat :=
      let p := (base + k % 2 ^ 27 * 4096)
      if us then p + ((ch - 256) ^^^ bitsOf (p) 17 12) * 64 else p + ch % 32 * 128
    let ok (k : Nat) : Bool := memchOf (inBlock k) == ch
    let rel := b - base / 4096
    match (span (rel + 1) 16).find? ok with
    | some k => inBlock k
    | none => base

/-- Watts of a pass over 1 GiB (Table 18-1). -/
def passWatts (a : Nat) : Nat := if tierOf a == .us then 3 else 8

/-- DRAM_PATROL_LINE: one line operation (R281, R285). The pass over its 1 GiB holds its licence from its first line to its
last (R286). -/
def dramPatrol (a : Nat) (e : Ecc) (c : Chip) : Chip :=
  if !c.life.powered || !isDram a then c else
    let r := a / 2 ^ 30
    let c := if hasGrant c 2 r then c else
      { c with pwr := { c.pwr with engine := c.pwr.engine ++ [⟨2, r, none, passWatts a⟩] } }
    let c := setObj 0x5480 6 (memchOf a) (patrolNext a) (applyEcc (a / 64 * 64) 64 e c)
    if a % 2 ^ 30 / 64 = 2 ^ 24 - 1 then dropGrant 2 r c else c

/-- MEM_PATROL_LAG: a controller has not finished its period (R286). -/
def patrolLag (us : Bool) (ctrl unread : Nat) (c : Chip) : Chip :=
  if !c.life.powered then c else
    emit (if us then Src.us ctrl else Src.hbm ctrl) St.memPatrolLag none
      [b2n us, obj c 0x2200 (if us then 6 else 5), unread] c

/-- US_SCRUB_REGION_DONE: the next region in ascending order is clear (R293). -/
def usRegionDone (c : Chip) : Chip :=
  match (span 0 512).find? fun k => !bitOf c.mem.usScrub k with
  | none => c
  | some k =>
    if c.mem.usReady = 0 then c else
      let c := memClear (usBase + k * 2 ^ 30) (2 ^ 30) c
      let c := { c with mem := { c.mem with usScrub := bitPut c.mem.usScrub k true } }
      if k = 511 then emit Src.clear St.memScrubDone none [2 ^ 39, c.mem.usBegan] c else c

/-- MEM_CLEAR_DONE: the oldest released range is clear and returns to the free pool (R294). -/
def clearDone (c : Chip) : Chip :=
  match c.mem.clears with
  | [] => c
  | r :: rest =>
    let c := memClear r.first r.len { c with mem := { c.mem with clears := rest } }
    emit Src.clear St.memClearDone none [r.tier, r.first, r.len] c

/-! ### Meanings -/

/-- SRAM_PATROL. -/
def execSramPatrol (addr : BitVec 44) (ecc : Ecc) (s : State) : Out := act s fun c => settleMem (sramPatrol addr.toNat ecc c)
/-- DRAM_PATROL_LINE. -/
def execDramPatrolLine (addr : BitVec 44) (ecc : Ecc) (s : State) : Out := act s fun c => settleMem (dramPatrol addr.toNat ecc c)
/-- MEM_PATROL_LAG. -/
def execMemPatrolLag (us : Bool) (ctrl : BitVec 8) (unread : Nat) (s : State) : Out := act s (patrolLag us ctrl.toNat unread)
/-- US_SCRUB_REGION_DONE. -/
def execUsScrubRegionDone (s : State) : Out := act s usRegionDone
/-- MEM_CLEAR_DONE. -/
def execMemClearDone (s : State) : Out := act s clearDone
/-- ENGINE_PACKET. -/
def execEnginePacket (src : Source) (q : QNum) (ws : List (Word × Bool)) (bad : Bool) (s : State) : Out :=
  act s fun c => settle (putPacket false src q.toNat ws bad c).2
/-- Q_RESET_DONE. -/
def execQResetDone (q : QNum) (s : State) : Out := act s (finishReset q.toNat)
/-- BZ_DUMP_DONE. -/
def execBzDumpDone (s : State) : Out := act s finishDump

/-- KVP_OPEN. -/
def execKvpOpen (p : Part) (hook : Option (List Word)) (s : State) : Out := act s fun c => settle (kvRead 1 p.toNat hook c)
/-- KVP_APPEND. -/
def execKvpAppend (p : Part) (hook : Option (List Word)) (s : State) : Out := act s fun c => settle (kvRead 2 p.toNat hook c)
/-- KVP_MAP. -/
def execKvpMap (p : Part) (hook : Option (List Word)) (s : State) : Out := act s fun c => settle (kvRead 3 p.toNat hook c)
/-- KVP_UNPIN. -/
def execKvpUnpin (p : Part) (hook : Option (List Word)) (s : State) : Out := act s fun c => settle (kvRead 4 p.toNat hook c)
/-- KVP_PREFETCH. -/
def execKvpPrefetch (p : Part) (hook : Option (List Word)) (s : State) : Out := act s fun c => settle (kvRead 5 p.toNat hook c)
/-- KVP_SPILL. -/
def execKvpSpill (p : Part) (hook : Option (List Word)) (s : State) : Out := act s fun c => settle (kvRead 6 p.toNat hook c)
/-- KVP_CLOSE. -/
def execKvpClose (p : Part) (hook : Option (List Word)) (s : State) : Out := act s fun c => settle (kvRead 7 p.toNat hook c)
/-- KVP_BUCKET. -/
def execKvpBucket (p : Part) (hook : Option (List Word)) (s : State) : Out := act s fun c => settle (kvRead 8 p.toNat hook c)
/-- KV_PAGE_MOVE_DONE. -/
def execKvPageMoveDone (k : Nat) (ecc : Ecc) (s : State) : Out := act s fun c => settleMem (kvMoveDone k ecc c)
/-- KV_RSP_BLOCKED. -/
def execKvRspBlocked (p : Part) (s : State) : Out := act s fun c => settle (kvRetry p.toNat c)

/-- SEQ_OPEN. -/
def execSeqOpen (p : Part) (s : State) : Out := act s fun c => settle (srvRead 1 p.toNat none c)
/-- SEQ_CLOSE. -/
def execSeqClose (p : Part) (hook : Option (List Word)) (s : State) : Out := act s fun c => settle (srvRead 2 p.toNat hook c)
/-- PFX_LOOKUP. -/
def execPfxLookup (p : Part) (s : State) : Out := act s fun c => settle (srvRead 3 p.toNat none c)
/-- PFX_INSERT. -/
def execPfxInsert (p : Part) (s : State) : Out := act s fun c => settle (srvRead 4 p.toNat none c)
/-- PFX_REMOVE. -/
def execPfxRemove (p : Part) (s : State) : Out := act s fun c => settle (srvRead 5 p.toNat none c)
/-- ADMIT. -/
def execAdmit (p : Part) (s : State) : Out := act s fun c => settle (srvRead 6 p.toNat none c)
/-- STEP_DONE. -/
def execStepDone (p : Part) (s : State) : Out := act s fun c => settle (srvRead 7 p.toNat none c)
/-- SRV_RSP_BLOCKED. -/
def execSrvRspBlocked (p : Part) (s : State) : Out := act s fun c => settle (srvRetry p.toNat c)

end Sys2Proof.Machine
end

