-- ==== Sys2Proof/Machine/PowerCmd.lean ====
section
/-! DEFINITION. The rows of the Warden (18): samples, floors and their lifts, sensors, the thermal windows and bursts. -/
namespace Sys2Proof.Machine

/-- The Warden runs from the end of phase 1 on (R25, R602). -/
def wardenOn (c : Chip) : Bool := c.life.powered && c.life.mstate != MState.off

/-- PWR_CURRENT_LIMIT: a die's current has been above ILIM_A for 1 µs, or for a further 1 µs (Table 18-4). -/
def currentLimit (d : Nat) (c : Chip) : Chip :=
  let n := tget 0 c.pwr.floors.curShift d
  let set (f : Floors) : Floors :=
    { f with curShift := tset 0 f.curShift d (min 3 (n + 1)), curLift := tput f.curLift d false }
  if n = 0 then emit Src.warden St.pwrCurrentLimit none [] (floorActed set c)
  else { c with pwr := { c.pwr with floors := set c.pwr.floors } }

/-- PWR_TJ_TRIP: a sensor in service has read 115 °C for 10 µs (Table 18-4, R605). -/
def tjTrip (s : Nat) (c : Chip) : Chip :=
  if 288 ≤ s || (sensor c s).failed then c else tripDie (sensorDie s) s c

/-- FLOOR_LIFT: a floor's lift condition has held for its time (Table 18-4, R601): 0 the package floor, 1 and 2 the current
floor of dies 0 and 1, 3 to 5 the junction floor of dies 0, 1 and the base die, 6 the burst floor. -/
def liftFloor (k : Nat) (f : Floors) : Floors :=
  if k = 0 then (if f.pkgDrop = 0 then f else { f with pkgLift := true })
  else if k ≤ 2 then (if tget 0 f.curShift (k - 1) = 0 then f else { f with curLift := tput f.curLift (k - 1) true })
  else if k ≤ 5 then (if thas f.trip (k - 3) then { f with tripLift := tput f.tripLift (k - 3) true } else f)
  else if k = 6 then { f with burstLift := f.burst }
  else f

/-- BURST_WINDOW_CLOSE: 5 ms after the first burst grant (R600). -/
def windowClose (c : Chip) : Chip :=
  if c.pwr.burst = 1 then { c with pwr := { c.pwr with burst := 2, burstAt := now c } } else c
/-- BURST_RECOVERY_END: 45 ms after the window closed (R600). -/
def recoveryEnd (c : Chip) : Chip :=
  if c.pwr.burst = 2 then { c with pwr := { c.pwr with burst := 0, burstAt := now c } } else c
/-- PWR_BURST_LIMIT: input power has stayed above 1,650 W for 20 µs after the window closed (R601). -/
def burstLimit (c : Chip) : Chip :=
  if c.pwr.burst ≠ 2 then c
  else if c.pwr.floors.burst then { c with pwr := { c.pwr with floors := { c.pwr.floors with burstLift := false } } }
  else emit Src.warden St.pwrBurstLimit none [] (floorActed (fun f => { f with burst := true, burstLift := false }) c)

/-- A row of the Warden, while it runs. -/
def warden (f : Chip → Chip) (c : Chip) : Chip := if wardenOn c then f c else c

/-- PKG_POWER_SAMPLE. -/
def execPkgPowerSample (pkg input : Nat) (s : State) : Out := act s (warden (pkgSample pkg input))
/-- PWR_CURRENT_LIMIT. -/
def execPwrCurrentLimit (die : BitVec 1) (s : State) : Out := act s (warden (currentLimit die.toNat))
/-- PWR_TJ_TRIP. -/
def execPwrTjTrip (sensor : BitVec 9) (s : State) : Out := act s (warden (tjTrip sensor.toNat))
/-- FLOOR_LIFT. -/
def execFloorLift (which : BitVec 3) (s : State) : Out :=
  act s (warden fun c => { c with pwr := { c.pwr with floors := liftFloor which.toNat c.pwr.floors } })
/-- SENSOR_READING. -/
def execSensorReading (sensor : BitVec 9) (v : Option Int) (s : State) : Out := act s (warden (readSensor sensor.toNat v))
/-- RTH_WINDOW. -/
def execRthWindow (meanPower : Nat) (meanTj meanInlet : Int) (s : State) : Out := act s (warden (rthEnd meanPower meanTj meanInlet))
/-- BURST_WINDOW_CLOSE. -/
def execBurstWindowClose (s : State) : Out := act s (warden windowClose)
/-- BURST_RECOVERY_END. -/
def execBurstRecoveryEnd (s : State) : Out := act s (warden recoveryEnd)
/-- PWR_BURST_LIMIT. -/
def execPwrBurstLimit (s : State) : Out := act s (warden burstLimit)

end Sys2Proof.Machine
end

