-- ==== Sys2Proof/Machine/Shim.lean ====
section
/-! DEFINITION. The partition shim (R124 to R129): its services under the Supervisor Binary Interface, with those that other
chapters add to Table 04-4 (R329, R578, R583, R609), and the saving and restoring of contexts. A row of this file is an
ECALL whose a6 and a7 name its service (DEDUCED, log 26). -/
namespace Sys2Proof.Machine

/-! ### The calling convention -/

/-- SBI error codes. -/
def Sbi.notSupported : Int := -2
/-- SBI_ERR_INVALID_PARAM. -/
def Sbi.invalidParam : Int := -3
/-- SBI_ERR_DENIED. -/
def Sbi.denied : Int := -4
/-- SBI_ERR_INVALID_ADDRESS. -/
def Sbi.invalidAddress : Int := -5
/-- SBI_ERR_ALREADY_STARTED. -/
def Sbi.alreadyStarted : Int := -7

/-- EID of the vendor extension (R126). -/
def vendorEid : Nat := 0x09000880

/-- The answer in a0 and a1, and the hart past its ECALL (R126). -/
def answerHart (err : Int) (v : Nat) (h : Hart) : Hart :=
  advance 4 (writeX 11 (BitVec.ofNat 64 v) (writeX 10 (BitVec.ofNat 64 (toTwos 64 err)) h))
/-- The shim answers a thread's call, where the thread is still loaded. -/
def sbiRet (t : Nat) (err : Int) (v : Nat) (c : Chip) : Chip :=
  if (hart c t).state = .empty then c else modHart t (answerHart err v) c

/-- The bits of ECALL. -/
def ecallBits : Nat := 0x73

/-- An ECALL: from S mode it calls the shim; from U mode and from M mode it is the environment call of that mode (R126,
R130). -/
def ecall (t : Nat) (f : Chip → Chip) (c : Chip) : Chip :=
  let h := hart c t
  if h.priv = 1 then f c
  else takeTrap t ⟨if h.priv = 3 then 11 else 8, 0, none, false⟩ c

/-- An argument register. -/
def argOf (c : Chip) (t r : Nat) : Nat := (readX (hart c t) r).toNat

/-- A service of the calling thread's partition. -/
def forPart (t : Nat) (f : Nat → Chip → Chip) (c : Chip) : Chip :=
  match threadPart c t with
  | some p => f p c
  | none => sbiRet t Sbi.denied St.addrPartViolation.toNat c

/-- A service on the thread in a0, which must lie on a grove of the calling partition (R127). -/
def onThread (t : Nat) (f : Nat → Nat → Chip → Chip) (c : Chip) : Chip :=
  forPart t (fun p c =>
    let x := argOf c t 10
    if x < 16384 && threadPart c x = some p then f p x c else sbiRet t Sbi.denied St.threadNotOwned.toNat c) c

/-! ### Services of Table 04-4 -/

/-- PART_INFO. -/
def partInfo (t : Nat) (c : Chip) : Chip := forPart t (fun p c => sbiRet t 0 (partInfoWord c p) c) c

/-- THREAD_START (R127, R153): S mode, Bare, a0 the argument and every other register zero (PRESUMED, log 6). -/
def threadStart (t : Nat) (c : Chip) : Chip :=
  onThread t (fun _ x c =>
    if (hart c x).state ≠ .empty then sbiRet t Sbi.alreadyStarted St.threadBusy.toNat c
    else
      let h : Hart := { state := .ready, priv := 1, pc := readX (hart c t) 11, quota := obj c 0x2000 3 }
      sbiRet t 0 0 (setHart x (writeX 10 (readX (hart c t) 12) h) c)) c

/-- THREAD_STOP (R128). -/
def threadStop (t : Nat) (c : Chip) : Chip := onThread t (fun _ x c => sbiRet t 0 0 (stopThread x c)) c

/-- THREAD_CLASS (R122). -/
def threadClass (t : Nat) (c : Chip) : Chip :=
  onThread t (fun _ x c =>
    let v := argOf c t 11
    if 1 < v then sbiRet t Sbi.invalidParam 0 c
    else if (hart c x).state = .empty then sbiRet t 0 0 c
    else sbiRet t 0 0 (modHart x (fun h => { h with clsReq := v == 1 }) c)) c

/-- TAG_QUOTA (R153). -/
def tagQuota (t : Nat) (c : Chip) : Chip :=
  onThread t (fun _ x c =>
    let v := argOf c t 11
    if v = 0 || 256 < v then sbiRet t Sbi.invalidParam 0 c
    else if (hart c x).state = .empty then sbiRet t 0 0 c
    else sbiRet t 0 0 (modHart x (fun h => { h with quota := v }) c)) c

/-- TLB_FLUSH starts (R129): the entries leave every TLB of the partition, and the call waits. -/
def tlbFlush (t : Nat) (c : Chip) : Chip :=
  forPart t (fun p c =>
    let a := argOf c t 10
    let e := mapOf c p
    let hit (x : TlbEnt) : Bool := a == 0xFFFFFFFF || x.asid == a
    let c := (span e.firstGrove (e.grovesM1 + 1)).foldl (fun c g => modGrove g (fun v => { v with tlb := v.tlb.filter fun x => !hit x }) c) c
    modHart t (fun h => { h with state := .stalled, wait := .flush }) c) c

/-- TLB_FLUSH returns (R129). -/
def tlbFlushEnd (t : Nat) (c : Chip) : Chip :=
  let h := hart c t
  if h.wait = .flush then setHart t (unstall (answerHart 0 0 h)) c else c

/-! ### Services of other chapters -/

/-- QUEUE_RESET, FID 6 (R329). -/
def queueResetCall (t : Nat) (c : Chip) : Chip :=
  forPart t (fun p c =>
    let q := argOf c t 10
    if queueOwner c q = some p then sbiRet t 0 0 (startReset q c)
    else sbiRet t Sbi.denied St.addrPartViolation.toNat c) c

/-- CKPT_COMMIT, FID 7 (R578): late unless the checkpoint began at the present stitch's boundary. -/
def ckptCommit (t : Nat) (c : Chip) : Chip :=
  forPart t (fun p c =>
    let n := argOf c t 10
    let a := argOf c t 11
    let began := (partFlt c p).ckptAt
    let here := countNow c = c.time.curCount
    if began ≠ some n || !here then
      sbiRet t Sbi.invalidParam St.fltCkptLate.toNat
        (emit Src.fault St.fltCkptLate (some p) [n, if here then began.getD 0 else 0] c)
    else if a % 128 ≠ 0 then sbiRet t Sbi.invalidParam 0 c
    else if a / 2 ^ 44 ≠ c.moduleId then sbiRet t Sbi.invalidAddress St.addrPartViolation.toNat c
    else match checkLocal c (some p) none false (a % 2 ^ 44) 128 with
      | some st => sbiRet t Sbi.invalidAddress st.toNat (countViolation st c)
      | none => sbiRet t 0 0 (commitSave p n (memWrite (a % 2 ^ 44) (imageBytes c p) false c))) c

/-- RECOVERY_INFO, FID 8 (R583). -/
def recoveryInfo (t : Nat) (c : Chip) : Chip := forPart t (fun p c => sbiRet t 0 (recoveryWord c p) c) c

/-- ROT_HINT, FID 9 (R609). -/
def rotHint (t : Nat) (c : Chip) : Chip := forPart t (fun p c => sbiRet t 0 (tget 0 c.pwr.rotShift p) c) c

/-- A call of the Base extension of the SBI, version 2.0; its identification values are not stated (R126; DESIGN CHOICE, log 2). -/
def baseCall (t : Nat) (c : Chip) : Chip :=
  let fid := argOf c t 16
  if fid = 0 then sbiRet t 0 0x02000000 c
  else if fid = 3 then
    let x := argOf c t 10
    sbiRet t 0 (if x = 0x10 || x = vendorEid then 1 else 0) c
  else if fid ≤ 6 then sbiRet t 0 (Config.unstated 38 fid 0).toNat c
  else sbiRet t Sbi.notSupported 0 c

/-- A call of any other extension (R126); the Base extension is served. -/
def otherCall (t : Nat) (c : Chip) : Chip :=
  if argOf c t 17 = 0x10 then baseCall t c else sbiRet t Sbi.notSupported 0 c

/-! ### Contexts -/

/-- Whether the shim may save a context: it is loaded, waits for nothing but a blaze or a boundary, and holds no tag, no
open packet and no binding (R124, R200, R319). -/
def mayUnload (c : Chip) (t : Nat) : Bool :=
  let h := hart c t
  h.state != .empty && h.state != .stalled && h.resume != .stalled && (tagsHeldBy c t).isEmpty &&
  !(c.opens.any fun o => o.prod == .thread t) && !(c.queues.any fun e => e.2.bound == some t)

/-- A sleep on a blaze that the shim ends returns rd = 0 (R346). -/
def endSleep (t : Nat) (c : Chip) : Chip :=
  match (hart c t).state, (hart c t).wait with
  | .sleepBlaze, .blaze _ rd _ _ => wakeBlaze t rd 0 c
  | _, _ => c

/-- CONTEXT_SAVE (R124, R195, R346): the U-mode and S-mode state goes to the hart's save area. -/
def contextSave (t : Nat) (c : Chip) : Chip :=
  match threadPart c t with
  | none => c
  | some p =>
    if !mayUnload c t then c else
      let c := releaseAll t (endSleep t c)
      let ctx : Hart := { hart c t with state := .ready, wait := .none, lr := none, resume := .ready, held := 0, inUse := 0, resHeld := 0 }
      { setHart t {} c with saves := tset {} c.saves t ⟨true, p, ctx⟩ }

/-- CONTEXT_RESTORE (R124, R195): to an EMPTY thread of a grove of the same partition, with GV_LIC zero. -/
def contextRestore (src dst : Nat) (c : Chip) : Chip :=
  let a : SaveArea := tget {} c.saves src
  if a.valid && (hart c dst).state = .empty && threadPart c dst = some a.part then
    { setHart dst a.ctx c with saves := tset {} c.saves src {} }
  else c

/-! ### Meanings -/

/-- A service runs as its thread's ECALL. -/
def callAct (t : Thread) (f : Nat → Chip → Chip) (s : State) : Out :=
  act s fun c => settle (runInsn t.toNat ecallBits none (ecall t.toNat (f t.toNat)) c)

/-- PART_INFO. -/
def execPartInfo (t : Thread) (s : State) : Out := callAct t partInfo s
/-- THREAD_START. -/
def execThreadStart (t : Thread) (s : State) : Out := callAct t threadStart s
/-- THREAD_STOP. -/
def execThreadStop (t : Thread) (s : State) : Out := callAct t threadStop s
/-- THREAD_CLASS. -/
def execThreadClass (t : Thread) (s : State) : Out := callAct t threadClass s
/-- TAG_QUOTA. -/
def execTagQuota (t : Thread) (s : State) : Out := callAct t tagQuota s
/-- TLB_FLUSH. -/
def execTlbFlush (t : Thread) (s : State) : Out := callAct t tlbFlush s
/-- TLB_FLUSH_DONE. -/
def execTlbFlushDone (t : Thread) (s : State) : Out := act s (tlbFlushEnd t.toNat)
/-- QUEUE_RESET. -/
def execQueueReset (t : Thread) (s : State) : Out := callAct t queueResetCall s
/-- CKPT_COMMIT. -/
def execCkptCommit (t : Thread) (s : State) : Out := callAct t ckptCommit s
/-- RECOVERY_INFO. -/
def execRecoveryInfo (t : Thread) (s : State) : Out := callAct t recoveryInfo s
/-- ROT_HINT. -/
def execRotHint (t : Thread) (s : State) : Out := callAct t rotHint s
/-- SBI_UNSUPPORTED. -/
def execSbiUnsupported (t : Thread) (s : State) : Out := callAct t otherCall s
/-- CONTEXT_SAVE. -/
def execContextSave (t : Thread) (s : State) : Out := act s fun c => settle (contextSave t.toNat c)
/-- CONTEXT_RESTORE. -/
def execContextRestore (src dst : Thread) (s : State) : Out := act s (contextRestore src.toNat dst.toNat)

end Sys2Proof.Machine
end

