-- ==== Sys2Proof/Machine/Vector.lean ====
section
/-! DEFINITION. Vector reductions in the fixed tree of R118. -/
namespace Sys2Proof.Machine

/-! ### The tree -/

/-- One level of the tree: adjacent elements are combined; one whose partner contributes nothing passes up unchanged. -/
def treeLevel {α σ : Type} (f : α → α → σ → α × σ) : List (Option α) → σ → List (Option α) × σ
  | a :: b :: r, s =>
    let (x, s) : Option α × σ := match a, b with
      | some a, some b => (match f a b s with | (v, s) => (some v, s))
      | some a, none => (some a, s)
      | none, y => (y, s)
    let (r, s) := treeLevel f r s
    (x :: r, s)
  | l, s => (l, s)

/-- The tree, level by level (R118): ten levels reduce the 512 elements that a register group can hold. -/
def treeReduce {α σ : Type} (f : α → α → σ → α × σ) : Nat → List (Option α) → σ → Option α × σ
  | 0, l, s => ((l.headD none), s)
  | n + 1, l, s =>
    match l with
    | [] => (none, s)
    | [x] => (x, s)
    | l => match treeLevel f l s with
      | (l, s) => treeReduce f n l s

/-! ### Element operations -/

/-- Accrued exception flags: NX 1, UF 2, OF 4, DZ 8, NV 16. -/
abbrev FFlags := Nat

/-- A scalar format of the F and D extensions by element bits. -/
def fpOf (w : Nat) : Fmt := (fmtOf (if w = 64 then 2 else 1)).getD fp32

/-- A signalling NaN. -/
def isSnan (w v : Nat) : Bool :=
  let f := fpOf w
  decodeF f v == .nan && !bitOf v (f.mb - 1)

/-- Rounding with the frm of the instruction: RMM rounds halves away from zero. -/
def roundFrm (w frm : Nat) (t : Term) : Nat × RFlags :=
  if frm = 4 then roundF (fpOf w) 4 (2 ^ 31) 1 t else roundF (fpOf w) frm 0 1 t

/-- Whether two terms are the same finite value. -/
def sameT (a b : Term) : Bool := match a, b with
  | .fin .., .fin .. => !ltT a b && !ltT b a
  | _, _ => a == b

/-- A floating-point sum of two elements by IEEE 754, exact before one rounding. -/
def fpAdd (w frm a b : Nat) (fl : FFlags) : Nat × FFlags :=
  let f := fpOf w
  let x := decodeF f a
  let y := decodeF f b
  let sum := (blockSum 4600 (frm == 2) [x, y]).1
  let (v, r) := roundFrm w frm sum
  let nv := isSnan w a || isSnan w b || (sum == .nan && x != .nan && y != .nan)
  let nx := r.ovf || !(sameT (decodeF f v) sum || sum == .nan)
  let uf := nx && !r.ovf && v % 2 ^ (w - 1) < 2 ^ f.mb
  (v, fl ||| (16 * b2n nv + 4 * b2n r.ovf + 2 * b2n uf + b2n nx))

/-- A floating-point minimum or maximum: a NaN gives way to a number, and −0 is below +0. -/
def fpPick (w : Nat) (wantMax : Bool) (a b : Nat) (fl : FFlags) : Nat × FFlags :=
  let f := fpOf w
  let x := decodeF f a
  let y := decodeF f b
  let fl := fl ||| 16 * b2n (isSnan w a || isSnan w b)
  let v :=
    if x == .nan && y == .nan then f.nan.getD 0
    else if x == .nan then b
    else if y == .nan then a
    else if ltT x y then (if wantMax then b else a)
    else if ltT y x then (if wantMax then a else b)
    else if bitOf a (w - 1) then (if wantMax then b else a) else (if wantMax then a else b)
  (v, fl)

/-- The combination of two elements of `w` bits. -/
def redStep (op : RedOp) (w frm a b : Nat) (fl : FFlags) : Nat × FFlags :=
  match op with
  | .sum | .wsum | .wsumu => ((a + b) % 2 ^ w, fl)
  | .and => (a &&& b, fl)
  | .or => (a ||| b, fl)
  | .xor => (a ^^^ b, fl)
  | .minu => (min a b, fl)
  | .maxu => (max a b, fl)
  | .min => (if ofTwos w a ≤ ofTwos w b then a else b, fl)
  | .max => (if ofTwos w a ≤ ofTwos w b then b else a, fl)
  | .fsum | .fwsum => fpAdd w frm a b fl
  | .fmin => fpPick w false a b fl
  | .fmax => fpPick w true a b fl

/-- Whether an operation is of floating point. -/
def redFp : RedOp → Bool
  | .fsum | .fmin | .fmax | .fwsum => true
  | .sum | .and | .or | .xor | .minu | .min | .maxu | .max | .wsumu | .wsum => false
/-- Whether an operation widens its elements. -/
def redWide : RedOp → Bool
  | .fwsum | .wsumu | .wsum => true
  | .sum | .and | .or | .xor | .minu | .min | .maxu | .max | .fsum | .fmin | .fmax => false

/-- An element as the operation takes it: widened where it widens. -/
def redElem (op : RedOp) (sew v : Nat) : Nat :=
  match op with
  | .wsum => toTwos (2 * sew) (ofTwos sew v)
  | .fwsum => (roundF (fpOf 64) 0 0 1 (decodeF (fpOf 32) v)).1
  | _ => v

/-- The bits of a reduction: funct6 and funct3 of the vector extension. -/
def redBits (op : RedOp) (vd vs2 vs1 : Nat) (masked : Bool) : Nat :=
  let (f6, f3) : Nat × Nat := match op with
    | .sum => (0, 2) | .and => (1, 2) | .or => (2, 2) | .xor => (3, 2)
    | .minu => (4, 2) | .min => (5, 2) | .maxu => (6, 2) | .max => (7, 2)
    | .fsum => (1, 1) | .fmin => (5, 1) | .fmax => (7, 1) | .fwsum => (0x31, 1)
    | .wsumu => (0x30, 0) | .wsum => (0x31, 0)
  f6 * 2 ^ 26 + b2n (!masked) * 2 ^ 25 + vs2 * 2 ^ 20 + vs1 * 2 ^ 15 + f3 * 2 ^ 12 + vd * 2 ^ 7 + 0x57

/-! ### The instruction -/

/-- Registers of a group, in eighths: LMUL by its code. -/
def lmul8 (code : Nat) : Nat :=
  if code ≤ 3 then 8 * 2 ^ code else if code = 5 then 1 else if code = 6 then 2 else if code = 7 then 4 else 0

/-- Element `i` of `w` bits of the group that starts at a vector register. -/
def vElem (h : Hart) (v w i : Nat) : Nat := (tget 0 h.v ((v + i * w / 512) % 32)).toNat / 2 ^ (i * w % 512) % 2 ^ w

/-- VECTOR_REDUCTION (R118): the tree over the active elements, then element 0 of vs1 (PRESUMED, log 25). -/
def vectorReduce (t vd vs2 vs1 : Nat) (op : RedOp) (masked : Bool) (insn : Nat) (c : Chip) : Chip :=
  let h := hart c t
  let vt := (readCsr h 0xC21).toNat
  let sew := 8 * 2 ^ bitsOf vt 5 3
  let lm := lmul8 (bitsOf vt 2 0)
  let frm := fcsr h / 32 % 8
  let w := if redWide op then 2 * sew else sew
  let bad := bitOf vt 63 || 64 < w || lm = 0 || lm * 64 < sew || (8 < lm && vs2 % (lm / 8) ≠ 0) ||
    (readCsr h 8) ≠ 0 || (redFp op && (sew < 32 || (op == .fwsum && sew ≠ 32) || 4 < frm))
  if bad then illegal t insn c
  else
    let vl := min (readCsr h 0xC20).toNat (lm * 64 / sew)
    if vl = 0 then modHart t (advance 4) c
    else
      let es : List (Option Nat) := (span 0 vl).map fun i =>
        if masked && !bitOf (tget 0 h.v 0).toNat i then none else some (redElem op sew (vElem h vs2 sew i))
      let quiet := (span 0 vl).any fun i => (!masked || bitOf (tget 0 h.v 0).toNat i) && isSnan 32 (vElem h vs2 32 i)
      let (r, fl) := treeReduce (redStep op w frm) 10 es (if op == .fwsum && quiet then 16 else 0)
      let s0 := vElem h vs1 w 0
      let (v, fl) := match r with
        | some x => redStep op w frm s0 x fl
        | none => (s0, fl)
      modHart t (fun h =>
        let old := (tget 0 h.v vd).toNat
        let h := { h with v := tset 0 h.v vd (BitVec.ofNat 512 (old / 2 ^ w * 2 ^ w + v)) }
        advance 4 (if fl = 0 then h else writeCsr 3 (BitVec.ofNat 64 (fcsr h ||| fl)) h)) c

/-- VECTOR_REDUCTION. -/
def execVectorReduction (t : Thread) (vd vs2 vs1 : RegNo) (op : RedOp) (masked : Bool) (s : State) : Out :=
  let insn := redBits op vd.toNat vs2.toNat vs1.toNat masked
  insnAct t insn none (vectorReduce t.toNat vd.toNat vs2.toNat vs1.toNat op masked insn) s

end Sys2Proof.Machine
end

