-- ==== Sys2Proof/Machine/Dispatch.lean ====
section
/-! DEFINITION. One arm per command: a direct call of its meaning. -/
namespace Sys2Proof.Machine

/-- The effect of a command on everything but the queue of waiting commands. -/
def exec (i : Instr) (s : State) : Host.Outcome State Fault Refusal :=
  match i with
  | .stitchBoundary => Sys2Proof.Machine.execStitchBoundary s
  | .gptpSync port gm rank offset => Sys2Proof.Machine.execGptpSync port gm rank offset s
  | .timeHoldover => Sys2Proof.Machine.execTimeHoldover s
  | .timeLost => Sys2Proof.Machine.execTimeLost s
  | .holdoverMaxS who h v env => Sys2Proof.Machine.execHoldoverMaxS who h v env s
  | .counterSave => Sys2Proof.Machine.execCounterSave s
  | .pendArm who h v => Sys2Proof.Machine.execPendArm who h v s
  | .fdpDatagram ses dtls recSeq data => Sys2Proof.Machine.execFdpDatagram ses dtls recSeq data s
  | .frerFrame port seq => Sys2Proof.Machine.execFrerFrame port seq s
  | .frerResetTimeout => Sys2Proof.Machine.execFrerResetTimeout s
  | .fdpPortLatent port => Sys2Proof.Machine.execFdpPortLatent port s
  | .dtlsHandshake ip udp r => Sys2Proof.Machine.execDtlsHandshake ip udp r s
  | .sessionIdleTimeout ses => Sys2Proof.Machine.execSessionIdleTimeout ses s
  | .read who r => Sys2Proof.Machine.execRead who r s
  | .write who r env => Sys2Proof.Machine.execWrite who r env s
  | .readList who r => Sys2Proof.Machine.execReadList who r s
  | .writeList who r env => Sys2Proof.Machine.execWriteList who r env s
  | .windowRead who r => Sys2Proof.Machine.execWindowRead who r s
  | .windowWrite who r env => Sys2Proof.Machine.execWindowWrite who r env s
  | .recordFetch who r => Sys2Proof.Machine.execRecordFetch who r s
  | .identify who r => Sys2Proof.Machine.execIdentify who r s
  | .describe who r => Sys2Proof.Machine.execDescribe who r s
  | .sessionClose who h v => Sys2Proof.Machine.execSessionClose who h v s
  | .cbMbxDoorbell => Sys2Proof.Machine.execCbMbxDoorbell s
  | .cbMbxAbort => Sys2Proof.Machine.execCbMbxAbort s
  | .mbxBufferWrite off data => Sys2Proof.Machine.execMbxBufferWrite off data s
  | .mbxResponse => Sys2Proof.Machine.execMbxResponse s
  | .registerWrite b off v hw => Sys2Proof.Machine.execRegisterWrite b off v hw s
  | .load t rd rs1 imm size uns fp comp ecc => Sys2Proof.Machine.execLoad t rd rs1 imm size uns fp comp ecc s
  | .store t rs1 rs2 imm size fp comp ecc => Sys2Proof.Machine.execStore t rs1 rs2 imm size fp comp ecc s
  | .amo t rd rs1 rs2 funct5 dbl ecc => Sys2Proof.Machine.execAmo t rd rs1 rs2 funct5 dbl ecc s
  | .lrSc t rd rs1 rs2 sc dbl ecc => Sys2Proof.Machine.execLrSc t rd rs1 rs2 sc dbl ecc s
  | .fence t pred succ => Sys2Proof.Machine.execFence t pred succ s
  | .sfenceVma t rs1 rs2 => Sys2Proof.Machine.execSfenceVma t rs1 rs2 s
  | .satpWrite t rd rs1 => Sys2Proof.Machine.execSatpWrite t rd rs1 s
  | .partInfo t => Sys2Proof.Machine.execPartInfo t s
  | .threadStart t => Sys2Proof.Machine.execThreadStart t s
  | .threadStop t => Sys2Proof.Machine.execThreadStop t s
  | .threadClass t => Sys2Proof.Machine.execThreadClass t s
  | .tagQuota t => Sys2Proof.Machine.execTagQuota t s
  | .tlbFlush t => Sys2Proof.Machine.execTlbFlush t s
  | .tlbFlushDone t => Sys2Proof.Machine.execTlbFlushDone t s
  | .queueReset t => Sys2Proof.Machine.execQueueReset t s
  | .ckptCommit t => Sys2Proof.Machine.execCkptCommit t s
  | .recoveryInfo t => Sys2Proof.Machine.execRecoveryInfo t s
  | .rotHint t => Sys2Proof.Machine.execRotHint t s
  | .sbiUnsupported t => Sys2Proof.Machine.execSbiUnsupported t s
  | .contextSave t => Sys2Proof.Machine.execContextSave t s
  | .contextRestore src dst => Sys2Proof.Machine.execContextRestore src dst s
  | .prVfDoorbell v val => Sys2Proof.Machine.execPrVfDoorbell v val s
  | .hostWindowRead v off len ecc => Sys2Proof.Machine.execHostWindowRead v off len ecc s
  | .hostWindowWrite v off data ecc => Sys2Proof.Machine.execHostWindowWrite v off data ecc s
  | .perstN link low => Sys2Proof.Machine.execPerstN link low s
  | .extIllegal t insn => Sys2Proof.Machine.execExtIllegal t insn s
  | .tensor t rd rs1 rs2 => Sys2Proof.Machine.execTensor t rd rs1 rs2 s
  | .tensorTileEnd tag tile arr fail => Sys2Proof.Machine.execTensorTileEnd tag tile arr fail s
  | .tensorComplete tag ecc => Sys2Proof.Machine.execTensorComplete tag ecc s
  | .samplingComplete tag retried retiredToo => Sys2Proof.Machine.execSamplingComplete tag retried retiredToo s
  | .move t rd rs1 rs2 => Sys2Proof.Machine.execMove t rd rs1 rs2 s
  | .moverChunk tag ecc => Sys2Proof.Machine.execMoverChunk tag ecc s
  | .lreq t rd rs1 => Sys2Proof.Machine.execLreq t rd rs1 s
  | .lrel t rs1 => Sys2Proof.Machine.execLrel t rs1 s
  | .licenceGrant => Sys2Proof.Machine.execLicenceGrant s
  | .qpush t rd rs1 rs2 => Sys2Proof.Machine.execQpush t rd rs1 rs2 s
  | .qcommit t rd rs1 => Sys2Proof.Machine.execQcommit t rd rs1 s
  | .qabort t rd rs1 => Sys2Proof.Machine.execQabort t rd rs1 s
  | .qpop t rd rs1 parityBad ecc => Sys2Proof.Machine.execQpop t rd rs1 parityBad ecc s
  | .qcnt t rd rs1 => Sys2Proof.Machine.execQcnt t rd rs1 s
  | .enginePacket src q ws bad => Sys2Proof.Machine.execEnginePacket src q ws bad s
  | .qResetReq who h q v => Sys2Proof.Machine.execQResetReq who h q v s
  | .qResetDone q => Sys2Proof.Machine.execQResetDone q s
  | .bset t rs1 => Sys2Proof.Machine.execBset t rs1 s
  | .blazeSetPerformed k => Sys2Proof.Machine.execBlazeSetPerformed k s
  | .bclr t rd rs1 => Sys2Proof.Machine.execBclr t rd rs1 s
  | .btest t rd rs1 => Sys2Proof.Machine.execBtest t rd rs1 s
  | .bwait t rd rs1 => Sys2Proof.Machine.execBwait t rd rs1 s
  | .bwaitc t rd rs1 => Sys2Proof.Machine.execBwaitc t rd rs1 s
  | .twait t rd rs1 => Sys2Proof.Machine.execTwait t rd rs1 s
  | .twaitr t rd rs1 => Sys2Proof.Machine.execTwaitr t rd rs1 s
  | .ttest t rd rs1 => Sys2Proof.Machine.execTtest t rd rs1 s
  | .treap t rd rs1 => Sys2Proof.Machine.execTreap t rd rs1 s
  | .swait t rd => Sys2Proof.Machine.execSwait t rd s
  | .sreadC t rd => Sys2Proof.Machine.execSreadC t rd s
  | .sreadB t rd => Sys2Proof.Machine.execSreadB t rd s
  | .sreadR t rd => Sys2Proof.Machine.execSreadR t rd s
  | .smplctl t rd rs1 => Sys2Proof.Machine.execSmplctl t rd rs1 s
  | .sramPatrol addr ecc => Sys2Proof.Machine.execSramPatrol addr ecc s
  | .dramPatrolLine addr ecc => Sys2Proof.Machine.execDramPatrolLine addr ecc s
  | .memPatrolLag us ctrl unread => Sys2Proof.Machine.execMemPatrolLag us ctrl unread s
  | .usScrubRegionDone => Sys2Proof.Machine.execUsScrubRegionDone s
  | .memClearDone => Sys2Proof.Machine.execMemClearDone s
  | .bzSnapReq who h v => Sys2Proof.Machine.execBzSnapReq who h v s
  | .bzRestoreReq who h v => Sys2Proof.Machine.execBzRestoreReq who h v s
  | .dumpReq who h v => Sys2Proof.Machine.execDumpReq who h v s
  | .bzDumpDone => Sys2Proof.Machine.execBzDumpDone s
  | .kvpOpen p hook => Sys2Proof.Machine.execKvpOpen p hook s
  | .kvpAppend p hook => Sys2Proof.Machine.execKvpAppend p hook s
  | .kvpMap p hook => Sys2Proof.Machine.execKvpMap p hook s
  | .kvpUnpin p hook => Sys2Proof.Machine.execKvpUnpin p hook s
  | .kvpPrefetch p hook => Sys2Proof.Machine.execKvpPrefetch p hook s
  | .kvpSpill p hook => Sys2Proof.Machine.execKvpSpill p hook s
  | .kvpClose p hook => Sys2Proof.Machine.execKvpClose p hook s
  | .kvpBucket p hook => Sys2Proof.Machine.execKvpBucket p hook s
  | .kvPageMoveDone k ecc => Sys2Proof.Machine.execKvPageMoveDone k ecc s
  | .kvRspBlocked p => Sys2Proof.Machine.execKvRspBlocked p s
  | .seqOpen p => Sys2Proof.Machine.execSeqOpen p s
  | .seqClose p hook => Sys2Proof.Machine.execSeqClose p hook s
  | .pfxLookup p => Sys2Proof.Machine.execPfxLookup p s
  | .pfxInsert p => Sys2Proof.Machine.execPfxInsert p s
  | .pfxRemove p => Sys2Proof.Machine.execPfxRemove p s
  | .admitReq p => Sys2Proof.Machine.execAdmit p s
  | .stepDone p => Sys2Proof.Machine.execStepDone p s
  | .refillArm who h v => Sys2Proof.Machine.execRefillArm who h v s
  | .stageArm who h v => Sys2Proof.Machine.execStageArm who h v s
  | .srvRspBlocked p => Sys2Proof.Machine.execSrvRspBlocked p s
  | .vidOpen p => Sys2Proof.Machine.execVidOpen p s
  | .vidDecode p pics => Sys2Proof.Machine.execVidDecode p pics s
  | .vidEncode p => Sys2Proof.Machine.execVidEncode p s
  | .vidRelease p => Sys2Proof.Machine.execVidRelease p s
  | .vidEnd p => Sys2Proof.Machine.execVidEnd p s
  | .vidBsFree p => Sys2Proof.Machine.execVidBsFree p s
  | .vidClose p => Sys2Proof.Machine.execVidClose p s
  | .videoPieceDone core e => Sys2Proof.Machine.execVideoPieceDone core e s
  | .videoPreempt core => Sys2Proof.Machine.execVideoPreempt core s
  | .motionLevel1Done pic intra inter => Sys2Proof.Machine.execMotionLevel1Done pic intra inter s
  | .vidRcLate pic => Sys2Proof.Machine.execVidRcLate pic s
  | .vidWatchdog core unfinished => Sys2Proof.Machine.execVidWatchdog core unfinished s
  | .vidOutBlocked ses => Sys2Proof.Machine.execVidOutBlocked ses s
  | .vidRspBlocked p => Sys2Proof.Machine.execVidRspBlocked p s
  | .codeword p blocks symErrors => Sys2Proof.Machine.execCodeword p blocks symErrors s
  | .flitData p flit => Sys2Proof.Machine.execFlitData p flit s
  | .flitCredit p flit => Sys2Proof.Machine.execFlitCredit p flit s
  | .flitIdle p flit => Sys2Proof.Machine.execFlitIdle p flit s
  | .flitTrain p flit => Sys2Proof.Machine.execFlitTrain p flit s
  | .replayTimeout p => Sys2Proof.Machine.execReplayTimeout p s
  | .msgWrite p m ecc => Sys2Proof.Machine.execMsgWrite p m ecc s
  | .msgRead p m ecc => Sys2Proof.Machine.execMsgRead p m ecc s
  | .atomic p m ecc => Sys2Proof.Machine.execAtomic p m ecc s
  | .qpkt p m => Sys2Proof.Machine.execQpkt p m s
  | .writeAck p m => Sys2Proof.Machine.execWriteAck p m s
  | .readResp p m => Sys2Proof.Machine.execReadResp p m s
  | .atomicResp p m => Sys2Proof.Machine.execAtomicResp p m s
  | .qpktAck p m => Sys2Proof.Machine.execQpktAck p m s
  | .blazeAck p m => Sys2Proof.Machine.execBlazeAck p m s
  | .blazeSet p m => Sys2Proof.Machine.execBlazeSet p m s
  | .lnAnnounceLost k => Sys2Proof.Machine.execLnAnnounceLost k s
  | .respTimeout r => Sys2Proof.Machine.execRespTimeout r s
  | .lnPktBroken p k => Sys2Proof.Machine.execLnPktBroken p k s
  | .hello p h => Sys2Proof.Machine.execHello p h s
  | .helloReply p h => Sys2Proof.Machine.execHelloReply p h s
  | .finished p h => Sys2Proof.Machine.execFinished p h s
  | .sesOpen who h peer v => Sys2Proof.Machine.execSesOpen who h peer v s
  | .portLicenceRelease p => Sys2Proof.Machine.execPortLicenceRelease p s
  | .pairArm who h v => Sys2Proof.Machine.execPairArm who h v s
  | .prFormFail => Sys2Proof.Machine.execPrFormFail s
  | .laceTestEnd => Sys2Proof.Machine.execLaceTestEnd s
  | .laceInChange high => Sys2Proof.Machine.execLaceInChange high s
  | .gateOpen => Sys2Proof.Machine.execGateOpen s
  | .prTieResolved => Sys2Proof.Machine.execPrTieResolved s
  | .prLaceFault => Sys2Proof.Machine.execPrLaceFault s
  | .mateSilent => Sys2Proof.Machine.execMateSilent s
  | .mateHb m => Sys2Proof.Machine.execMateHb m s
  | .digest m => Sys2Proof.Machine.execDigest m s
  | .confirm m => Sys2Proof.Machine.execConfirm m s
  | .boundary m => Sys2Proof.Machine.execBoundary m s
  | .boundaryTimeout => Sys2Proof.Machine.execBoundaryTimeout s
  | .yield m => Sys2Proof.Machine.execYield m s
  | .prTakeover => Sys2Proof.Machine.execPrTakeover s
  | .weltSend q => Sys2Proof.Machine.execWeltSend q s
  | .weltRetry q => Sys2Proof.Machine.execWeltRetry q s
  | .pairSwap who h v => Sys2Proof.Machine.execPairSwap who h v s
  | .pairMode who h v env => Sys2Proof.Machine.execPairMode who h v env s
  | .fenceNLow => Sys2Proof.Machine.execFenceNLow s
  | .fltFenced => Sys2Proof.Machine.execFltFenced s
  | .fenceNHigh => Sys2Proof.Machine.execFenceNHigh s
  | .fltLogAdmit => Sys2Proof.Machine.execFltLogAdmit s
  | .prtRestart who h p v => Sys2Proof.Machine.execPrtRestart who h p v s
  | .rollArm who h v => Sys2Proof.Machine.execRollArm who h v s
  | .admitAt who h v env => Sys2Proof.Machine.execAdmitAt who h v env s
  | .fltPmDone => Sys2Proof.Machine.execFltPmDone s
  | .pmClear who h v => Sys2Proof.Machine.execPmClear who h v s
  | .pkgPowerSample pkg input => Sys2Proof.Machine.execPkgPowerSample pkg input s
  | .pwrCurrentLimit die => Sys2Proof.Machine.execPwrCurrentLimit die s
  | .pwrTjTrip sensor => Sys2Proof.Machine.execPwrTjTrip sensor s
  | .floorLift which => Sys2Proof.Machine.execFloorLift which s
  | .sensorReading sensor v => Sys2Proof.Machine.execSensorReading sensor v s
  | .rthWindow meanPower meanTj meanInlet => Sys2Proof.Machine.execRthWindow meanPower meanTj meanInlet s
  | .policyCap who h v env => Sys2Proof.Machine.execPolicyCap who h v env s
  | .burstWindowClose => Sys2Proof.Machine.execBurstWindowClose s
  | .burstRecoveryEnd => Sys2Proof.Machine.execBurstRecoveryEnd s
  | .pwrBurstLimit => Sys2Proof.Machine.execPwrBurstLimit s
  | .mapArm who h v => Sys2Proof.Machine.execMapArm who h v s
  | .keyBlob who h sel blob plain => Sys2Proof.Machine.execKeyBlob who h sel blob plain s
  | .secKeyInstalled p => Sys2Proof.Machine.execSecKeyInstalled p s
  | .attGen who h sel v => Sys2Proof.Machine.execAttGen who h sel v s
  | .attReady who => Sys2Proof.Machine.execAttReady who s
  | .debugLock who h v => Sys2Proof.Machine.execDebugLock who h v s
  | .fuseProg who h v tookLow tookHigh copyLow copyHigh => Sys2Proof.Machine.execFuseProg who h v tookLow tookHigh copyLow copyHigh s
  | .fwErase who h v => Sys2Proof.Machine.execFwErase who h v s
  | .fwEraseDone => Sys2Proof.Machine.execFwEraseDone s
  | .fwChunk who h sel data => Sys2Proof.Machine.execFwChunk who h sel data s
  | .fwCommit who h v => Sys2Proof.Machine.execFwCommit who h v s
  | .fwTrial who h v env => Sys2Proof.Machine.execFwTrial who h v env s
  | .fwConfirm who h v => Sys2Proof.Machine.execFwConfirm who h v s
  | .fwRestart who h v => Sys2Proof.Machine.execFwRestart who h v s
  | .fwLockstep pair => Sys2Proof.Machine.execFwLockstep pair s
  | .hookReturn pair a0 => Sys2Proof.Machine.execHookReturn pair a0 s
  | .fwHookLate pair => Sys2Proof.Machine.execFwHookLate pair s
  | .prsntNLow => Sys2Proof.Machine.execPrsntNLow s
  | .prsntDebounceEnd => Sys2Proof.Machine.execPrsntDebounceEnd s
  | .powerInputInRange => Sys2Proof.Machine.execPowerInputInRange s
  | .railsRamped slotId laceTie => Sys2Proof.Machine.execRailsRamped slotId laceTie s
  | .l0Start => Sys2Proof.Machine.execL0Start s
  | .bistDone failed repaired pIdle => Sys2Proof.Machine.execBistDone failed repaired pIdle s
  | .dramTrained => Sys2Proof.Machine.execDramTrained s
  | .hbmScrubDone => Sys2Proof.Machine.execHbmScrubDone s
  | .linkTrainingDone => Sys2Proof.Machine.execLinkTrainingDone s
  | .enterReady => Sys2Proof.Machine.execEnterReady s
  | .timeNotLocked => Sys2Proof.Machine.execTimeNotLocked s
  | .moduleResetReq who h v => Sys2Proof.Machine.execModuleResetReq who h v s
  | .moduleReset => Sys2Proof.Machine.execModuleReset s
  | .maintenanceReq who h v => Sys2Proof.Machine.execMaintenanceReq who h v s
  | .latchNLow => Sys2Proof.Machine.execLatchNLow s
  | .startLatch => Sys2Proof.Machine.execStartLatch s
  | .prsntNHigh => Sys2Proof.Machine.execPrsntNHigh s
  | .powerInputOutOfRange => Sys2Proof.Machine.execPowerInputOutOfRange s
  | .brdInputDip => Sys2Proof.Machine.execBrdInputDip s
  | .brdInputRange => Sys2Proof.Machine.execBrdInputRange s
  | .brdHotswapTrip => Sys2Proof.Machine.execBrdHotswapTrip s
  | .hotswapRetry => Sys2Proof.Machine.execHotswapRetry s
  | .inletReading a b => Sys2Proof.Machine.execInletReading a b s
  | .gptpAnnounce port m => Sys2Proof.Machine.execGptpAnnounce port m s
  | .neighbourSolicitation port target src => Sys2Proof.Machine.execNeighbourSolicitation port target src s
  | .dtlsRetransmit => Sys2Proof.Machine.execDtlsRetransmit s
  | .fieldPortLinkChange port up => Sys2Proof.Machine.execFieldPortLinkChange port up s
  | .pcieLinkChange link speed width => Sys2Proof.Machine.execPcieLinkChange link speed width s
  | .ideKm stream => Sys2Proof.Machine.execIdeKm stream s
  | .lnSessionFail peer => Sys2Proof.Machine.execLnSessionFail peer s
  | .latchNHigh => Sys2Proof.Machine.execLatchNHigh s
  | .latchNHighDebounceEnd => Sys2Proof.Machine.execLatchNHighDebounceEnd s
  | .hookNotReturned pair => Sys2Proof.Machine.execHookNotReturned pair s
  | .l1Trap pair => Sys2Proof.Machine.execL1Trap pair s
  | .instructionFetch t four ecc => Sys2Proof.Machine.execInstructionFetch t four ecc s
  | .vectorReduction t vd vs2 vs1 op masked => Sys2Proof.Machine.execVectorReduction t vd vs2 vs1 op masked s
  | .csrWrite t csr op rd src => Sys2Proof.Machine.execCsrWrite t csr op rd src s
  | .debugTap op => Sys2Proof.Machine.execDebugTap op s

end Sys2Proof.Machine
end

