-- ==== Sys2Proof/Machine/Tick.lean ====
section
/-! DEFINITION. What one period of clock domain 18 does (R31, R33, R38, R536). -/
namespace Sys2Proof.Machine

/-- One nanosecond of the timebase; a slew of 100 ppm adds or withholds one nanosecond in every 10,000 (R33, R38; DESIGN CHOICE, log 1). -/
def tickTime (t : Time) : Time :=
  let ph := t.slewPhase + 1
  if t.slew = 0 then { t with tsc := (t.tsc + 1) % 2 ^ 64, slewPhase := 0 }
  else if ph < 10000 then { t with tsc := (t.tsc + 1) % 2 ^ 64, slewPhase := ph }
  else if 0 < t.slew then { t with tsc := (t.tsc + 2) % 2 ^ 64, slewPhase := 0, slew := t.slew - 1 }
  else { t with slewPhase := 0, slew := t.slew + 1 }

/-- One period of the clock while the module is powered: the timebase moves, and every 500 ns a module in pair operation
sends MATE_HB (R536). -/
def tick (c : Chip) : Chip :=
  if !c.life.powered then c else
    let t := tickTime c.time
    let c' := { c with time := t }
    if t.tsc / 500 = c.time.tsc / 500 then c' else sendHb c'

end Sys2Proof.Machine
end

