-- ==== Sys2Proof/Machine/Step.lean ====
section
/-! DEFINITION. One step: the command at the front of the queue, or one period of the block's clock. -/
namespace Sys2Proof.Machine

/-- One step: the command at the front is executed with the queue's rest; on an empty queue one period of clock domain 18
passes (R31, R33; DESIGN CHOICE, log 1). -/
def step (s : State) : Host.Outcome State Fault Refusal :=
  match s.pending with
  | [] => .next { s with m := tick s.m }
  | c :: rest => exec c { s with pending := rest }

/-- A state with the command that a table word spells at the front of its queue; the table gives no row bits, so no word
spells a command (DESIGN CHOICE, log 1). -/
def State.withFetchWord (s : State) (nbits w : Nat) : State :=
  match decodeTableWord nbits w with
  | some c => { s with pending := c :: s.pending }
  | none => s

end Sys2Proof.Machine
end

