-- ==== Sys2Proof/Safety.lean ====
section
/-! DEFINITION. What holds of every state that the module can be in, and the premises that the statements share. -/
namespace Sys2Proof.Machine

/-- The local memory is in its one canonical form: bytes, poison marks and error-corrected lines are listed by strictly rising
address, and nothing is listed that an unlisted address reads as. -/
def Mem.wf (m : Mem) : Bool := twf 0 m.bytes && twf false m.poison && twf false m.dataLines

/-- The invariant of the module: canonical memory, a module state of Table 22-1, and canonical fuse tables. -/
structure Inv (s : State) : Prop where
  memory : s.m.mem.wf = true
  state : s.m.life.mstate ≤ MState.failed
  fuseLow : twf 0 s.m.fuse.low = true
  fuseHigh : twf 0 s.m.fuse.high = true

/-- A thread's next instruction issues: the thread is READY, no exception of an earlier posted operation waits for it, and the
choice of R667 does not tag the instruction for sampling; `c1` is the module after that choice. -/
def issues (t : Thread) (c c1 : Chip) : Prop :=
  (hart c t.toNat).state = .ready ∧ (hart c t.toNat).pend = [] ∧ tagChoice t.toNat c = (false, c1)

/-- A request reaches its service as a new one: the dictionary is served (Table 22-1), the request is its requester's next
(R103), its counts fit (R97), no answer is kept under its REQ_ID (R104), and it names the module's incarnation (R98); `c1` is
the module as the engine begins to serve it. -/
def accepted (who : Requester) (m : DMsg) (c c1 : Chip) : Prop :=
  dictServed c = true ∧ beginReq who m c = some c1 ∧ countsOk m.svc m.req.count.toNat m.req.payload.length = true ∧
  (keptOf c1 who).find? (fun k => k.msg.req.reqId == m.req.reqId) = none ∧ m.req.inc = c1.life.incarnation

/-- The checks of R100 pass for a write of one object. -/
def writePasses (who : Requester) (idx sub item v : Nat) (plain : Option Bytes) (c : Chip) : Prop :=
  firstFail c (trial who idx item [(sub, v)] c) who idx item plain [(sub, v)] = St.ok

/-- The checks of R100 pass for a window write of one object with its selector. -/
def windowPasses (who : Requester) (idx sub item v : Nat) (plain : Option Bytes) (c : Chip) : Prop :=
  firstFail c (trial who idx item [(1, item), (sub, v)] c) who idx item plain [(1, item), (sub, v)] = St.ok

/-- The module with the times of the stored writes that are older than a second forgotten, and `n` more entered (R81). -/
def stamped (n : Nat) (c : Chip) : Chip :=
  { c with dict := { c.dict with writes := recentWrites c ++ List.replicate n (now c) } }

/-- A write that took effect is answered with OK (R96, R104); what follows its response follows (R88, R681, R689). -/
def answered (who : Requester) (m : DMsg) (idx : Nat) (parts : List (Nat × Nat)) (c : Chip) : Chip :=
  afterResponse parts idx (respond true who m ⟨St.ok, false, []⟩ (settle c))

/-- A request message of a link passes steps 1 to 5 of Table 15-5: it is well formed, authentic, fresh and in time, its role epoch
holds, its target is the partition's (`inAlloc`, `own`), and its counter is accepted; `c1` is the module after them. -/
def arrives (p : Nat) (m : Msg) (inAlloc : MapEntry → Bool) (own : Chip → Option Status) (c c1 : Chip) : Prop :=
  accepting (takeMsg p m c) = true ∧ ∃ c2 c3, checks123 p m (takeMsg p m c) = (true, c2) ∧ check4 p m c2 = (true, c3) ∧
    check5 m inAlloc c3 = true ∧ own c3 = none ∧ c1 = acceptCtr m c3

/-- A mate message passes steps 1 to 3 of Table 15-5 in pair operation (R536); `c1` is the module after them, the mate heard. -/
def mateSays (m : Msg) (c c1 : Chip) : Prop :=
  accepting (takeMsg 15 m c) = true ∧ (takeMsg 15 m c).pair.state ≠ PSt.unpaired ∧ m.src.toNat % 4096 = mateId (takeMsg 15 m c) ∧
    ∃ c2, checks123 15 m (takeMsg 15 m c) = (true, c2) ∧ c1 = modPair (fun p => { p with silent := false }) (acceptCtr m c2)

end Sys2Proof.Machine
end

