-- ==== Sys2Proof/Certificates/Slice0/Obligations.lean ====
section
/-! DEFINITION. The statements about the module, for the provers. Premises are on the state and the operands alone; `settle` names what
follows from a completion in the same instant (Machine/Settle.lean). -/
section
open Sys2Proof Sys2Proof.Machine

/-- For every command c, state s and list of waiting commands, a step of s with c at the front of its queue is exec c
on s with the queue's rest. The queue is the model's own (log 1).
(derived: 95_what_each_step_holds.md) -/
def Obligations.StepRunsFrontCommand : Prop :=
  ∀ (c : Instr) (rest : List Instr) (s : State), step { s with pending := c :: rest } = exec c { s with pending := rest }

/-- On an empty queue a step answers next. A module without power stays as it is. A powered module whose slew is 0
counts one nanosecond of the timebase modulo 2^64; nothing else changes but, where the time passes a multiple of
500 ns, that the lace logic sends MATE_HB. The tick of 1 ns is the model's choice (log 1).
(derived: 02_time_and_stitches.md, 16_pair_operation.md, R33, R38, R536) -/
def Obligations.IdleStepCountsOneNanosecond : Prop :=
  ∀ s : State, s.pending = [] →
    (s.m.life.powered = false → step s = .next s) ∧
    (s.m.life.powered = true → s.m.time.slew = 0 →
      (((s.m.time.tsc + 1) % 2 ^ 64) / 500 = s.m.time.tsc / 500 →
        step s = .next { s with m := { s.m with time := { s.m.time with tsc := (s.m.time.tsc + 1) % 2 ^ 64, slewPhase := 0 } } }) ∧
      (((s.m.time.tsc + 1) % 2 ^ 64) / 500 ≠ s.m.time.tsc / 500 →
        step s = .next { s with m := (sendHb { s.m with
          time := { s.m.time with tsc := (s.m.time.tsc + 1) % 2 ^ 64, slewPhase := 0 } }) }))

/-- STITCH_BOUNDARY runs the boundary sequence for the stitch that the count names; where that one has been performed,
the counter first stands at the next boundary. A Sync of the selected port in a powered, running, LOCKED module is
removed by slewing and counts towards lock (within 50 ns, else the run is 0). TIME_HOLDOVER in LOCKED enters
HOLDOVER and records; TIME_LOST in HOLDOVER enters LOST and records; COUNTER_SAVE in a running module saves the
counter; an Announce keeps rank and grandmaster of its port.
(derived: 02_time_and_stitches.md, 01_organisation.md, R28, R36, R39, R42, R44, R47, R49, R708) -/
def Obligations.TimeCommandsTakeEffect : Prop :=
  ∀ s : State, s.m.life.powered = true →
    (countNow s.m ≠ s.m.time.curCount → exec .stitchBoundary s = .next { s with m := boundarySeq s.m }) ∧
    (countNow s.m = s.m.time.curCount → exec .stitchBoundary s = .next { s with m := (boundarySeq { s.m with
      time := { s.m.time with tsc := boundaryOf s.m.time s.m.time.tsc + s.m.time.periodUs * 1000 } }) }) ∧
    (∀ (port : BitVec 1) (gm : Word) (rank : Nat) (offset : Int),
      let c1 : Chip := { s.m with time := { s.m.time with
        ports := tmod {} s.m.time.ports port.toNat (fun v => { v with heard := true, rank := rank, gm := gm }) } }
      running s.m = true → s.m.time.tstate = .locked → s.m.time.portSel = some port.toNat → s.m.time.awaitFirst = false →
      bestPort c1 = some port.toNat →
      exec (.gptpSync port gm rank offset) s = .next { s with m := (settle { c1 with time := { c1.time with
        gm := (portClock c1 port.toNat).gm, offset := offset, slew := -offset,
        lockRun := (if -50 ≤ offset ∧ offset ≤ 50 then min 16 (s.m.time.lockRun + 1) else 0) } }) }) ∧
    (s.m.time.tstate = .locked → exec .timeHoldover s = .next { s with m :=
      (emit Src.timebase St.timeHoldover none [toTwos 64 s.m.time.offset, s.m.time.gm.toNat] { s.m with time := { s.m.time with
        tstate := .holdover, holdSince := s.m.time.tsc, awaitFirst := true, lockRun := 0, slew := 0, portSel := none,
        ports := s.m.time.ports.map fun e => (e.1, { e.2 with heard := false }) } }) }) ∧
    (s.m.time.tstate = .holdover → exec .timeLost s = .next { s with m :=
      (emit Src.timebase St.timeLost none [s.m.time.tsc - s.m.time.holdSince, obj s.m 0x1100 7]
        { s.m with time := { s.m.time with tstate := .lost } }) }) ∧
    (running s.m = true → exec .counterSave s = .next { s with m := saveTime s.m }) ∧
    (MState.selftest ≤ s.m.life.mstate → ∀ (port : BitVec 1) (rank : Nat) (gm : Word),
      exec (.gptpAnnounce port (.announce rank gm)) s = .next { s with m := { s.m with time := { s.m.time with
        ports := tmod {} s.m.time.ports port.toNat fun v => { v with rank := rank, gm := gm } } } })

/-- PRSNT_N_LOW and LATCH_N_LOW lower the pin and restart its debounce; the end of PRSNT_N's debounce and the input in
its range let the rails ramp if every condition holds; PRSNT_N_HIGH and the input out of its range turn the power
stages off and forget the trips; START_LATCH in a running module with LATCH_N low is the latch warning (FENCED
with the latch held); LATCH_N_HIGH waits where a start-up is held, and 100 ms later the start-up begins again;
BRD_INPUT_DIP counts and records; BRD_INPUT_RANGE records at most once a second; BRD_HOTSWAP_TRIP counts and turns
the stage off, to retry after a first trip and to stay off after a second within 60 s; HOTSWAP_RETRY turns the
stage on and dates the trip from the retry.
(derived: 22_startup_and_insertion.md, 23_connectors_and_ratings.md, R683, R684, R685, R686, R695, R696, R697, R698) -/
def Obligations.InsertionAndInputTakeEffect : Prop :=
  ∀ s : State,
    (s.m.board.prsntN = true → exec .prsntNLow s = .next { s with m :=
      { s.m with board := { s.m.board with prsntN := false, debounced := false } } }) ∧
    (s.m.board.prsntN = false → exec .prsntDebounceEnd s = .next { s with m :=
      (startRamp { s.m with board := { s.m.board with debounced := true } }) }) ∧
    exec .powerInputInRange s = .next { s with m := startRamp { s.m with board := { s.m.board with inputOk := true } } } ∧
    exec .prsntNHigh s = .next { s with m := (powerOff { s.m with board := { s.m.board with
      prsntN := true, debounced := false, tripHold := false, tripOff := false, tripAt := none } }) } ∧
    exec .powerInputOutOfRange s = .next { s with m := (powerOff { s.m with board := { s.m.board with
      inputOk := false, tripHold := false, tripOff := false, tripAt := none } }) } ∧
    exec .latchNLow s = .next { s with m :=
      { s.m with board := { s.m.board with latchN := false }, life := { s.m.life with latchWait := false } } } ∧
    (s.m.board.latchN = false → running s.m = true →
      exec .startLatch s = .next { s with m := settle (enterFenced true s.m) }) ∧
    exec .latchNHigh s = .next { s with m := { s.m with
      board := { s.m.board with latchN := true }, life := { s.m.life with latchWait := s.m.life.latchHeld } } } ∧
    (s.m.life.latchWait = true → s.m.board.latchN = true → s.m.board.prsntN = false →
      exec .latchNHighDebounceEnd s = .next { s with m :=
        (startRamp { s.m with life := { s.m.life with latchHeld := false, latchWait := false } }) }) ∧
    (s.m.life.mstate ≠ MState.off → exec .brdInputDip s = .next { s with m :=
      (emit (Src.cobbler 0) St.brdInputDip none [] (bump 0x4500 7 0 1 s.m)) }) ∧
    (s.m.board.inputOk = true → s.m.life.mstate ≠ MState.off →
      (s.m.board.rangeAt = none → exec .brdInputRange s = .next { s with m := (emit (Src.cobbler 0) St.brdInputRange none []
        { s.m with board := { s.m.board with rangeAt := some s.m.time.tsc } }) }) ∧
      (∀ t, s.m.board.rangeAt = some t → t ≤ s.m.time.tsc → s.m.time.tsc < t + 1000000000 → exec .brdInputRange s = .next s)) ∧
    (s.m.life.mstate ≠ MState.off → s.m.board.tripAt = none → exec .brdHotswapTrip s = .next { s with m :=
      (powerOff { bump 0x4500 8 0 1 s.m with board := { s.m.board with tripped := true, tripAt := none, tripOff := true, tripHold := false } }) }) ∧
    (∀ t, s.m.life.mstate ≠ MState.off → s.m.board.tripAt = some t → (s.m.time.tsc : Int) - s.m.life.stepped ≤ t + 59000000000 →
      exec .brdHotswapTrip s = .next { s with m := (powerOff { bump 0x4500 8 0 1 s.m with
        board := { s.m.board with tripped := true, tripAt := none, tripOff := false, tripHold := true } }) }) ∧
    (s.m.board.tripOff = true → (startRamp { s.m with board := { s.m.board with tripOff := false } }).board.ramping = true →
      exec .hotswapRetry s = .next { s with m := (let c := startRamp { s.m with board := { s.m.board with tripOff := false } };
        { c with board := { c.board with tripAt := some c.time.tsc } }) })

/-- RAILS_RAMPED in a ramping module enters BOOT and runs phase 2, recording a trip of the hot-swap stage that went
before; in BOOT with phase 2 not yet done it runs phase 2; L0_START in BOOT after phase 2 starts the bank that the
boot ROM chooses, measures it, draws the key-wrap key and enters SELFTEST, where the INIT hook is called;
BIST_DONE with nothing failed and enough groves enters SCRUB; DRAM_TRAINED starts the scrubs; HBM_SCRUB_DONE
clears HBM, and the enabled ports that are DOWN train; LINK_TRAINING_DONE records each enabled port that is not
UP; ENTER_READY enters READY when every condition holds; TIME_NOT_LOCKED records when only R45 fails; MODULE_RESET
runs a requested reset that nothing holds.
(derived: 22_startup_and_insertion.md, 02_time_and_stitches.md, R45, R676, R677, R678, R679, R680, R681) -/
def Obligations.StartUpPhasesTakeEffect : Prop :=
  ∀ s : State,
    (∀ (slot : BitVec 6) (tie : Bool),
      (s.m.life.mstate = MState.off → s.m.board.ramping = true →
        ∀ c, c = powerOnBoot slot.toNat tie (enterBoot { s.m with board := { s.m.board with ramping := false } }) →
        exec (.railsRamped slot tie) s = .next { s with m := (settle (if c.board.tripped then
          emit (Src.cobbler 0) St.brdHotswapTrip none [] { c with board := { c.board with tripped := false } } else c)) }) ∧
      (s.m.life.mstate = MState.boot → s.m.life.phase2 = false →
        exec (.railsRamped slot tie) s = .next { s with m := settle (powerOnBoot slot.toNat tie s.m) })) ∧
    (s.m.life.mstate = MState.boot → s.m.life.phase2 = true → ∀ b c, bankChoice (nextPhase 3 s.m) = (some b, c) →
      ∀ d, d = nextPhase 4 (enterState MState.selftest (readConfig (drawKwk (measure { c with fw := { c.fw with runBank := b, fwState := 1 } })))) →
       (hookPresent d Hk.init = true → exec .l0Start s = .next { s with m := settle (callHook { hook := Hk.init } d) }) ∧
       (hookPresent d Hk.init = false → exec .l0Start s = .next { s with m := settle { d with life := { d.life with initDone := true } } })) ∧
    (∀ (repaired : List BistUnit) (pIdle : Nat), s.m.life.mstate = MState.selftest →
      fatalResult { s.m with pwr := { s.m.pwr with pIdle := pIdle } } [] = none →
      exec (.bistDone [] repaired pIdle) s = .next { s with m := (recap (nextPhase 5 (enterState MState.scrub
        { s.m with pwr := { s.m.pwr with pIdle := pIdle }, life := { s.m.life with bistDone := true } }))) }) ∧
    (s.m.life.mstate = MState.scrub → s.m.life.phase = 5 → exec .dramTrained s = .next { s with m :=
      (nextPhase 6 { s.m with mem := { s.m.mem with usReady := 0xFFFF, usBegan := s.m.time.tsc } }) }) ∧
    (s.m.life.mstate = MState.scrub → s.m.life.phase = 6 → exec .hbmScrubDone s = .next { s with m :=
      (let c := memClear 0 usBase s.m
       forSpan 0 16 (nextPhase 7 { c with mem := { c.mem with hbmReady := 0xFF }, pool := { c.pool with keyDrawn := true } })
        fun c p => if portEnabled c p && (port c p).state = Pst.down then modPort p (fun v => { v with state := Pst.training }) c else c) }) ∧
    (s.m.life.mstate = MState.scrub → s.m.life.phase = 7 → exec .linkTrainingDone s = .next { s with m :=
      (nextPhase 8 (forSpan 0 16 s.m fun c p =>
        if portEnabled c p && (port c p).state ≠ Pst.up then emit (Src.link p) St.lnDown none [(port c p).peer] c else c)) }) ∧
    (∀ p1 : Nat, readyBut s.m = true → timeOk s.m = true →
      p1 = (if tget 0 s.m.life.phStart 1 = 0 then tget 0 s.m.life.phStart 2 else tget 0 s.m.life.phStart 1) →
      exec .enterReady s = .next { s with m := (enterState MState.ready
        (setObj 0x4400 7 0 (min (((s.m.time.tsc : Int) - p1 - s.m.life.stepped) / 1000000).toNat 0xFFFFFFFF)
          { s.m with life := { s.m.life with phase := 0, phEnd := tset 0 s.m.life.phEnd s.m.life.phase s.m.time.tsc } })) }) ∧
    (readyBut s.m = true → timeOk s.m = false → s.m.life.phase = 9 → exec .timeNotLocked s = .next { s with m :=
      (emit Src.timebase St.timeNotLocked none [tstateCode s.m.time.tstate] s.m) }) ∧
    (∀ t, s.m.life.resetAt = some t → s.m.life.mstate ≠ MState.off → s.m.flt.writing = none →
      (s.m.life.mstate ≠ MState.fenced ∨ s.m.pair.fenceLow = false) →
      exec .moduleReset s = .next { s with m := runReset s.m.life.resetKind s.m })

/-- An accepted READ or READ_LIST whose span exists and passes the checks of R100 is answered OK with the values of
its objects, ascending and packed, from one state; a WINDOW_READ first sets its requester's own selector to the
value that it carries. The answer is kept, and what reading causes (a read-clear) is the state that readSpan
leaves.
(derived: 03_object_dictionary.md, R77, R98, R99, R100, R103, R104, R109) -/
def Obligations.DictionaryReadsAnswerValues : Prop :=
  ∀ s : State,
    (∀ who r c1 item b c2, accepted who ⟨1, r⟩ s.m c1 →
      item = (if isWindow r.index.toNat then selOf c1 who r.index.toNat 1 else 0) →
      spanCheck r.index.toNat (span r.sub.toNat r.count.toNat) = St.ok → r.payload = [] →
      spanSize r.index.toNat (span r.sub.toNat r.count.toNat) ≤ 1176 →
      readFail c1 who r.index.toNat item (span r.sub.toNat r.count.toNat) = St.ok →
      readSpan who r.index.toNat item (span r.sub.toNat r.count.toNat) c1 = (b, c2) →
      exec (.read who r) s = .next { s with m :=
        (afterResponse [] r.index.toNat (respond true who ⟨1, r⟩ ⟨St.ok, false, b⟩ (settle c2))) }) ∧
    (∀ who r c1 item b c2, accepted who ⟨3, r⟩ s.m c1 →
      item = (if isWindow r.index.toNat then selOf c1 who r.index.toNat 1 else 0) →
      spanCheck r.index.toNat (span r.sub.toNat r.count.toNat) = St.ok → r.payload = [] →
      spanSize r.index.toNat (span r.sub.toNat r.count.toNat) ≤ 1176 →
      readFail c1 who r.index.toNat item (span r.sub.toNat r.count.toNat) = St.ok →
      readSpan who r.index.toNat item (span r.sub.toNat r.count.toNat) c1 = (b, c2) →
      exec (.readList who r) s = .next { s with m :=
        (afterResponse [] r.index.toNat (respond true who ⟨3, r⟩ ⟨St.ok, false, b⟩ (settle c2))) }) ∧
    (∀ who r c1 b c2, accepted who ⟨5, r⟩ s.m c1 → isWindow r.index.toNat = true →
      spanCheck r.index.toNat (span r.sub.toNat r.count.toNat) = St.ok →
      r.payload.length = ((objAt r.index.toNat 1).map (·.size)).getD 0 →
      spanSize r.index.toNat (span r.sub.toNat r.count.toNat) ≤ 1176 →
      selectorCheck c1 who r.index.toNat (leNat r.payload) = St.ok →
      readFail c1 who r.index.toNat (leNat r.payload) (span r.sub.toNat r.count.toNat) = St.ok →
      readSpan who r.index.toNat (leNat r.payload) (span r.sub.toNat r.count.toNat)
        (setSel who r.index.toNat 1 (leNat r.payload) c1) = (b, c2) →
      exec (.windowRead who r) s = .next { s with m :=
        (afterResponse [] r.index.toNat (respond true who ⟨5, r⟩ ⟨St.ok, false, b⟩ (settle c2))) })

/-- An accepted WRITE, WRITE_LIST or WINDOW_WRITE whose payload fits its span, whose checks of R100 pass for every
part, within the stored-write limit of R81, with no store failure and no hardware update winning, applies each
part in ascending subindex order (a stored value with what follows from it, or a doorbell's action) and is
answered OK.
(derived: 03_object_dictionary.md, R72, R81, R98, R99, R100, R104, R109) -/
def Obligations.DictionaryWritesApplyEveryPart : Prop :=
  ∀ s : State,
    (∀ who r env sd c0 c1 parts item, sideOf env r s.m = (sd, c0) → accepted who ⟨2, r⟩ c0 c1 →
      spanCheck r.index.toNat (span r.sub.toNat r.count.toNat) = St.ok →
      cutValues r.index.toNat (span r.sub.toNat r.count.toNat) r.payload = some parts → item = itemOf c1 who r.index.toNat parts →
      firstFail c1 (trial who r.index.toNat item parts c1) who r.index.toNat item sd.plain parts = St.ok →
      (recentWrites c1).length + storedCount r.index.toNat parts ≤ 8 → env.storeFail = false →
      parts.any (fun e => partLost sd r.index.toNat e.1) = false → defersAnswer r.index.toNat parts = false →
      exec (.write who r env) s = .next { s with m := (answered who ⟨2, r⟩ r.index.toNat parts
        (parts.foldl (applyPart who 2 r sd r.index.toNat item) (stamped (storedCount r.index.toNat parts) c1))) }) ∧
    (∀ who r env sd c0 c1 parts item, sideOf env r s.m = (sd, c0) → accepted who ⟨4, r⟩ c0 c1 →
      spanCheck r.index.toNat (span r.sub.toNat r.count.toNat) = St.ok →
      cutValues r.index.toNat (span r.sub.toNat r.count.toNat) r.payload = some parts → item = itemOf c1 who r.index.toNat parts →
      firstFail c1 (trial who r.index.toNat item parts c1) who r.index.toNat item sd.plain parts = St.ok →
      (recentWrites c1).length + storedCount r.index.toNat parts ≤ 8 → env.storeFail = false →
      parts.any (fun e => partLost sd r.index.toNat e.1) = false → defersAnswer r.index.toNat parts = false →
      exec (.writeList who r env) s = .next { s with m := (answered who ⟨4, r⟩ r.index.toNat parts
        (parts.foldl (applyPart who 4 r sd r.index.toNat item) (stamped (storedCount r.index.toNat parts) c1))) }) ∧
    (∀ who r env sd c0 c1 parts item, sideOf env r s.m = (sd, c0) → accepted who ⟨6, r⟩ c0 c1 → isWindow r.index.toNat = true →
      spanCheck r.index.toNat (span r.sub.toNat r.count.toNat) = St.ok →
      cutValues r.index.toNat (1 :: span r.sub.toNat r.count.toNat) r.payload = some parts → item = itemOf c1 who r.index.toNat parts →
      firstFail c1 (trial who r.index.toNat item parts c1) who r.index.toNat item sd.plain parts = St.ok →
      (recentWrites c1).length + storedCount r.index.toNat parts ≤ 8 → env.storeFail = false →
      parts.any (fun e => partLost sd r.index.toNat e.1) = false → defersAnswer r.index.toNat parts = false →
      exec (.windowWrite who r env) s = .next { s with m := (answered who ⟨6, r⟩ r.index.toNat parts
        (parts.foldl (applyPart who 6 r sd r.index.toNat item) (stamped (storedCount r.index.toNat parts) c1))) })

/-- RECORD_FETCH answers at most 18 of the log's records strictly after the key of its 13 payload bytes, with MORE
where further ones stand; IDENTIFY answers the identification bytes whatever incarnation it names; DESCRIBE of a
present object for a requester with a right on it answers type, size, class, persistence, rights and default.
(derived: 03_object_dictionary.md, R98, R102, R711) -/
def Obligations.FetchIdentifyDescribeAnswer : Prop :=
  ∀ s : State,
    (∀ who r c1 n after, accepted who ⟨7, r⟩ s.m c1 → r.payload.length = 13 → n = min 18 (dfield r.payload 12 1) →
      after = c1.flt.log.filter (fun x => decide (dfield r.payload 0 8 < x.time) || (x.time == dfield r.payload 0 8 &&
        (decide (dfield r.payload 8 2 < x.module) || (x.module == dfield r.payload 8 2 && decide (dfield r.payload 10 2 < x.source.toNat))))) →
      exec (.recordFetch who r) s = .next { s with m := (afterResponse [] r.index.toNat (respond true who ⟨7, r⟩
        ⟨St.ok, decide (n < after.length), ((after.take n).map recBytes).flatten⟩ (settle c1))) }) ∧
    (∀ who r c1, dictServed s.m = true → beginReq who ⟨8, r⟩ s.m = some c1 → r.payload = [] →
      (keptOf c1 who).find? (fun k => k.msg.req.reqId == r.reqId) = none →
      exec (.identify who r) s = .next { s with m := (afterResponse [] r.index.toNat (respond true who ⟨8, r⟩
        ⟨St.ok, false, identifyBytes c1⟩ (settle c1))) }) ∧
    (∀ who r c1 o d, accepted who ⟨9, r⟩ s.m c1 → objAt r.index.toNat r.sub.toNat = some o →
      (who ≠ .policy ∨ r.index.toNat < 0xF000) → lockedRange c1 r.index.toNat = false →
      roleBits o (roleOf c1 who).1 ≠ 0 → r.payload = [] →
      d = (if o.pers = 0 then dictVal c1 who r.index.toNat r.sub.toNat 0 else o.dflt) →
      exec (.describe who r) s = .next { s with m := (afterResponse [] r.index.toNat (respond true who ⟨9, r⟩ ⟨St.ok, false,
        leBytes 1 o.ty ++ leBytes 2 o.size ++ leBytes 1 o.cls ++ leBytes 1 o.pers ++ leBytes 1 (shownRights o) ++ leBytes o.size d⟩
        (settle c1))) })

/-- An accepted write of HOLDOVER_MAX_S stores its value; of PEND_ARM arms the pending period; of SESSION_CLOSE lists
the session, which closes once the response has been sent. Each is answered OK.
(derived: 02_time_and_stitches.md, 03_object_dictionary.md, R41, R51, R88, R100) -/
def Obligations.TimeAndSessionDoorbellsAct : Prop :=
  ∀ s : State,
    (∀ who h v env c1, accepted who (oneWrite h 0x1100 7 2 v.toNat) s.m c1 → writePasses who 0x1100 7 0 v.toNat none c1 →
      (recentWrites c1).length + 1 ≤ 8 → env = ⟨[], false⟩ →
      exec (.holdoverMaxS who h v env) s = .next { s with m := (answered who (oneWrite h 0x1100 7 2 v.toNat) 0x1100 [(7, v.toNat)]
        (setObj 0x1100 7 0 v.toNat (stamped 1 c1))) }) ∧
    (∀ who h v c1, accepted who (oneWrite h 0x1100 16 1 v.toNat) s.m c1 → writePasses who 0x1100 16 0 v.toNat none c1 →
      exec (.pendArm who h v) s = .next { s with m := (answered who (oneWrite h 0x1100 16 1 v.toNat) 0x1100 [(16, v.toNat)]
        ({ stamped 0 c1 with time := { c1.time with pendArmed := true } })) }) ∧
    (∀ who h v c1, accepted who (oneWrite h 0x1200 17 1 v.toNat) s.m c1 → writePasses who 0x1200 17 0 v.toNat none c1 →
      exec (.sessionClose who h v) s = .next { s with m := (answered who (oneWrite h 0x1200 17 1 v.toNat) 0x1200 [(17, v.toNat)]
        ({ stamped 0 c1 with fdp := { c1.fdp with closing := c1.fdp.closing ++ [v.toNat] } })) })

/-- An accepted write of Q_RESET_REQ sets the requester's selector and begins the queue's reset; of BZ_SNAP_REQ or
BZ_RESTORE_REQ notes the partition's image for the next boundary; of DUMP_REQ begins a dump. Each is answered OK.
(derived: 09_queue_engine.md, 10_blazes.md, 03_object_dictionary.md, R100, R109, R329, R353, R354, R356) -/
def Obligations.QueueAndBlazeDoorbellsAct : Prop :=
  ∀ s : State,
    (∀ who h (q : BitVec 32) (v : BitVec 8) c1, accepted who (windowWrite h 0x54C0 15 4 q.toNat [v]) s.m c1 →
      windowPasses who 0x54C0 15 q.toNat v.toNat none c1 →
      exec (.qResetReq who h q v) s = .next { s with m :=
        (answered who (windowWrite h 0x54C0 15 4 q.toNat [v]) 0x54C0 [(1, q.toNat), (15, v.toNat)]
          (startReset q.toNat (setSel who 0x54C0 1 q.toNat (stamped 0 c1)))) }) ∧
    (∀ who h v c1, accepted who (oneWrite h 0x2400 9 1 v.toNat) s.m c1 → writePasses who 0x2400 9 0 v.toNat none c1 →
      exec (.bzSnapReq who h v) s = .next { s with m := (answered who (oneWrite h 0x2400 9 1 v.toNat) 0x2400 [(9, v.toNat)]
        ({ stamped 0 c1 with blz := { c1.blz with snapReq := tput c1.blz.snapReq v.toNat true } })) }) ∧
    (∀ who h v c1, accepted who (oneWrite h 0x2400 10 1 v.toNat) s.m c1 → writePasses who 0x2400 10 0 v.toNat none c1 →
      exec (.bzRestoreReq who h v) s = .next { s with m := (answered who (oneWrite h 0x2400 10 1 v.toNat) 0x2400 [(10, v.toNat)]
        ({ stamped 0 c1 with blz := { c1.blz with restoreReq := tput c1.blz.restoreReq v.toNat true } })) }) ∧
    (∀ who h v c1, accepted who (oneWrite h 0x2400 6 1 v.toNat) s.m c1 → writePasses who 0x2400 6 0 v.toNat none c1 →
      exec (.dumpReq who h v) s = .next { s with m := (answered who (oneWrite h 0x2400 6 1 v.toNat) 0x2400 [(6, v.toNat)]
        (startDump 0 (stamped 0 c1))) })

/-- An accepted write of REFILL_ARM or STAGE_ARM arms the refill or the staged budgets for their boundary; of SES_OPEN
sets the requester's selector and opens the session with that module. Each is answered OK.
(derived: 13_serving.md, 15_links_and_remote_writes.md, 03_object_dictionary.md, R100, R109, R451, R452, R504) -/
def Obligations.ServingAndLinkDoorbellsAct : Prop :=
  ∀ s : State,
    (∀ who h v c1, accepted who (oneWrite h 0x2700 5 1 v.toNat) s.m c1 → writePasses who 0x2700 5 0 v.toNat none c1 →
      exec (.refillArm who h v) s = .next { s with m := (answered who (oneWrite h 0x2700 5 1 v.toNat) 0x2700 [(5, v.toNat)]
        ({ stamped 0 c1 with srv := { c1.srv with refillArmed := true } })) }) ∧
    (∀ who h v c1, accepted who (oneWrite h 0x2700 7 1 v.toNat) s.m c1 → writePasses who 0x2700 7 0 v.toNat none c1 →
      exec (.stageArm who h v) s = .next { s with m := (answered who (oneWrite h 0x2700 7 1 v.toNat) 0x2700 [(7, v.toNat)]
        ({ stamped 0 c1 with srv := { c1.srv with stageArmed := true } })) }) ∧
    (∀ who h (peer : BitVec 16) (v : BitVec 8) c1, accepted who (windowWrite h 0x5803 4 2 peer.toNat [v]) s.m c1 →
      windowPasses who 0x5803 4 peer.toNat v.toNat none c1 →
      exec (.sesOpen who h peer v) s = .next { s with m :=
        (answered who (windowWrite h 0x5803 4 2 peer.toNat [v]) 0x5803 [(1, peer.toNat), (4, v.toNat)]
          (openSession peer.toNat (setSel who 0x5803 1 peer.toNat (stamped 0 c1)))) })

/-- An accepted write of PAIR_ARM clears CLAIM and enters FORMING at its first stage; of PAIR_SWAP notes the swap for
the next boundary; of PAIR_MODE stores the mode, and 0, or any value in YIELDED, enters UNPAIRED. Each is answered
OK.
(derived: 16_pair_operation.md, 03_object_dictionary.md, R100, R525, R531, R556, R557) -/
def Obligations.PairDoorbellsAct : Prop :=
  ∀ s : State,
    (∀ who h v c1, accepted who (oneWrite h 0x3100 6 1 v.toNat) s.m c1 → writePasses who 0x3100 6 0 v.toNat none c1 →
      exec (.pairArm who h v) s = .next { s with m := (answered who (oneWrite h 0x3100 6 1 v.toNat) 0x3100 [(6, v.toNat)]
        (modPair (fun p => { p with state := PSt.forming, stage := 1 }) (clearClaim (stamped 0 c1)))) }) ∧
    (∀ who h v c1, accepted who (oneWrite h 0x3100 8 1 v.toNat) s.m c1 → writePasses who 0x3100 8 0 v.toNat none c1 →
      exec (.pairSwap who h v) s = .next { s with m := (answered who (oneWrite h 0x3100 8 1 v.toNat) 0x3100 [(8, v.toNat)]
        (modPair (fun p => { p with swapReq := true }) (stamped 0 c1))) }) ∧
    (∀ who h v env c1, accepted who (oneWrite h 0x3100 1 1 v.toNat) s.m c1 → writePasses who 0x3100 1 0 v.toNat none c1 →
      (recentWrites c1).length + 1 ≤ 8 → env = ⟨[], false⟩ →
      exec (.pairMode who h v env) s = .next { s with m := (answered who (oneWrite h 0x3100 1 1 v.toNat) 0x3100 [(1, v.toNat)]
        (pairModeSet v.toNat (setObj 0x3100 1 0 v.toNat (stamped 1 c1)))) })

/-- An accepted write of PRT_RESTART sets the requester's selector and queues the partition for restart, once; of
ROLL_ARM arms the rollback; of ADMIT_AT stores the count and arms the admission; of PM_CLEAR drops the post-mortem
bundle. Each is answered OK.
(derived: 17_faults_and_ordering.md, 03_object_dictionary.md, R100, R109, R568, R575, R580, R582) -/
def Obligations.FaultDoorbellsAct : Prop :=
  ∀ s : State,
    (∀ who h (p : BitVec 8) (v : BitVec 8) c1, accepted who (windowWrite h 0x5880 6 1 p.toNat [v]) s.m c1 →
      windowPasses who 0x5880 6 p.toNat v.toNat none c1 →
      exec (.prtRestart who h p v) s = .next { s with m :=
        (answered who (windowWrite h 0x5880 6 1 p.toNat [v]) 0x5880 [(1, p.toNat), (6, v.toNat)]
          ({ setSel who 0x5880 1 p.toNat (stamped 0 c1) with flt := { c1.flt with restartReq :=
            (if c1.flt.restartReq.contains p.toNat then c1.flt.restartReq else c1.flt.restartReq ++ [p.toNat]) } })) }) ∧
    (∀ who h v c1, accepted who (oneWrite h 0x3200 9 1 v.toNat) s.m c1 → writePasses who 0x3200 9 0 v.toNat none c1 →
      exec (.rollArm who h v) s = .next { s with m := (answered who (oneWrite h 0x3200 9 1 v.toNat) 0x3200 [(9, v.toNat)]
        ({ stamped 0 c1 with flt := { c1.flt with rollArmed := true } })) }) ∧
    (∀ who h v env c1, accepted who (oneWrite h 0x3200 6 8 v.toNat) s.m c1 → writePasses who 0x3200 6 0 v.toNat none c1 →
      (recentWrites c1).length + 0 ≤ 8 → env = ⟨[], false⟩ →
      exec (.admitAt who h v env) s = .next { s with m := (answered who (oneWrite h 0x3200 6 8 v.toNat) 0x3200 [(6, v.toNat)]
        (setObj 0x3200 6 0 v.toNat { stamped 0 c1 with flt := { c1.flt with admitArmed := true } })) }) ∧
    (∀ who h v c1, accepted who (oneWrite h 0x3200 14 1 v.toNat) s.m c1 → writePasses who 0x3200 14 0 v.toNat none c1 →
      exec (.pmClear who h v) s = .next { s with m := (answered who (oneWrite h 0x3200 14 1 v.toNat) 0x3200 [(14, v.toNat)]
        ({ stamped 0 c1 with flt := { c1.flt with bundle := none } })) })

/-- An accepted write of POLICY_CAP stores the cap and computes the module's cap anew; of MAP_ARM arms the partition
map; a KEY_BLOB is handed to the security engine and answered at its installation; ATT_GEN begins a report for the
requester; DEBUG_LOCK locks the debug port; FUSE_PROG programs the bits that the programming reached (its
operands) at the word and value of its selectors.
(derived: 18_power_and_thermal.md, 19_partitions_keys_attestation.md, 03_object_dictionary.md, R100, R109, R588, R615, R625, R632, R636, R637) -/
def Obligations.PowerMapAndKeyDoorbellsAct : Prop :=
  ∀ s : State,
    (∀ who h v env c1, accepted who (oneWrite h 0x4000 2 2 v.toNat) s.m c1 → writePasses who 0x4000 2 0 v.toNat none c1 →
      (recentWrites c1).length + 1 ≤ 8 → env = ⟨[], false⟩ →
      exec (.policyCap who h v env) s = .next { s with m := (answered who (oneWrite h 0x4000 2 2 v.toNat) 0x4000 [(2, v.toNat)]
        (recap (setObj 0x4000 2 0 v.toNat (stamped 1 c1)))) }) ∧
    (∀ who h v c1, accepted who (oneWrite h 0x4100 2 1 v.toNat) s.m c1 → writePasses who 0x4100 2 0 v.toNat none c1 →
      exec (.mapArm who h v) s = .next { s with m := (answered who (oneWrite h 0x4100 2 1 v.toNat) 0x4100 [(2, v.toNat)]
        ({ stamped 0 c1 with sec := { c1.sec with mapArmed := true } })) }) ∧
    (∀ who h (sel : BitVec 8) blob plain c1, blob.length = 256 → accepted who (windowWrite h 0x5C43 2 1 sel.toNat blob) s.m c1 →
      windowPasses who 0x5C43 2 sel.toNat (leNat blob) plain c1 →
      exec (.keyBlob who h sel blob plain) s = .next { s with m := (settle (blobWrite who 6
        (windowWrite h 0x5C43 2 1 sel.toNat blob).req sel.toNat blob plain (setSel who 0x5C43 1 sel.toNat (stamped 0 c1))).2) }) ∧
    (∀ who h (sel : BitVec 8) (v : BitVec 8) c1, accepted who (windowWrite h 0x5C41 4 1 sel.toNat [v]) s.m c1 →
      windowPasses who 0x5C41 4 sel.toNat v.toNat none c1 →
      exec (.attGen who h sel v) s = .next { s with m :=
        (answered who (windowWrite h 0x5C41 4 1 sel.toNat [v]) 0x5C41 [(1, sel.toNat), (4, v.toNat)]
          (reportStart who (setSel who 0x5C41 1 sel.toNat (stamped 0 c1)))) }) ∧
    (∀ who h v c1, accepted who (oneWrite h 0x4100 6 1 v.toNat) s.m c1 → writePasses who 0x4100 6 0 v.toNat none c1 →
      exec (.debugLock who h v) s = .next { s with m := (answered who (oneWrite h 0x4100 6 1 v.toNat) 0x4100 [(6, v.toNat)]
        (debugLock v.toNat (stamped 0 c1))) }) ∧
    (∀ who h v (tl th cl ch : BitVec 32) c1, accepted who (oneWrite h 0xF001 3 1 v.toNat) s.m c1 → writePasses who 0xF001 3 0 v.toNat none c1 →
      exec (.fuseProg who h v tl th cl ch) s = .next { s with m := (answered who (oneWrite h 0xF001 3 1 v.toNat) 0xF001 [(3, v.toNat)]
        (fuseProgram (obj c1 0xF001 1) (obj c1 0xF001 2) tl.toNat th.toNat cl.toNat ch.toNat (stamped 0 c1))) })

/-- An accepted write of FW_ERASE begins the erase; FW_CHUNK writes 1,024 bytes at its chunk; FW_COMMIT commits the
bank; FW_TRIAL stores its value; FW_CONFIRM confirms; FW_RESTART restarts policy firmware. STATE_REQ 1
(MODULE_RESET_REQ) and 8 (MAINTENANCE_REQ) are answered OK, and the reset 1 ms later or the entry to MAINTENANCE
follows the response.
(derived: 20_policy_firmware.md, 22_startup_and_insertion.md, 03_object_dictionary.md, R100, R109, R641, R642, R644, R651, R681, R689) -/
def Obligations.FirmwareAndModuleDoorbellsAct : Prop :=
  ∀ s : State,
    (∀ who h v c1, accepted who (oneWrite h 0x4200 13 1 v.toNat) s.m c1 → writePasses who 0x4200 13 0 v.toNat none c1 →
      exec (.fwErase who h v) s = .next { s with m := (answered who (oneWrite h 0x4200 13 1 v.toNat) 0x4200 [(13, v.toNat)]
        (eraseStart (stamped 0 c1))) }) ∧
    (∀ who h (sel : BitVec 16) data c1, data.length = 1024 → accepted who (windowWrite h 0x5C80 2 2 sel.toNat data) s.m c1 →
      windowPasses who 0x5C80 2 sel.toNat (leNat data) none c1 →
      exec (.fwChunk who h sel data) s = .next { s with m :=
        (answered who (windowWrite h 0x5C80 2 2 sel.toNat data) 0x5C80 [(1, sel.toNat), (2, leNat data)]
          (chunkWrite sel.toNat data (setSel who 0x5C80 1 sel.toNat (stamped 0 c1)))) }) ∧
    (∀ who h v c1, accepted who (oneWrite h 0x4200 14 1 v.toNat) s.m c1 → writePasses who 0x4200 14 0 v.toNat none c1 →
      exec (.fwCommit who h v) s = .next { s with m := (answered who (oneWrite h 0x4200 14 1 v.toNat) 0x4200 [(14, v.toNat)]
        (commitBank (stamped 0 c1))) }) ∧
    (∀ who h v env c1, accepted who (oneWrite h 0x4200 3 1 v.toNat) s.m c1 → writePasses who 0x4200 3 0 v.toNat none c1 →
      (recentWrites c1).length + 1 ≤ 8 → env = ⟨[], false⟩ →
      exec (.fwTrial who h v env) s = .next { s with m := (answered who (oneWrite h 0x4200 3 1 v.toNat) 0x4200 [(3, v.toNat)]
        (setObj 0x4200 3 0 v.toNat (stamped 1 c1))) }) ∧
    (∀ who h v c1, accepted who (oneWrite h 0x4200 4 1 v.toNat) s.m c1 → writePasses who 0x4200 4 0 v.toNat none c1 →
      exec (.fwConfirm who h v) s = .next { s with m := (answered who (oneWrite h 0x4200 4 1 v.toNat) 0x4200 [(4, v.toNat)]
        (confirmBank (stamped 0 c1))) }) ∧
    (∀ who h v c1, accepted who (oneWrite h 0x4200 6 1 v.toNat) s.m c1 → writePasses who 0x4200 6 0 v.toNat none c1 →
      exec (.fwRestart who h v) s = .next { s with m := (answered who (oneWrite h 0x4200 6 1 v.toNat) 0x4200 [(6, v.toNat)]
        (restartFirmware (stamped 0 c1))) }) ∧
    (∀ who h v c1, accepted who (oneWrite h 0x4400 3 1 v.toNat) s.m c1 → writePasses who 0x4400 3 0 v.toNat none c1 →
      exec (.moduleResetReq who h v) s = .next { s with m := (answered who (oneWrite h 0x4400 3 1 v.toNat) 0x4400 [(3, v.toNat)]
        (stamped 0 c1)) }) ∧
    (∀ who h v c1, accepted who (oneWrite h 0x4400 3 1 v.toNat) s.m c1 → writePasses who 0x4400 3 0 v.toNat none c1 →
      exec (.maintenanceReq who h v) s = .next { s with m := (answered who (oneWrite h 0x4400 3 1 v.toNat) 0x4400 [(3, v.toNat)]
        (stamped 0 c1)) })

/-- A datagram outside DTLS is discarded and counted; a fresh record of an open session whose message passes the
header checks is queued behind at most seven others, and a ninth waiting request is answered DICT_BUSY. The first
FRER frame starts the recovery function; a frame whose number was seen is counted as a duplicate; a silence resets
it. A latent port is recorded while frame replication is enabled. A handshake without a certificate opens the
lowest free session as an observer; one that failed sends its alert, is counted and recorded. An open session that
idles ends; a retransmission doubles its time to at most 6.4 s. A port that goes down delivers no Sync. A
solicitation for the module's own address is answered on its port.
(derived: 03_object_dictionary.md, R86, R89, R90, R92, R93, R94, R97, R103) -/
def Obligations.FieldPortCommandsTakeEffect : Prop :=
  ∀ s : State, dictServed s.m = true →
    (∀ ses recSeq data, exec (.fdpDatagram ses false recSeq data) s = .next { s with m := bump 0x1200 11 0 1 s.m }) ∧
    (∀ (ses : BitVec 4) recSeq data c1, (fdpSes s.m ses.toNat).isOpen = true → freshRecord (fdpSes s.m ses.toNat) recSeq = true →
      c1 = setFdp ses.toNat { tookRecord recSeq (fdpSes s.m ses.toNat) with lastUse := s.m.time.tsc } s.m →
      24 ≤ data.length → headerFail data = none →
      ((fdpSes c1 ses.toNat).queue.length < 8 → exec (.fdpDatagram ses true recSeq data) s = .next { s with m :=
        (setFdp ses.toNat { fdpSes c1 ses.toNat with queue := (fdpSes c1 ses.toNat).queue ++ [parseMsg data] } c1) }) ∧
      (8 ≤ (fdpSes c1 ses.toNat).queue.length → exec (.fdpDatagram ses true recSeq data) s = .next { s with m :=
        (respond false (.session ses) (parseMsg data) ⟨St.dictBusy, false, []⟩ c1) })) ∧
    (∀ port (seq : BitVec 16), obj s.m 0x1200 6 ≠ 0 → s.m.fdp.frer.started = false →
      exec (.frerFrame port seq) s = .next { s with m := { s.m with fdp := { s.m.fdp with
        frer := { s.m.fdp.frer with started := true, high := seq.toNat, seen := [seq.toNat] } } } }) ∧
    (∀ port (seq : BitVec 16), obj s.m 0x1200 6 ≠ 0 → s.m.fdp.frer.started = true → s.m.fdp.frer.high = seq.toNat →
      0 < obj s.m 0x1200 8 → s.m.fdp.frer.seen.contains seq.toNat = true →
      exec (.frerFrame port seq) s = .next { s with m := bump 0x1200 7 0 1 s.m }) ∧
    exec .frerResetTimeout s = .next { s with m := { s.m with fdp := { s.m.fdp with
      frer := { s.m.fdp.frer with started := false, high := 0, seen := [] } } } } ∧
    (∀ port : BitVec 1, obj s.m 0x1200 6 = 1 → exec (.fdpPortLatent port) s = .next { s with m :=
      (emit (dictSource s.m) St.fdpPortLatent none [port.toNat] s.m) }) ∧
    (∀ ip udp n, freeSession s.m = some n → exec (.dtlsHandshake ip udp .noCert) s = .next { s with m :=
      (setFdp n { isOpen := true, role := 0, part := 0, digest := 0, ip := ip, udp := udp, lastUse := s.m.time.tsc }
        { s.m with fdp := { s.m.fdp with shakeMs := 0 } }) }) ∧
    (∀ ip udp alert, exec (.dtlsHandshake ip udp (.failed alert)) s = .next { s with m :=
      (handshakeFail ip udp.toNat alert.toNat { s.m with fdp := { s.m.fdp with shakeMs := 0 } }) }) ∧
    (∀ ses : BitVec 4, (fdpSes s.m ses.toNat).isOpen = true →
      exec (.sessionIdleTimeout ses) s = .next { s with m := endSession ses.toNat s.m }) ∧
    (∀ n, n = (if s.m.fdp.shakeMs = 0 then 200 else min 6400 (2 * s.m.fdp.shakeMs)) →
      exec .dtlsRetransmit s = .next { s with m := (frameSent (send (.flight n) { s.m with fdp := { s.m.fdp with shakeMs := n } })) }) ∧
    (∀ port : BitVec 1, s.m.life.powered = true →
      exec (.fieldPortLinkChange port true) s = .next { s with m :=
        { s.m with fdp := { s.m.fdp with links := bitPut s.m.fdp.links port.toNat true } } } ∧
      exec (.fieldPortLinkChange port false) s = .next { s with m :=
        { s.m with fdp := { s.m.fdp with links := bitPut s.m.fdp.links port.toNat false },
                   time := { s.m.time with ports := tmod {} s.m.time.ports port.toNat fun v => { v with heard := false } } } }) ∧
    (∀ (port : BitVec 1) target src, obj s.m 0x1200 3 ≠ 0 → leNat (ipBytes target) = obj s.m 0x1200 3 →
      exec (.neighbourSolicitation port target src) s = .next { s with m := send (.advert port.toNat target src) s.m })

/-- With BUSY clear and a request of 24 to 1,200 bytes that passes the header checks, CB_MBX_DOORBELL copies the
request, sets BUSY and notes the role of MBX_ROLE; a request that fails them is answered at once. CB_MBX_ABORT
discards a request taken and not begun. Bytes written while BUSY is set change nothing but OVERWRITE. MBX_RESPONSE
writes the response, clears BUSY and sets DONE in one step, and sends vector 0 where enabled.
(derived: 03_object_dictionary.md, R111, R112, R113, R114) -/
def Obligations.MailboxCommandsTakeEffect : Prop :=
  ∀ s : State,
    (∀ b, dictServed s.m = true → s.m.mbx.busy = false → 24 ≤ s.m.mbx.reqLen → s.m.mbx.reqLen ≤ 1200 →
      b = mbxRequest s.m s.m.mbx.reqLen → headerFail b = none →
      exec .cbMbxDoorbell s = .next { s with m := { s.m with mbx := { s.m.mbx with
        busy := true, taken := some b, started := false, answer := none, role := obj s.m 0x1200 15 } } }) ∧
    (∀ b st, dictServed s.m = true → s.m.mbx.busy = false → 24 ≤ s.m.mbx.reqLen → s.m.mbx.reqLen ≤ 1200 →
      b = mbxRequest s.m s.m.mbx.reqLen → headerFail b = some st →
      exec .cbMbxDoorbell s = .next { s with m := (answerHeader .mailbox (parseMsg b) st { s.m with mbx := { s.m.mbx with
        busy := true, taken := some b, started := true, answer := none, role := obj s.m 0x1200 15 } }) }) ∧
    (s.m.mbx.busy = true → exec .cbMbxDoorbell s = .next s) ∧
    (s.m.mbx.busy = true → s.m.mbx.started = false →
      exec .cbMbxAbort s = .next { s with m := { s.m with mbx := { s.m.mbx with busy := false, taken := none } } }) ∧
    (∀ (off : BitVec 12) (b : Byte), s.m.mbx.busy = false → 0x100 ≤ off.toNat → off.toNat ≤ 0x5AF →
      exec (.mbxBufferWrite off [b]) s = .next { s with m := { s.m with mbx := { s.m.mbx with
        reqBuf := tset 0 s.m.mbx.reqBuf (off.toNat - 0x100) b } } }) ∧
    (∀ (off : BitVec 12) (b : Byte), s.m.mbx.busy = true → 0x100 ≤ off.toNat → off.toNat ≤ 0x5AF →
      exec (.mbxBufferWrite off [b]) s = .next { s with m := { s.m with mbx := { s.m.mbx with overwrite := true } } }) ∧
    (∀ a d, s.m.mbx.busy = true → s.m.mbx.answer = some a →
      d = { s.m with mbx := { s.m.mbx with busy := false, done := true, started := false, taken := none, answer := none,
                                           rspBuf := a, rspLen := a.length } } →
      exec .mbxResponse s = .next { s with m := (if s.m.mbx.doneIe then send (.msix 0 0) d else d) })

/-- PR_VF_DOORBELL of a function with a partition sets the blaze at its number within the allocation, under the
function's identity, and faults beyond it. A window read inside the window and past the memory checks answers the
bytes with their poison; a write stores exactly its bytes; outside the window the read is aborted and recorded and
the write is recorded. PERST_N low takes a link down with what its functions hold; PCIE_LINK_CHANGE keeps speed
and width; IDE_KM draws a key, delivers it and marks the stream.
(derived: 04_threads_and_address_space.md, 19_partitions_keys_attestation.md, 23_connectors_and_ratings.md, R160, R162, R164, R165, R627, R703) -/
def Obligations.HostPortCommandsTakeEffect : Prop :=
  ∀ s : State,
    (∀ (v : BitVec 5) (val : BitVec 32) p, 1 ≤ v.toNat → v.toNat ≤ 16 → vfOwner s.m v.toNat = some p →
      (val.toNat < (mapOf s.m p).bzCount → exec (.prVfDoorbell v val) s = .next { s with m :=
        (settle (setBlaze ((mapOf s.m p).bzBase + val.toNat) (unitId s.m (Src.pcie v.toNat)) s.m)) }) ∧
      ((mapOf s.m p).bzCount ≤ val.toNat → exec (.prVfDoorbell v val) s = .next { s with m :=
        (settle (windowFault v.toNat 0 2 val.toNat s.m)) })) ∧
    (∀ (v : BitVec 5) (off : BitVec 36) (len : BitVec 13) ecc p a c1, 1 ≤ v.toNat → v.toNat ≤ 16 →
      winHit s.m v.toNat off.toNat len.toNat false = .at_ p a → c1 = applyEcc a len.toNat ecc s.m →
      exec (.hostWindowRead v off len ecc) s = .next { s with m :=
        (settleMem (send (.hostData v.toNat (memRead c1 a len.toNat) (rangePoison c1 a len.toNat)) c1)) }) ∧
    (∀ (v : BitVec 5) (off : BitVec 36) (len : BitVec 13) ecc, 1 ≤ v.toNat → v.toNat ≤ 16 →
      winHit s.m v.toNat off.toNat len.toNat false = .outside →
      exec (.hostWindowRead v off len ecc) s = .next { s with m :=
        (settleMem (send (.hostAbort v.toNat) (windowFault v.toNat (off.toNat / 2 ^ 32) 0 off.toNat s.m))) }) ∧
    (∀ (v : BitVec 5) (off : BitVec 36) data ecc p a, 1 ≤ v.toNat → v.toNat ≤ 16 →
      winHit s.m v.toNat off.toNat data.length true = .at_ p a →
      exec (.hostWindowWrite v off data ecc) s = .next { s with m :=
        (settleMem (memWrite a data false (eccStore a data.length ecc s.m))) }) ∧
    (∀ (v : BitVec 5) (off : BitVec 36) data ecc, 1 ≤ v.toNat → v.toNat ≤ 16 →
      winHit s.m v.toNat off.toNat data.length true = .outside →
      exec (.hostWindowWrite v off data ecc) s = .next { s with m :=
        (settleMem (windowFault v.toNat (off.toNat / 2 ^ 32) 1 off.toNat s.m)) }) ∧
    (∀ (link : BitVec 1) (mine : Nat → Bool), s.m.life.powered = true → (link = 0 ∨ twoLinks s.m = true) →
      mine = (fun v => 1 ≤ v && v ≤ 16 && vfLink s.m v == link.toNat) →
      exec (.perstN link true) s = .next { s with m := { s.m with host := { s.m.host with
        link0 := (if link.toNat = 0 then 0 else s.m.host.link0),
        link1 := (if link.toNat = 1 then 0 else s.m.host.link1),
        vfFault := s.m.host.vfFault.filter (fun e => !mine e.1),
        vfWriteLost := s.m.host.vfWriteLost.filter (fun e => !mine e.1),
        msixTable := s.m.host.msixTable.filter (fun e => !mine (e.1 / 64)),
        msixPend := s.m.host.msixPend.filter (fun e => !mine (e.1 / 16)),
        vfEnabled := forSpan 1 16 s.m.host.vfEnabled (fun a v => if mine v then bitPut a (v - 1) false else a),
        ide := forSpan 1 16 (bitPut s.m.host.ide link.toNat false) (fun a v => if mine v then bitPut a (v + 1) false else a) } } }) ∧
    (∀ speed width, dictServed s.m = true → speed ≠ 0 → width ≠ 0 →
      exec (.pcieLinkChange 0 speed width) s = .next { s with m := { s.m with host := { s.m.host with link0 := speed.toNat + 16 * width.toNat } } }) ∧
    (∀ (stream : BitVec 5) k c1, dictServed s.m = true → stream.toNat < 18 → drawBytes 4 s.m = (k, c1) →
      exec (.ideKm stream) s = .next { s with m :=
        (send (.ideKey stream.toNat k) { c1 with host := { c1.host with ide := bitPut c1.host.ide stream.toNat true } }) })

/-- A write of the grove arithmetic status clears the W1C bits written 1 that the hardware does not set in the same
cycle, and changes no other register of the grove; of the pair status it clears LACE_ERR, MISMATCH and WRITE_LOST
likewise; of the Warden's, its two W1C bits; of the counter block's, its WRITE_LOST; a counter's COUNT takes the
value; the mailbox's status, its three; DONE_IE takes bit 0; a virtual function's status, its two.
(derived: 03_object_dictionary.md, 06_arrays_and_formats.md, 16_pair_operation.md, 18_power_and_thermal.md, 21_counters.md, R72, R660) -/
def Obligations.RegisterWritesFollowFieldClasses : Prop :=
  ∀ (s : State) (v hw : Word),
    (∀ g : BitVec 8, exec (.registerWrite (.groveArith g) 0 v hw) s = .next { s with m := (settle (setGrove g.toNat
      { grove s.m g.toNat with arith := w1c (grove s.m g.toNat).arith (v.toNat % 128) (hw.toNat % 128) } s.m)) }) ∧
    exec (.registerWrite .pair 0 v hw) s = .next { s with m := (settle (modPair (fun p => { p with
      laceErr := (p.laceErr && !bitOf v.toNat 2) || bitOf hw.toNat 2, mismatch := (p.mismatch && !bitOf v.toNat 1) || bitOf hw.toNat 1,
      writeLost := (p.writeLost && !bitOf v.toNat 0) || bitOf hw.toNat 0 }) s.m)) } ∧
    exec (.registerWrite .warden 0 v hw) s = .next { s with m := (settle { s.m with pwr := { s.m.pwr with floors := { s.m.pwr.floors with
      seen := (s.m.pwr.floors.seen && !bitOf v.toNat 1) || bitOf hw.toNat 1,
      writeLost := (s.m.pwr.floors.writeLost && !bitOf v.toNat 0) || bitOf hw.toNat 0 } } }) } ∧
    exec (.registerWrite .counterStatus 0 v hw) s = .next { s with m := (settle { s.m with ctr := { s.m.ctr with
      writeLost := (s.m.ctr.writeLost && !bitOf v.toNat 0) || bitOf hw.toNat 0 } }) } ∧
    (∀ n : BitVec 12, n.toNat < 3584 → exec (.registerWrite (.counter n) 8 v hw) s = .next { s with m :=
      (settle { s.m with ctr := { s.m.ctr with val := tset 0 s.m.ctr.val n.toNat (v.toNat % 2 ^ 48) } }) }) ∧
    exec (.registerWrite .mailbox 4 v hw) s = .next { s with m := (settle { s.m with mbx := { s.m.mbx with
      overwrite := (s.m.mbx.overwrite && !bitOf v.toNat 3) || bitOf hw.toNat 3,
      writeLost := (s.m.mbx.writeLost && !bitOf v.toNat 2) || bitOf hw.toNat 2,
      done := (s.m.mbx.done && !bitOf v.toNat 1) || bitOf hw.toNat 1 } }) } ∧
    exec (.registerWrite .mailbox 0xC v hw) s = .next { s with m := (settle { s.m with mbx := { s.m.mbx with
      doneIe := bitOf v.toNat 0 } }) } ∧
    (∀ k : BitVec 5, 1 ≤ k.toNat → k.toNat ≤ 16 → exec (.registerWrite (.vf k) 0 v hw) s = .next { s with m :=
      (settle { s.m with host := { s.m.host with
        vfFault := tput s.m.host.vfFault k.toNat ((thas s.m.host.vfFault k.toNat && !bitOf v.toNat 3) || bitOf hw.toNat 3),
        vfWriteLost := tput s.m.host.vfWriteLost k.toNat ((thas s.m.host.vfWriteLost k.toNat && !bitOf v.toNat 0) || bitOf hw.toNat 0) } }) })

/-- A LOAD that issues and whose local range passes its checks takes the bytes read (sign or zero extended, or to a
floating-point register) and goes past itself by 2 or 4 bytes; poisoned bytes raise the exception of R130; a
failed check or translation raises its own; a range on another module becomes one READ request and stalls the
thread, and where no request entry is free the load waits. An instruction fetch of good local bytes changes
nothing of the thread; poisoned ones trap.
(derived: 04_threads_and_address_space.md, 15_links_and_remote_writes.md, R130, R133, R134, R135, R151, R508) -/
def Obligations.LoadsAndFetchesComplete : Prop :=
  ∀ (s : State) (t : Thread) (c1 c2 : Chip), issues t s.m c1 →
    (∀ rd rs1 imm size uns fp comp ecc ss c3 va, va = effAddr (hart s.m t.toNat) rs1.toNat imm →
      reach t.toNat .load va (2 ^ size.toNat) c1 = (c2, .here ss) →
      (∀ bs, readHere t.toNat ss (2 ^ size.toNat) ecc c2 = (c3, .ok bs) →
        exec (.load t rd rs1 imm size uns fp comp ecc) s = .next { s with m :=
          (settleMem (modHart t.toNat (takeLoad rd.toNat size.toNat uns fp (if comp then 2 else 4) bs) c3)) }) ∧
      (∀ tr, readHere t.toNat ss (2 ^ size.toNat) ecc c2 = (c3, .error tr) →
        exec (.load t rd rs1 imm size uns fp comp ecc) s = .next { s with m := settleMem (memTrap t.toNat tr c3) })) ∧
    (∀ rd rs1 imm size uns fp comp ecc tr, reach t.toNat .load (effAddr (hart s.m t.toNat) rs1.toNat imm) (2 ^ size.toNat) c1 = (c2, .trap tr) →
      exec (.load t rd rs1 imm size uns fp comp ecc) s = .next { s with m := memTrap t.toNat tr c2 }) ∧
    (∀ rd rs1 imm size uns fp comp ecc x r p va, va = effAddr (hart s.m t.toNat) rs1.toNat imm →
      reach t.toNat .load va (2 ^ size.toNat) c1 = (c2, .far x) → freeReq c2.lnk.outReq 65536 0 = some r → threadPart c2 t.toNat = some p →
      exec (.load t rd rs1 imm size uns fp comp ecc) s = .next { s with m :=
        ((sendTo p 2 (x.pa / 2 ^ 44) (2 ^ size.toNat) x.pa (.load t.toNat rd.toNat size.toNat uns fp va x.pa) [] []
          (modHart t.toNat (fun h => { h with
            state := .stalled, wait := .resp r rd.toNat size.toNat uns fp (if comp then 2 else 4) }) c2)).2) }) ∧
    (∀ rd rs1 imm size uns fp comp ecc x, reach t.toNat .load (effAddr (hart s.m t.toNat) rs1.toNat imm) (2 ^ size.toNat) c1 = (c2, .far x) →
      freeReq c2.lnk.outReq 65536 0 = none →
      exec (.load t rd rs1 imm size uns fp comp ecc) s = .next { s with m := c2 }) ∧
    (∀ four ecc ss c3 bs, reach t.toNat .fetch (hart s.m t.toNat).pc.toNat (if four then 4 else 2) s.m = (c2, .here ss) →
      readHere t.toNat ss (if four then 4 else 2) ecc c2 = (c3, .ok bs) →
      exec (.instructionFetch t four ecc) s = .next { s with m := settleMem c3 }) ∧
    (∀ four ecc tr, reach t.toNat .fetch (hart s.m t.toNat).pc.toNat (if four then 4 else 2) s.m = (c2, .trap tr) →
      exec (.instructionFetch t four ecc) s = .next { s with m := memTrap t.toNat tr c2 })

/-- A STORE that issues writes its bytes through its local segments (or to the register it reaches) and goes past
itself; a failed check traps; one to another module posts a WRITE and goes on. An AMO on a word or doubleword
takes the old value and stores the function of it; a misaligned one, and LR or SC misaligned, raise
address-misaligned; an undefined function is illegal. LR takes the value and a reservation; SC stores and answers
0 under its own reservation and else answers 1 and stores nothing; either ends the reservation; one on another
module traps with ADDR_REMOTE_LRSC.
(derived: 04_threads_and_address_space.md, 08_memory_hierarchy.md, 15_links_and_remote_writes.md, R133, R134, R135, R137, R149, R282, R508) -/
def Obligations.StoresAndAtomicsComplete : Prop :=
  ∀ (s : State) (t : Thread) (c1 c2 : Chip), issues t s.m c1 →
    (∀ rs1 rs2 imm size fp comp ecc ss v va, va = effAddr (hart s.m t.toNat) rs1.toNat imm →
      v = (if fp then tget 0 (hart s.m t.toNat).f rs2.toNat else readX (hart s.m t.toNat) rs2.toNat) →
      reach t.toNat .store va (2 ^ size.toNat) c1 = (c2, .here ss) →
      (inRegs ss = false → exec (.store t rs1 rs2 imm size fp comp ecc) s = .next { s with m :=
        (settleMem (modHart t.toNat (advance (if comp then 2 else 4)) (writeSegs (groveOf t.toNat) ss (leBytes (2 ^ size.toNat) v.toNat) false
          (ss.foldl (fun c x => eccStore (unalias (groveOf t.toNat) (x.pa % 2 ^ 44)) x.len ecc c) c2)))) }) ∧
      (inRegs ss = true → firstLocal t.toNat ss < shimBase → exec (.store t rs1 rs2 imm size fp comp ecc) s = .next { s with m :=
        (settle (modHart t.toNat (advance (if comp then 2 else 4)) (regStore (firstLocal t.toNat ss) (leBytes (2 ^ size.toNat) v.toNat) c2))) })) ∧
    (∀ rs1 rs2 imm size fp comp ecc tr, reach t.toNat .store (effAddr (hart s.m t.toNat) rs1.toNat imm) (2 ^ size.toNat) c1 = (c2, .trap tr) →
      exec (.store t rs1 rs2 imm size fp comp ecc) s = .next { s with m := memTrap t.toNat tr c2 }) ∧
    (∀ rs1 rs2 imm size fp comp ecc x r p v va, va = effAddr (hart s.m t.toNat) rs1.toNat imm →
      v = (if fp then tget 0 (hart s.m t.toNat).f rs2.toNat else readX (hart s.m t.toNat) rs2.toNat) →
      reach t.toNat .store va (2 ^ size.toNat) c1 = (c2, .far x) → freeReq c2.lnk.outReq 65536 0 = some r → threadPart c2 t.toNat = some p →
      exec (.store t rs1 rs2 imm size fp comp ecc) s = .next { s with m :=
        ((sendTo p 1 (x.pa / 2 ^ 44) (2 ^ size.toNat) x.pa (.store t.toNat va) (leBytes (2 ^ size.toNat) v.toNat) []
          (modHart t.toNat (advance (if comp then 2 else 4)) c2)).2) }) ∧
    (∀ rd rs1 rs2 (f5 : BitVec 5) dbl ecc ss c3 bs va n, amoDefined f5.toNat = true → n = 2 ^ (2 + b2n dbl) →
      va = (readX (hart c1 t.toNat) rs1.toNat).toNat → va % n = 0 → reach t.toNat .store va n c1 = (c2, .here ss) → inRegs ss = false →
      readHere t.toNat ss n ecc c2 = (c3, .ok bs) →
      exec (.amo t rd rs1 rs2 f5 dbl ecc) s = .next { s with m := (settle (modHart t.toNat (takeLoad rd.toNat (2 + b2n dbl) false false 4 bs)
        (writeSegs (groveOf t.toNat) ss (leBytes n (amoValue f5.toNat (8 * n) (leNat bs) (readX (hart c1 t.toNat) rs2.toNat).toNat)) false c3))) }) ∧
    (∀ rd rs1 rs2 (f5 : BitVec 5) dbl ecc, amoDefined f5.toNat = false →
      exec (.amo t rd rs1 rs2 f5 dbl ecc) s = .next { s with m :=
        (illegal t.toNat (amoBits f5.toNat rs2.toNat rs1.toNat rd.toNat dbl) c1) }) ∧
    (∀ rd rs1 rs2 sc dbl ecc, (readX (hart c1 t.toNat) rs1.toNat).toNat % 2 ^ (2 + b2n dbl) ≠ 0 →
      exec (.lrSc t rd rs1 rs2 sc dbl ecc) s = .next { s with m :=
        (misaligned t.toNat (if sc then .store else .load) (readX (hart c1 t.toNat) rs1.toNat).toNat c1) }) ∧
    (∀ rd rs1 rs2 dbl ecc ss c3 bs va n, n = 2 ^ (2 + b2n dbl) → va = (readX (hart c1 t.toNat) rs1.toNat).toNat → va % n = 0 →
      reach t.toNat .load va n c1 = (c2, .here ss) → readHere t.toNat ss n ecc c2 = (c3, .ok bs) →
      exec (.lrSc t rd rs1 rs2 false dbl ecc) s = .next { s with m := (settleMem (modHart t.toNat (fun h =>
        { takeLoad rd.toNat (2 + b2n dbl) false false 4 bs h with lr := some (firstLocal t.toNat ss, n) }) c3)) }) ∧
    (∀ rd rs1 rs2 dbl ecc ss va n a, n = 2 ^ (2 + b2n dbl) → va = (readX (hart c1 t.toNat) rs1.toNat).toNat → va % n = 0 →
      reach t.toNat .store va n c1 = (c2, .here ss) → a = firstLocal t.toNat ss →
      ((hart c1 t.toNat).lr = some (a, n) → exec (.lrSc t rd rs1 rs2 true dbl ecc) s = .next { s with m :=
        (settleMem (modHart t.toNat (fun h => { advance 4 (writeX rd.toNat 0 h) with lr := none })
          (writeSegs (groveOf t.toNat) ss (leBytes n (readX (hart c1 t.toNat) rs2.toNat).toNat) false (eccStore a n ecc c2)))) }) ∧
      ((hart c1 t.toNat).lr ≠ some (a, n) → exec (.lrSc t rd rs1 rs2 true dbl ecc) s = .next { s with m :=
        (modHart t.toNat (fun h => { advance 4 (writeX rd.toNat 1 h) with lr := none }) c2) }))

/-- A FENCE whose predecessor set holds no W, or of a thread with no open remote write, goes on; otherwise the thread
stalls until they end. SFENCE.VMA removes from the executing grove's TLB exactly the entries that rs1 and rs2
name, and is illegal where mstatus.TVM or U mode keeps it out. A CSR instruction on a CSR that its mode may write
takes the old value to rd and the new one to the CSR; satp takes Bare and Sv57 alone; a write of a read-only CSR
is illegal.
(derived: 04_threads_and_address_space.md, 05_grove_extension.md, R129, R130, R140, R150, R176) -/
def Obligations.FencesTranslationAndCsrsComplete : Prop :=
  ∀ (s : State) (t : Thread) (c1 : Chip), issues t s.m c1 →
    (∀ pred succ : BitVec 4, bitOf pred.toNat 0 = false ∨ openWrites c1 t.toNat = [] →
      exec (.fence t pred succ) s = .next { s with m := modHart t.toNat (advance 4) c1 }) ∧
    (∀ pred succ : BitVec 4, bitOf pred.toNat 0 = true → openWrites c1 t.toNat ≠ [] →
      exec (.fence t pred succ) s = .next { s with m := modHart t.toNat (fun h => { h with state := .stalled, wait := .fence }) c1 }) ∧
    (∀ rs1 rs2, keptOut (hart c1 t.toNat) = false →
      exec (.sfenceVma t rs1 rs2) s = .next { s with m := (modHart t.toNat (advance 4) (modGrove (groveOf t.toNat) (fun g =>
        { g with tlb := g.tlb.filter fun e => !fenceHits (hart c1 t.toNat) rs1.toNat rs2.toNat e }) c1)) }) ∧
    (∀ rs1 rs2, keptOut (hart c1 t.toNat) = true →
      exec (.sfenceVma t rs1 rs2) s = .next { s with m := illegal t.toNat (rType 9 rs2.toNat rs1.toNat 0 0 0x73) c1 }) ∧
    (∀ rd rs1, 1 ≤ (hart c1 t.toNat).priv → keptOut (hart c1 t.toNat) = false →
      exec (.satpWrite t rd rs1) s = .next { s with m := (modHart t.toNat (fun h =>
        advance 4 (writeX rd.toNat (BitVec.ofNat 64 (csrRead c1 t.toNat Csr.satp)) (satpWrite (readX (hart c1 t.toNat) rs1.toNat).toNat h))) c1) }) ∧
    (∀ (csr : BitVec 12) op rd src new, bitsOf csr.toNat 9 8 ≤ (hart c1 t.toNat).priv → csrWritable csr.toNat = true →
      (csr.toNat ≠ 0x180 ∨ keptOut (hart c1 t.toNat) = false) → counterOff (hart c1 t.toNat) csr.toNat = false →
      csrNew op (hart c1 t.toNat) src.toNat (csrRead c1 t.toNat csr.toNat) = some new →
      exec (.csrWrite t csr op rd src) s = .next { s with m := (modHart t.toNat (fun h =>
        advance 4 (writeX rd.toNat (BitVec.ofNat 64 (csrRead c1 t.toNat csr.toNat)) (csrPut csr.toNat new h))) c1) }) ∧
    (∀ (csr : BitVec 12) op rd src new, csrWritable csr.toNat = false →
      csrNew op (hart c1 t.toNat) src.toNat (csrRead c1 t.toNat csr.toNat) = some new →
      exec (.csrWrite t csr op rd src) s = .next { s with m :=
        (illegal t.toNat (iType csr.toNat src.toNat (csrFunct op) rd.toNat 0x73) c1) })

/-- TENSOR whose chain is read, well formed, without poison and translated, and whose cost the licence covers, takes
the lowest free tag that its quota admits, joins the grove's order and answers the tag's name; MOVE likewise with
its descriptors and cost; LREQ within its limits takes a tag and asks the Warden. Without a tag to take each
answers TAG_NONE and counts it. A licence that does not cover the cost traps with EXT_NO_LICENCE, counted.
(derived: 05_grove_extension.md, 04_threads_and_address_space.md, 18_power_and_thermal.md, R152, R172, R173, R179, R186, R189, R191, R593) -/
def Obligations.TagTakingInstructionsComplete : Prop :=
  ∀ (s : State) (t : Thread) (c1 : Chip), issues t s.m c1 →
    (∀ rd rs1 rs2 c2 c3 l ps segs mask cost, mask = (readX (hart c1 t.toNat) rs2.toNat).toNat → 0 < mask → mask < 256 →
      readPasses t.toNat 9 (readX (hart c1 t.toNat) rs1.toNat).toNat c1 = (c2, some (l, false)) → ps = l.map (fun e => (parseTD e.1, e.2)) →
      (ps.all fun p => fieldsOk p mask) = true → chainOk ps = true → checkOperands t.toNat ps c2 = (c3, .ok segs) →
      cost = opCost c3 (groveOf t.toNat) mask ps →
      (cost ≤ (hart c1 t.toNat).held - (hart c1 t.toNat).inUse → ∀ k name c4, takeable c3 t.toNat = some k →
        issueTag t.toNat k cost (.tensor ⟨chainDesc l, chainExt l, mask, segs⟩) c3 = (name, c4) →
        exec (.tensor t rd rs1 rs2) s = .next { s with m := (settleMem (modGrove (groveOf t.toNat) (fun g => { g with order := g.order ++ [name % 256] })
          (retire t.toNat rd.toNat (BitVec.ofNat 64 name) c4))) }) ∧
      (cost ≤ (hart c1 t.toNat).held - (hart c1 t.toNat).inUse → takeable c3 t.toNat = none →
        exec (.tensor t rd rs1 rs2) s = .next { s with m := settleMem (retire t.toNat rd.toNat noTagWord (bump 0x2000 7 0 1 c3)) }) ∧
      ((hart c1 t.toNat).held - (hart c1 t.toNat).inUse < cost → exec (.tensor t rd rs1 rs2) s = .next { s with m := (settleMem
        (extFault t.toNat (rType 0 rs2.toNat rs1.toNat 0 rd.toNat 0x0B) St.extNoLicence (bump 0x2000 9 0 1 c3))) })) ∧
    (∀ rd rs1 rs2 c2 c3 bs d r n cost, n = (readX (hart c1 t.toNat) rs2.toNat).toNat → 1 ≤ n → n ≤ 16 →
      ownBlock t.toNat (readX (hart c1 t.toNat) rs1.toNat).toNat 64 (64 * n) c1 = (c2, some (bs, false)) →
      (cut64 n bs).all mdOk = true → (cut64 n bs).map parseMD = d :: r → moveFirst t.toNat d c2 = (c3, none) →
      cost = (if 1048576 < chainBytes (d :: r) then 3 else 0) → cost ≤ (hart c1 t.toNat).held - (hart c1 t.toNat).inUse →
      (∀ k name c4, takeable c3 t.toNat = some k → issueTag t.toNat k cost (.mover { descs := d :: r }) c3 = (name, c4) →
        exec (.move t rd rs1 rs2) s = .next { s with m := settleMem (retire t.toNat rd.toNat (BitVec.ofNat 64 name) c4) }) ∧
      (takeable c3 t.toNat = none → exec (.move t rd rs1 rs2) s = .next { s with m :=
        (settleMem (retire t.toNat rd.toNat noTagWord (bump 0x2000 7 0 1 c3))) })) ∧
    (∀ rd rs1 v w, v = (readX (hart c1 t.toNat) rs1.toNat).toNat → w = v % 2048 → 0 < w → v < 65536 →
      bitOf v 14 = false → bitOf v 11 = false → (hart c1 t.toNat).held + w ≤ 2047 → (bitOf v 15 = false ∨ (hart c1 t.toNat).hard = true) →
      (∀ k name c2, takeable c1 t.toNat = some k → issueTag t.toNat k 0 (.licence ⟨w, bitOf v 15, bitsOf v 13 12⟩) c1 = (name, c2) →
        ∀ c3, c3 = retire t.toNat rd.toNat (BitVec.ofNat 64 name) c2 →
        exec (.lreq t rd rs1) s = .next { s with m := (askLicence {
          src := Src.grove (groveOf t.toNat), tag := some (name, (tagOf c3 name).serial),
          part := threadPart c3 t.toNat, watts := w, prio := bitsOf v 13 12, arrival := now c3, res := bitOf v 15 } c3) }) ∧
      (takeable c1 t.toNat = none → exec (.lreq t rd rs1) s = .next { s with m := retire t.toNat rd.toNat noTagWord (bump 0x2000 7 0 1 c1) }))

/-- LREL within what the thread holds unused gives it back, watts held outside the reservation first. TWAIT and TWAITR
of the thread's own DONE tag answer its completion word, TWAITR freeing it; of an ISSUED one they stall. TTEST
answers the completion word or the ISSUED word and changes nothing else; TREAP of a DONE tag answers and frees it,
and of an ISSUED one traps with EXT_TAG_BUSY. An instruction of the three opcode spaces that is not defined raises
an illegal-instruction exception with its bits.
(derived: 05_grove_extension.md, R167, R169, R174, R177, R178, R192) -/
def Obligations.LicenceTagAndUndefinedInstructionsComplete : Prop :=
  ∀ (s : State) (t : Thread) (c1 : Chip), issues t s.m c1 →
    (∀ rs1 v, v = (readX (hart c1 t.toNat) rs1.toNat).toNat → v < 2048 → v ≤ (hart c1 t.toNat).held - (hart c1 t.toNat).inUse →
      ∀ fromRes, fromRes = v - min v ((hart c1 t.toNat).held - (hart c1 t.toNat).resHeld) →
      exec (.lrel t rs1) s = .next { s with m := (returnRes (threadPart c1 t.toNat) fromRes
        (modHart t.toNat (fun h => { advance 4 h with held := (hart c1 t.toNat).held - v, resHeld := (hart c1 t.toNat).resHeld - fromRes }) c1)) }) ∧
    (∀ rd rs1 v, v = (readX (hart c1 t.toNat) rs1.toNat).toNat → tagCheck c1 t.toNat v = none →
      ((tagOf c1 v).state = .done →
        exec (.twait t rd rs1) s = .next { s with m := retire t.toNat rd.toNat (completionWord (tagOf c1 v)) c1 } ∧
        exec (.twaitr t rd rs1) s = .next { s with m := setTag v {} (retire t.toNat rd.toNat (completionWord (tagOf c1 v)) c1) } ∧
        exec (.ttest t rd rs1) s = .next { s with m := retire t.toNat rd.toNat (completionWord (tagOf c1 v)) c1 } ∧
        exec (.treap t rd rs1) s = .next { s with m := setTag v {} (retire t.toNat rd.toNat (completionWord (tagOf c1 v)) c1) }) ∧
      ((tagOf c1 v).state = .issued →
        exec (.twait t rd rs1) s = .next { s with m := modHart t.toNat (fun h => { h with state := .stalled, wait := .tag v rd.toNat false }) c1 } ∧
        exec (.twaitr t rd rs1) s = .next { s with m := modHart t.toNat (fun h => { h with state := .stalled, wait := .tag v rd.toNat true }) c1 } ∧
        exec (.ttest t rd rs1) s = .next { s with m := retire t.toNat rd.toNat issuedWord c1 } ∧
        exec (.treap t rd rs1) s = .next { s with m := extFault t.toNat (rType 3 0 rs1.toNat 0 rd.toNat 0x5B) St.extTagBusy c1 })) ∧
    (∀ insn : BitVec 32, extSpace insn.toNat = true → extDefined insn.toNat = false →
      exec (.extIllegal t insn) s = .next { s with m := takeTrap t.toNat ⟨2, insn.toNat, none, false⟩ c1 })

/-- On a queue of the thread's partition, with no packet rewound by a reset: QPUSH of a good header opens a packet, a
further word joins it, one word too many rewinds it with Q_PKT_OVERRUN; QCOMMIT of a whole packet commits it, and
stalls while a remote write of the thread is unacknowledged, of a short one rewinds it, of none answers Q_NO_OPEN;
QABORT rewinds; QPOP answers the word popped and keeps its tag; QCNT answers the counts. Each status is in rd. A
queue outside the partition traps with ADDR_PART_VIOLATION.
(derived: 05_grove_extension.md, 09_queue_engine.md, 04_threads_and_address_space.md, R148, R172, R197, R198, R199, R308, R311, R313, R320) -/
def Obligations.QueueInstructionsComplete : Prop :=
  ∀ (s : State) (t : Thread) (c1 : Chip) (rs1 : RegNo) (q : Nat), issues t s.m c1 → q = (readX (hart c1 t.toNat) rs1.toNat).toNat →
    (∀ st rd rs2, queueCheck c1 t.toNat q = some st → exec (.qpush t rd rs1 rs2) s = .next { s with m :=
      (extFault t.toNat (rType 0 rs2.toNat rs1.toNat 0 rd.toNat 0x2B) st c1) }) ∧
    (queueCheck c1 t.toNat q = none → wasRewound c1 t.toNat q = false →
      (∀ rd rs2 v, v = readX (hart c1 t.toNat) rs2.toNat → openOf c1 (.thread t.toNat) q = none →
        (headerCheck c1 (.thread t.toNat) q (v.toNat % 65536) = St.ok → exec (.qpush t rd rs1 rs2) s = .next { s with m :=
          (retire t.toNat rd.toNat (St.ok.zeroExtend 64) (openPkt (.thread t.toNat) q v false c1)) }) ∧
        (∀ st, headerCheck c1 (.thread t.toNat) q (v.toNat % 65536) = st → st ≠ St.ok → exec (.qpush t rd rs1 rs2) s = .next { s with m :=
          (retire t.toNat rd.toNat (st.zeroExtend 64) (countRefusal q st c1)) })) ∧
      (∀ rd rs2 v o, v = readX (hart c1 t.toNat) rs2.toNat → openOf c1 (.thread t.toNat) q = some o →
        (o.written < o.len → exec (.qpush t rd rs1 rs2) s = .next { s with m :=
          (retire t.toNat rd.toNat (St.ok.zeroExtend 64) (pushWord o v false c1)) }) ∧
        (o.len ≤ o.written → exec (.qpush t rd rs1 rs2) s = .next { s with m :=
          (retire t.toNat rd.toNat (St.qPktOverrun.zeroExtend 64) (rewind o c1)) })) ∧
      (∀ rd o, openOf c1 (.thread t.toNat) q = some o →
        (o.written = o.len → openWrites c1 t.toNat = [] → exec (.qcommit t rd rs1) s = .next { s with m := (weltPoppable
          (retire t.toNat rd.toNat (St.ok.zeroExtend 64) (weltCommit q (commitPkt o (hart c1 t.toNat).hard c1)))) }) ∧
        (o.written = o.len → openWrites c1 t.toNat ≠ [] → exec (.qcommit t rd rs1) s = .next { s with m :=
          (modHart t.toNat (fun h => { h with state := .stalled, wait := .commit rd.toNat q }) c1) }) ∧
        (o.written ≠ o.len → exec (.qcommit t rd rs1) s = .next { s with m := (weltPoppable
          (retire t.toNat rd.toNat (St.qPktShort.zeroExtend 64) (rewind o c1))) }) ∧
        exec (.qabort t rd rs1) s = .next { s with m := retire t.toNat rd.toNat (St.ok.zeroExtend 64) (rewind o c1) }) ∧
      (∀ rd, openOf c1 (.thread t.toNat) q = none →
        exec (.qcommit t rd rs1) s = .next { s with m := weltPoppable (retire t.toNat rd.toNat (St.qNoOpen.zeroExtend 64) c1) } ∧
        exec (.qabort t rd rs1) s = .next { s with m := retire t.toNat rd.toNat (St.qNoOpen.zeroExtend 64) c1 })) ∧
    (queueCheck c1 t.toNat q = none → ∀ rd par ecc v tag c2, popWord t.toNat q par ecc c1 = (v, tag, c2) →
      exec (.qpop t rd rs1 par ecc) s = .next { s with m :=
        (settleMem (retire t.toNat rd.toNat v (modHart t.toNat (fun h => { h with qtag := tag }) c2))) }) ∧
    (queueCheck c1 t.toNat q = none → ∀ rd, exec (.qcnt t rd rs1) s = .next { s with m := retire t.toNat rd.toNat (countWord (queue c1 q)) c1 })

/-- With clear reserved bits and a blaze index within the partition's allocation: BSET is posted with the thread's
open transfers and the thread goes on; BCLR of a set blaze clears it and answers 0, of a clear one answers
BZ_UNDERFLOW; BTEST answers the blaze; BWAIT and BWAITC of a set blaze answer 1, BWAITC clearing it, and of a
clear one sleep on it. Reserved bits trap with EXT_OPERAND; another module's blaze, but for BSET, with
EXT_REMOTE_FORM.
(derived: 05_grove_extension.md, 10_blazes.md, 04_threads_and_address_space.md, R147, R201, R202, R203, R204, R205, R339, R341) -/
def Obligations.BlazeInstructionsComplete : Prop :=
  ∀ (s : State) (t : Thread) (c1 : Chip) (rs1 : RegNo) (v : Nat), issues t s.m c1 → v = (readX (hart c1 t.toNat) rs1.toNat).toNat →
    (blazeReserved v = true → exec (.bset t rs1) s = .next { s with m :=
      (flushSets (extFault t.toNat (rType 0 0 rs1.toNat 5 0 0x2B) St.extOperand c1)) } ∧
      ∀ rd, exec (.btest t rd rs1) s = .next { s with m := extFault t.toNat (rType 2 0 rs1.toNat 5 rd.toNat 0x2B) St.extOperand c1 }) ∧
    (blazeReserved v = false → ∀ p, threadPart c1 t.toNat = some p →
      (blazeRemote c1 v ≠ none ∨ ((mapOf c1 p).state = 1 ∧ v % 512 < (mapOf c1 p).bzCount)) →
      exec (.bset t rs1) s = .next { s with m := (flushSets (modHart t.toNat (advance 4) { c1 with blz := { c1.blz with posted :=
        c1.blz.posted ++ [⟨t.toNat, v % 512, p, blazeRemote c1 v, openSerials c1 t.toNat, openWrites c1 t.toNat⟩] } })) }) ∧
    (blazeReserved v = false → blazeRemote c1 v ≠ none → ∀ rd, exec (.btest t rd rs1) s = .next { s with m :=
      (extFault t.toNat (rType 2 0 rs1.toNat 5 rd.toNat 0x2B) St.extRemoteForm c1) }) ∧
    (blazeReserved v = false → blazeRemote c1 v = none → ∀ p n rd, threadPart c1 t.toNat = some p → blazeAt c1 p (v % 512) = some n →
      exec (.btest t rd rs1) s = .next { s with m := retire t.toNat rd.toNat (if (blaze c1 n).set then 1 else 0) c1 } ∧
      ((blaze c1 n).set = true →
        exec (.bclr t rd rs1) s = .next { s with m := retire t.toNat rd.toNat 0 (clearBlaze n (threadId c1 t.toNat) c1) } ∧
        exec (.bwait t rd rs1) s = .next { s with m := retire t.toNat rd.toNat 1 c1 } ∧
        exec (.bwaitc t rd rs1) s = .next { s with m := retire t.toNat rd.toNat 1 (clearBlaze n (threadId c1 t.toNat) c1) }) ∧
      ((blaze c1 n).set = false →
        exec (.bclr t rd rs1) s = .next { s with m :=
          (retire t.toNat rd.toNat (St.bzUnderflow.zeroExtend 64) (underflow n (v % 512) p (threadId c1 t.toNat) c1)) } ∧
        exec (.bwait t rd rs1) s = .next { s with m :=
          (modHart t.toNat (fun h => { h with state := .sleepBlaze, wait := .blaze n rd.toNat false (now c1) }) c1) } ∧
        exec (.bwaitc t rd rs1) s = .next { s with m :=
          (modHart t.toNat (fun h => { h with state := .sleepBlaze, wait := .blaze n rd.toNat true (now c1) }) c1) }))

/-- SWAIT answers the count, marks the stitch finished and sleeps to the next boundary; SREAD.C answers the count,
SREAD.B the time of its boundary and SREAD.R the nanoseconds to the next, and none of the three changes anything
but rd and the pc; SMPLCTL answers the old control word and takes the new one where the reserved bits are clear
and the permit admits it, and traps with EXT_OPERAND or EXT_SAMPLE_DENIED otherwise.
(derived: 05_grove_extension.md, R206, R207, R208, R210) -/
def Obligations.StitchAndSamplingInstructionsComplete : Prop :=
  ∀ (s : State) (t : Thread) (c1 : Chip), issues t s.m c1 →
    (∀ rd, exec (.swait t rd) s = .next { s with m := (weltPoppable (noteHard (modHart t.toNat (fun h =>
      { h with state := .sleepStitch, wait := .stitch, finished := some (countNow c1) })
        (retire t.toNat rd.toNat (BitVec.ofNat 64 (countNow c1)) c1)))) }) ∧
    (∀ rd, exec (.sreadC t rd) s = .next { s with m := retire t.toNat rd.toNat (BitVec.ofNat 64 (countNow c1)) c1 }) ∧
    (∀ rd, exec (.sreadB t rd) s = .next { s with m := retire t.toNat rd.toNat (BitVec.ofNat 64 (boundaryOf c1.time c1.time.tsc)) c1 }) ∧
    (∀ rd, exec (.sreadR t rd) s = .next { s with m := (retire t.toNat rd.toNat
      (BitVec.ofNat 64 (boundaryOf c1.time c1.time.tsc + c1.time.periodUs * 1000 - c1.time.tsc)) c1) }) ∧
    (∀ rd rs1 v, v = (readX (hart c1 t.toNat) rs1.toNat).toNat → bitsOf v 63 32 = 0 → bitsOf v 15 2 = 0 →
      (v % 4 = 0 ∨ ∃ p, threadPart c1 t.toNat = some p ∧ bitOf (tget 0 c1.ctr.permit p) 2 = true) →
      exec (.smplctl t rd rs1) s = .next { s with m := (modHart t.toNat (fun h =>
        { h with smplEn := bitOf v 0, smplForce := bitOf v 1, smplMark := bitsOf v 31 16 })
          (retire t.toNat rd.toNat (smplWord (hart c1 t.toNat)) c1)) }) ∧
    (∀ rd rs1 v, v = (readX (hart c1 t.toNat) rs1.toNat).toNat → (bitsOf v 63 32 ≠ 0 ∨ bitsOf v 15 2 ≠ 0) →
      exec (.smplctl t rd rs1) s = .next { s with m := extFault t.toNat (rType 0 0 rs1.toNat 4 rd.toNat 0x5B) St.extOperand c1 }) ∧
    (∀ rd rs1 v p, v = (readX (hart c1 t.toNat) rs1.toNat).toNat → bitsOf v 63 32 = 0 → bitsOf v 15 2 = 0 → v % 4 ≠ 0 →
      threadPart c1 t.toNat = some p → bitOf (tget 0 c1.ctr.permit p) 2 = false →
      exec (.smplctl t rd rs1) s = .next { s with m := extFault t.toNat (rType 0 0 rs1.toNat 4 rd.toNat 0x5B) St.extSampleDenied c1 })

/-- Called from S mode by a thread of a partition: PART_INFO, RECOVERY_INFO and ROT_HINT answer their words;
THREAD_START of an EMPTY thread of the partition starts it in S mode at a1 with a0 = a2 (its other registers zero
are the model's choice, log 6) and of a loaded one is refused; THREAD_STOP unloads; THREAD_CLASS and TAG_QUOTA
take their value for the next boundary or at once; QUEUE_RESET of the partition's queue begins it; CKPT_COMMIT at
its own boundary writes the image and commits it; TLB_FLUSH removes the entries of the address space from every
TLB of the partition and waits, and TLB_FLUSH_DONE lets the call return; any extension but Base is not supported.
A thread that is not the partition's is refused.
(derived: 04_threads_and_address_space.md, R122, R124, R126, R127, R128, R129, R153, R329, R578, R583, R609) -/
def Obligations.ShimCallsAnswerTheirServices : Prop :=
  ∀ (s : State) (t : Thread) (c1 : Chip) (p : Nat), issues t s.m c1 → (hart c1 t.toNat).priv = 1 → threadPart c1 t.toNat = some p →
    exec (.partInfo t) s = .next { s with m := settle (sbiRet t.toNat 0 (partInfoWord c1 p) c1) } ∧
    exec (.recoveryInfo t) s = .next { s with m := settle (sbiRet t.toNat 0 (recoveryWord c1 p) c1) } ∧
    exec (.rotHint t) s = .next { s with m := settle (sbiRet t.toNat 0 (tget 0 c1.pwr.rotShift p) c1) } ∧
    (∀ x, x = argOf c1 t.toNat 10 → x < 16384 → threadPart c1 x = some p →
      ((hart c1 x).state = .empty → exec (.threadStart t) s = .next { s with m := (settle (sbiRet t.toNat 0 0
        (setHart x (writeX 10 (readX (hart c1 t.toNat) 12)
          { state := .ready, priv := 1, pc := readX (hart c1 t.toNat) 11, quota := obj c1 0x2000 3 }) c1))) }) ∧
      ((hart c1 x).state ≠ .empty → exec (.threadStart t) s = .next { s with m :=
        (settle (sbiRet t.toNat Sbi.alreadyStarted St.threadBusy.toNat c1)) }) ∧
      exec (.threadStop t) s = .next { s with m := settle (sbiRet t.toNat 0 0 (stopThread x c1)) } ∧
      (∀ v, v = argOf c1 t.toNat 11 → v ≤ 1 → (hart c1 x).state ≠ .empty → exec (.threadClass t) s = .next { s with m :=
        (settle (sbiRet t.toNat 0 0 (modHart x (fun h => { h with clsReq := v == 1 }) c1))) }) ∧
      (∀ v, v = argOf c1 t.toNat 11 → 1 ≤ v → v ≤ 256 → (hart c1 x).state ≠ .empty → exec (.tagQuota t) s = .next { s with m :=
        (settle (sbiRet t.toNat 0 0 (modHart x (fun h => { h with quota := v }) c1))) })) ∧
    (∀ x, x = argOf c1 t.toNat 10 → threadPart c1 x ≠ some p →
      exec (.threadStop t) s = .next { s with m := settle (sbiRet t.toNat Sbi.denied St.threadNotOwned.toNat c1) }) ∧
    (queueOwner c1 (argOf c1 t.toNat 10) = some p → exec (.queueReset t) s = .next { s with m :=
      (settle (sbiRet t.toNat 0 0 (startReset (argOf c1 t.toNat 10) c1))) }) ∧
    (queueOwner c1 (argOf c1 t.toNat 10) ≠ some p → exec (.queueReset t) s = .next { s with m :=
      (settle (sbiRet t.toNat Sbi.denied St.addrPartViolation.toNat c1)) }) ∧
    (∀ n a, n = argOf c1 t.toNat 10 → a = argOf c1 t.toNat 11 → (partFlt c1 p).ckptAt = some n → countNow c1 = c1.time.curCount →
      a % 128 = 0 → a / 2 ^ 44 = c1.moduleId → checkLocal c1 (some p) none false (a % 2 ^ 44) 128 = none →
      exec (.ckptCommit t) s = .next { s with m :=
        (settle (sbiRet t.toNat 0 0 (commitSave p n (memWrite (a % 2 ^ 44) (imageBytes c1 p) false c1)))) }) ∧
    exec (.tlbFlush t) s = .next { s with m := (settle (modHart t.toNat (fun h => { h with state := .stalled, wait := .flush })
      ((span (mapOf c1 p).firstGrove ((mapOf c1 p).grovesM1 + 1)).foldl (fun c g => modGrove g (fun v => { v with
        tlb := v.tlb.filter fun x => !(argOf c1 t.toNat 10 == 0xFFFFFFFF || x.asid == argOf c1 t.toNat 10) }) c) c1))) } ∧
    (argOf c1 t.toNat 17 ≠ 0x10 → exec (.sbiUnsupported t) s = .next { s with m := settle (sbiRet t.toNat Sbi.notSupported 0 c1) })

/-- A context that waits for nothing goes to its save area without licence or reservation and its thread is EMPTY; a
saved context is restored to an EMPTY thread of the same partition and its save area is free; a call waiting for a
TLB flush returns. A vector reduction with a legal vtype writes element 0 of vd with the tree's result combined
with element 0 of vs1, keeps vd's other bits and gathers the flags; with vl 0 it only goes on; with an illegal
vtype or a non-zero vstart it is illegal.
(derived: 04_threads_and_address_space.md, 05_grove_extension.md, R118, R124, R129, R195) -/
def Obligations.ContextsAndReductionsComplete : Prop :=
  ∀ (s : State) (t : Thread),
    (∀ p c1, threadPart s.m t.toNat = some p → mayUnload s.m t.toNat = true → c1 = releaseAll t.toNat (endSleep t.toNat s.m) →
      exec (.contextSave t) s = .next { s with m := (settle { setHart t.toNat {} c1 with saves := tset {} c1.saves t.toNat ⟨true, p,
        { hart c1 t.toNat with state := .ready, wait := .none, lr := none, resume := .ready, held := 0, inUse := 0, resHeld := 0 }⟩ }) }) ∧
    (∀ (src : Thread) a, tget {} s.m.saves src.toNat = a → a.valid = true → (hart s.m t.toNat).state = .empty →
      threadPart s.m t.toNat = some a.part →
      exec (.contextRestore src t) s = .next { s with m := { setHart t.toNat a.ctx s.m with saves := tset {} s.m.saves src.toNat {} } }) ∧
    ((hart s.m t.toNat).wait = .flush → exec (.tlbFlushDone t) s = .next { s with m :=
      (setHart t.toNat (unstall (answerHart 0 0 (hart s.m t.toNat))) s.m) }) ∧
    (∀ c1 h vt sew w, issues t s.m c1 → h = hart c1 t.toNat → vt = (readCsr h 0xC21).toNat → sew = 8 * 2 ^ bitsOf vt 5 3 →
      (∀ vd vs2 vs1 op masked, w = (if redWide op then 2 * sew else sew) → bitOf vt 63 = true →
        exec (.vectorReduction t vd vs2 vs1 op masked) s = .next { s with m :=
          (illegal t.toNat (redBits op vd.toNat vs2.toNat vs1.toNat masked) c1) }) ∧
      (∀ vd vs2 vs1, w = sew → bitOf vt 63 = false → w ≤ 64 → bitsOf vt 2 0 = 0 → readCsr h 8 = 0 → 0 < (readCsr h 0xC20).toNat →
        ∀ vl es, vl = min (readCsr h 0xC20).toNat (8 * 64 / sew) → es = (span 0 vl).map (fun i => some (vElem h vs2.toNat sew i)) →
        ∀ x, treeReduce (redStep .sum w (fcsr h / 32 % 8)) 10 es 0 = (some x, 0) →
        exec (.vectorReduction t vd vs2 vs1 .sum false) s = .next { s with m := (modHart t.toNat (fun h =>
          advance 4 { h with v := tset 0 h.v vd.toNat (BitVec.ofNat 512
            ((tget 0 h.v vd.toNat).toNat / 2 ^ w * 2 ^ w + (vElem (hart c1 t.toNat) vs1.toNat w 0 + x) % 2 ^ w)) }) c1) }))

/-- The end of a tile whose residue check passed changes nothing of the operation; a failed check counts, is recorded
and marks the tile for repeating; a second failure of one tile retires its array. The oldest operation on its
arrays reads its operands, computes its passes, writes its results, counts them and completes its tag with its
status and its value-loss count. A sampling operation that its sampler serves counts its boxes. A mover chunk is
written once its checks pass, and one refused ends the chain with its status. The Warden takes the requests of its
cycle. A posted blaze set that is ready is performed under its thread's identity if its number is still the
partition's and refused with a record otherwise.
(derived: 05_grove_extension.md, 06_arrays_and_formats.md, 08_memory_hierarchy.md, 10_blazes.md, R185, R188, R207, R208, R214, R297, R357, R380) -/
def Obligations.OperationCompletionsTakeEffect : Prop :=
  ∀ s : State,
    (∀ (name : BitVec 16) tile arr, exec (.tensorTileEnd name tile arr none) s = .next { s with m := settle s.m }) ∧
    (∀ (name : BitVec 16) tile (arr : BitVec 3) (col : BitVec 5) tg o g gr c1, tensorOf s.m name.toNat = some (tg, o) →
      isSampler o = false → tensorRuns s.m name.toNat = true → g = name.toNat / 256 → gr = grove s.m g →
      bitOf gr.retiredArrays arr.toNat = false →
      c1 = bump 0x2100 7 0 1 (setGrove g { gr with residueCount := satAdd 32 gr.residueCount 1 } s.m) →
      (gr.repeated.contains (tg.serial, tile) = false → exec (.tensorTileEnd name tile arr (some col)) s = .next { s with m :=
        (settle (emit (Src.grove g) St.arithResidueRetry none [arr.toNat, col.toNat]
          (modGrove g (fun v => { v with repeated := v.repeated ++ [(tg.serial, tile)] }) c1))) }) ∧
      (gr.repeated.contains (tg.serial, tile) = true → exec (.tensorTileEnd name tile arr (some col)) s = .next { s with m :=
        (settle (retireArray g arr.toNat col.toNat c1)) })) ∧
    (∀ (name : BitVec 16) ecc tg o g c1 c2 st n c3, tensorOf s.m name.toNat = some (tg, o) → isSampler o = false →
      tensorRuns s.m name.toNat = true → g = name.toNat / 256 →
      c1 = o.segs.foldl (fun c x => applyEcc (unalias g (x.pa % 2 ^ 44)) x.len ecc c) s.m →
      runPasses g o.segs (opPasses o) c1 = (st, n, c2) → st = St.ok → (opPasses o).length < 2 →
      c3 = (opPasses o).foldl (fun c p => countPass p c) c2 →
      exec (.tensorComplete name ecc) s = .next { s with m := (settle (arithDone g tg.serial n
        (finishTag name.toNat (if n.pois then St.poisonConsumed else St.ok) n.drops c3))) }) ∧
    (∀ (name : BitVec 16) tg o g c1 st n boxes bad busy c2 c3, tensorOf s.m name.toNat = some (tg, o) →
      samplerServes s.m name.toNat = true → g = name.toNat / 256 → runPasses g o.segs (opPasses o) s.m = (st, n, c1) →
      boxes = (opPasses o).foldl (fun a p => a + p.1.m) 0 →
      bad = (opPasses o).foldl (fun a p => a + (span 0 p.1.m).countP (Rd.boxBad ⟨s.m, g, o.segs⟩ (parseSm p.2))) 0 →
      c2 = bump 0x2500 10 0 bad (bump 0x2500 9 0 boxes (bump 0x2500 8 0 1 (bump 0x5540 4 (servedBy s.m (g / 32)) 1 c1))) →
      drawFree c2 = (busy, c3) →
      exec (.samplingComplete name false false) s = .next { s with m := (settle (arithDone g tg.serial n (finishTag name.toNat
        (if n.pois then St.poisonConsumed else if bad ≠ 0 then St.visBoxNonfinite else St.ok) n.drops
        (bump 0x5540 5 (servedBy s.m (g / 32)) busy.toNat c3)))) }) ∧
    (∀ (name : BitVec 16) ecc tg o d r dva n c1 dpa bs, chainOf s.m name.toNat = some (tg, o) → o.paused = false → o.waitReq = none →
      o.descs = d :: r → d.kind = 1 → chunkAt d o.row o.col = (dva, n) → xlate tg.owner .store dva s.m = (c1, .ok dpa) →
      dpa / 2 ^ 44 = c1.moduleId → bs = (span dva n).map (fun v => BitVec.ofNat 8 (d.src / 2 ^ (8 * (v % 8)))) →
      (checkLocal c1 (threadPart c1 tg.owner) (some (name.toNat / 256)) ((hart s.m tg.owner).priv == 3) (dpa % 2 ^ 44) n = none →
        exec (.moverChunk name ecc) s = .next { s with m := (settle (chunkWrite2 name.toNat dpa ecc
          (setChain name.toNat { o with got := bs, gotPois := List.replicate n false } c1))) }) ∧
      (∀ st, checkLocal c1 (threadPart c1 tg.owner) (some (name.toNat / 256)) ((hart s.m tg.owner).priv == 3) (dpa % 2 ^ 44) n = some st →
        exec (.moverChunk name ecc) s = .next { s with m := settle (endChain name.toNat tg.serial st (countViolation st c1)) })) ∧
    (∀ c1, c1 = { s.m with pwr := { s.m.pwr with waits := s.m.pwr.waits.filter fun w => !w.fresh } } →
      exec .licenceGrant s = .next { s with m :=
        (settle (keepWarm (licGrants 4 ((s.m.pwr.waits.filter (·.fresh)).foldl (fun c w => licArrive w c) c1)))) }) ∧
    (∀ k x c1, s.m.blz.posted[k]? = some x → x.remote = none → setReady s.m x = true →
      c1 = { s.m with blz := { s.m.blz with posted := s.m.blz.posted.erase x } } →
      (∀ n, blazeAt c1 x.part x.index = some n → (mapOf c1 x.part).state = 1 → x.index < (mapOf c1 x.part).bzCount →
        exec (.blazeSetPerformed k) s = .next { s with m := settle (setBlaze n (threadId c1 x.thread) c1) }) ∧
      (blazeAt c1 x.part x.index = none → exec (.blazeSetPerformed k) s = .next { s with m :=
        (settle (refuseSet (some x.part) x.index (threadId c1 x.thread) St.addrPartViolation c1)) }))

/-- SRAM_PATROL checks one word of a powered SRAM tier. A DRAM patrol line is checked and the channel's next address
kept; the pass takes its licence at its first line of a region. A period not finished is recorded with the lines
unread. The understory scrub clears the next region and its last one is recorded; the oldest released range is
cleared, recorded and freed. An engine's packet whose header fails the checks is counted refused; a whole good one
is committed and a bad one rewound. A queue reset ends by emptying the queue, recording the cells discarded; a
dump ends by recording its reason and time.
(derived: 09_queue_engine.md, 08_memory_hierarchy.md, R281, R284, R285, R286, R293, R294, R310, R315, R329, R357) -/
def Obligations.MemoryAndQueueEventsTakeEffect : Prop :=
  ∀ s : State,
    (∀ (a : BitVec 44) ecc, s.m.life.powered = true → (tierOf a.toNat = .base ∨ tierOf a.toNat = .stand ∨ tierOf a.toNat = .grove) →
      exec (.sramPatrol a ecc) s = .next { s with m := settleMem (applyEcc (a.toNat / 8 * 8) 8 ecc s.m) }) ∧
    (∀ (a : BitVec 44) ecc c1, s.m.life.powered = true → isDram a.toNat = true →
      c1 = (if hasGrant s.m 2 (a.toNat / 2 ^ 30) then s.m else { s.m with pwr := { s.m.pwr with
        engine := s.m.pwr.engine ++ [⟨2, a.toNat / 2 ^ 30, none, if tierOf a.toNat == .us then 3 else 8⟩] } }) →
      a.toNat % 2 ^ 30 / 64 ≠ 2 ^ 24 - 1 →
      exec (.dramPatrolLine a ecc) s = .next { s with m :=
        (settleMem (setObj 0x5480 6 (memchOf a.toNat) (patrolNext a.toNat) (applyEcc (a.toNat / 64 * 64) 64 ecc c1))) }) ∧
    (∀ us (ctrl : BitVec 8) unread, s.m.life.powered = true → exec (.memPatrolLag us ctrl unread) s = .next { s with m :=
      (emit (if us then Src.us ctrl.toNat else Src.hbm ctrl.toNat) St.memPatrolLag none
        [b2n us, obj s.m 0x2200 (if us then 6 else 5), unread] s.m) }) ∧
    (∀ k c1 c2, (span 0 512).find? (fun i => !bitOf s.m.mem.usScrub i) = some k → s.m.mem.usReady ≠ 0 →
      c1 = memClear (usBase + k * 2 ^ 30) (2 ^ 30) s.m →
      c2 = { c1 with mem := { c1.mem with usScrub := bitPut c1.mem.usScrub k true } } →
      exec .usScrubRegionDone s = .next { s with m :=
        (if k = 511 then emit Src.clear St.memScrubDone none [2 ^ 39, c2.mem.usBegan] c2 else c2) }) ∧
    (∀ r rest, s.m.mem.clears = r :: rest → exec .memClearDone s = .next { s with m :=
      (emit Src.clear St.memClearDone none [r.tier, r.first, r.len]
        (memClear r.first r.len { s.m with mem := { s.m.mem with clears := rest } })) }) ∧
    (∀ src (q : QNum) hdr hp rest bad, 
      (headerCheck s.m (.engine src) q.toNat (hdr.toNat % 65536) ≠ St.ok → ∀ c1,
        c1 = countRefusal q.toNat (headerCheck s.m (.engine src) q.toNat (hdr.toNat % 65536)) s.m →
        (queue c1 q.toNat).commits = (queue s.m q.toNat).commits →
        exec (.enginePacket src q ((hdr, hp) :: rest) bad) s = .next { s with m := settle c1 }) ∧
      (headerCheck s.m (.engine src) q.toNat (hdr.toNat % 65536) = St.ok → ∀ c1 o,
        c1 = rest.foldl (fun c w => match openOf c (.engine src) q.toNat with
          | some o => if o.written < o.len then pushWord o w.1 w.2 c else c
          | none => c) (openPkt (.engine src) q.toNat hdr hp s.m) →
        openOf c1 (.engine src) q.toNat = some o →
        (bad = false → o.len ≤ o.written → (queue (commitPkt o false c1) q.toNat).commits ≠ (queue s.m q.toNat).commits →
          exec (.enginePacket src q ((hdr, hp) :: rest) bad) s = .next { s with m :=
            (settle (weltCommit q.toNat (commitPkt o false c1))) }) ∧
        ((bad = true ∨ o.written < o.len) → (queue (rewind o c1) q.toNat).commits = (queue s.m q.toNat).commits →
          exec (.enginePacket src q ((hdr, hp) :: rest) bad) s = .next { s with m := settle (rewind o c1) }))) ∧
    (∀ q : QNum, (queue s.m q.toNat).state = 2 → exec (.qResetDone q) s = .next { s with m :=
      (emit Src.queue St.qResetDone (queueOwner s.m q.toNat) [q.toNat, (queue s.m q.toNat).discarded]
        (setQueue q.toNat { queue s.m q.toNat with depth := 0, held := 0, discarded := 0,
                                                   state := if (queue s.m q.toNat).enable then 1 else 0 } s.m)) }) ∧
    (s.m.blz.dumpState = 1 → exec .bzDumpDone s = .next { s with m :=
      (emit Src.blaze St.bzDumpDone none [s.m.blz.dumpReason, s.m.blz.dumpTime] { s.m with blz := { s.m.blz with dumpState := 2 } }) })

/-- With no response blocked, the command packet at the head of the partition's request queue is popped and, its
checks passed: OPEN fills a free slot with its shape; APPEND pins and fills the owned pages the tokens reach, adds
the tokens, begins the spills it planned and waits for its frames; MAP pins and names the owned pages of its range
and waits until they are in HBM; UNPIN takes one pin of each; PREFETCH answers at once; SPILL moves unpinned pages
until no frame is left and waits for the moves; CLOSE frees a slot without pins; BUCKET sorts its slots by bucket.
A slot that is not the partition's is answered KV_SLOT_STATE.
(derived: 12_attention_and_kv_pages.md, R411, R412, R413, R414, R415, R416, R417, R418, R427) -/
def Obligations.PagerCommandsComplete : Prop :=
  ∀ (s : State) (p : Part) q ws c1 tag w1 slot, q = obj s.m 0x5580 6 p.toNat → (tget [] s.m.kv.blocked p.toNat).isEmpty = true →
    headPacket s.m q = some ws → c1 = dropHead q s.m → tag = bitsOf (nth 0 ws 0).toNat 55 40 → w1 = (nth 0 ws 1).toNat → slot = w1 % 65536 →
    (bitsOf (nth 0 ws 0).toNat 63 56 = 1 → kvFits 1 ws = true →
      (∀ h d f bytes t, h = bitsOf w1 20 16 → d = bitsOf w1 23 21 → f = bitsOf w1 26 24 → bytes = 2 * h * ((d + 1) * 32) * kvElem f →
        t = 65536 / bytes → kvsOwner c1 slot = some p.toNat → (kvSlot c1 slot).state = 0 → bitsOf w1 30 29 = 0 →
        (1 ≤ h && h ≤ 16 && 3 ≤ f && f ≤ 6 && 65536 % bytes == 0 && 8 ≤ t && t ≤ 256 && 2 ^ Nat.log2 t == t) = true →
        exec (.kvpOpen p none) s = .next { s with m := (settle (kvDone p.toNat 1 tag slot 0 St.ok [] (setSlot slot
          { state := 1, part := p.toNat, heads := h, dim := d, fmt := f, tlog := Nat.log2 t - 3, prio := bitsOf w1 28 27,
            spread := 0, parts := bitsOf w1 42 31, spart := bitsOf w1 54 43, span := bitsOf (nth 0 ws 2).toNat 18 0 } c1))) }) ∧
      (kvsOwner c1 slot ≠ some p.toNat → exec (.kvpOpen p none) s = .next { s with m :=
        (settle (kvDone p.toNat 1 tag slot 0 St.kvSlotState [] c1)) })) ∧
    (∀ n v t lo hi own c2 c3 sp clk, bitsOf (nth 0 ws 0).toNat 63 56 = 2 → kvFits 2 ws = true → slotReady c1 p.toNat slot = true →
      n = bitsOf w1 47 16 → v = kvSlot c1 slot → t = pageTokens v → v.tokens + n ≤ 2097152 → lo = v.tokens / t →
      hi = (if n = 0 then lo else (v.tokens + n + t - 1) / t) →
      own = ((span lo (hi - lo)).filter (ownsPage v)).map (fun g => (g, ownIdx v g)) → own.length ≤ 32 →
      (own.any fun g => 15 ≤ (kvPage c1 slot g.2).pins) = false →
      planFrames c1 p.toNat ((own.filter fun g => v.pages.all fun e => e.1 != g.2).length +
        (own.filter fun g => (kvPage c1 slot g.2).us || (kvPage c1 slot g.2).move == 1).length) = some sp →
      clk = c1.kv.clock + 1 →
      c2 = own.foldl (fun c g => modPage slot g.2 (fun x => { x with
        pins := x.pins + 1, named := clk, fill := min t (v.tokens + n - g.1 * t) }) c) { c1 with kv := { c1.kv with clock := clk } } →
      c3 = startSpills p.toNat sp (setSlot slot { kvSlot c2 slot with
        tokens := v.tokens + n, state := 1, lastUse := stitchNo (countNow c2) } c2) →
      exec (.kvpAppend p none) s = .next { s with m := (settle (kvWaitFor
        ⟨p.toNat, 2, tag, slot, 0, [], own.map (fun g => (slot, g.2)), own.map (fun g => (slot, g.2)), St.ok⟩ c3)) }) ∧
    (∀ l c2 sp clk, bitsOf (nth 0 ws 0).toNat 63 56 = 3 → kvFits 3 ws = true → slotReady c1 p.toNat slot = true →
      rangePages (kvSlot c1 slot) w1 = some l → (l.any fun i => 15 ≤ (kvPage c1 slot i).pins) = false → clk = c1.kv.clock + 1 →
      c2 = l.foldl (fun c i => modPage slot i (fun x => { x with pins := x.pins + 1, named := clk }) c)
        { c1 with kv := { c1.kv with clock := clk } } →
      planFrames c2 p.toNat (l.filter fun i => (kvPage c1 slot i).us && (kvPage c1 slot i).move != 2 || (kvPage c1 slot i).move == 1).length
        = some sp →
      exec (.kvpMap p none) s = .next { s with m := (settle (kvWaitFor
        ⟨p.toNat, 3, tag, slot, 0, [], l.map (fun i => (slot, i)), l.map (fun i => (slot, i)), St.ok⟩
        (startSpills p.toNat sp (setSlot slot { kvSlot c2 slot with lastUse := stitchNo (countNow c1) } c2)))) }) ∧
    (∀ l, bitsOf (nth 0 ws 0).toNat 63 56 = 4 → kvFits 4 ws = true → slotReady c1 p.toNat slot = true →
      rangePages (kvSlot c1 slot) w1 = some l → (l.any fun i => (kvPage c1 slot i).pins = 0) = false →
      exec (.kvpUnpin p none) s = .next { s with m := (settle (kvDone p.toNat 4 tag slot 0 St.ok []
        (l.foldl (fun c i => modPage slot i (fun x => { x with pins := x.pins - 1 }) c) c1))) }) ∧
    (∀ l, bitsOf (nth 0 ws 0).toNat 63 56 = 5 → kvFits 5 ws = true → slotReady c1 p.toNat slot = true →
      rangePages (kvSlot c1 slot) w1 = some l →
      exec (.kvpPrefetch p none) s = .next { s with m := (settle (kvDone p.toNat 5 tag slot 0 St.ok []
        (l.foldl (fun c i => if (kvPage c slot i).us && (kvPage c slot i).move = 0 &&
            framesOwed c p.toNat + movesOwed c p.toNat < (hbmFree c p.toNat).length
          then (startBack p.toNat (slot, i) c).2 else c) c1))) }) ∧
    (∀ l, bitsOf (nth 0 ws 0).toNat 63 56 = 6 → kvFits 6 ws = true → slotReady c1 p.toNat slot = true →
      rangePages (kvSlot c1 slot) w1 = some l →
      (l.filter fun i => !(kvPage c1 slot i).us && (kvPage c1 slot i).pins == 0 && (kvPage c1 slot i).move == 0 &&
        (kvPage c1 slot i).frame.isSome) = [] →
      exec (.kvpSpill p none) s = .next { s with m := settle (kvWaitFor ⟨p.toNat, 6, tag, slot, 0, [], [], [], St.ok⟩ c1) }) ∧
    (bitsOf (nth 0 ws 0).toNat 63 56 = 7 → kvFits 7 ws = true → slotReady c1 p.toNat slot = true →
      ((kvSlot c1 slot).pages.any fun g => g.2.pins != 0) = false →
      exec (.kvpClose p none) s = .next { s with m := settle (kvDone p.toNat 7 tag slot 0 St.ok [] (closeSlot slot c1)) }) ∧
    (∀ l, bitsOf (nth 0 ws 0).toNat 63 56 = 8 → kvFits 8 ws = true →
      l = (((ws.drop 1).map fun w => (span 0 4).map fun i => w.toNat / 2 ^ (16 * i) % 65536).flatten).filter (· != 65535) →
      (l.any fun x => !slotReady c1 p.toNat x) = false →
      exec (.kvpBucket p none) s = .next { s with m := (settle (kvDone p.toNat 8 tag (((ws.drop 1).head?.map (·.toNat % 65536)).getD 0) 0 St.ok
        ((sortBy (fun e => e.2.1 * 65536 + e.1) (l.map fun x => (x, bucketOf c1 p.toNat (kvSlot c1 x).tokens, (kvSlot c1 x).tokens))).map
          fun e => BitVec.ofNat 64 (e.1 + e.2.1 * 65536 + e.2.2 * 2 ^ 32)) c1)) })

/-- With no response blocked, no insert waiting and no RECLAIM running, the command at the head of the partition's
request queue is popped and, its checks passed: SEQ_OPEN fills a CLOSED record and counts it on its account;
SEQ_CLOSE of an OPEN or WAITING sequence clears it; PFX_LOOKUP walks the index, counts matches and false matches,
and with no match leaves the reference; PFX_INSERT of a block present answers its entry; PFX_REMOVE of a free
entry evicts it; ADMIT of entries none of which is admitted answers their statuses; STEP_DONE whose output queue
takes the packet charges each entry, closes the batch and sets its blaze. Otherwise the packet's refusal is the
status.
(derived: 13_serving.md, R431, R432, R433, R434, R438, R440, R441, R443, R445, R447, R449) -/
def Obligations.ServingCommandsComplete : Prop :=
  ∀ (s : State) (p : Part) q ws k rest c1 tag w1 w2 w3, q = obj s.m 0x55C0 2 p.toNat →
    (tget [] s.m.srv.blocked p.toNat).isEmpty = true → tget none s.m.srv.inserts p.toNat = none → reclaiming s.m = false →
    headPacket s.m q = some ws → (queue s.m q).pkts = k :: rest → c1 = dropHead q s.m → tag = bitsOf (nth 0 ws 0).toNat 55 40 →
    w1 = (nth 0 ws 1).toNat → w2 = (nth 0 ws 2).toNat → w3 = (nth 0 ws 3).toNat →
    (∀ a, a = bitsOf w1 31 16 → bitsOf (nth 0 ws 0).toNat 63 56 = 1 → srvFits 1 ws = true →
      seqOwner c1 (w1 % 65536) = some p.toNat → acctOwner c1 a = some p.toNat → (seqRec c1 (w1 % 65536)).state = 0 →
      (acct c1 a).valid = true → (acct c1 a).seqs < (acct c1 a).quota →
      exec (.seqOpen p) s = .next { s with m := (settle (srvDone p.toNat 1 tag St.ok 0 [] (setAcct a { acct c1 a with seqs := (acct c1 a).seqs + 1 }
        (setSeq (w1 % 65536) { state := 1, prio := bitsOf w1 33 32, part := p.toNat, account := a } c1)))) }) ∧
    (bitsOf (nth 0 ws 0).toNat 63 56 = 2 → srvFits 2 ws = true → seqOwner c1 (w1 % 65536) = some p.toNat →
      ((seqRec c1 (w1 % 65536)).state = 1 ∨ (seqRec c1 (w1 % 65536)).state = 3) →
      exec (.seqClose p none) s = .next { s with m := settle (srvDone p.toNat 2 tag St.ok 0 [] (closeSeq (w1 % 65536) c1)) }) ∧
    (∀ key f b tlog, bitsOf (nth 0 ws 0).toNat 63 56 = 3 → srvFits 3 ws = true → seqOwner c1 (w1 % 65536) = some p.toNat →
      parentOk c1 p.toNat w3 = true → (seqRec c1 (w1 % 65536)).state = 1 → (tget {} c1.keys p.toNat).pfxKey = some key →
      tlog = bitsOf w1 34 32 → b = bitsOf w1 45 35 → checkLocal c1 (some p.toNat) none false w2 (b * 4 * 2 ^ (tlog + 3)) = none →
      pfxWalk c1 p.toNat key (bitsOf w1 31 16) tlog w2 b (parentOf w3) = ([], f) →
      exec (.pfxLookup p) s = .next { s with m :=
        (settle (srvDone p.toNat 3 tag St.ok (w1 % 65536) [] (bump 0x2700 12 0 0 (bump 0x2700 13 0 f c1)))) }) ∧
    (∀ key e f toks h tlog, bitsOf (nth 0 ws 0).toNat 63 56 = 4 → srvFits 4 ws = true → kvsOwner c1 (w1 % 65536) = some p.toNat →
      parentOk c1 p.toNat w3 = true → (tget {} c1.keys p.toNat).pfxKey = some key → tlog = bitsOf w1 34 32 →
      checkLocal c1 (some p.toNat) none false w2 (4 * 2 ^ (tlog + 3)) = none → toks = memRead c1 w2 (4 * 2 ^ (tlog + 3)) →
      h = blockHash key (bitsOf w1 31 16) tlog ((((parentOf w3).bind (pfxEnt c1)).map (·.hash.toNat)).getD 0) toks →
      pfxFind c1 p.toNat (bitsOf w1 31 16) tlog (parentOf w3) h toks = (some e, f) →
      exec (.pfxInsert p) s = .next { s with m := settle (srvDone p.toNat 4 tag St.srvPfxExists e [] (bump 0x2700 13 0 f c1)) }) ∧
    (∀ x, bitsOf (nth 0 ws 0).toNat 63 56 = 5 → srvFits 5 ws = true → pfxEnt c1 (w1 % 2 ^ 19) = some x → x.part = p.toNat →
      (x.refs = 0 → x.kids = 0 → exec (.pfxRemove p) s = .next { s with m :=
        (settle (srvDone p.toNat 5 tag St.ok 0 [] (evictPfx (w1 % 2 ^ 19) c1))) }) ∧
      (x.refs ≠ 0 → exec (.pfxRemove p) s = .next { s with m := settle (srvDone p.toNat 5 tag St.srvPfxBusy 0 [] c1) })) ∧
    (∀ ns h l c2 c3, bitsOf (nth 0 ws 0).toNat 63 56 = 6 → srvFits 6 ws = true → ns = (ws.drop 2).map (·.toNat) →
      queueOwner c1 (bitsOf w1 35 16) = some p.toNat → bitsOf w1 44 36 = 0x1FF →
      ((ns.map (· % 65536)).any fun x => seqOwner c1 x ≠ some p.toNat) = false →
      (ns.any fun w => bitsOf w 45 32 = 0 || (if w / 65536 % 2 = 1 then 8192 < bitsOf w 45 32 else 16 < bitsOf w 45 32)) = false →
      ((ns.map (· % 65536)).zipIdx.any fun x => ((ns.map (· % 65536)).take x.2).contains x.1) = false →
      choose ((span 0 4096).filter fun i => (tget none c1.srv.batches i).isNone) c1 = (some h, c2) →
      admitAll h ns c2 = (l, c3) →
      ((((l.filter fun e => e.2 = St.ok).map (·.1)).isEmpty = true →
        exec (.admitReq p) s = .next { s with m := (settle (srvDone p.toNat 6 tag St.ok 0xFFFF
          (l.map fun e => BitVec.ofNat 64 (e.1 + e.2.toNat * 65536)) c3)) }) ∧
       (∀ nb : Batch, nb = ⟨p.toNat, bitsOf w1 35 16, 0x1FF, (l.filter fun e => e.2 = St.ok).map (·.1), countNow c3⟩ →
        ((l.filter fun e => e.2 = St.ok).map (·.1)).isEmpty = false →
        exec (.admitReq p) s = .next { s with m := (settle (srvDone p.toNat 6 tag St.ok
          (h + ((l.filter fun e => e.2 = St.ok).map (·.1)).length * 65536) (l.map fun e => BitVec.ofNat 64 (e.1 + e.2.toNat * 65536))
          { c3 with srv := { c3.srv with batches := tset none c3.srv.batches h (some nb) } })) }))) ∧
    (∀ es b c2 c3, bitsOf (nth 0 ws 0).toNat 63 56 = 7 → srvFits 7 ws = true → stepEntries (bitsOf w1 31 16) (ws.drop 2) = some es →
      tget none c1.srv.batches (w1 % 65536) = some b → b.part = p.toNat → b.seqs = es.map (·.seq) → b.blaze = 0x1FF →
      (es.any fun e => !(e.status == St.ok || e.status == St.kvStalled || e.status == St.srvAbandoned) ||
        (e.status != St.ok && (e.consumed != 0 || e.emitted != 0)) || ((seqRec c1 e.seq).kind == 0 && e.emitted != e.consumed) ||
        ((seqRec c1 e.seq).kind == 1 && 1 < e.emitted)) = false →
      (es.any fun e => (seqRec c1 e.seq).admitTok < e.consumed) = false →
      putPacket k.hard Src.serving b.q ((batchPacket c1 (w1 % 65536) b es).map fun w => (w, false)) false c1 = (St.ok, c2) →
      c3 = es.foldl (fun c e => chargeEntry e c) (bump 0x2700 11 0 (es.foldl (fun n e => n + e.emitted) 0) (bump 0x2700 10 0 1 c2)) →
      exec (.stepDone p) s = .next { s with m := (settle (srvDone p.toNat 7 tag St.ok 0 []
        { c3 with srv := { c3.srv with batches := tset none c3.srv.batches (w1 % 65536) none } })) })

/-- A page move that ends copies the page with its poison to the frame taken, frees the frame behind it, counts the
move and lets the waiting commands go on. The kept responses of a partition are pushed again in order by both
engines. A PREFETCH, SPILL or CLOSE on the hook's port while KV_PRESSURE runs is performed without a response, and
denied for a slot of another partition; a SEQ_CLOSE of RECLAIM likewise.
(derived: 12_attention_and_kv_pages.md, 13_serving.md, 20_policy_firmware.md, R412, R417, R418, R428, R430, R454, R650) -/
def Obligations.PagerMovesAndRetriesComplete : Prop :=
  ∀ s : State,
    (∀ k ecc m pt src dst c1 c2, s.m.kv.moves[k]? = some m → pt = (kvSlot s.m m.slot).part →
      src = frameAddr s.m pt (kvPage s.m m.slot m.idx).us ((kvPage s.m m.slot m.idx).frame.getD 0) →
      dst = frameAddr s.m pt (!m.back) m.frame →
      c1 = applyEcc src 65536 ecc { s.m with kv := { s.m.kv with moves := s.m.kv.moves.erase m } } →
      c2 = modPage m.slot m.idx (fun g => { g with us := !m.back, move := 0, frame := some m.frame })
        (forSpan 0 8192 c1 fun c i => memWrite (dst + i * 8) (memRead c (src + i * 8) 8) (wordPoison c (src + i * 8)) c) →
      exec (.kvPageMoveDone k ecc) s = .next { s with m := settleMem (kvAdvanceAll (bump 0x2600 (if m.back then 8 else 7) 0 1 c2)) }) ∧
    (∀ (p : Part) w l, tget [] s.m.kv.blocked p.toNat = w :: l → exec (.kvRspBlocked p) s = .next { s with m :=
      (settle ((w :: l).foldl (fun c ws => kvPush p.toNat ws c) { s.m with kv := { s.m.kv with blocked := tset [] s.m.kv.blocked p.toNat [] } })) }) ∧
    (∀ (p : Part) w l, tget [] s.m.srv.blocked p.toNat = w :: l → exec (.srvRspBlocked p) s = .next { s with m :=
      (settle ((w :: l).foldl (fun c ws => srvPush p.toNat ws c) { s.m with srv := { s.m.srv with blocked := tset [] s.m.srv.blocked p.toNat [] } })) }) ∧
    (∀ (p : Part) ws slot c1, pressureRuns s.m p.toNat = true → slot = (nth 0 ws 1).toNat % 65536 →
      c1 = (if kvsOwner s.m slot = some p.toNat then s.m else denied s.m) →
      (bitsOf (nth 0 ws 0).toNat 63 56 = 5 → exec (.kvpPrefetch p (some ws)) s = .next { s with m := settle (kvCommand p.toNat 1 ws c1) }) ∧
      (bitsOf (nth 0 ws 0).toNat 63 56 = 6 → exec (.kvpSpill p (some ws)) s = .next { s with m := settle (kvCommand p.toNat 1 ws c1) }) ∧
      (bitsOf (nth 0 ws 0).toNat 63 56 = 7 → exec (.kvpClose p (some ws)) s = .next { s with m := settle (kvCommand p.toNat 1 ws c1) })) ∧
    (∀ (p : Part) ws sq, reclaimRuns s.m = true → sq = (nth 0 ws 1).toNat % 65536 → bitsOf (nth 0 ws 0).toNat 63 56 = 2 →
      exec (.seqClose p (some ws)) s = .next { s with m := (settle (srvCommand p.toNat true false ws
        (if seqOwner s.m sq = some p.toNat && (seqRec s.m sq).state = 2 then denied s.m else s.m))) })

/-- With no response blocked, the command at the head of the partition's request queue is popped and, its checks
passed: OPEN with a good descriptor takes a free session number and keeps the descriptor; DECODE of an open
decoding session reads its bytes and joins its pictures to the session's work; ENCODE marks the source buffer with
the core, numbers the picture and orders it; RELEASE frees a buffer that is OUT; END of a decoding session joins
the work; BS_FREE takes its bytes from the ring's use; CLOSE of an idle session closes it and of one with work
answers VID_BUSY. A command for a session that is not the partition's is answered VID_CONFIG_BAD.
(derived: 14_video.md, R459, R460, R463, R464, R465, R466, R468, R470, R476) -/
def Obligations.VideoCommandsComplete : Prop :=
  ∀ (s : State) (p : Part) q ws k rest c1 tag w1 w2 n, q = obj s.m 0x5600 2 p.toNat → (tget [] s.m.vid.blocked p.toNat).isEmpty = true →
    headPacket s.m q = some ws → (queue s.m q).pkts = k :: rest → c1 = dropHead q s.m → tag = bitsOf (nth 0 ws 0).toNat 55 40 →
    w1 = (nth 0 ws 1).toNat → w2 = (nth 0 ws 2).toNat → n = w1 % 256 →
    (∀ d x c2, bitsOf (nth 0 ws 0).toNat 63 56 = 1 → vidFits 1 ws = true → w1 % 2 ^ 44 % 128 = 0 → rangeOk c1 p.toNat (w1 % 2 ^ 44) 128 = true →
      d = memRead c1 (w1 % 2 ^ 44) 128 → vidRangesOk d = true → vidSupported d = true → vidBuffersOk d = true → vidPlacesOk c1 p.toNat d = true →
      choose ((span 0 48).filter fun i => (vses c1 i).isNone) c1 = (some x, c2) →
      exec (.vidOpen p) s = .next { s with m := vidDone p.toNat 1 tag St.ok x (setVses x (some { part := p.toNat, desc := d }) c2) }) ∧
    (∀ pics v o c2, bitsOf (nth 0 ws 0).toNat 63 56 = 2 → vidFits 2 ws = true → vsesOf c1 p.toNat n = some v → Vd.enc v.desc = false →
      bitsOf w1 39 8 ≠ 0 → rangeOk c1 p.toNat (w2 % 2 ^ 44) (bitsOf w1 39 8) = true → drawSerial c1 = (o, c2) →
      exec (.vidDecode p pics) s = .next { s with m := (decGo n (setVses n (some { v with
        work := v.work ++ [⟨false, tag, nth 0 ws 3, k.count, o, pics, 0, 0⟩],
        stream := v.stream ++ memRead c2 (w2 % 2 ^ 44) (bitsOf w1 39 8) }) c2)) }) ∧
    (∀ v b o c2 e, bitsOf (nth 0 ws 0).toNat 63 56 = 3 → vidFits 3 ws = true → vsesOf c1 p.toNat n = some v → Vd.enc v.desc = true →
      b = bitsOf w1 15 8 → b < Vd.bufCount v.desc → vbuf v b = 0 → w2 % 2 ^ 44 = 0 → drawSerial c1 = (o, c2) →
      e = { num := v.encNum % 2 ^ 24, src := b, qp := (if bitOf w1 17 then some (bitsOf w1 25 18) else none), map := 0,
            user := nth 0 ws 3, reqTag := tag, count := k.count, order := o } →
      exec (.vidEncode p) s = .next { s with m := (encGo n (setVses n (some
        (encAccept e (bitOf w1 16) { putBuf b 1 v with encNum := v.encNum + 1 })) c2)) }) ∧
    (∀ v b, bitsOf (nth 0 ws 0).toNat 63 56 = 4 → vidFits 4 ws = true → vsesOf c1 p.toNat n = some v → b = bitsOf w1 15 8 →
      b < Vd.bufCount v.desc → vbuf v b = 2 →
      exec (.vidRelease p) s = .next { s with m := vidDone p.toNat 4 tag St.ok 0 (setVses n (some (putBuf b 0 v)) c1) }) ∧
    (∀ v o c2, bitsOf (nth 0 ws 0).toNat 63 56 = 5 → vidFits 5 ws = true → vsesOf c1 p.toNat n = some v → Vd.enc v.desc = false →
      drawSerial c1 = (o, c2) → exec (.vidEnd p) s = .next { s with m := (decGo n (setVses n (some { v with
        work := v.work ++ [⟨true, tag, 0, k.count, o, [], 0, v.outs⟩] }) c2)) }) ∧
    (∀ v, bitsOf (nth 0 ws 0).toNat 63 56 = 6 → vidFits 6 ws = true → vsesOf c1 p.toNat n = some v →
      exec (.vidBsFree p) s = .next { s with m := (vidDone p.toNat 6 tag St.ok 0
        (setVses n (some { v with ringUsed := v.ringUsed - w1 / 2 ^ 32 }) c1)) }) ∧
    (bitsOf (nth 0 ws 0).toNat 63 56 = 7 → vidFits 7 ws = true →
      (∀ v, vsesOf c1 p.toNat n = some v → vidOutstanding v = false → v.bufs.any (fun e => e.2 == 1) = false →
        exec (.vidClose p) s = .next { s with m := vidDone p.toNat 7 tag St.ok 0 (setVses n none c1) }) ∧
      (∀ v, vsesOf c1 p.toNat n = some v → vidOutstanding v = true →
        exec (.vidClose p) s = .next { s with m := vidDone p.toNat 7 tag St.vidBusy 0 c1 }) ∧
      (vsesOf c1 p.toNat n = none → exec (.vidClose p) s = .next { s with m := vidDone p.toNat 7 tag St.vidConfigBad 0 c1 }))

/-- A core that ends a piece marks it, is free and the scheduler goes on: an encoded piece pours into the ring in
order, and a decoded picture whose last piece ended is finished. VIDEO_PREEMPT frees the core that a live-critical
piece preempts, which takes it. The end of the motion pass makes the rate record; with a fixed QP the picture is
decided by it, and without rate control by the session's QP. A rate hook past its deadline is counted and recorded
and the fallback decides. The watchdog is counted and recorded, frees the session's cores, conceals a decoded
picture and abandons an encoded one. Refused notices and responses are tried again in order.
(derived: 14_video.md, R459, R469, R472, R474, R475, R476, R478, R479, R484) -/
def Obligations.VideoEventsComplete : Prop :=
  ∀ s : State,
    (∀ (k : BitVec 3) e n c1 v p, (vcore s.m k.toNat).ses = some n →
      c1 = coreFree k.toNat (modPiece n (vcore s.m k.toNat).piece (fun x => { x with st := 2, fin := some e }) s.m) →
      vses c1 n = some v → v.cur = some p →
      (∀ en, p.enc = some en → exec (.videoPieceDone k e) s = .next { s with m :=
        (vidSchedule (encPour n en (p.pieces.length + 1) (bump 0x2800 11 0 e.boundStops c1))) }) ∧
      (∀ d, p.enc = none → p.dec = some d → (p.pieces.all fun x => x.st == 2) = true →
        exec (.videoPieceDone k e) s = .next { s with m := decFinish n v p d 0 c1 }) ∧
      (∀ d, p.enc = none → p.dec = some d → (p.pieces.all fun x => x.st == 2) = false →
        exec (.videoPieceDone k e) s = .next { s with m := vidSchedule c1 })) ∧
    (∀ (k : BitVec 3) n, preemptsNow s.m k.toNat = true → (vcore s.m k.toNat).ses = some n →
      exec (.videoPreempt k) s = .next { s with m := (vidSchedule (coreTake k.toNat (bump 0x2800 9 0 1 (coreFree k.toNat
        (modPiece n (vcore s.m k.toNat).piece (fun p => { p with st := 0 }) s.m))))) }) ∧
    (∀ n intra inter v p e c1, vses s.m n = some v → v.cur = some p → p.enc = some e → p.stage = 2 →
      c1 = { s.m with vid := { s.m.vid with record := rateRecord n v p e intra inter } } →
      (∀ qp, e.qp = some qp → exec (.motionLevel1Done n intra inter) s = .next { s with m := encDecided n qp (e.map != 0) c1 }) ∧
      (e.qp = none → bitOf (Vd.mode v.desc) 1 = false →
        exec (.motionLevel1Done n intra inter) s = .next { s with m := encFallback n c1 })) ∧
    (∀ n r v p, hookRun s.m 1 = some r → r.call.arg = n → vses s.m n = some v → v.cur = some p → p.stage = 3 →
      exec (.vidRcLate n) s = .next { s with m :=
        (encFallback n (emit Src.vidSched St.vidRcLate (some v.part) [n, p.num] (bump 0x2800 10 0 1 s.m))) }) ∧
    (∀ (k : BitVec 3) u n v p c1, (vcore s.m k.toNat).ses = some n → vses s.m n = some v → v.cur = some p →
      c1 = freeCoresOf n (emit (Src.video k.toNat) St.vidWatchdog (some v.part) [n, if p.enc.isSome then p.num else v.outs]
        (bump 0x2800 8 0 1 s.m)) →
      (∀ en, p.enc = some en → exec (.vidWatchdog k u) s = .next { s with m := encAbandon n en St.vidWatchdog c1 }) ∧
      (∀ d, p.enc = none → p.dec = some d →
        exec (.vidWatchdog k u) s = .next { s with m := decFinish n v p d (max 1 (min u d.units)) c1 })) ∧
    (∀ (n : BitVec 6) v, vses s.m n.toNat = some v → exec (.vidOutBlocked n) s = .next { s with m :=
      (v.notices.foldl (fun c ws => vidNotice n.toNat ws c) (setVses n.toNat (some { v with notices := [] }) s.m)) }) ∧
    (∀ (p : Part) w l, tget [] s.m.vid.blocked p.toNat = w :: l → exec (.vidRspBlocked p) s = .next { s with m :=
      ((w :: l).foldl (fun c ws => vidPush p.toNat ws c) { s.m with vid := { s.m.vid with blocked := tset [] s.m.vid.blocked p.toNat [] } }) })

/-- A codeword of a port that is not DOWN counts its corrected symbols or is counted uncorrectable; before lock it is
searched for the marker, after lock its blocks but the marker join the flits. A DATA flit in sequence is handed
upward on its VC, counted and acknowledged; one out of sequence asks for a replay. A CREDIT flit adds the credits
of each VC and an IDLE flit only acknowledges; a flit that is not valid is counted and asks for a replay. A TRAIN
flit in TRAINING is answered, and the third in a row brings the port UP. A replay timeout sends the replay buffer
again; the eighth replay of one flit takes the port to TRAINING.
(derived: 15_links_and_remote_writes.md, R487, R490, R491, R493, R494, R495, R497, R499, R500) -/
def Obligations.CodewordsAndFlitsTakeEffect : Prop :=
  ∀ (s : State) (p : Port),
    (∀ bs n c1, (port s.m p.toNat).state ≠ Pst.down → c1 = (if decodes n then bump 0x5800 7 p.toNat n s.m else bump 0x5800 8 p.toNat 1 s.m) →
      ((port c1 p.toNat).locked = false →
        exec (.codeword p bs n) s = .next { s with m := seekLock p.toNat (candidate bs n) (decodes n) c1 }) ∧
      ((port c1 p.toNat).locked = true → ∀ c2, c2 = holdLock p.toNat (candidate bs n) (decodes n) c1 →
        ((port c2 p.toNat).locked = true → exec (.codeword p bs n) s = .next { s with m := (takeBlocks p.toNat
          ((if decide (4096 ≤ (port c1 p.toNat).sinceMark + 1) then bs.drop 1 else bs).map fun b => (decodes n && b.sync, b.bits)) c2) }) ∧
        ((port c2 p.toNat).locked = false → exec (.codeword p bs n) s = .next { s with m := c2 }))) ∧
    (∀ f c1 v, c1 = takeFlit p.toNat f s.m → v = port c1 p.toNat → v.state = Pst.up → flitGood f = true →
      (flitKind f = 1 → bitsOf (flitHead f) 11 0 = v.rxSeq → exec (.flitData p f) s = .next { s with m := (flitAck p.toNat f
        (sendPlain p.toNat 0 false [] (countFlits 1 p.toNat 1 (setPort p.toNat { v with
          rxSeq := (v.rxSeq + 1) % 4096, nakSent := false,
          asm := tset [] v.asm (bitsOf (flitHead f) 27 26) (tget [] v.asm (bitsOf (flitHead f) 27 26) ++ [flitBody f]) } c1)))) }) ∧
      (flitKind f = 1 → bitsOf (flitHead f) 11 0 ≠ v.rxSeq →
        exec (.flitData p f) s = .next { s with m := flitAck p.toNat f (askReplay p.toNat c1) }) ∧
      (flitKind f = 2 → exec (.flitCredit p f) s = .next { s with m := flitAck p.toNat f (creditFlit p.toNat f c1) }) ∧
      (flitKind f = 0 → exec (.flitIdle p f) s = .next { s with m := flitAck p.toNat f c1 })) ∧
    (∀ f c1, c1 = takeFlit p.toNat f s.m → (port c1 p.toNat).state = Pst.up → flitGood f = false →
      exec (.flitData p f) s = .next { s with m := askReplay p.toNat (bump 0x5800 6 p.toNat 1 c1) } ∧
      exec (.flitCredit p f) s = .next { s with m := askReplay p.toNat (bump 0x5800 6 p.toNat 1 c1) } ∧
      exec (.flitIdle p f) s = .next { s with m := askReplay p.toNat (bump 0x5800 6 p.toNat 1 c1) }) ∧
    (∀ f c1 v, c1 = takeFlit p.toNat f s.m → v = port c1 p.toNat → v.state = Pst.training → flitGood f = true → flitKind f = 3 →
      (v.trains < 2 → exec (.flitTrain p f) s = .next { s with m :=
        (settle (setPort p.toNat { v with trains := v.trains + 1 } (sendTrain p.toNat c1))) }) ∧
      (2 ≤ v.trains → exec (.flitTrain p f) s = .next { s with m := settle (enterUp p.toNat (flitBody f) (sendTrain p.toNat c1)) })) ∧
    (∀ v q e r n c1, v = port s.m p.toNat → v.state = Pst.up → v.replay = (q, e) :: r →
      n = (if v.replays != 0 && v.replayFrom = q then v.replays + 1 else 1) →
      c1 = bump 0x5800 5 p.toNat 1 (setPort p.toNat { v with replays := n, replayFrom := q } s.m) →
      (n < 8 → exec (.replayTimeout p) s = .next { s with m :=
        (((q, e) :: r).foldl (fun c x => send (.flit p.toNat x.2) c) (countFlits 0 p.toNat (r.length + 1) c1)) }) ∧
      (8 ≤ n → exec (.replayTimeout p) s = .next { s with m := (leaveUp p.toNat (emit (Src.link p.toNat) St.lnReplayLimit none [q, n]
        (modPort p.toNat (fun v => { v with replays := 0 }) c1))) }))

/-- MSG_WRITE stores its bytes with their poison and is acknowledged; MSG_READ answers the bytes with a mark for each
poisoned word; ATOMIC answers the old value and stores the new one, and returns a poisoned one marked without
writing; QPKT passes its segment to its queue and answers the status; each then applies the held sets whose MARK
is reached. A BLAZE_SET whose MARK is reached is performed and one whose is not is held; a held set that is lost
is recorded and answered LN_ANNOUNCE_LOST. A message that fails steps 1 to 3 has no effect beyond its count and
record. A port's packet without its next segment is broken.
(derived: 15_links_and_remote_writes.md, R505, R512, R515, R516, R517, R518) -/
def Obligations.LinkRequestsAreServed : Prop :=
  ∀ (s : State) (p : Port) (m : Msg) (c1 : Chip) (a : Nat), a = m.addr.toNat % 2 ^ 44 →
    (∀ ecc, m.op = 1 → malformed m = false → arrives p.toNat m (rangeIn s.m m.addr.toNat m.len.toNat)
        (fun c => targetMem c (m.dst.toNat / 4096) m.addr.toNat m.len.toNat) s.m c1 →
      exec (.msgWrite p m ecc) s = .next { s with m := (settle (applyHeld (answer m 0x11 St.ok [] []
        (writePoison a (fit m.len.toNat m.body) (bytePoison m m.len.toNat) (eccStore a m.len.toNat ecc c1))))) }) ∧
    (∀ ecc c2, m.op = 2 → malformed m = false → arrives p.toNat m (rangeIn s.m m.addr.toNat m.len.toNat)
        (fun c => targetMem c (m.dst.toNat / 4096) m.addr.toNat m.len.toNat) s.m c1 → c2 = applyEcc a m.len.toNat ecc c1 →
      exec (.msgRead p m ecc) s = .next { s with m := (settle (applyHeld (answer m 0x12 St.ok (memRead c2 a m.len.toNat)
        (wordMap ((m.len.toNat + 7) / 8) ((span a m.len.toNat).map (wordPoison c2))) c2))) }) ∧
    (∀ ecc n c2, m.op = 3 → malformed m = false → atomicOk m = true → n = atomicWidth m →
      arrives p.toNat m (rangeIn s.m m.addr.toNat n)
        (fun c => targetMem c (m.dst.toNat / 4096) m.addr.toNat n) s.m c1 → c2 = applyEcc a n ecc c1 →
      (wordPoison c2 a = false → exec (.atomic p m ecc) s = .next { s with m := (settle (applyHeld (answer m 0x13 St.ok
        (fit 8 (memRead c2 a n)) [false] (memWrite a (leBytes n (amoValue (leNat (m.body.take 1)) (8 * n) (leNat (memRead c2 a n))
          (leNat ((m.body.drop 8).take 8)))) false c2)))) }) ∧
      (wordPoison c2 a = true → exec (.atomic p m ecc) s = .next { s with m :=
        (settle (applyHeld (answer m 0x13 St.ok (fit 8 (memRead c2 a n)) [true] c2))) })) ∧
    (∀ q st c2, m.op = 4 → malformed m = false → q = m.addr.toNat % 2 ^ 20 →
      arrives p.toNat m (fun e => decide (e.qFirst ≤ q) && decide (q < e.qFirst + e.qCount)) (fun _ => none) s.m c1 →
      segmentIn p.toNat (m.src.toNat % 4096) q m c1 = (st, c2) →
      exec (.qpkt p m) s = .next { s with m := settle (applyHeld (answer m 0x14 st [] [] c2)) }) ∧
    (∀ c2 c3, m.op = 0x20 → malformed m = false → accepting (takeMsg p.toNat m s.m) = true →
      checks123 p.toNat m (takeMsg p.toNat m s.m) = (true, c2) → check4 p.toNat m c2 = (true, c3) →
      (markReached (noteCtr m c3) m = true → exec (.blazeSet p m) s = .next { s with m := settle (performSet m (noteCtr m c3)) }) ∧
      (markReached (noteCtr m c3) m = false → exec (.blazeSet p m) s = .next { s with m := (settle
        { noteCtr m c3 with lnk := { (noteCtr m c3).lnk with held := (noteCtr m c3).lnk.held ++ [⟨p.toNat, m⟩] } }) })) ∧
    (∀ ecc c2, m.op = 1 → malformed m = false → accepting (takeMsg p.toNat m s.m) = true →
      checks123 p.toNat m (takeMsg p.toNat m s.m) = (false, c2) → exec (.msgWrite p m ecc) s = .next { s with m := settle c2 }) ∧
    (∀ k h c2, s.m.lnk.held[k]? = some h → c2 = { s.m with lnk := { s.m.lnk with held := s.m.lnk.held.eraseIdx k } } →
      exec (.lnAnnounceLost k) s = .next { s with m := (answer h.msg 0x15 St.lnAnnounceLost [] []
        (emit (Src.link h.port) St.lnAnnounceLost (some (h.msg.dst.toNat / 4096)) [h.msg.src.toNat % 4096, markOf h.msg,
          tget 0 (sess c2 (h.msg.src.toNat % 4096)).accepted 0, h.msg.addr.toNat % 512] c2)) }) ∧
    (∀ k src o, (s.m.opens.filterMap fun o => match o.prod with
        | .port n x => if n = p.toNat then some (x, o) else none
        | _ => none)[k]? = some (src, o) →
      exec (.lnPktBroken p k) s = .next { s with m := (emit (Src.link p.toNat) St.lnPktBroken (queueOwner s.m o.q)
        [src, o.q, segCount s.m p.toNat src] (setSegs p.toNat src 0 (rewind o s.m))) })

/-- An answer that passes Table 15-5 and names a waiting entry of its kind frees the entry: a WRITE_ACK of a store
only frees it and one of a chain lets the chain go on; a READ_RESP of a load or fetch and an ATOMIC_RESP give the
stalled thread its value, and a READ_RESP of a chain its bytes; a QPKT_ACK acts on the welt's segment with its
status; a BLAZE_ACK frees a remote set. An answer with another status than OK fails its request with that status.
RESP_TIMEOUT of a sent request fails it as unreachable, counted.
(derived: 15_links_and_remote_writes.md, 16_pair_operation.md, R508, R512, R515, R517, R547, R549) -/
def Obligations.LinkAnswersReachTheirRequests : Prop :=
  ∀ (s : State) (p : Port) (m : Msg) (o : OutReq) (c1 c2 : Chip), malformed m = false → arriveAnswer p.toNat m s.m = (some o, c1) →
    c2 = normWaits (releaseReq m.reqRef.toNat c1) →
    (∀ t va, m.op = 0x11 → o.kind = .store t va → answerStatus m = St.ok → exec (.writeAck p m) s = .next { s with m := settle c2 }) ∧
    (∀ name serial, m.op = 0x11 → o.kind = .mover name serial true → answerStatus m = St.ok →
      exec (.writeAck p m) s = .next { s with m := settle (moverAcked name serial m.reqRef.toNat c2) }) ∧
    (∀ t rd size uns fp va pa, m.op = 0x12 → o.kind = .load t rd size uns fp va pa → answerStatus m = St.ok →
      exec (.readResp p m) s = .next { s with m := settle (loadAnswer t rd size uns fp pa m c2) }) ∧
    (∀ name serial, m.op = 0x12 → o.kind = .mover name serial false → answerStatus m = St.ok → exec (.readResp p m) s = .next { s with m :=
      (settle (moverData name serial m.reqRef.toNat m.body (if bitOf m.flags.toNat 2 then m.poisonMap else []) c2)) }) ∧
    (∀ t rd dbl va pa, m.op = 0x13 → o.kind = .atomic t rd dbl va pa → answerStatus m = St.ok →
      exec (.atomicResp p m) s = .next { s with m := settle (loadAnswer t rd (2 + b2n dbl) false false pa m c2) }) ∧
    (∀ q n k last, m.op = 0x14 → o.kind = .welt q n k last → answerStatus m = St.ok →
      exec (.qpktAck p m) s = .next { s with m := settle (egAnswer q n k last St.ok c2) }) ∧
    (∀ t va, m.op = 0x15 → o.kind = .blaze t va → answerStatus m = St.ok → exec (.blazeAck p m) s = .next { s with m := settle c2 }) ∧
    (∀ t va, m.op = 0x11 → o.kind = .store t va → answerStatus m ≠ St.ok →
      exec (.writeAck p m) s = .next { s with m := settle (refusedAnswer m c1) }) ∧
    (∀ (r : BitVec 16) x, tget none s.m.lnk.outReq r.toNat = some x → x.sendTime.isSome = true →
      exec (.respTimeout r) s = .next { s with m := settle (failReq r.toNat St.addrRemoteUnreachable (bump 0x3000 13 0 1 s.m)) })

/-- While the module accepts requests, a good HELLO from a peer whose handshake it does not itself lead is answered
with HELLO_REPLY; a good HELLO_REPLY to its own HELLO is answered with FINISHED and opens the session; a good
FINISHED opens it. One that is not verified fails the session at stage 2 and one that is refused at stage 3,
recorded; no answer in time fails it at stage 1. A port whose queue is empty returns its licence.
(derived: 15_links_and_remote_writes.md, 16_pair_operation.md, 18_power_and_thermal.md, R503, R504, R526, R589) -/
def Obligations.SessionsOpenAndFail : Prop :=
  ∀ (s : State) (p : Port) (h : Hand) (x : LinkSess) (n : Nat), n = h.peer.toNat → x = sess s.m n → accepting s.m = true →
    (¬ (x.state = 1 ∧ x.opener = true ∧ s.m.moduleId < n) →
      (h.refused = false → h.verified = true → exec (.hello p h) s = .next { s with m :=
        (settle (sendHand 0x31 n (setSess n { state := 1, peerInc := h.inc, transcript := h.transcript } s.m))) }) ∧
      (h.refused = false → h.verified = false → exec (.hello p h) s = .next { s with m := settle (sessFail p.toNat n 2 s.m) }) ∧
      (h.refused = true → exec (.hello p h) s = .next { s with m := settle (sessFail p.toNat n 3 s.m) })) ∧
    (x.state = 1 → x.opener = true →
      (h.refused = false → h.verified = true → exec (.helloReply p h) s = .next { s with m :=
        (settle (sessOpen n (sendHand 0x32 n (setSess n { x with peerInc := h.inc, transcript := h.transcript } s.m)))) }) ∧
      (h.refused = false → h.verified = false → exec (.helloReply p h) s = .next { s with m := settle (sessFail p.toNat n 2 s.m) })) ∧
    (x.state = 1 → x.opener = false →
      (h.refused = false → h.verified = true → exec (.finished p h) s = .next { s with m :=
        (settle (sessOpen n (setSess n { x with peerInc := h.inc, transcript := h.transcript } s.m))) }) ∧
      (h.refused = true → exec (.finished p h) s = .next { s with m := settle (sessFail p.toNat n 3 s.m) })) ∧
    (∀ peer : ModId, (sess s.m peer.toNat).state = 1 → exec (.lnSessionFail peer) s = .next { s with m :=
      (settle (sessFail ((routePort s.m peer.toNat).getD 0) peer.toNat 1 s.m)) }) ∧
    ((port s.m p.toNat).licence = true → (port s.m p.toNat).txq = [] → exec (.portLicenceRelease p) s = .next { s with m :=
      (dropGrant 3 p.toNat (setPort p.toNat { port s.m p.toNat with licence := false } s.m)) })

/-- A formation without a MATE_HB fails with PR_FORM_FAIL. A lace test that failed fails the formation with
PR_LACE_FAULT and a good last one goes on, its CLAIM lowered. A change of LACE_IN in pair operation is told to the
mate, and high closes the gate. With CLAIM raised alone the gate opens, and a module TAKING serves alone, the
takeover counted, timed and recorded. A tie leaves YIELDED the module whose LACE_TIE is 0. A lace that disagrees
is recorded and yields the pair or leaves synchrony. A silent mate leaves an ACTIVE module SOLO under
PAIR_DEGRADE. A standby whose mate yielded or is silent raises its CLAIM. A boundary whose mate is silent settles
the inputs alone.
(derived: 16_pair_operation.md, R526, R530, R531, R532, R533, R534, R537, R542, R554, R555) -/
def Obligations.PairFormationAndLaceAct : Prop :=
  ∀ s : State,
    (s.m.pair.state = PSt.forming → s.m.pair.stage = 2 → exec .prFormFail s = .next { s with m := failForm St.prFormFail s.m }) ∧
    (∀ ok, s.m.pair.state = PSt.forming → ok = (decide ((s.m.pair.hb.map (·.laceIn)).getD false = s.m.pair.claim) &&
        decide (s.m.pair.laceIn = (s.m.pair.hb.map (·.claim)).getD false)) →
      ((s.m.pair.stage = 3 ∨ s.m.pair.stage = 4) → ok = false →
        exec .laceTestEnd s = .next { s with m := failForm St.prLaceFault s.m }) ∧
      (s.m.pair.stage = 3 → ok = true → obj s.m 0x3100 4 % 2 = 0 →
        exec .laceTestEnd s = .next { s with m := clearClaim (modPair (fun p => { p with stage := 4 }) s.m) }) ∧
      (s.m.pair.stage = 3 → ok = true → obj s.m 0x3100 4 % 2 = 1 → s.m.pair.laceIn = false →
        exec .laceTestEnd s = .next { s with m := raiseClaim (modPair (fun p => { p with stage := 4 }) s.m) }) ∧
      (s.m.pair.stage = 4 → ok = true → obj s.m 0x3100 4 % 2 = 1 →
        exec .laceTestEnd s = .next { s with m := modPair (fun p => { p with stage := 5 }) (clearClaim s.m) })) ∧
    (∀ high c1, c1 = modPair (fun p => { p with laceIn := high, gate := p.gate && !high }) s.m → c1.pair.claimWant = false →
      (c1.pair.state ≠ PSt.unpaired → exec (.laceInChange high) s = .next { s with m := sendHb c1 }) ∧
      (c1.pair.state = PSt.unpaired → exec (.laceInChange high) s = .next { s with m := c1 })) ∧
    (s.m.pair.claim = true → s.m.pair.laceIn = false → s.m.pair.fenceLow = false → s.m.pair.gate = false → gateState s.m = true →
      ∀ c1, c1 = modPair (fun p => { p with gate := true }) s.m →
      (s.m.pair.state ≠ PSt.taking → exec .gateOpen s = .next { s with m := settle c1 }) ∧
      (s.m.pair.state = PSt.taking → ∀ c2 c3, c2 = modPair (fun p => { p with
          state := if s.m.pair.swap then PSt.active else PSt.solo, swap := false, yieldSeen := false }) c1 →
        c3 = setObj 0x3100 16 0 (now c2) (bump 0x3100 12 0 1 c2) →
        exec .gateOpen s = .next { s with m := settle (sendHb (emit Src.welt St.prTakeover none [now c3] (markDups c3))) })) ∧
    (s.m.pair.claim = true → s.m.pair.laceIn = true → s.m.pair.tie = false → exec .prTieResolved s = .next { s with m :=
      (emit Src.lace St.prTieResolved none [] (modPair (fun p => { p with state := PSt.yielded }) (clearClaim s.m))) }) ∧
    (∀ h, s.m.pair.hb = some h → s.m.pair.state ≠ PSt.unpaired → s.m.pair.state ≠ PSt.forming → s.m.pair.silent = false →
      h.claim ≠ s.m.pair.laceIn → exec .prLaceFault s = .next { s with m := (leaveSync St.prLaceFault (yieldPair St.prLaceFault
        (emit Src.lace St.prLaceFault none (laceDetail s.m) (modPair (fun p => { p with laceErr := true }) s.m)))) }) ∧
    (∀ c1, c1 = modPair (fun p => { p with silent := true }) s.m → s.m.pair.state ≠ PSt.unpaired → s.m.pair.state ≠ PSt.forming →
      (c1.pair.state = PSt.active → obj c1 0x3100 9 = 1 → exec .mateSilent s = .next { s with m :=
        (emit Src.welt St.prSolo none [0] (modPair (fun p => { p with state := PSt.solo }) c1)) }) ∧
      (c1.pair.state = PSt.standby → c1.pair.laceIn = true → exec .mateSilent s = .next { s with m := leaveSync 0 c1 })) ∧
    (s.m.pair.state = PSt.standby → s.m.pair.laceIn = false → (s.m.pair.yieldSeen = true ∨ s.m.pair.silent = true) →
      exec .prTakeover s = .next { s with m := raiseClaim (modPair (fun p => { p with state := PSt.taking }) s.m) }) ∧
    (∀ n c1, s.m.pair.boundaryAt = some n → c1 = (if s.m.pair.silent then s.m else mateSilent s.m) →
      (c1.pair.state = PSt.solo → exec .boundaryTimeout s = .next { s with m :=
        (settle (settleInputs true (modPair (fun p => { p with boundaryAt := none }) c1))) }) ∧
      (c1.pair.state ≠ PSt.solo → exec .boundaryTimeout s = .next { s with m := settle c1 }))

/-- A mate message that passes steps 1 to 3 of Table 15-5 takes effect: MATE_HB is kept, and in the forming pair goes
on with the formation or fails it; DIGEST gives a held input its mate's digest, is compared with an output sent,
or is kept for a packet to come; CONFIRM frees the copy of a module that sends nothing; BOUNDARY settles the
inputs where this module has passed the same boundary and is else kept; YIELD lets a STANDBY take over. WELT_SEND
sends the segments of the next packet of an output queue that is waiting to be sent, and WELT_RETRY of one that
was refused.
(derived: 16_pair_operation.md, R526, R536, R540, R544, R546, R548, R549, R554) -/
def Obligations.MateMessagesAndTheWeltAct : Prop :=
  ∀ (s : State) (m : Msg) (c1 : Chip) (q n seq : Nat), malformed m = false → q = mField m.body 0 4 → n = mField m.body 8 8 →
    seq = mField m.body 16 2 → (mateSays m s.m c1 →
    (∀ c2, m.op = 0x40 → c2 = modPair (fun p => { p with hb := some (parseHb m.body) }) c1 →
      (c2.pair.state = PSt.forming → c2.pair.stage = 2 → exec (.mateHb m) s = .next { s with m := settle (formHb (parseHb m.body) c2) }) ∧
      (c2.pair.state = PSt.forming → 3 ≤ c2.pair.stage → (parseHb m.body).state = PSt.unpaired →
        exec (.mateHb m) s = .next { s with m := settle (failForm St.prFormFail c2) }) ∧
      (c2.pair.state = PSt.active → exec (.mateHb m) s = .next { s with m := settle c2 })) ∧
    (m.op = 0x41 → mField m.body 4 1 = 1 →
      ((c1.pair.inp.any fun r => r.q == q && r.seq == n) = true → exec (.digest m) s = .next { s with m :=
        (settle (modPair (fun p => { p with inp := p.inp.map fun r =>
          if r.q = q && r.seq = n then { r with mate := some (mField m.body 24 16) } else r }) c1)) }) ∧
      ((c1.pair.inp.any fun r => r.q == q && r.seq == n) = false → exec (.digest m) s = .next { s with m :=
        (settle (modPair (fun p => { p with early := p.early ++ [(1, q, n, 0, mField m.body 24 16)] }) c1)) })) ∧
    (m.op = 0x41 → mField m.body 4 1 = 0 →
      ((c1.pair.eg.any fun e => e.q == q && e.count == n && e.seq == seq) = true → exec (.digest m) s = .next { s with m :=
        (settle (compareEg q n seq (modPair (fun p => { p with eg := p.eg.map fun e =>
          if e.q = q && e.count = n && e.seq = seq then { e with mate := some (mField m.body 24 16) } else e }) c1))) }) ∧
      ((c1.pair.eg.any fun e => e.q == q && e.count == n && e.seq == seq) = false → exec (.digest m) s = .next { s with m :=
        (settle (modPair (fun p => { p with early := p.early ++ [(0, q, n, seq, mField m.body 24 16)] }) c1)) })) ∧
    (m.op = 0x42 →
      (c1.pair.state = PSt.standby → (c1.pair.eg.any fun e => e.q == q && e.count == n && e.seq == seq) = true →
        exec (.confirm m) s = .next { s with m := settle (confirmEg q n seq c1) }) ∧
      (c1.pair.state = PSt.standby → (c1.pair.eg.any fun e => e.q == q && e.count == n && e.seq == seq) = false →
        exec (.confirm m) s = .next { s with m := settle (modPair (fun p => { p with early := p.early ++ [(2, q, n, seq, 0)] }) c1) })) ∧
    (∀ b overs, m.op = 0x43 → b = mField m.body 0 8 → overs = mField m.body 8 2 →
      (c1.pair.boundaryAt = some b → exec (.boundary m) s = .next { s with m := settle (mateBoundary b overs c1) }) ∧
      (c1.pair.boundaryAt ≠ some b → exec (.boundary m) s = .next { s with m :=
        (settle (modPair (fun p => { p with mateBoundary := some (b * 65536 + overs) }) c1)) })) ∧
    (m.op = 0x44 → c1.pair.state = PSt.standby → exec (.yield m) s = .next { s with m := (settle (modPair (fun p => { p with
      yieldSeen := true, swap := decide (mField m.body 0 2 = St.prSwapDone.toNat) }) c1)) })) ∧
    (∀ (qn : QNum) e solo p ws, egReady s.m qn.toNat = some (e, solo) → e.dup = false →
      (queue s.m qn.toNat).pkts.find? (fun p => p.count = e.count && p.seq = e.seq) = some p → ws = deliveredWords s.m e p solo →
      (e.st = 0 → exec (.weltSend qn) s = .next { s with m := (settle (sendSegs ((queueOwner s.m qn.toNat).getD 0) (egPeer s.m qn.toNat)
        (egPeerQ s.m qn.toNat) qn.toNat e.count e.seq (ws.length / 512 + 1) true ws (modPair (fun x => { x with eg := x.eg.map fun y =>
          if y.q = qn.toNat && y.count = e.count && y.seq = e.seq then { y with st := 1 } else y }) s.m))) }) ∧
      (e.st = 2 → exec (.weltRetry qn) s = .next { s with m := (settle (sendSegs ((queueOwner s.m qn.toNat).getD 0) (egPeer s.m qn.toNat)
        (egPeerQ s.m qn.toNat) qn.toNat e.count e.seq (ws.length / 512 + 1) true ws (modPair (fun x => { x with eg := x.eg.map fun y =>
          if y.q = qn.toNat && y.count = e.count && y.seq = e.seq then { y with st := 1 } else y }) s.m))) }))

/-- FENCE_N low closes the gate and clears CLAIM, which is raised again after a glitch; low for 1 µs it fences a
module that runs, halting its threads, ending its sessions and starting a bundle; high again after a low that
entered no state it records the glitch. A record that is 2 µs old is admitted to the log, the oldest giving way in
a full one, and a fault of class 4 to 8 calls the fault hook. A bundle that is complete is kept and recorded.
(derived: 16_pair_operation.md, 17_faults_and_ordering.md, R530, R531, R563, R564, R572, R575) -/
def Obligations.FenceLogAndBundleAct : Prop :=
  ∀ s : State,
    (s.m.pair.claim = true → exec .fenceNLow s = .next { s with m := (modPair (fun p => { p with claimWant := true })
      (clearClaim (modPair (fun p => { p with fenceLow := true, gate := false }) s.m))) }) ∧
    (s.m.pair.claim = false → exec .fenceNLow s = .next { s with m := modPair (fun p => { p with fenceLow := true, gate := false }) s.m }) ∧
    (s.m.pair.fenceLow = true → s.m.board.latchN = true → s.m.life.mstate ≠ MState.off → s.m.life.mstate ≠ MState.fenced →
      s.m.life.mstate ≠ MState.failed → exec .fltFenced s = .next { s with m := (settle (saveTime (startBundle 1 (emit Src.fault St.fltFenced none
        [s.m.life.mstate] (enterState MState.fenced (haltThreads (endSessions (standDown St.fltFenced s.m)))))))) }) ∧
    (∀ c1, s.m.pair.fenceLow = true → c1 = modPair (fun p => { p with fenceLow := false }) s.m →
      ((s.m.life.mstate = MState.off ∨ s.m.life.mstate = MState.failed) → exec .fenceNHigh s = .next { s with m := c1 }) ∧
      (s.m.life.mstate = MState.fenced → s.m.life.held = true → exec .fenceNHigh s = .next { s with m := moduleReset c1 }) ∧
      (s.m.life.mstate = MState.service → (emit Src.fault St.fltFenceGlitch none [] c1).pair.claimWant = false →
        exec .fenceNHigh s = .next { s with m := emit Src.fault St.fltFenceGlitch none [] c1 })) ∧
    (∀ r c1, firstRec s.m.flt.inflight = some r → r.time + 2000 ≤ now s.m → s.m.flt.log.length < 16384 →
      c1 = setObj 0x3200 4 0 r.time { s.m with flt := { s.m.flt with
        inflight := s.m.flt.inflight.erase r, log := s.m.flt.log ++ [r] } } →
      ((4 ≤ r.cls ∧ r.cls ≤ 8) → exec .fltLogAdmit s = .next { s with m := callHook { hook := Hk.fault, data := recBytes r } c1 }) ∧
      (r.cls < 4 → exec .fltLogAdmit s = .next { s with m := c1 })) ∧
    (∀ b c1, s.m.flt.writing = some b → c1 = emit Src.fault St.fltPmDone none []
        { s.m with flt := { s.m.flt with writing := none, bundle := some b } } →
      c1.life.resetAt = none → exec .fltPmDone s = .next { s with m := c1 })

/-- While the Warden runs: a power sample that stays within PCAP_W joins the means and acts no floor, and one whose
mean of 100 exceeds it acts the package floor, recorded; a die's current floor acts and is recorded once, then
halves again to at most three times; a trip in a sensor in service acts its die's junction floor; a lift condition
marks its floor; a sensor reading in range is kept with its peak and one out of range is counted bad, the tenth
failing the sensor; a thermal window keeps its estimate and caps again; a burst window closes and its recovery
ends; the burst floor acts once. Inlet readings are kept with their peaks and fail like any sensor's.
(derived: 18_power_and_thermal.md, 23_connectors_and_ratings.md, R600, R601, R602, R604, R605, R607, R705) -/
def Obligations.WardenRowsTakeEffect : Prop :=
  ∀ s : State, wardenOn s.m = true →
    (∀ pkg inp ss c1, ss = lastN 100 (s.m.pwr.pkgSamples ++ [pkg]) → c1 = { s.m with pwr := { s.m.pwr with
        pkgSamples := ss, winN := s.m.pwr.winN + 1, winPkg := s.m.pwr.winPkg + pkg, winIn := s.m.pwr.winIn + inp,
        winL := s.m.pwr.winL + licOut s.m } } → s.m.pwr.floors.pkgDrop = 0 →
      ((ss.length == 100 && decide (s.m.pwr.pcap * 100 < ss.foldl (· + ·) 0)) = false →
        exec (.pkgPowerSample pkg inp) s = .next { s with m := c1 }) ∧
      ((ss.length == 100 && decide (s.m.pwr.pcap * 100 < ss.foldl (· + ·) 0)) = true →
        exec (.pkgPowerSample pkg inp) s = .next { s with m := (emit Src.warden St.pwrPkgLimit none []
          (floorActed (fun f => { f with pkgDrop := 12500, pkgTick := 0, pkgLift := false }) c1)) })) ∧
    (∀ (d : BitVec 1) n g, n = tget 0 s.m.pwr.floors.curShift d.toNat → g = (fun f : Floors =>
        { f with curShift := tset 0 f.curShift d.toNat (min 3 (n + 1)), curLift := tput f.curLift d.toNat false }) →
      (n = 0 → exec (.pwrCurrentLimit d) s = .next { s with m := emit Src.warden St.pwrCurrentLimit none [] (floorActed g s.m) }) ∧
      (n ≠ 0 → exec (.pwrCurrentLimit d) s = .next { s with m := { s.m with pwr := { s.m.pwr with floors := g s.m.pwr.floors } } })) ∧
    (∀ k : BitVec 9, k.toNat < 288 → (sensor s.m k.toNat).failed = false →
      exec (.pwrTjTrip k) s = .next { s with m := tripDie (sensorDie k.toNat) k.toNat s.m }) ∧
    (∀ k : BitVec 3, exec (.floorLift k) s = .next { s with m :=
      { s.m with pwr := { s.m.pwr with floors := liftFloor k.toNat s.m.pwr.floors } } }) ∧
    (∀ (k : BitVec 9) t x c1, k.toNat < 288 → -320 ≤ t → t ≤ 1200 → x = sensor s.m k.toNat →
      c1 = setSensor k.toNat { x with last := t, peak := (if x.seen then max x.peak t else t), bad := 0, seen := true } s.m →
      tjHigh c1 = false → exec (.sensorReading k (some t)) s = .next { s with m := keepWarm c1 }) ∧
    (∀ (k : BitVec 9) x, k.toNat < 288 → x = sensor s.m k.toNat → x.failed = false →
      (∀ c1, x.bad < 9 → c1 = setSensor k.toNat { x with bad := x.bad + 1 } s.m → tjHigh c1 = false →
        exec (.sensorReading k none) s = .next { s with m := keepWarm c1 }) ∧
      (9 ≤ x.bad → tjHigh (failSensor k.toNat s.m) = false →
        exec (.sensorReading k none) s = .next { s with m := keepWarm (failSensor k.toNat s.m) })) ∧
    (∀ p t i, s.m.pwr.prevWin = none → s.m.pwr.rLast4 = [] → s.m.pwr.flatWins + 1 < 8 → s.m.pwr.rStep = false →
      s.m.pwr.rEst ≤ obj s.m 0x4000 13 → exec (.rthWindow p t i) s = .next { s with m := (recap (setObj 0x4000 12 0 s.m.pwr.rEst
        { s.m with pwr := { s.m.pwr with prevWin := some (p, t, i), flatWins := s.m.pwr.flatWins + 1 } })) }) ∧
    (s.m.pwr.burst = 1 → exec .burstWindowClose s = .next { s with m :=
      { s.m with pwr := { s.m.pwr with burst := 2, burstAt := now s.m } } }) ∧
    (s.m.pwr.burst = 2 → exec .burstRecoveryEnd s = .next { s with m :=
      { s.m with pwr := { s.m.pwr with burst := 0, burstAt := now s.m } } }) ∧
    (s.m.pwr.burst = 2 → s.m.pwr.floors.burst = false → exec .pwrBurstLimit s = .next { s with m :=
      (emit Src.warden St.pwrBurstLimit none [] (floorActed (fun f => { f with burst := true, burstLift := false }) s.m)) }) ∧
    (∀ va vb a na fa d nb fb c1, inletOne s.m.board.inA s.m.board.badA s.m.board.failA va = (a, na, fa) →
      inletOne s.m.board.inB s.m.board.badB s.m.board.failB vb = (d, nb, fb) → fa = s.m.board.failA → fb = s.m.board.failB →
      c1 = inletPeak 289 s.m.board.inB (if d = s.m.board.inB && nb ≠ 0 then none else d)
        (inletPeak 288 s.m.board.inA (if a = s.m.board.inA && na ≠ 0 then none else a) s.m) →
      exec (.inletReading va vb) s = .next { s with m := (setInlet (inletOf (if fa then none else a) (if fb then none else d))
        (inletDiffer { c1 with board := { s.m.board with inA := a, inB := d, badA := na, badB := nb, failA := fa, failB := fb } })) })

/-- An installation of a partition gives its slot the keys of its kind, is recorded and answered. A report that is
signed is ready for its requester. An erase empties its bank. A core pair whose lockstep broke is taken out of
use, recorded, its calls lost and the next calls go to the other. A hook that returns in time is counted and acts;
one past its deadline is counted late, at its return or before; a trap, or a call whose pair never returns, halts
the firmware, and the rates fall back. The debug port answers its idcode, shifts out what a chain holds (free
values) for a scan that its state allows, acts as a bypass for one that it does not allow, and resets the module
only when open.
(derived: 19_partitions_keys_attestation.md, 20_policy_firmware.md, 23_connectors_and_ratings.md, R625, R632, R639, R651, R702) -/
def Obligations.KeysFirmwareAndDebugAct : Prop :=
  ∀ s : State,
    (∀ (p : Part) i c0 mk pk k1, s.m.sec.installs.find? (fun i => i.part == p.toNat) = some i →
      c0 = { s.m with sec := { s.m.sec with installs := s.m.sec.installs.erase i } } →
      mk = (if bitOf i.kind 0 then some (leNat (i.plain.take 64)) else (keySlot c0 p.toNat).memKey) →
      pk = (if bitOf i.kind 1 then some (leNat ((i.plain.drop 64).take 16)) else (keySlot c0 p.toNat).pfxKey) →
      k1 = { keySlot c0 p.toNat with memKey := mk, pfxKey := pk, installed := mk.isSome } →
      exec (.secKeyInstalled p) s = .next { s with m := (answerInstall i St.ok (emit Src.security St.secKeyInstalled (some p.toNat) i.detail
        (fillKeys p.toNat { c0 with keys := tset {} c0.keys p.toNat k1 }))) }) ∧
    (∀ who b, (reportOf s.m who).building = some b → exec (.attReady who) s = .next { s with m :=
      { s.m with sec := { s.m.sec with reports := tset {} s.m.sec.reports (whoKey who) { building := none, ready := b } } } }) ∧
    (∀ (pair : BitVec 1) d c1, s.m.fw.fwState = 1 → c1 = ratesFallBack (emit (pairSource pair.toNat) St.fwHalted none []
        { s.m with fw := { s.m.fw with fwState := 2, run := [], waitQ := [], rateQ := [], lateRun := 0 }, life := { s.m.life with initDone := true } }) →
      exec (.l1Trap pair) s = .next { s with m := c1 } ∧
      (pairDuty s.m pair.toNat = some d → exec (.hookNotReturned pair) s = .next { s with m := c1 })) ∧
    (∀ b, s.m.fw.erasing = some b → exec .fwEraseDone s = .next { s with m :=
      (setBank b { factory := false, chunks := [] } { s.m with fw := { s.m.fw with erasing := none } }) }) ∧
    (∀ pair : BitVec 1, thas s.m.fw.bad pair.toNat = false →
      (thas s.m.fw.bad (1 - pair.toNat) = true → exec (.fwLockstep pair) s = .next { s with m :=
        (moduleFail (pairSource pair.toNat) St.fwLockstep s.m) }) ∧
      (thas s.m.fw.bad (1 - pair.toNat) = false → (∀ d, d < 2 → dutyPair s.m d = pair.toNat → hookRun s.m d = none) →
        exec (.fwLockstep pair) s = .next { s with m := (nextHook 1 (nextHook 0 (emit (pairSource pair.toNat) St.fwLockstep none []
          { s.m with fw := { s.m.fw with bad := tput s.m.fw.bad pair.toNat true } }))) })) ∧
    (∀ (pair : BitVec 1) d r dt c1, pairDuty s.m pair.toNat = some d → hookRun s.m d = some r → dt = now s.m - r.at_ →
      c1 = setObj 0x5C81 4 r.call.hook (min dt 0xFFFFFFFF) (setRun d none s.m) →
      (∀ a0, r.late = true → exec (.hookReturn pair a0) s = .next { s with m := nextHook 0 (nextHook 1 c1) }) ∧
      (∀ a0, r.late = false → dt ≤ hookDeadline c1 r.call.hook → r.call.hook ≠ Hk.rate →
        exec (.hookReturn pair a0) s = .next { s with m := nextHook 0 (nextHook 1 (afterHook r.call.hook false pair.toNat c1)) }) ∧
      (∀ a0, r.late = false → hookDeadline c1 r.call.hook < dt →
        exec (.hookReturn pair a0) s = .next { s with m := nextHook 0 (nextHook 1 (countLate r.call pair.toNat c1)) }) ∧
      (r.late = false → exec (.fwHookLate pair) s = .next { s with m :=
        (countLate r.call pair.toNat (setRun d (some { r with late := true }) s.m)) })) ∧
    (s.m.life.powered = true →
      exec (.debugTap .idcode) s = .next { s with m := send (.tdo (leBytes 4 0x188050A7)) s.m } ∧
      exec (.debugTap .reset) s = .next s ∧
      (∀ bits b c1, freeBytes bits.length s.m = (b, c1) → exec (.debugTap (.boundaryScan bits)) s = .next { s with m := send (.tdo b) c1 }) ∧
      (s.m.fuse.debug = 0 → ∀ bits b c1, freeBytes bits.length s.m = (b, c1) →
        exec (.debugTap (.internalScan bits)) s = .next { s with m := send (.tdo b) c1 } ∧
        exec (.debugTap (.cobblerDebug bits)) s = .next { s with m := send (.tdo b) c1 }) ∧
      (s.m.fuse.debug ≠ 0 → ∀ bits,
        exec (.debugTap (.internalScan bits)) s = .next { s with m := bypass bits s.m } ∧
        exec (.debugTap (.cobblerDebug bits)) s = .next { s with m := bypass bits s.m } ∧
        exec (.debugTap .debugReset) s = .next s) ∧
      (s.m.fuse.debug = 0 → exec (.debugTap .debugReset) s = .next { s with m :=
        (moduleReset { s.m with life := { s.m.life with resetAt := some (now s.m), resetKind := 2 } }) }))

/-- State.reset meets Inv; its memory lists nothing, its queue is empty, every dictionary object that is held as a
value has its table's default, every thread is EMPTY, every tag FREE, every queue disabled, and the module is in
BOOT. What an unlisted byte reads as is the model's choice (log 4).
(derived: 22_startup_and_insertion.md, 02_time_and_stitches.md, R676, R36) -/
def Obligations.ResetMeetsInvariant : Prop :=
  Inv State.reset ∧ State.reset.m.mem.bytes = [] ∧ State.reset.pending = [] ∧
    (∀ idx sub item, obj State.reset.m idx sub item = objDflt idx sub) ∧ (∀ t, (hart State.reset.m t).state = .empty) ∧
    (∀ v, (tagOf State.reset.m v).state = .free) ∧ (∀ q, (queue State.reset.m q).state = 0) ∧ State.reset.m.life.mstate = MState.boot ∧
    State.reset.m.pair.state = PSt.unpaired ∧ State.reset.m.mbx.busy = false

/-- From every state that meets Inv, whatever commands wait, a step that answers a next state answers one that meets
Inv: memory, poison marks and line marks stay in their one canonical form, the module state stays one of Table
22-1, and both fuse tables stay canonical.
(derived: 08_memory_hierarchy.md, 22_startup_and_insertion.md, 19_partitions_keys_attestation.md, R673, R636) -/
def Obligations.EveryStepKeepsInvariant : Prop :=
  ∀ s s' : State, Inv s → step s = .next s' → Inv s'

/-- From every state that meets Inv, whatever commands wait, a step that answers a next state leaves set every bit
that was set in every fuse word of both margins' tables: bits can only be set.
(derived: 19_partitions_keys_attestation.md, R636) -/
def Obligations.FuseBitsOnlySet : Prop :=
  ∀ s s' : State, Inv s → step s = .next s' → ∀ w i : Nat,
    ((tget 0 s.m.fuse.low w).testBit i = true → (tget 0 s'.m.fuse.low w).testBit i = true) ∧
    ((tget 0 s.m.fuse.high w).testBit i = true → (tget 0 s'.m.fuse.high w).testBit i = true)

/-- For every state the step answers a next state: every row of the table has its effect, or no effect where its state
conditions fail, and stops nothing.
(derived: 95_what_each_step_holds.md) -/
def Obligations.EveryCommandAnswersANextState : Prop :=
  ∀ s : State, ∃ t, step s = .next t

/-- Whatever is written at an address of a canonical memory, with or without poison: a byte inside the range reads as
written, every byte outside reads as before, the range reads back whole, and the memory is canonical again, as it
is after a range is cleared, whose bytes then read as 0.
(derived: 08_memory_hierarchy.md, 00_scope.md, R278, R9) -/
def Obligations.MemoryReadsBackWhatIsWritten : Prop :=
  ∀ (c : Chip) (a : Nat) (bs : Bytes) (p : Bool), c.mem.wf = true →
    (∀ j, memByte (memWrite a bs p c) j = if a ≤ j ∧ j < a + bs.length then nth 0 bs (j - a) else memByte c j) ∧
    memRead (memWrite a bs p c) a bs.length = bs ∧ (memWrite a bs p c).mem.wf = true ∧
    (∀ n j, memByte (memClear a n c) j = if a ≤ j ∧ j < a + n then 0 else memByte c j) ∧
    (∀ n, (memClear a n c).mem.wf = true)

/-- A STORE that issues, reaches local memory and meets no error completes, in every state whose memory is canonical
and that has no poison or vital error pending: every byte outside the local ranges it reaches reads as before; a
store of one range writes the operand's bytes; its own thread keeps every register, counts the instruction and
goes past itself; every other loaded thread keeps every register but a reservation; queues, blazes, the
dictionary, the links, the pair, the clock and the waiting commands are unchanged.
(derived: 04_threads_and_address_space.md, R133, R135) -/
def Obligations.StoreChangesOnlyItsBytes : Prop :=
  ∀ (s : State) (t : Thread) (c1 c2 : Chip) rs1 rs2 imm size fp comp ss v, Inv s → issues t s.m c1 →
    s.m.flt.fatal = none → s.m.pair.poisonTaken = false →
    v = (if fp then tget 0 (hart s.m t.toNat).f rs2.toNat else readX (hart s.m t.toNat) rs2.toNat) →
    reach t.toNat .store (effAddr (hart s.m t.toNat) rs1.toNat imm) (2 ^ size.toNat) c1 = (c2, .here ss) → inRegs ss = false →
    ∃ s', exec (.store t rs1 rs2 imm size fp comp []) s = .next s' ∧
      (∀ a, (∀ x ∈ ss, a < unalias (groveOf t.toNat) (x.pa % 2 ^ 44) ∨ unalias (groveOf t.toNat) (x.pa % 2 ^ 44) + x.len ≤ a) →
        memByte s'.m a = memByte s.m a) ∧
      (∀ x i, ss = [x] → i < x.len → i < 2 ^ size.toNat →
        memByte s'.m (unalias (groveOf t.toNat) (x.pa % 2 ^ 44) + i) = nth 0 (leBytes (2 ^ size.toNat) v.toNat) i) ∧
      (∃ r, hart s'.m t.toNat = advance (if comp then 2 else 4) { hart s.m t.toNat with lr := r }) ∧
      (∀ u, u ≠ t.toNat → (hart s.m u).state ≠ .empty → ∃ r, hart s'.m u = { hart s.m u with lr := r }) ∧
      s'.m.queues = s.m.queues ∧ s'.m.blz = s.m.blz ∧ s'.m.dict = s.m.dict ∧ s'.m.lnk = s.m.lnk ∧ s'.m.pair = s.m.pair ∧
      s'.m.time = s.m.time ∧ s'.m.life = s.m.life ∧ s'.m.fuse = s.m.fuse ∧ s'.pending = s.pending

/-- A LOAD that issues, reaches local memory and meets no error and no poison completes, in every state that has no
poison or vital error pending: its thread takes the value of the bytes read into its destination register (x0
discards it), counts the instruction and goes past itself; all of memory, every other thread, the queues, the
blazes, the dictionary, the links, the pair, the clock and the waiting commands are unchanged.
(derived: 04_threads_and_address_space.md, R133, R135) -/
def Obligations.LoadChangesOnlyItsRegister : Prop :=
  ∀ (s : State) (t : Thread) (c1 c2 : Chip) rd rs1 imm size uns fp comp ss, issues t s.m c1 →
    s.m.flt.fatal = none → s.m.pair.poisonTaken = false →
    reach t.toNat .load (effAddr (hart s.m t.toNat) rs1.toNat imm) (2 ^ size.toNat) c1 = (c2, .here ss) → inRegs ss = false →
    firstPoison s.m t.toNat ss = none →
    ∃ s', exec (.load t rd rs1 imm size uns fp comp []) s = .next s' ∧
      hart s'.m t.toNat = takeLoad rd.toNat size.toNat uns fp (if comp then 2 else 4) (readSegs s.m (groveOf t.toNat) ss) (hart s.m t.toNat) ∧
      (∀ u, u ≠ t.toNat → hart s'.m u = hart s.m u) ∧ s'.m.mem = s.m.mem ∧
      s'.m.queues = s.m.queues ∧ s'.m.blz = s.m.blz ∧ s'.m.dict = s.m.dict ∧ s'.m.lnk = s.m.lnk ∧ s'.m.pair = s.m.pair ∧
      s'.m.time = s.m.time ∧ s'.m.life = s.m.life ∧ s'.m.fuse = s.m.fuse ∧ s'.pending = s.pending

/-- A source that writes a record (one that R566 does not suppress) adds it to the collector with a time that is after
its previous stamp; where the previous stamp is the present nanosecond, the time is the next nanosecond; the stamp
becomes the source's previous one, so the next record of that source is later again, whatever happened between
that kept it.
(stated: R37) -/
def Obligations.RecordsOfASourceAreStampedInOrder : Prop :=
  ∀ (src : Source) (st : Status) (part : Option Nat) (detail : List Nat) (c : Chip),
    ((classByte st = 5 ∨ classByte st = 7 ∨ st = St.fltSuppressReport) ∨ tget 0 c.flt.written src.toNat < 64) →
    ∃ r : Rec, (emitRaw src st part detail c).flt.inflight = c.flt.inflight ++ [r] ∧ r.source = src ∧ r.status = st ∧
      (∀ l, tget none (c.flt.lastStamp.map fun e => (e.1, some e.2)) src.toNat = some l →
        l < r.time ∧ (l = now c → r.time = now c + 1)) ∧
      (∀ c' st' part' detail', c'.flt.lastStamp = (emitRaw src st part detail c).flt.lastStamp →
        r.time < (mkRec c' src st' part' detail' (stampFor c' src)).time ∧
        (now c' = r.time → (mkRec c' src st' part' detail' (stampFor c' src)).time = r.time + 1))

/-- A request of any requester that reaches its service and names another incarnation is answered with
FDP_STALE_INCARNATION and recorded as a fault with that status, and nothing else of the module changes; IDENTIFY
is served whatever INCARNATION holds; any other request is served only where INCARNATION equals the present value.
(stated: R98) -/
def Obligations.StaleRequestsAreNotActedOn : Prop :=
  ∀ (who : Requester) (m : DMsg) (sd : Side) (c c1 : Chip), dictServed c = true → beginReq who m c = some c1 →
    countsOk m.svc m.req.count.toNat m.req.payload.length = true → (keptOf c1 who).find? (fun k => k.msg.req.reqId == m.req.reqId) = none →
    (m.svc ≠ 8 → m.req.inc ≠ c1.life.incarnation → serve who m sd c = respond true who m ⟨St.fdpStaleIncarnation, false, []⟩
      (emit (dictSource c1) St.fdpStaleIncarnation none (staleDetail who m) c1)) ∧
    ((m.svc = 8 ∨ m.req.inc = c1.life.incarnation) → ∀ r keep parts c2, service who m sd c1 = (r, keep, parts, c2) →
      defersAnswer m.req.index.toNat parts = false →
      serve who m sd c = afterResponse parts m.req.index.toNat (respond keep who m r (settle c2)))

/-- A request of any requester whose REQ_ID an answer is kept under is answered with the kept response if its content
is the same, and with FDP_ID_REUSED if it differs; nothing of the module changes but what sending the response
does, and no answer is kept again.
(derived: 03_object_dictionary.md, R104) -/
def Obligations.KeptRequestsAreNotActedOnAgain : Prop :=
  ∀ (who : Requester) (m : DMsg) (sd : Side) (c c1 : Chip) (k : Kept), dictServed c = true → beginReq who m c = some c1 →
    countsOk m.svc m.req.count.toNat m.req.payload.length = true →
    (keptOf c1 who).find? (fun k => k.msg.req.reqId == m.req.reqId) = some k →
    (sameReq k.msg m = true → serve who m sd c = sendResp who m k.resp c1) ∧
    (sameReq k.msg m = false → serve who m sd c = sendResp who m ⟨St.fdpIdReused, false, []⟩ c1)

/-- THREAD_START, THREAD_STOP, THREAD_CLASS and TAG_QUOTA naming a thread on a grove outside the calling partition
fail with SBI_ERR_DENIED and THREAD_NOT_OWNED; THREAD_START on a thread of the partition that is not EMPTY fails
with SBI_ERR_ALREADY_STARTED and THREAD_BUSY; nothing else changes.
(stated: R127) -/
def Obligations.ThreadServicesCheckTheirThread : Prop :=
  ∀ (s : State) (t : Thread) (c1 : Chip) (p x : Nat), issues t s.m c1 → (hart c1 t.toNat).priv = 1 → threadPart c1 t.toNat = some p →
    x = argOf c1 t.toNat 10 →
    (threadPart c1 x ≠ some p → ∀ i, (i = .threadStart t ∨ i = .threadStop t ∨ i = .threadClass t ∨ i = .tagQuota t) →
      exec i s = .next { s with m := settle (sbiRet t.toNat Sbi.denied St.threadNotOwned.toNat c1) }) ∧
    (x < 16384 → threadPart c1 x = some p → (hart c1 x).state ≠ .empty →
      exec (.threadStart t) s = .next { s with m := settle (sbiRet t.toNat Sbi.alreadyStarted St.threadBusy.toNat c1) })

/-- A CSR write of satp that issues, from S or M mode and not kept out, puts the whole value (its ASID of 16 bits
included) into satp where its MODE is 0 or 10, and leaves satp as it was for every other mode; rd takes the old
value either way. MODE 10 and its ASID read back.
(stated: R140) -/
def Obligations.SatpAcceptsTwoModes : Prop :=
  ∀ (s : State) (t : Thread) (c1 : Chip) rd rs1 v, issues t s.m c1 → 1 ≤ (hart c1 t.toNat).priv → keptOut (hart c1 t.toNat) = false →
    v = readX (hart c1 t.toNat) rs1.toNat →
    ((bitsOf v.toNat 63 60 = 0 ∨ bitsOf v.toNat 63 60 = 10) → exec (.satpWrite t rd rs1) s = .next { s with m := (modHart t.toNat (fun h =>
      advance 4 (writeX rd.toNat (BitVec.ofNat 64 (csrRead c1 t.toNat Csr.satp)) (writeCsr Csr.satp v h))) c1) }) ∧
    (bitsOf v.toNat 63 60 ≠ 0 → bitsOf v.toNat 63 60 ≠ 10 → exec (.satpWrite t rd rs1) s = .next { s with m := (modHart t.toNat (fun h =>
      advance 4 (writeX rd.toNat (BitVec.ofNat 64 (csrRead c1 t.toNat Csr.satp)) h)) c1) }) ∧
    (∀ h : Hart, bitsOf v.toNat 63 60 = 10 → readCsr (writeCsr Csr.satp v h) Csr.satp = v ∧
      bitsOf (readCsr (writeCsr Csr.satp v h) Csr.satp).toNat 59 44 = v.toNat / 2 ^ 44 % 2 ^ 16)

/-- TWAIT, TWAITR, TTEST and TREAP of a tag that another thread took (or on another grove) raise cause 24 with
TAG_NOT_OWNER, and of a FREE tag with TAG_NOT_ISSUED; the exception is the entry's whole effect, so only the
thread that took a tag waits on it, tests it or reaps it.
(stated: R154) -/
def Obligations.OnlyTheOwnerUsesATag : Prop :=
  ∀ (s : State) (t : Thread) (c1 : Chip) rd rs1 v, issues t s.m c1 → v = (readX (hart c1 t.toNat) rs1.toNat).toNat → v < 65536 →
    ∀ st, ((tagOf c1 v).state = .free ∧ st = St.tagNotIssued ∨
        (tagOf c1 v).state ≠ .free ∧ (v / 256 ≠ groveOf t.toNat ∨ (tagOf c1 v).owner ≠ t.toNat) ∧ st = St.tagNotOwner) →
      exec (.twait t rd rs1) s = .next { s with m := extFault t.toNat (rType 0 0 rs1.toNat 0 rd.toNat 0x5B) st c1 } ∧
      exec (.twaitr t rd rs1) s = .next { s with m := extFault t.toNat (rType 1 0 rs1.toNat 0 rd.toNat 0x5B) st c1 } ∧
      exec (.ttest t rd rs1) s = .next { s with m := extFault t.toNat (rType 2 0 rs1.toNat 0 rd.toNat 0x5B) st c1 } ∧
      exec (.treap t rd rs1) s = .next { s with m := extFault t.toNat (rType 3 0 rs1.toNat 0 rd.toNat 0x5B) st c1 }

/-- A pop of a queue that is not ENABLED delivers nothing and sets STOPPED; else one of an empty queue delivers
nothing; else one whose head packet is bound to another thread delivers nothing and sets BOUND; each of these
changes nothing. In every other case it delivers the word at the head cell and head word, with VALID set, and
takes 1 from DEPTH; when that word is word 31 of its cell or the last of the packet, the cell becomes free, with
the next generation, behind all freed before it, and HELD falls by 1.
(stated: R316) -/
def Obligations.PopIsDecidedInOrder : Prop :=
  ∀ (c : Chip) (t q : Nat) (u : Queue), u = queue c q →
    (∀ par ecc, u.state ≠ 1 → ∃ tag, popWord t q par ecc c = (0, tag, c) ∧ tag.getLsbD 4 = true ∧ tag.getLsbD 0 = false) ∧
    (∀ par ecc, u.state = 1 → u.depth = 0 → ∃ tag, popWord t q par ecc c = (0, tag, c) ∧ tag.getLsbD 4 = false ∧ tag.getLsbD 0 = false) ∧
    (∀ par ecc b, u.state = 1 → u.depth ≠ 0 → u.bound = some b → b ≠ t →
      ∃ tag, popWord t q par ecc c = (0, tag, c) ∧ tag.getLsbD 3 = true ∧ tag.getLsbD 0 = false) ∧
    (∀ p rest k, u.state = 1 → u.depth ≠ 0 → (∀ b, u.bound = some b → b = t) → u.pkts = p :: rest → k = nth 0 p.cells (u.popped / 32) →
      ∃ v tag c2, popWord t q false [] c = (v, tag, c2) ∧ v = tget 0 (cell c k).words (u.popped % 32) ∧ tag.getLsbD 0 = true ∧
        tag.getLsbD 2 = decide (u.popped + 1 = p.len) ∧
        (queue c2 q).depth = u.depth - 1 ∧
        (u.popped % 32 = 31 ∨ u.popped + 1 = p.len → (queue c2 q).held = u.held - 1) ∧
        (¬ (u.popped % 32 = 31 ∨ u.popped + 1 = p.len) → (queue c2 q).held = u.held) ∧
        (u.popped % 32 = 31 ∨ u.popped + 1 = p.len → c2.pool.freed = c.pool.freed ++ [k] ∧
          (cell c2 k).free = true ∧ (cell c2 k).gen = ((cell c k).gen + 1) % 256) ∧
        (¬ (u.popped % 32 = 31 ∨ u.popped + 1 = p.len) → c2.pool = c.pool))

/-- A BCLR that issues and finds its blaze clear completes with 0x0601 in rd: no blaze is set or cleared and none
changes its set count or its last set and clear, the blaze counts one more underflow up to 0xFFFF, and so does the
module-wide counter up to its largest value; memory and queues are unchanged. A BWAITC, whatever it finds, leaves
the underflow counts as they are.
(stated: R347) -/
def Obligations.ClearOfAClearBlazeUnderflows : Prop :=
  ∀ (s : State) (t : Thread) (c1 : Chip) (rs1 : RegNo) (v p n : Nat) rd, issues t s.m c1 → v = (readX (hart c1 t.toNat) rs1.toNat).toNat →
    blazeReserved v = false → blazeRemote c1 v = none → threadPart c1 t.toNat = some p → blazeAt c1 p (v % 512) = some n →
    ((blaze c1 n).set = false → ∃ c2, exec (.bclr t rd rs1) s = .next { s with m := retire t.toNat rd.toNat 0x0601 c2 } ∧
      (∀ k, (blaze c2 k).set = (blaze c1 k).set ∧ (blaze c2 k).setCount = (blaze c1 k).setCount ∧
        (blaze c2 k).lastSetId = (blaze c1 k).lastSetId ∧ (blaze c2 k).lastSetTime = (blaze c1 k).lastSetTime ∧
        (blaze c2 k).lastClrId = (blaze c1 k).lastClrId ∧ (blaze c2 k).lastClrTime = (blaze c1 k).lastClrTime) ∧
      (∀ k, (blaze c2 k).underflows = if k = n then min 0xFFFF ((blaze c1 n).underflows + 1) else (blaze c1 k).underflows) ∧
      obj c2 0x2400 3 = min (2 ^ 32 - 1) (obj c1 0x2400 3 + 1) ∧ c2.harts = c1.harts ∧ c2.mem = c1.mem ∧ c2.queues = c1.queues) ∧
    (∃ s', exec (.bwaitc t rd rs1) s = .next s' ∧ obj s'.m 0x2400 3 = obj c1 0x2400 3 ∧
      ((blaze c1 n).set = false → s'.m.blz = c1.blz) ∧ s'.m.flt = c1.flt)

end
end

