-- ==== Sys2Proof/Laws/Tables.lean ====
section
/-! SUPPORT. The canonical form of a table and the operations that keep it. -/
namespace Sys2Proof.Machine

theorem twf_tail {α : Type} [DecidableEq α] {d : α} {e : Nat × α} {r : Tbl α} (h : twf d (e :: r) = true) :
    twf d r = true := by
  obtain ⟨k, v⟩ := e
  cases r with
  | nil => rfl
  | cons b r => simp [twf] at h; exact h.2

/-- A table in canonical form is one with a non-default first value, a canonical rest, and keys below the rest's. -/
theorem twf_cons {α : Type} [DecidableEq α] {d : α} {k : Nat} {v : α} {r : Tbl α} :
    twf d ((k, v) :: r) = true ↔ v ≠ d ∧ twf d r = true ∧ ∀ e ∈ r, k < e.1 := by
  induction r generalizing k v with
  | nil => simp [twf]
  | cons b r ih =>
    obtain ⟨k', v'⟩ := b
    simp only [twf, Bool.and_eq_true, decide_eq_true_eq, List.mem_cons, forall_eq_or_imp]
    constructor
    · rintro ⟨⟨h1, h2⟩, h3⟩
      refine ⟨h1, h3, h2, fun e he => Nat.lt_trans h2 ((ih.mp h3).2.2 e he)⟩
    · rintro ⟨h1, h3, h2, _⟩; exact ⟨⟨h1, h2⟩, h3⟩

theorem mem_terase {α : Type} {t : Tbl α} {k : Nat} {e : Nat × α} (h : e ∈ terase t k) : e ∈ t := by
  induction t with
  | nil => simp [terase] at h
  | cons b r ih =>
    obtain ⟨k', v⟩ := b
    simp only [terase] at h
    split at h
    · exact List.mem_cons_of_mem _ h
    · split at h
      · exact h
      · rcases List.mem_cons.mp h with h | h
        · exact h ▸ List.mem_cons_self
        · exact List.mem_cons_of_mem _ (ih h)

theorem mem_tins {α : Type} {t : Tbl α} {k : Nat} {v : α} {e : Nat × α} (h : e ∈ tins t k v) : e = (k, v) ∨ e ∈ t := by
  induction t with
  | nil => simpa [tins] using h
  | cons b r ih =>
    obtain ⟨k', v'⟩ := b
    simp only [tins] at h
    split at h
    · rcases List.mem_cons.mp h with h | h
      · exact .inl h
      · exact .inr (List.mem_cons_of_mem _ h)
    · split at h
      · rcases List.mem_cons.mp h with h | h
        · exact .inl h
        · exact .inr h
      · rcases List.mem_cons.mp h with h | h
        · exact .inr (h ▸ List.mem_cons_self)
        · rcases ih h with h | h
          · exact .inl h
          · exact .inr (List.mem_cons_of_mem _ h)

theorem terase_wf {α : Type} [DecidableEq α] {d : α} {t : Tbl α} {k : Nat} (h : twf d t = true) :
    twf d (terase t k) = true := by
  induction t with
  | nil => rfl
  | cons b r ih =>
    obtain ⟨k', v⟩ := b
    have hc := twf_cons.mp h
    simp only [terase]
    split
    · exact hc.2.1
    · split
      · exact h
      · exact twf_cons.mpr ⟨hc.1, ih hc.2.1, fun e he => hc.2.2 e (mem_terase he)⟩

theorem tins_wf {α : Type} [DecidableEq α] {d : α} {t : Tbl α} {k : Nat} {v : α} (hv : v ≠ d) (h : twf d t = true) :
    twf d (tins t k v) = true := by
  induction t with
  | nil => simp [tins, twf, hv]
  | cons b r ih =>
    obtain ⟨k', v'⟩ := b
    have hc := twf_cons.mp h
    simp only [tins]
    split
    · rename_i hk
      exact twf_cons.mpr ⟨hv, hc.2.1, fun e he => hk ▸ hc.2.2 e he⟩
    · split
      · rename_i hlt
        refine twf_cons.mpr ⟨hv, h, fun e he => ?_⟩
        rcases List.mem_cons.mp he with he | he
        · exact he ▸ hlt
        · exact Nat.lt_trans hlt (hc.2.2 e he)
      · refine twf_cons.mpr ⟨hc.1, ih hc.2.1, fun e he => ?_⟩
        rcases mem_tins he with he | he
        · subst he; simp; omega
        · exact hc.2.2 e he

/-- A write keeps the canonical form. -/
theorem tset_wf {α : Type} [DecidableEq α] {d : α} {t : Tbl α} {k : Nat} {v : α} (h : twf d t = true) :
    twf d (tset d t k v) = true := by
  unfold tset; split
  · exact terase_wf h
  · exact tins_wf ‹_› h

/-- Removing entries keeps the canonical form. -/
theorem filter_wf {α : Type} [DecidableEq α] {d : α} {t : Tbl α} {p : Nat × α → Bool} (h : twf d t = true) :
    twf d (t.filter p) = true := by
  induction t with
  | nil => rfl
  | cons b r ih =>
    obtain ⟨k', v⟩ := b
    have hc := twf_cons.mp h
    simp only [List.filter]
    split
    · exact twf_cons.mpr ⟨hc.1, ih hc.2.1, fun e he => hc.2.2 e ((List.mem_filter.mp he).1)⟩
    · exact ih hc.2.1

theorem tdrop_wf {α : Type} [DecidableEq α] {d : α} {t : Tbl α} {lo hi : Nat} (h : twf d t = true) :
    twf d (tdrop t lo hi) = true := filter_wf h

theorem tput_wf {t : Tbl Bool} {k : Nat} {b : Bool} (h : twf false t = true) : twf false (tput t k b) = true := tset_wf h

/-- What a table reads as after a write: the value under the key written, and every other key as before. -/
theorem tget_terase {α : Type} [DecidableEq α] {d : α} {t : Tbl α} {k j : Nat} (h : twf d t = true) :
    tget d (terase t k) j = if j = k then d else tget d t j := by
  induction t with
  | nil => simp [terase, tget]
  | cons b r ih =>
    obtain ⟨k', v⟩ := b
    have hc := twf_cons.mp h
    have low : ∀ j, j ≤ k' → tget d r j = d := by
      intro j hj
      cases r with
      | nil => rfl
      | cons b r =>
        obtain ⟨k2, v2⟩ := b
        have := hc.2.2 (k2, v2) List.mem_cons_self
        simp only [tget]; simp at this
        rw [if_neg (by omega), if_pos (by omega)]
    simp only [terase]
    split
    · rename_i hk; subst hk
      by_cases hj : j = k
      · subst hj; simp [low j (Nat.le_refl _)]
      · simp only [tget, hj, if_false]
        split
        · exact low j (by omega)
        · rfl
    · split
      · by_cases hj : j = k
        · subst hj; simp only [tget, if_true]
          rw [if_neg (by omega), if_pos (by omega)]
        · simp [hj]
      · simp only [tget, ih hc.2.1]
        by_cases hj : j = k
        · subst hj; simp only [if_true]
          rw [if_neg (by omega), if_neg (by omega)]
        · simp [hj]

theorem tget_tins {α : Type} {d : α} {t : Tbl α} {k j : Nat} {v : α} :
    tget d (tins t k v) j = if j = k then v else tget d t j := by
  induction t with
  | nil => simp only [tins, tget]; split <;> simp
  | cons b r ih =>
    obtain ⟨k', v'⟩ := b
    simp only [tins]
    split
    · rename_i hk; subst hk; simp only [tget]; split <;> rfl
    · split
      · simp only [tget]
        by_cases hj : j = k
        · simp [hj]
        · simp only [hj, if_false]
          by_cases h1 : j < k
          · rw [if_pos h1, if_neg (by omega), if_pos (by omega)]
          · simp [h1]
      · simp only [tget, ih]
        by_cases hj : j = k
        · subst hj; rw [if_neg (by omega), if_neg (by omega)]; simp
        · simp [hj]

/-- A table after a write reads as the value written at that key and as before at every other. -/
theorem tget_tset {α : Type} [DecidableEq α] {d : α} {t : Tbl α} {k j : Nat} {v : α} (h : twf d t = true) :
    tget d (tset d t k v) j = if j = k then v else tget d t j := by
  unfold tset; split
  · rename_i hv; rw [tget_terase h, hv]
  · exact tget_tins

theorem forSpan_wf {lo n : Nat} {t : Tbl Bool} {f : Tbl Bool → Nat → Tbl Bool} (h : twf false t = true)
    (hf : ∀ t k, twf false t = true → twf false (f t k) = true) : twf false (forSpan lo n t f) = true := by
  induction n generalizing lo t with
  | zero => exact h
  | succ n ih => exact ih (hf _ _ h)

end Sys2Proof.Machine
end

