-- ==== Sys2Proof/Laws/Dict.lean ====
section
/-! SUPPORT. What the dictionary engine does with a request that it accepts, once for all rows that are one. -/
namespace Sys2Proof.Machine

theorem leBytes_length (n v : Nat) : (leBytes n v).length = n := by
  induction n generalizing v with
  | zero => rfl
  | succ n ih => simp [leBytes, ih]

theorem leNat_leBytes (n v : Nat) (h : v < 256 ^ n) : leNat (leBytes n v) = v := by
  induction n generalizing v with
  | zero => simp at h; subst h; rfl
  | succ n ih =>
    have h2 : v / 256 < 256 ^ n := by
      rw [Nat.pow_succ] at h
      exact Nat.div_lt_of_lt_mul (by omega)
    simp only [leBytes, leNat, ih _ h2, BitVec.toNat_ofNat]
    omega

theorem leBytes_leNat (bs : Bytes) : leBytes bs.length (leNat bs) = bs := by
  induction bs with
  | nil => rfl
  | cons b bs ih =>
    have hb := b.isLt
    have h1 : BitVec.ofNat 8 (b.toNat + 256 * leNat bs) = b := by
      apply BitVec.eq_of_toNat_eq; simp only [BitVec.toNat_ofNat]; omega
    have h2 : (b.toNat + 256 * leNat bs) / 256 = leNat bs := by omega
    simp only [List.length_cons, leBytes, leNat, h1, h2, ih]

/-- A counter that counted one is not 0. -/
theorem satAdd_pos {w v : Nat} (hw : 1 ≤ w) : satAdd w v 1 ≠ 0 := by
  unfold satAdd
  have : 2 ^ 1 ≤ 2 ^ w := Nat.pow_le_pow_right (by omega) hw
  split <;> omega

/-- The dictionary after an object was set to a value that is not its default. -/
theorem obj_setObj {idx sub item v : Nat} {c : Chip} (h : v ≠ objDflt idx sub) (i s t : Nat) :
   obj (setObj idx sub item v c) i s t = if objKey i s t = objKey idx sub item then v else obj c i s t := by
  unfold setObj
  dsimp only
  rw [if_neg h]
  unfold obj
  show (tget (none : Option Nat) (tset none c.dict.vals _ (some v)) _).getD _ = _
  unfold tset
  rw [if_neg (by simp), tget_tins]
  by_cases hk : objKey i s t = objKey idx sub item
  · rw [if_pos hk, if_pos hk]; rfl
  · rw [if_neg hk, if_neg hk]

/-- An accepted request is served once, and answered. -/
theorem serve_accepted {who : Requester} {m : DMsg} {sd : Side} {c c1 c2 : Chip} {r : Resp} {keep : Bool}
    {parts : List (Nat × Nat)} (ha : accepted who m c c1) (hs : service who m sd c1 = (r, keep, parts, c2))
    (hd : defersAnswer m.req.index.toNat parts = false) :
    serve who m sd c = afterResponse parts m.req.index.toNat (respond keep who m r (settle c2)) := by
  obtain ⟨h1, h2, h3, h4, h5⟩ := ha
  unfold serve
  rw [h1, h2]
  simp only [Bool.not_true, Bool.false_eq_true, if_false, h3, h4, h5, ne_eq, not_true, decide_false, Bool.and_false]
  rw [hs]
  simp only [hd, Bool.false_eq_true, if_false]

/-- An accepted request whose answer waits is served once. -/
theorem serve_deferred {who : Requester} {m : DMsg} {sd : Side} {c c1 c2 : Chip} {r : Resp} {keep : Bool}
    {parts : List (Nat × Nat)} (ha : accepted who m c c1) (hs : service who m sd c1 = (r, keep, parts, c2))
    (hd : defersAnswer m.req.index.toNat parts = true) : serve who m sd c = settle c2 := by
  obtain ⟨h1, h2, h3, h4, h5⟩ := ha
  unfold serve
  rw [h1, h2]
  simp only [Bool.not_true, Bool.false_eq_true, if_false, h3, h4, h5, ne_eq, not_true, decide_false, Bool.and_false]
  rw [hs]
  simp only [hd, if_true]

/-- The value of a write of one object is cut from its payload whole. -/
theorem cutValues_one {idx sub n v : Nat} {o : ObjDef} (ho : objAt idx sub = some o) (hn : o.size = n) (hv : v < 256 ^ n) :
    cutValues idx [sub] (leBytes n v) = some [(sub, v)] := by
  have hl := leBytes_length n v
  have ht : (leBytes n v).take n = leBytes n v := List.take_of_length_le (by omega)
  simp [cutValues, ho, hn, hl, ht, leNat_leBytes n v hv]

/-- A selector and one value are cut from a window write's payload whole. -/
theorem cutValues_two {idx sub sn sel : Nat} {bs : Bytes} {o1 o : ObjDef} (h1 : objAt idx 1 = some o1) (hn1 : o1.size = sn)
    (hs : sel < 256 ^ sn) (ho : objAt idx sub = some o) (hn : o.size = bs.length) :
    cutValues idx [1, sub] (leBytes sn sel ++ bs) = some [(1, sel), (sub, leNat bs)] := by
  have hl := leBytes_length sn sel
  have ht : (leBytes sn sel ++ bs).take sn = leBytes sn sel := List.take_left' hl
  have hd : (leBytes sn sel ++ bs).drop sn = bs := List.drop_left' hl
  simp [cutValues, ho, hn, h1, hn1, hl, ht, hd, leNat_leBytes sn sel hs]

/-- A doorbell written by itself acts, and the write is answered. -/
theorem serve_doorbell {who : Requester} {h : ReqHdr} {idx sub n v : Nat} {sd : Side} {c c1 : Chip} {o : ObjDef}
    (hi : idx < 65536) (hsb : sub < 256) (hw : isWindow idx = false) (ho : objAt idx sub = some o) (hn : o.size = n)
    (hcls : o.cls = 6) (hpers : o.pers ≠ 1) (hv : v < 256 ^ n) (ha : accepted who (oneWrite h idx sub n v) c c1)
    (hp : writePasses who idx sub 0 v sd.plain c1) :
    serve who (oneWrite h idx sub n v) sd c =
      answered who (oneWrite h idx sub n v) idx [(sub, v)]
        (actPart who 2 (oneWrite h idx sub n v).req sd idx sub 0 v (stamped 0 c1)) := by
  have hx : (oneWrite h idx sub n v).req.index.toNat = idx := by simp [oneWrite, Nat.mod_eq_of_lt hi]
  have hs : (oneWrite h idx sub n v).req.sub.toNat = sub := by simp [oneWrite, Nat.mod_eq_of_lt hsb]
  have hc : (oneWrite h idx sub n v).req.count.toNat = 1 := rfl
  have hpl : (oneWrite h idx sub n v).req.payload = leBytes n v := rfl
  have hobj : (objsAt idx).isNone = false := by
    unfold objAt at ho; split at ho <;> simp_all
  have hsp : spanCheck idx [sub] = St.ok := by simp [spanCheck, hobj, ho]
  have hlost : partLost sd idx sub = false := by simp [partLost, clsOf, ho, hcls]
  have hcount : storedCount idx [(sub, v)] = 0 := by simp [storedCount, ho, hpers]
  unfold writePasses at hp
  have hserv : service who (oneWrite h idx sub n v) sd c1 =
      (⟨St.ok, false, []⟩, true, [(sub, v)], actPart who 2 (oneWrite h idx sub n v).req sd idx sub 0 v (stamped 0 c1)) := by
    show serveWrite who 2 (oneWrite h idx sub n v).req sd c1 = _
    unfold serveWrite
    simp only [hx, hs, hc, hpl, span, cutValues_one ho hn hv, hsp, ne_eq, not_true, if_false]
    unfold writeParts
    simp only [itemOf, hw, Bool.false_eq_true, if_false, hp, hcount, ne_eq, not_true, decide_false, Bool.false_and, List.any_cons,
      List.any_nil, Bool.or_false, hlost, List.foldl_cons, List.foldl_nil, applyPart, clsOf, ho, Option.map_some, Option.getD_some, hcls]
    rfl
  have hdef : defersAnswer (oneWrite h idx sub n v).req.index.toNat [(sub, v)] = false := by
    rw [hx]; simp only [defersAnswer]
    have : idx ≠ 0x5C43 := by intro e; subst e; simp [isWindow] at hw
    simp [this]
  rw [serve_accepted ha hserv hdef, hx]
  rfl

/-- The service of a doorbell of a window group, written with its selector: it acts on the item. -/
theorem service_windowDoorbell {who : Requester} {h : ReqHdr} {idx sub sn sel : Nat} {bs : Bytes} {sd : Side} {c1 : Chip}
    {o1 o : ObjDef} (hi : idx < 65536) (hsb : sub < 256) (hw : isWindow idx = true) (h1 : objAt idx 1 = some o1)
    (hn1 : o1.size = sn) (hcls1 : o1.cls = 1) (hpers1 : o1.pers ≠ 1) (hs1 : sel < 256 ^ sn) (ho : objAt idx sub = some o)
    (hn : o.size = bs.length) (hcls : o.cls = 6) (hpers : o.pers ≠ 1)
    (hp : windowPasses who idx sub sel (leNat bs) sd.plain c1) :
    service who (windowWrite h idx sub sn sel bs) sd c1 = (⟨St.ok, false, []⟩, true, [(1, sel), (sub, leNat bs)],
      actPart who 6 (windowWrite h idx sub sn sel bs).req sd idx sub sel (leNat bs) (setSel who idx 1 sel (stamped 0 c1))) := by
  have hx : (windowWrite h idx sub sn sel bs).req.index.toNat = idx := by simp [windowWrite, Nat.mod_eq_of_lt hi]
  have hs : (windowWrite h idx sub sn sel bs).req.sub.toNat = sub := by simp [windowWrite, Nat.mod_eq_of_lt hsb]
  have hc : (windowWrite h idx sub sn sel bs).req.count.toNat = 1 := rfl
  have hpl : (windowWrite h idx sub sn sel bs).req.payload = leBytes sn sel ++ bs := rfl
  have hobj : (objsAt idx).isNone = false := by
    unfold objAt at ho; split at ho <;> simp_all
  have hsp : spanCheck idx [sub] = St.ok := by simp [spanCheck, hobj, ho]
  have hlost : partLost sd idx sub = false := by simp [partLost, clsOf, ho, hcls]
  have hlost1 : partLost sd idx 1 = false := by simp [partLost, clsOf, h1, hcls1]
  have hcount : storedCount idx [(1, sel), (sub, leNat bs)] = 0 := by simp [storedCount, ho, hpers, h1, hpers1]
  unfold windowPasses at hp
  have hst : storePart who idx 1 sel sel (stamped 0 c1) = setSel who idx 1 sel (stamped 0 c1) := by
    unfold storePart; simp only [hw, decide_true, Bool.and_self, if_true]
  have heff : storeEffect idx 1 sel sel (setSel who idx 1 sel (stamped 0 c1)) = setSel who idx 1 sel (stamped 0 c1) := by
    unfold storeEffect
    split <;> first | rfl | exact absurd hw (by decide) | simp_all
  show serveWindowWrite who (windowWrite h idx sub sn sel bs).req sd c1 = _
  unfold serveWindowWrite
  simp only [hx, hs, hc, hpl, span, cutValues_two h1 hn1 hs1 ho hn, hsp, hw, Bool.not_true, Bool.false_eq_true, ne_eq, not_true, if_false]
  unfold writeParts
  have hitem : itemOf c1 who idx [(1, sel), (sub, leNat bs)] = sel := by simp [itemOf, hw]
  simp only [hitem, hp, hcount, ne_eq, not_true, if_false, decide_false, Bool.false_and, Bool.false_eq_true, List.any_cons,
    List.any_nil, Bool.or_false, hlost, hlost1, List.foldl_cons, List.foldl_nil]
  have e1 : applyPart who 6 (windowWrite h idx sub sn sel bs).req sd idx sel (stamped 0 c1) (1, sel) = setSel who idx 1 sel (stamped 0 c1) := by
    simp only [applyPart, hlost1, Bool.false_eq_true, if_false, clsOf, h1, Option.map_some, Option.getD_some, hcls1]
    rw [if_neg (by decide), hst, heff]
  have e2 : ∀ x, applyPart who 6 (windowWrite h idx sub sn sel bs).req sd idx sel x (sub, leNat bs) =
      actPart who 6 (windowWrite h idx sub sn sel bs).req sd idx sub sel (leNat bs) x := by
    intro x
    simp only [applyPart, hlost, Bool.false_eq_true, if_false, clsOf, ho, Option.map_some, Option.getD_some, hcls, if_true]
  have e0 : ({ c1 with dict := { c1.dict with writes := recentWrites c1 ++ List.replicate 0 (now c1) } } : Chip) = stamped 0 c1 := rfl
  simp only [e0, e1, e2]
  rfl

/-- A doorbell of a window group, written with its selector, acts on the item, and the write is answered. -/
theorem serve_windowDoorbell {who : Requester} {h : ReqHdr} {idx sub sn sel : Nat} {bs : Bytes} {sd : Side} {c c1 : Chip}
    {o1 o : ObjDef} (hi : idx < 65536) (hsb : sub < 256) (hw : isWindow idx = true) (h1 : objAt idx 1 = some o1)
    (hn1 : o1.size = sn) (hcls1 : o1.cls = 1) (hpers1 : o1.pers ≠ 1) (hs1 : sel < 256 ^ sn) (ho : objAt idx sub = some o)
    (hn : o.size = bs.length) (hcls : o.cls = 6) (hpers : o.pers ≠ 1) (hdef : defersAnswer idx [(1, sel), (sub, leNat bs)] = false)
    (ha : accepted who (windowWrite h idx sub sn sel bs) c c1) (hp : windowPasses who idx sub sel (leNat bs) sd.plain c1) :
    serve who (windowWrite h idx sub sn sel bs) sd c =
      answered who (windowWrite h idx sub sn sel bs) idx [(1, sel), (sub, leNat bs)]
        (actPart who 6 (windowWrite h idx sub sn sel bs).req sd idx sub sel (leNat bs) (setSel who idx 1 sel (stamped 0 c1))) := by
  have hx : (windowWrite h idx sub sn sel bs).req.index.toNat = idx := by simp [windowWrite, Nat.mod_eq_of_lt hi]
  rw [serve_accepted ha (service_windowDoorbell hi hsb hw h1 hn1 hcls1 hpers1 hs1 ho hn hcls hpers hp) (by rw [hx]; exact hdef), hx]
  rfl

/-- A doorbell of a window group, written with its selector, acts on the item, and its response waits (R625). -/
theorem serve_windowDeferred {who : Requester} {h : ReqHdr} {idx sub sn sel : Nat} {bs : Bytes} {sd : Side} {c c1 : Chip}
    {o1 o : ObjDef} (hi : idx < 65536) (hsb : sub < 256) (hw : isWindow idx = true) (h1 : objAt idx 1 = some o1)
    (hn1 : o1.size = sn) (hcls1 : o1.cls = 1) (hpers1 : o1.pers ≠ 1) (hs1 : sel < 256 ^ sn) (ho : objAt idx sub = some o)
    (hn : o.size = bs.length) (hcls : o.cls = 6) (hpers : o.pers ≠ 1) (hdef : defersAnswer idx [(1, sel), (sub, leNat bs)] = true)
    (ha : accepted who (windowWrite h idx sub sn sel bs) c c1) (hp : windowPasses who idx sub sel (leNat bs) sd.plain c1) :
    serve who (windowWrite h idx sub sn sel bs) sd c =
      settle (actPart who 6 (windowWrite h idx sub sn sel bs).req sd idx sub sel (leNat bs) (setSel who idx 1 sel (stamped 0 c1))) := by
  have hx : (windowWrite h idx sub sn sel bs).req.index.toNat = idx := by simp [windowWrite, Nat.mod_eq_of_lt hi]
  rw [serve_deferred ha (service_windowDoorbell hi hsb hw h1 hn1 hcls1 hpers1 hs1 ho hn hcls hpers hp) (by rw [hx]; exact hdef)]

/-- A stored or held object written by itself takes its value with what follows from it, and the write is answered. -/
theorem serve_stored {who : Requester} {h : ReqHdr} {idx sub n v k : Nat} {sd : Side} {c c1 : Chip} {o : ObjDef}
    (hi : idx < 65536) (hsb : sub < 256) (hw : isWindow idx = false) (ho : objAt idx sub = some o) (hn : o.size = n)
    (hcls : o.cls ≠ 6) (hpers : (if o.pers = 1 then 1 else 0) = k) (hv : v < 256 ^ n) (ha : accepted who (oneWrite h idx sub n v) c c1)
    (hp : writePasses who idx sub 0 v sd.plain c1) (hroom : (recentWrites c1).length + k ≤ 8) (hf : sd.env.storeFail = false)
    (hhw : sd.env.hw = []) :
    serve who (oneWrite h idx sub n v) sd c =
      answered who (oneWrite h idx sub n v) idx [(sub, v)]
        (storeEffect idx sub 0 v (storePart who idx sub 0 v (stamped k c1))) := by
  have hx : (oneWrite h idx sub n v).req.index.toNat = idx := by simp [oneWrite, Nat.mod_eq_of_lt hi]
  have hs : (oneWrite h idx sub n v).req.sub.toNat = sub := by simp [oneWrite, Nat.mod_eq_of_lt hsb]
  have hc : (oneWrite h idx sub n v).req.count.toNat = 1 := rfl
  have hpl : (oneWrite h idx sub n v).req.payload = leBytes n v := rfl
  have hobj : (objsAt idx).isNone = false := by
    unfold objAt at ho; split at ho <;> simp_all
  have hsp : spanCheck idx [sub] = St.ok := by simp [spanCheck, hobj, ho]
  have hlost : partLost sd idx sub = false := by simp [partLost, hhw]
  have hcount : storedCount idx [(sub, v)] = k := by
    subst hpers; simp [storedCount, ho, List.countP_cons]
  unfold writePasses at hp
  have hserv : service who (oneWrite h idx sub n v) sd c1 =
      (⟨St.ok, false, []⟩, true, [(sub, v)], storeEffect idx sub 0 v (storePart who idx sub 0 v (stamped k c1))) := by
    show serveWrite who 2 (oneWrite h idx sub n v).req sd c1 = _
    unfold serveWrite
    simp only [hx, hs, hc, hpl, span, cutValues_one ho hn hv, hsp, ne_eq, not_true, if_false]
    unfold writeParts
    have hroom' : ¬ 8 < (recentWrites c1).length + k := by omega
    simp only [itemOf, hw, Bool.false_eq_true, if_false, hp, hcount, ne_eq, not_true, hroom', decide_false, Bool.and_false, hf,
      List.any_cons, List.any_nil, Bool.or_false, hlost, List.foldl_cons, List.foldl_nil, applyPart, clsOf, ho, Option.map_some,
      Option.getD_some, hcls]
    rfl
  have hdef : defersAnswer (oneWrite h idx sub n v).req.index.toNat [(sub, v)] = false := by
    rw [hx]; simp only [defersAnswer]
    have : idx ≠ 0x5C43 := by intro e; subst e; simp [isWindow] at hw
    simp [this]
  rw [serve_accepted ha hserv hdef, hx]
  rfl

end Sys2Proof.Machine
end

