-- ==== Sys2Proof/Laws/Issue.lean ====
section
/-! SUPPORT. What an instruction that issues does, once for every instruction row. -/
namespace Sys2Proof.Machine

/-- An instruction that issues has exactly its own effect. -/
theorem runInsn_issues {t : Thread} {c c1 : Chip} (h : issues t c c1) (insn : Nat) (va : Option (Acc × Nat)) (f : Chip → Chip) :
    runInsn t.toNat insn va f c = f c1 := by
  obtain ⟨h1, h2, h3⟩ := h
  simp only [runInsn, hartDo, h1, h2, if_true, issueAs, h3]

/-- The answer of an instruction row whose instruction issues. -/
theorem insnAct_issues {t : Thread} {s : State} {c1 : Chip} (h : issues t s.m c1) (insn : Nat) (va : Option (Acc × Nat))
    (f : Chip → Chip) : insnAct t insn va f s = .next { s with m := f c1 } := by
  simp only [insnAct, act, runInsn_issues h]

/-- The answer of a shim service that a thread calls from S mode. -/
theorem callAct_issues {t : Thread} {s : State} {c1 : Chip} (h : issues t s.m c1) (hp : (hart c1 t.toNat).priv = 1)
    (f : Nat → Chip → Chip) : callAct t f s = .next { s with m := settle (f t.toNat c1) } := by
  simp only [callAct, act, runInsn_issues h, ecall, hp, if_true]

end Sys2Proof.Machine
end

