-- ==== Sys2Proof/Laws/Keep0.lean ====
section
/-! SUPPORT. What every operation of the module keeps (`Ok`): the memory tables in canonical form, a legal module state
code, and every fuse bit that was set; and how a record update, a fold and a pair keep it. -/
set_option linter.all false
namespace Sys2Proof.Machine
variable {F : Fuse}

/-- A fuse table in canonical form that holds every bit of another. -/
def FuseKept (a b : Tbl Nat) : Prop := twf 0 b = true ∧ ∀ k, tget 0 a k &&& tget 0 b k = tget 0 a k
/-- `Ok` over the fields it reads. -/
def OkP (F : Fuse) (b : List Host.Cell) (p l : Tbl Bool) (st : Nat) (lo hi : Tbl Nat) : Prop :=
  twf 0 b = true ∧ twf false p = true ∧ twf false l = true ∧ st ≤ 9 ∧ FuseKept F.low lo ∧ FuseKept F.high hi
/-- The memory tables are canonical, the module state is one of Table 22-2's codes, and every fuse bit set in `F` is set. -/
def Ok (F : Fuse) (c : Chip) : Prop :=
  OkP F c.mem.bytes c.mem.poison c.mem.dataLines c.life.mstate c.fuse.low c.fuse.high
/-- Programming bits keeps a fuse table's bits. -/
theorem FuseKept_tmod {a b : Tbl Nat} {k v : Nat} (h : FuseKept a b) : FuseKept a (tmod 0 b k fun x => x ||| v) := by
  refine ⟨tset_wf h.1, fun j => ?_⟩
  unfold tmod
  rw [tget_tset h.1]
  split
  · rename_i hj
    subst hj
    have := h.2 j
    rw [Nat.and_or_distrib_left, this]
    apply Nat.eq_of_testBit_eq
    intro i
    simp only [Nat.testBit_or, Nat.testBit_and]
    cases (tget 0 a j).testBit i <;> simp
  · exact h.2 j
theorem OkP_of {c : Chip} (h : Ok F c) :
    OkP F c.mem.bytes c.mem.poison c.mem.dataLines c.life.mstate c.fuse.low c.fuse.high := h
theorem OkP_state {c : Chip} {n : Nat} (h : Ok F c) (hn : n ≤ 9) :
    OkP F c.mem.bytes c.mem.poison c.mem.dataLines n c.fuse.low c.fuse.high :=
  ⟨h.1, h.2.1, h.2.2.1, hn, h.2.2.2.2⟩
theorem putBytes_wf {m : List Host.Cell} {a : Nat} {bs : Bytes} (h : twf (0 : Byte) m = true) : twf (0 : Byte) (putBytes m a bs) = true := by
  induction bs generalizing m a with
  | nil => exact h
  | cons b bs ih => exact ih (tset_wf h)
theorem putPoison_wf {p : Tbl Bool} {a n : Nat} {b : Bool} (h : twf false p = true) : twf false (putPoison p a n b) = true := by
  unfold putPoison
  refine forSpan_wf h fun t k ht => ?_
  split <;> exact tput_wf ht
theorem putLines_wf {p : Tbl Bool} {a n : Nat} (h : twf false p = true) : twf false (putLines p a n) = true := by
  unfold putLines
  split
  · exact forSpan_wf h fun t k ht => tput_wf ht
  · exact h
theorem Ok_mk {time dict fdp mbx harts saves groves host mem queues pool opens blz lnk pair kv srv vid fw flt pwr map keys sec fuse dice ctr board life moduleId outbox serial freeCtr} :
    Ok F (Chip.mk time dict fdp mbx harts saves groves host mem queues pool opens blz lnk pair kv srv vid fw flt pwr map keys sec fuse dice ctr board life moduleId outbox serial freeCtr)
      = OkP F mem.bytes mem.poison mem.dataLines life.mstate fuse.low fuse.high := rfl
theorem Ok_tput {c : Chip} {k : Nat} {b : Bool} (h : Ok F c) :
    OkP F c.mem.bytes (tput c.mem.poison k b) c.mem.dataLines c.life.mstate c.fuse.low c.fuse.high := ⟨h.1, tput_wf h.2.1, h.2.2⟩
theorem Ok_found {c : Chip} {a n l : Nat} (h : Ok F c) :
    OkP F c.mem.bytes (forSpan a n c.mem.poison fun p w => tput p w true) (tput c.mem.dataLines l true) c.life.mstate
      c.fuse.low c.fuse.high :=
  ⟨h.1, forSpan_wf h.2.1 fun _ _ ht => tput_wf ht, tput_wf h.2.2.1, h.2.2.2⟩
theorem foldl_keeps {α : Type} {l : List α} {g : Chip → α → Chip} {c : Chip} (h : Ok F c) (hg : ∀ c a, Ok F c → Ok F (g c a)) : Ok F (l.foldl g c) := by
  induction l generalizing c with
  | nil => exact h
  | cons a l ih => exact ih (hg _ _ h)
theorem foldl_keeps1 {α β : Type} {l : List α} {g : Chip × β → α → Chip × β} {a : Chip × β} (h : Ok F a.1)
    (hg : ∀ a x, Ok F a.1 → Ok F (g a x).1) : Ok F (l.foldl g a).1 := by
  induction l generalizing a with
  | nil => exact h
  | cons x l ih => exact ih (hg _ _ h)
theorem foldl_keeps2 {α β : Type} {l : List α} {g : β × Chip → α → β × Chip} {a : β × Chip} (h : Ok F a.2)
    (hg : ∀ a x, Ok F a.2 → Ok F (g a x).2) : Ok F (l.foldl g a).2 := by
  induction l generalizing a with
  | nil => exact h
  | cons x l ih => exact ih (hg _ _ h)
theorem of_eq1 {α : Type} {x : Chip × α} {c : Chip} {a : α} (e : x = (c, a)) (h : Ok F x.1) : Ok F c := by subst e; exact h
theorem of_eq2 {α : Type} {x : α × Chip} {c : Chip} {a : α} (e : x = (a, c)) (h : Ok F x.2) : Ok F c := by subst e; exact h
theorem of_eq3 {α β : Type} {x : α × β × Chip} {c : Chip} {a : α} {b : β} (e : x = (a, b, c)) (h : Ok F x.2.2) : Ok F c := by
  subst e; exact h
theorem of_eq4 {α β γ : Type} {x : α × β × γ × Chip} {c : Chip} {a : α} {b : β} {d : γ} (e : x = (a, b, d, c))
    (h : Ok F x.2.2.2) : Ok F c := by
  subst e; exact h
theorem OkP_nil {c : Chip} (h : Ok F c) : OkP F [] [] [] 1 c.fuse.low c.fuse.high :=
  ⟨rfl, rfl, rfl, by decide, h.2.2.2.2⟩
theorem forSpan_keeps {lo n : Nat} {g : Chip → Nat → Chip} {c : Chip} (h : Ok F c) (hg : ∀ c a, Ok F c → Ok F (g c a)) : Ok F (forSpan lo n c g) := by
  induction n generalizing c lo with
  | zero => exact h
  | succ n ih => exact ih (hg _ _ h)
end Sys2Proof.Machine
end

