-- ==== Sys2Proof/Laws/KeepOps.lean ====
section
/-! SUPPORT. Every operation of Machine/Ops.lean keeps `Ok`. -/
set_option linter.all false
namespace Sys2Proof.Machine
variable {F : Fuse}

theorem drawFree_keeps (c : Chip)  (hok_c : Ok F c) : Ok F (drawFree c).2 := by
  unfold drawFree
  repeat' ((with_reducible
      first
        | assumption | apply OkP_of | simp only [↓Ok_mk] | dsimp only))

theorem drawSerial_keeps (c : Chip)  (hok_c : Ok F c) : Ok F (drawSerial c).2 := by
  unfold drawSerial
  repeat' ((with_reducible
      first
        | assumption | apply OkP_of | simp only [↓Ok_mk] | dsimp only))

theorem send_keeps (e : OutEvent) (c : Chip)  (hok_c : Ok F c) : Ok F (send e c) := by
  unfold send
  repeat' ((with_reducible
      first
        | assumption | apply OkP_of | simp only [↓Ok_mk] | dsimp only))

theorem setObj_keeps (idx sub item v : Nat) (c : Chip)  (hok_c : Ok F c) : Ok F (setObj idx sub item v c) := by
  unfold setObj
  repeat' ((with_reducible
      first
        | assumption | (intro cc; refine_lift have hcc : Ok F cc := ?_; ?_; subst cc; rotate_left; clear_value cc)
        | (intro cc; clear_value cc) | apply OkP_of | split | simp only [↓Ok_mk] | lift_lets | dsimp only))

theorem bump_keeps (idx sub item n : Nat) (c : Chip)  (hok_c : Ok F c) : Ok F (bump idx sub item n c) := by
  unfold bump
  repeat' ((with_reducible
      first
        | assumption | apply setObj_keeps
        | (intro cc; refine_lift have hcc : Ok F cc := ?_; ?_; subst cc; rotate_left; clear_value cc)
        | (intro cc; clear_value cc) | lift_lets | dsimp only))

theorem setHart_keeps (t : Nat) (h : Hart) (c : Chip)  (hok_c : Ok F c) : Ok F (setHart t h c) := by
  unfold setHart
  repeat' ((with_reducible
      first
        | assumption | apply OkP_of | simp only [↓Ok_mk] | dsimp only))

theorem modHart_keeps (t : Nat) (f : Hart → Hart) (c : Chip)  (hok_c : Ok F c) : Ok F (modHart t f c) := by
  unfold modHart
  repeat' ((with_reducible
      first
        | assumption | apply setHart_keeps | dsimp only))

theorem setGrove_keeps (g : Nat) (v : Grove) (c : Chip)  (hok_c : Ok F c) : Ok F (setGrove g v c) := by
  unfold setGrove
  repeat' ((with_reducible
      first
        | assumption | apply OkP_of | simp only [↓Ok_mk] | dsimp only))

theorem modGrove_keeps (g : Nat) (f : Grove → Grove) (c : Chip)  (hok_c : Ok F c) : Ok F (modGrove g f c) := by
  unfold modGrove
  repeat' ((with_reducible
      first
        | assumption | apply setGrove_keeps | dsimp only))

theorem setTag_keeps (name : Nat) (v : Tag) (c : Chip)  (hok_c : Ok F c) : Ok F (setTag name v c) := by
  unfold setTag
  repeat' ((with_reducible
      first
        | assumption | apply modGrove_keeps | apply OkP_of | simp only [↓Ok_mk] | dsimp only))

theorem retire_keeps (t rd : Nat) (v : Word) (c : Chip)  (hok_c : Ok F c) : Ok F (retire t rd v c) := by
  unfold retire
  repeat' ((with_reducible
      first
        | assumption | apply modHart_keeps | dsimp only))

theorem emitRaw_keeps (src : Source) (st : Status) (part : Option Nat) (detail : List Nat) (c : Chip)  (hok_c : Ok F c) : Ok F (emitRaw src st part detail c) := by
  unfold emitRaw
  repeat' ((with_reducible
      first
        | assumption | apply bump_keeps
        | (intro cc; refine_lift have hcc : Ok F cc := ?_; ?_; subst cc; rotate_left; clear_value cc)
        | (intro cc; clear_value cc) | apply OkP_of | split | simp only [↓Ok_mk] | lift_lets | dsimp only))

theorem enterState_keeps (new : Nat) (c : Chip) (hn : new ≤ 9) (hok_c : Ok F c) : Ok F (enterState new c) := by
  unfold enterState
  dsimp only
  split
  · exact hok_c
  · rw [Ok_mk]
    exact OkP_state (emitRaw_keeps _ _ _ _ _ hok_c) hn

theorem shadowReset_keeps (c : Chip)  (hok_c : Ok F c) : Ok F (shadowReset c) := by
  unfold shadowReset
  repeat' ((with_reducible
      first
        | assumption | apply emitRaw_keeps
        | (intro cc; refine_lift have hcc : Ok F cc := ?_; ?_; subst cc; rotate_left; clear_value cc)
        | (intro cc; clear_value cc) | apply OkP_of | split | simp only [↓Ok_mk] | lift_lets | dsimp only))

theorem emit_keeps (src : Source) (st : Status) (part : Option Nat) (detail : List Nat) (c : Chip)  (hok_c : Ok F c) : Ok F (emit src st part detail c) := by
  unfold emit
  repeat' (first
    | (with_reducible
      first
        | assumption | apply emitRaw_keeps | apply enterState_keeps | apply shadowReset_keeps
        | (intro cc; refine_lift have hcc : Ok F cc := ?_; ?_; subst cc; rotate_left; clear_value cc)
        | (intro cc; refine_lift have hcc : Ok F cc.2 := ?_; ?_; subst cc; rotate_left; clear_value cc)
        | (intro cc; refine_lift have hcc : Ok F cc.2.2 := ?_; ?_; subst cc; rotate_left; clear_value cc)
        | (intro cc; refine_lift have hcc : Ok F cc.2.2.2 := ?_; ?_; subst cc; rotate_left; clear_value cc)
        | (intro cc; refine_lift have hcc : Ok F cc.1 := ?_; ?_; subst cc; rotate_left; clear_value cc)
        | (intro cc; clear_value cc) | apply OkP_of | apply OkP_state | apply Ok_tput | apply Ok_found
        | apply foldl_keeps | apply foldl_keeps1 | apply foldl_keeps2 | apply forSpan_keeps | split
        | (refine of_eq1 (by assumption) ?_) | (refine of_eq2 (by assumption) ?_) | (refine of_eq3 (by assumption) ?_)
        | (refine of_eq4 (by assumption) ?_) | intro _ | simp only [↓Ok_mk] | lift_lets | dsimp only)
    | (with_reducible show _ ≤ (9 : Nat); decide))

theorem foundFatal_keeps (src : Source) (st : Status) (c : Chip)  (hok_c : Ok F c) : Ok F (foundFatal src st c) := by
  unfold foundFatal
  repeat' ((with_reducible
      first
        | assumption | apply OkP_of | split | simp only [↓Ok_mk] | dsimp only))

end Sys2Proof.Machine
end

