-- ==== Sys2Proof/Laws/KeepMemory.lean ====
section
/-! SUPPORT. Every operation of Machine/Memory.lean keeps `Ok`. -/
set_option linter.all false
namespace Sys2Proof.Machine
variable {F : Fuse}

theorem memWrite_keeps (a : Nat) (bs : Bytes) (pois : Bool) (c : Chip) (hok_c : Ok F c) : Ok F (memWrite a bs pois c) :=
  ⟨putBytes_wf hok_c.1, putPoison_wf hok_c.2.1, putLines_wf hok_c.2.2.1, hok_c.2.2.2⟩

theorem memClear_keeps (a n : Nat) (c : Chip) (hok_c : Ok F c) : Ok F (memClear a n c) :=
  ⟨tdrop_wf hok_c.1, tdrop_wf hok_c.2.1, tdrop_wf hok_c.2.2.1, hok_c.2.2.2⟩

theorem foundAt_keeps (a : Nat) (e : Found) (c : Chip)  (hok_c : Ok F c) : Ok F (foundAt a e c) := by
  unfold foundAt
  repeat' ((with_reducible
      first
        | assumption | apply setObj_keeps | apply bump_keeps | apply emit_keeps | apply foundFatal_keeps
        | (intro cc; refine_lift have hcc : Ok F cc := ?_; ?_; subst cc; rotate_left; clear_value cc)
        | (intro cc; clear_value cc) | apply OkP_of | apply Ok_tput | apply Ok_found | apply forSpan_keeps | split
        | intro _ | simp only [↓Ok_mk] | lift_lets | dsimp only))

theorem applyEcc_keeps (a n : Nat) (e : Ecc) (c : Chip)  (hok_c : Ok F c) : Ok F (applyEcc a n e c) := by
  unfold applyEcc
  repeat' ((with_reducible
      first
        | assumption | apply foundAt_keeps | apply foldl_keeps | split | intro _ | dsimp only))

theorem eccStore_keeps (a n : Nat) (e : Ecc) (c : Chip)  (hok_c : Ok F c) : Ok F (eccStore a n e c) := by
  unfold eccStore
  repeat' ((with_reducible
      first
        | assumption | apply foundAt_keeps
        | (intro cc; refine_lift have hcc : Ok F cc := ?_; ?_; subst cc; rotate_left; clear_value cc)
        | (intro cc; clear_value cc) | apply foldl_keeps | split | intro _ | lift_lets | dsimp only))

theorem countViolation_keeps (st : Status) (c : Chip)  (hok_c : Ok F c) : Ok F (countViolation st c) := by
  unfold countViolation
  repeat' ((with_reducible
      first
        | assumption | apply bump_keeps | split | dsimp only))

theorem takeTrap_keeps (t : Nat) (tr : Trap) (c : Chip)  (hok_c : Ok F c) : Ok F (takeTrap t tr c) := by
  unfold takeTrap
  repeat' ((with_reducible
      first
        | assumption | apply bump_keeps | apply modHart_keeps
        | (intro cc; refine_lift have hcc : Ok F cc := ?_; ?_; subst cc; rotate_left; clear_value cc)
        | (intro cc; clear_value cc) | apply OkP_of | split | simp only [↓Ok_mk] | lift_lets | dsimp only))

theorem hartDo_keeps (t : Nat) (f : Chip → Chip) (c : Chip)  (h_f : ∀ x0, Ok F x0 → Ok F (f x0)) (hok_c : Ok F c) : Ok F (hartDo t f c) := by
  unfold hartDo
  repeat' ((with_reducible
      first
        | assumption | apply setHart_keeps | apply takeTrap_keeps | apply h_f
        | (intro cc; refine_lift have hcc : Ok F cc := ?_; ?_; subst cc; rotate_left; clear_value cc)
        | (intro cc; clear_value cc) | apply OkP_of | split | intro _ | simp only [↓Ok_mk] | lift_lets | dsimp only))

theorem postTrap_keeps (t cause tval : Nat) (st : Status) (c : Chip)  (hok_c : Ok F c) : Ok F (postTrap t cause tval st c) := by
  unfold postTrap
  repeat' ((with_reducible
      first
        | assumption | apply setHart_keeps | apply takeTrap_keeps
        | (intro cc; refine_lift have hcc : Ok F cc := ?_; ?_; subst cc; rotate_left; clear_value cc)
        | (intro cc; clear_value cc) | apply OkP_of | split | simp only [↓Ok_mk] | lift_lets | dsimp only))

theorem xlate_keeps (t : Nat) (k : Acc) (va : Nat) (c : Chip)  (hok_c : Ok F c) : Ok F (xlate t k va c).1 := by
  unfold xlate
  repeat' ((with_reducible
      first
        | assumption | apply modGrove_keeps
        | (intro cc; refine_lift have hcc : Ok F cc := ?_; ?_; subst cc; rotate_left; clear_value cc)
        | (intro cc; clear_value cc) | apply OkP_of | split | simp only [↓Ok_mk] | lift_lets | dsimp only))

theorem xlateRange_keeps (t : Nat) (k : Acc) (a0 : Nat) (a1 : Nat) (a2 : Nat) (a3 : Chip) (hok_a3 : Ok F a3) : Ok F (xlateRange t k a0 a1 a2 a3).1 := by
  induction a0 generalizing a1 a2 a3 with
  | zero =>
    unfold xlateRange
    repeat' ((with_reducible
        first
          | assumption | apply xlate_keeps | apply ih
          | (intro cc; refine_lift have hcc : Ok F cc := ?_; ?_; subst cc; rotate_left; clear_value cc)
          | (intro cc; refine_lift have hcc : Ok F cc.1 := ?_; ?_; subst cc; rotate_left; clear_value cc)
          | (intro cc; clear_value cc) | apply OkP_of | split | (refine of_eq1 (by assumption) ?_)
          | simp only [↓Ok_mk] | lift_lets | dsimp only))
  | succ n ih =>
    unfold xlateRange
    repeat' ((with_reducible
        first
          | assumption | apply xlate_keeps | apply ih
          | (intro cc; refine_lift have hcc : Ok F cc := ?_; ?_; subst cc; rotate_left; clear_value cc)
          | (intro cc; refine_lift have hcc : Ok F cc.1 := ?_; ?_; subst cc; rotate_left; clear_value cc)
          | (intro cc; clear_value cc) | apply OkP_of | split | (refine of_eq1 (by assumption) ?_)
          | simp only [↓Ok_mk] | lift_lets | dsimp only))

theorem writeSegs_keeps (g : Nat) (a0 : List Seg) (a1 : Bytes) (a2 : Bool) (a3 : Chip) (hok_a3 : Ok F a3) : Ok F (writeSegs g a0 a1 a2 a3) := by
  induction a0 generalizing a1 a2 a3 with
  | nil =>
    unfold writeSegs
    repeat' ((with_reducible
        first
          | assumption | apply memWrite_keeps | apply ih | dsimp only))
  | cons y l ih =>
    unfold writeSegs
    repeat' ((with_reducible
        first
          | assumption | apply memWrite_keeps | apply ih | dsimp only))

end Sys2Proof.Machine
end

