-- ==== Sys2Proof/Laws/KeepQueue.lean ====
section
/-! SUPPORT. Every operation of Machine/Queue.lean keeps `Ok`. -/
set_option linter.all false
namespace Sys2Proof.Machine
variable {F : Fuse}

theorem setQueue_keeps (q : Nat) (v : Queue) (c : Chip)  (hok_c : Ok F c) : Ok F (setQueue q v c) := by
  unfold setQueue
  repeat' ((with_reducible
      first
        | assumption | apply OkP_of | simp only [↓Ok_mk] | dsimp only))

theorem modQueue_keeps (q : Nat) (f : Queue → Queue) (c : Chip)  (hok_c : Ok F c) : Ok F (modQueue q f c) := by
  unfold modQueue
  repeat' ((with_reducible
      first
        | assumption | apply setQueue_keeps | dsimp only))

theorem modCell_keeps (k : Nat) (f : CellRec → CellRec) (c : Chip)  (hok_c : Ok F c) : Ok F (modCell k f c) := by
  unfold modCell
  repeat' ((with_reducible
      first
        | assumption | apply OkP_of | simp only [↓Ok_mk] | dsimp only))

theorem freeCell_keeps (k : Nat) (c : Chip)  (hok_c : Ok F c) : Ok F (freeCell k c) := by
  unfold freeCell
  repeat' ((with_reducible
      first
        | assumption | (intro cc; refine_lift have hcc : Ok F cc := ?_; ?_; subst cc; rotate_left; clear_value cc)
        | (intro cc; clear_value cc) | apply OkP_of | split | simp only [↓Ok_mk] | lift_lets | dsimp only))

theorem freeCells_keeps (ks : List Nat) (c : Chip)  (hok_c : Ok F c) : Ok F (freeCells ks c) := by
  unfold freeCells
  repeat' ((with_reducible
      first
        | assumption | apply freeCell_keeps | apply foldl_keeps | intro _ | dsimp only))

theorem putWord_keeps (k w : Nat) (v : Word) (pois : Bool) (c : Chip)  (hok_c : Ok F c) : Ok F (putWord k w v pois c) := by
  unfold putWord
  repeat' ((with_reducible
      first
        | assumption | apply modCell_keeps | apply OkP_of | simp only [↓Ok_mk] | dsimp only))

theorem countRefusal_keeps (q : Nat) (st : Status) (c : Chip)  (hok_c : Ok F c) : Ok F (countRefusal q st c) := by
  unfold countRefusal
  repeat' ((with_reducible
      first
        | assumption | apply bump_keeps | apply modQueue_keeps
        | (intro cc; refine_lift have hcc : Ok F cc := ?_; ?_; subst cc; rotate_left; clear_value cc)
        | (intro cc; clear_value cc) | apply OkP_of | split | simp only [↓Ok_mk] | lift_lets | dsimp only))

theorem openPkt_keeps (pr : Producer) (q : Nat) (hdr : Word) (pois : Bool) (c : Chip)  (hok_c : Ok F c) : Ok F (openPkt pr q hdr pois c) := by
  unfold openPkt
  repeat' ((with_reducible
      first
        | assumption | apply modQueue_keeps | apply modCell_keeps | apply putWord_keeps
        | (intro cc; refine_lift have hcc : Ok F cc := ?_; ?_; subst cc; rotate_left; clear_value cc)
        | (intro cc; clear_value cc) | apply OkP_of | apply foldl_keeps | split | intro _ | simp only [↓Ok_mk]
        | lift_lets | dsimp only))

theorem dropOpen_keeps (pr : Producer) (q : Nat) (c : Chip)  (hok_c : Ok F c) : Ok F (dropOpen pr q c) := by
  unfold dropOpen
  repeat' ((with_reducible
      first
        | assumption | apply OkP_of | simp only [↓Ok_mk] | dsimp only))

theorem rewind_keeps (o : OpenPkt) (c : Chip)  (hok_c : Ok F c) : Ok F (rewind o c) := by
  unfold rewind
  repeat' ((with_reducible
      first
        | assumption | apply bump_keeps | apply modQueue_keeps | apply freeCells_keeps | apply dropOpen_keeps
        | (intro cc; refine_lift have hcc : Ok F cc := ?_; ?_; subst cc; rotate_left; clear_value cc)
        | (intro cc; clear_value cc) | apply OkP_of | simp only [↓Ok_mk] | lift_lets | dsimp only))

theorem pushWord_keeps (o : OpenPkt) (v : Word) (pois : Bool) (c : Chip)  (hok_c : Ok F c) : Ok F (pushWord o v pois c) := by
  unfold pushWord
  repeat' ((with_reducible
      first
        | assumption | apply putWord_keeps
        | (intro cc; refine_lift have hcc : Ok F cc := ?_; ?_; subst cc; rotate_left; clear_value cc)
        | (intro cc; clear_value cc) | apply OkP_of | split | simp only [↓Ok_mk] | lift_lets | dsimp only))

theorem commitPkt_keeps (o : OpenPkt) (hard : Bool) (c : Chip)  (hok_c : Ok F c) : Ok F (commitPkt o hard c) := by
  unfold commitPkt
  repeat' ((with_reducible
      first
        | assumption | apply bump_keeps | apply setQueue_keeps | apply modCell_keeps | apply dropOpen_keeps
        | (intro cc; refine_lift have hcc : Ok F cc := ?_; ?_; subst cc; rotate_left; clear_value cc)
        | (intro cc; clear_value cc) | apply OkP_of | apply foldl_keeps | split | intro _ | simp only [↓Ok_mk]
        | lift_lets | dsimp only))

theorem makePoppable_keeps (q seq count : Nat) (c : Chip)  (hok_c : Ok F c) : Ok F (makePoppable q seq count c) := by
  unfold makePoppable
  repeat' ((with_reducible
      first
        | assumption | apply modQueue_keeps | apply OkP_of | split | simp only [↓Ok_mk] | dsimp only))

theorem removePkt_keeps (q count seq : Nat) (c : Chip)  (hok_c : Ok F c) : Ok F (removePkt q count seq c) := by
  unfold removePkt
  repeat' ((with_reducible
      first
        | assumption | apply setQueue_keeps | apply freeCells_keeps
        | (intro cc; refine_lift have hcc : Ok F cc := ?_; ?_; subst cc; rotate_left; clear_value cc)
        | (intro cc; clear_value cc) | apply OkP_of | split | simp only [↓Ok_mk] | lift_lets | dsimp only))

theorem enginePutAs_keeps (hard : Bool) (src : Source) (q : Nat) (ws : List (Word × Bool)) (bad : Bool) (c : Chip)  (hok_c : Ok F c) : Ok F (enginePutAs hard src q ws bad c).2 := by
  unfold enginePutAs
  repeat' ((with_reducible
      first
        | assumption | apply countRefusal_keeps | apply openPkt_keeps | apply rewind_keeps | apply pushWord_keeps
        | apply commitPkt_keeps
        | (intro cc; refine_lift have hcc : Ok F cc := ?_; ?_; subst cc; rotate_left; clear_value cc)
        | (intro cc; clear_value cc) | apply OkP_of | apply foldl_keeps | split | intro _ | simp only [↓Ok_mk]
        | lift_lets | dsimp only))

theorem enginePut_keeps (src : Source) (q : Nat) (ws : List (Word × Bool)) (bad : Bool) (c : Chip)  (hok_c : Ok F c) : Ok F (enginePut src q ws bad c).2 := by
  unfold enginePut
  repeat' ((with_reducible
      first
        | assumption | apply enginePutAs_keeps | (refine of_eq2 (by assumption) ?_) | dsimp only))

theorem dropHead_keeps (q : Nat) (c : Chip)  (hok_c : Ok F c) : Ok F (dropHead q c) := by
  unfold dropHead
  repeat' ((with_reducible
      first
        | assumption | apply bump_keeps | apply removePkt_keeps | apply OkP_of | split | simp only [↓Ok_mk]
        | dsimp only))

theorem popWord_keeps (t q : Nat) (parityBad : Bool) (ecc : Ecc) (c : Chip)  (hok_c : Ok F c) : Ok F (popWord t q parityBad ecc c).2.2 := by
  unfold popWord
  repeat' ((with_reducible
      first
        | assumption | apply drawFree_keeps | apply bump_keeps | apply emit_keeps | apply applyEcc_keeps
        | apply setQueue_keeps | apply freeCell_keeps
        | (intro cc; refine_lift have hcc : Ok F cc := ?_; ?_; subst cc; rotate_left; clear_value cc)
        | (intro cc; refine_lift have hcc : Ok F cc.2 := ?_; ?_; subst cc; rotate_left; clear_value cc)
        | (intro cc; clear_value cc) | apply OkP_of | split | (refine of_eq2 (by assumption) ?_)
        | (refine of_eq3 (by assumption) ?_) | simp only [↓Ok_mk] | lift_lets | dsimp only))

theorem releaseBound_keeps (q : Nat) (c : Chip)  (hok_c : Ok F c) : Ok F (releaseBound q c) := by
  unfold releaseBound
  repeat' ((with_reducible
      first
        | assumption | apply emit_keeps | apply setQueue_keeps
        | (intro cc; refine_lift have hcc : Ok F cc := ?_; ?_; subst cc; rotate_left; clear_value cc)
        | (intro cc; clear_value cc) | apply OkP_of | split | simp only [↓Ok_mk] | lift_lets | dsimp only))

theorem startReset_keeps (q : Nat) (c : Chip)  (hok_c : Ok F c) : Ok F (startReset q c) := by
  unfold startReset
  repeat' ((with_reducible
      first
        | assumption | apply bump_keeps | apply modHart_keeps | apply setQueue_keeps | apply modQueue_keeps
        | apply freeCells_keeps | apply rewind_keeps | apply releaseBound_keeps
        | (intro cc; refine_lift have hcc : Ok F cc := ?_; ?_; subst cc; rotate_left; clear_value cc)
        | (intro cc; clear_value cc) | apply OkP_of | apply foldl_keeps | split | intro _ | simp only [↓Ok_mk]
        | lift_lets | dsimp only))

theorem finishReset_keeps (q : Nat) (c : Chip)  (hok_c : Ok F c) : Ok F (finishReset q c) := by
  unfold finishReset
  repeat' ((with_reducible
      first
        | assumption | apply emit_keeps | apply setQueue_keeps
        | (intro cc; refine_lift have hcc : Ok F cc := ?_; ?_; subst cc; rotate_left; clear_value cc)
        | (intro cc; clear_value cc) | apply OkP_of | split | simp only [↓Ok_mk] | lift_lets | dsimp only))

theorem deadLetter_keeps (p : Nat) (sender : Nat) (src : Source) (st : Status) (msg : List (Word × Bool)) (c : Chip)  (hok_c : Ok F c) : Ok F (deadLetter p sender src st msg c) := by
  unfold deadLetter
  repeat' ((with_reducible
      first
        | assumption | apply bump_keeps | apply emit_keeps | apply enginePut_keeps
        | (intro cc; refine_lift have hcc : Ok F cc := ?_; ?_; subst cc; rotate_left; clear_value cc)
        | (intro cc; refine_lift have hcc : Ok F cc.2 := ?_; ?_; subst cc; rotate_left; clear_value cc)
        | (intro cc; clear_value cc) | apply OkP_of | split | (refine of_eq2 (by assumption) ?_) | simp only [↓Ok_mk]
        | lift_lets | dsimp only))

end Sys2Proof.Machine
end

