-- ==== Sys2Proof/Laws/KeepThreads.lean ====
section
/-! SUPPORT. Every operation of Machine/Threads.lean keeps `Ok`. -/
set_option linter.all false
namespace Sys2Proof.Machine
variable {F : Fuse}

theorem issueTag_keeps (t k cost : Nat) (op : TagOp) (c : Chip)  (hok_c : Ok F c) : Ok F (issueTag t k cost op c).2 := by
  unfold issueTag
  repeat' ((with_reducible
      first
        | assumption | apply drawSerial_keeps | apply modHart_keeps | apply setTag_keeps
        | (intro cc; refine_lift have hcc : Ok F cc := ?_; ?_; subst cc; rotate_left; clear_value cc)
        | (intro cc; refine_lift have hcc : Ok F cc.2 := ?_; ?_; subst cc; rotate_left; clear_value cc)
        | (intro cc; clear_value cc) | apply OkP_of | split | (refine of_eq2 (by assumption) ?_) | simp only [↓Ok_mk]
        | lift_lets | dsimp only))

theorem wakeTag_keeps (name : Nat) (c : Chip)  (hok_c : Ok F c) : Ok F (wakeTag name c) := by
  unfold wakeTag
  repeat' ((with_reducible
      first
        | assumption | apply setHart_keeps | apply setTag_keeps
        | (intro cc; refine_lift have hcc : Ok F cc := ?_; ?_; subst cc; rotate_left; clear_value cc)
        | (intro cc; clear_value cc) | apply OkP_of | split | simp only [↓Ok_mk] | lift_lets | dsimp only))

theorem finishTag_keeps (name : Nat) (st : Status) (result : Nat) (c : Chip)  (hok_c : Ok F c) : Ok F (finishTag name st result c) := by
  unfold finishTag
  repeat' ((with_reducible
      first
        | assumption | apply modHart_keeps | apply modGrove_keeps | apply setTag_keeps | apply wakeTag_keeps
        | (intro cc; refine_lift have hcc : Ok F cc := ?_; ?_; subst cc; rotate_left; clear_value cc)
        | (intro cc; clear_value cc) | apply OkP_of | split | simp only [↓Ok_mk] | lift_lets | dsimp only))

theorem dropWaits_keeps (name : Nat) (c : Chip)  (hok_c : Ok F c) : Ok F (dropWaits name c) := by
  unfold dropWaits
  repeat' ((with_reducible
      first
        | assumption | apply OkP_of | split | simp only [↓Ok_mk] | dsimp only))

theorem abortTag_keeps (name : Nat) (c : Chip)  (hok_c : Ok F c) : Ok F (abortTag name c) := by
  unfold abortTag
  repeat' ((with_reducible
      first
        | assumption | apply finishTag_keeps | apply dropWaits_keeps | dsimp only))

theorem abortTags_keeps (t : Nat) (c : Chip)  (hok_c : Ok F c) : Ok F (abortTags t c) := by
  unfold abortTags
  repeat' ((with_reducible
      first
        | assumption | apply abortTag_keeps | apply foldl_keeps | intro _ | dsimp only))

theorem reapTags_keeps (t : Nat) (c : Chip)  (hok_c : Ok F c) : Ok F (reapTags t c) := by
  unfold reapTags
  repeat' ((with_reducible
      first
        | assumption | apply setTag_keeps | apply OkP_of | apply foldl_keeps | intro _ | simp only [↓Ok_mk]
        | dsimp only))

theorem returnRes_keeps (p : Option Nat) (w : Nat) (c : Chip)  (hok_c : Ok F c) : Ok F (returnRes p w c) := by
  unfold returnRes
  repeat' ((with_reducible
      first
        | assumption | apply OkP_of | split | simp only [↓Ok_mk] | dsimp only))

theorem releaseAll_keeps (t : Nat) (c : Chip)  (hok_c : Ok F c) : Ok F (releaseAll t c) := by
  unfold releaseAll
  repeat' ((with_reducible
      first
        | assumption | apply setHart_keeps | apply returnRes_keeps
        | (intro cc; refine_lift have hcc : Ok F cc := ?_; ?_; subst cc; rotate_left; clear_value cc)
        | (intro cc; clear_value cc) | apply OkP_of | simp only [↓Ok_mk] | lift_lets | dsimp only))

theorem rewindThread_keeps (t : Nat) (c : Chip)  (hok_c : Ok F c) : Ok F (rewindThread t c) := by
  unfold rewindThread
  repeat' ((with_reducible
      first
        | assumption | apply rewind_keeps | apply foldl_keeps | intro _ | dsimp only))

theorem releaseBindings_keeps (t : Nat) (c : Chip)  (hok_c : Ok F c) : Ok F (releaseBindings t c) := by
  unfold releaseBindings
  repeat' ((with_reducible
      first
        | assumption | apply releaseBound_keeps | apply foldl_keeps | intro _ | dsimp only))

theorem stopThread_keeps (t : Nat) (c : Chip)  (hok_c : Ok F c) : Ok F (stopThread t c) := by
  unfold stopThread
  repeat' ((with_reducible
      first
        | assumption | apply setHart_keeps | apply abortTags_keeps | apply reapTags_keeps | apply releaseAll_keeps
        | apply rewindThread_keeps | apply releaseBindings_keeps | apply OkP_of | simp only [↓Ok_mk] | dsimp only))

theorem extFault_keeps (t : Nat) (insn : Nat) (st : Status) (c : Chip)  (hok_c : Ok F c) : Ok F (extFault t insn st c) := by
  unfold extFault
  repeat' ((with_reducible
      first
        | assumption | apply countViolation_keeps | apply takeTrap_keeps | dsimp only))

end Sys2Proof.Machine
end

