-- ==== Sys2Proof/Laws/KeepBlaze.lean ====
section
/-! SUPPORT. Every operation of Machine/Blaze.lean keeps `Ok`. -/
set_option linter.all false
namespace Sys2Proof.Machine
variable {F : Fuse}

theorem setBlazeEnt_keeps (n : Nat) (b : Blaze) (c : Chip)  (hok_c : Ok F c) : Ok F (setBlazeEnt n b c) := by
  unfold setBlazeEnt
  repeat' ((with_reducible
      first
        | assumption | apply OkP_of | simp only [↓Ok_mk] | dsimp only))

theorem wakeBlaze_keeps (t rd : Nat) (v : Word) (c : Chip)  (hok_c : Ok F c) : Ok F (wakeBlaze t rd v c) := by
  unfold wakeBlaze
  repeat' ((with_reducible
      first
        | assumption | apply modHart_keeps | apply OkP_of | simp only [↓Ok_mk] | dsimp only))

theorem clearBlaze_keeps (n who : Nat) (c : Chip)  (hok_c : Ok F c) : Ok F (clearBlaze n who c) := by
  unfold clearBlaze
  repeat' ((with_reducible
      first
        | assumption | apply setBlazeEnt_keeps | apply OkP_of | simp only [↓Ok_mk] | dsimp only))

theorem wakeSleepers_keeps (n : Nat) (c : Chip)  (hok_c : Ok F c) : Ok F (wakeSleepers n c) := by
  unfold wakeSleepers
  repeat' ((with_reducible
      first
        | assumption | apply wakeBlaze_keeps | apply clearBlaze_keeps
        | (intro cc; refine_lift have hcc : Ok F cc := ?_; ?_; subst cc; rotate_left; clear_value cc)
        | (intro cc; clear_value cc) | apply OkP_of | apply foldl_keeps | split | intro _ | simp only [↓Ok_mk]
        | lift_lets | dsimp only))

theorem sendMsix_keeps (v k : Nat) (c : Chip)  (hok_c : Ok F c) : Ok F (sendMsix v k c) := by
  unfold sendMsix
  repeat' ((with_reducible
      first
        | assumption | apply send_keeps | apply OkP_of | apply Ok_tput | apply Ok_found | split | simp only [↓Ok_mk]
        | dsimp only))

theorem boundMsix_keeps (p index : Nat) (c : Chip)  (hok_c : Ok F c) : Ok F (boundMsix p index c) := by
  unfold boundMsix
  repeat' ((with_reducible
      first
        | assumption | apply sendMsix_keeps
        | (intro cc; refine_lift have hcc : Ok F cc := ?_; ?_; subst cc; rotate_left; clear_value cc)
        | (intro cc; clear_value cc) | apply forSpan_keeps | split | intro _ | lift_lets | dsimp only))

theorem setBlaze_keeps (n who : Nat) (c : Chip)  (hok_c : Ok F c) : Ok F (setBlaze n who c) := by
  unfold setBlaze
  repeat' ((with_reducible
      first
        | assumption | apply setBlazeEnt_keeps | apply wakeSleepers_keeps | apply boundMsix_keeps
        | (intro cc; refine_lift have hcc : Ok F cc := ?_; ?_; subst cc; rotate_left; clear_value cc)
        | (intro cc; clear_value cc) | apply OkP_of | split | simp only [↓Ok_mk] | lift_lets | dsimp only))

theorem refuseSet_keeps (p : Option Nat) (index who : Nat) (reason : Status) (c : Chip)  (hok_c : Ok F c) : Ok F (refuseSet p index who reason c) := by
  unfold refuseSet
  repeat' ((with_reducible
      first
        | assumption | apply bump_keeps | apply emit_keeps | dsimp only))

theorem setByIndex_keeps (p index who : Nat) (c : Chip)  (hok_c : Ok F c) : Ok F (setByIndex p index who c) := by
  unfold setByIndex
  repeat' ((with_reducible
      first
        | assumption | apply setBlaze_keeps | apply refuseSet_keeps
        | (intro cc; refine_lift have hcc : Ok F cc := ?_; ?_; subst cc; rotate_left; clear_value cc)
        | (intro cc; clear_value cc) | split | lift_lets | dsimp only))

theorem engineSet_keeps (p index : Nat) (src : Source) (c : Chip)  (hok_c : Ok F c) : Ok F (engineSet p index src c) := by
  unfold engineSet
  repeat' ((with_reducible
      first
        | assumption | apply setByIndex_keeps | split | dsimp only))

theorem underflow_keeps (n index p who : Nat) (c : Chip)  (hok_c : Ok F c) : Ok F (underflow n index p who c) := by
  unfold underflow
  repeat' ((with_reducible
      first
        | assumption | apply bump_keeps | apply emit_keeps | apply setBlazeEnt_keeps
        | (intro cc; refine_lift have hcc : Ok F cc := ?_; ?_; subst cc; rotate_left; clear_value cc)
        | (intro cc; clear_value cc) | apply OkP_of | split | simp only [↓Ok_mk] | lift_lets | dsimp only))

theorem takeImage_keeps (p : Nat) (c : Chip)  (hok_c : Ok F c) : Ok F (takeImage p c) := by
  unfold takeImage
  repeat' ((with_reducible
      first
        | assumption | apply setObj_keeps | apply emit_keeps | apply memWrite_keeps
        | (intro cc; refine_lift have hcc : Ok F cc := ?_; ?_; subst cc; rotate_left; clear_value cc)
        | (intro cc; clear_value cc) | split | lift_lets | dsimp only))

theorem applyBits_keeps (p : Nat) (bit : Nat → Bool) (c : Chip)  (hok_c : Ok F c) : Ok F (applyBits p bit c) := by
  unfold applyBits
  repeat' ((with_reducible
      first
        | assumption | apply clearBlaze_keeps | apply setBlaze_keeps
        | (intro cc; refine_lift have hcc : Ok F cc := ?_; ?_; subst cc; rotate_left; clear_value cc)
        | (intro cc; clear_value cc) | apply forSpan_keeps | split | intro _ | lift_lets | dsimp only))

theorem applyImage_keeps (p : Nat) (c : Chip)  (hok_c : Ok F c) : Ok F (applyImage p c) := by
  unfold applyImage
  repeat' ((with_reducible
      first
        | assumption | apply applyBits_keeps | dsimp only))

theorem applySaved_keeps (p : Nat) (img : Bytes) (c : Chip)  (hok_c : Ok F c) : Ok F (applySaved p img c) := by
  unfold applySaved
  repeat' ((with_reducible
      first
        | assumption | apply applyBits_keeps
        | (intro cc; refine_lift have hcc : Ok F cc := ?_; ?_; subst cc; rotate_left; clear_value cc)
        | (intro cc; clear_value cc) | split | lift_lets | dsimp only))

theorem restoredEvent_keeps (p : Nat) (c : Chip)  (hok_c : Ok F c) : Ok F (restoredEvent p c) := by
  unfold restoredEvent
  repeat' ((with_reducible
      first
        | assumption | apply emit_keeps | dsimp only))

theorem clearAlloc_keeps (p : Nat) (c : Chip)  (hok_c : Ok F c) : Ok F (clearAlloc p c) := by
  unfold clearAlloc
  repeat' ((with_reducible
      first
        | assumption | apply clearBlaze_keeps
        | (intro cc; refine_lift have hcc : Ok F cc := ?_; ?_; subst cc; rotate_left; clear_value cc)
        | (intro cc; clear_value cc) | apply forSpan_keeps | split | intro _ | lift_lets | dsimp only))

theorem resetBlazes_keeps (first num : Nat) (c : Chip)  (hok_c : Ok F c) : Ok F (resetBlazes first num c) := by
  unfold resetBlazes
  repeat' ((with_reducible
      first
        | assumption | apply OkP_of | simp only [↓Ok_mk] | dsimp only))

theorem shrinkDone_keeps (c : Chip)  (hok_c : Ok F c) : Ok F (shrinkDone c) := by
  unfold shrinkDone
  repeat' ((with_reducible
      first
        | assumption | apply emit_keeps | apply resetBlazes_keeps
        | (intro cc; refine_lift have hcc : Ok F cc := ?_; ?_; subst cc; rotate_left; clear_value cc)
        | (intro cc; clear_value cc) | apply OkP_of | apply foldl_keeps | split | intro _ | simp only [↓Ok_mk]
        | lift_lets | dsimp only))

theorem wakeAllBlaze_keeps (c : Chip)  (hok_c : Ok F c) : Ok F (wakeAllBlaze c) := by
  unfold wakeAllBlaze
  repeat' ((with_reducible
      first
        | assumption | apply wakeBlaze_keeps | apply OkP_of | apply foldl_keeps | split | intro _ | simp only [↓Ok_mk]
        | dsimp only))

theorem startDump_keeps (reason : Nat) (c : Chip)  (hok_c : Ok F c) : Ok F (startDump reason c) := by
  unfold startDump
  repeat' ((with_reducible
      first
        | assumption | apply memWrite_keeps
        | (intro cc; refine_lift have hcc : Ok F cc := ?_; ?_; subst cc; rotate_left; clear_value cc)
        | (intro cc; clear_value cc) | apply OkP_of | simp only [↓Ok_mk] | lift_lets | dsimp only))

theorem finishDump_keeps (c : Chip)  (hok_c : Ok F c) : Ok F (finishDump c) := by
  unfold finishDump
  repeat' ((with_reducible
      first
        | assumption | apply emit_keeps | apply OkP_of | split | simp only [↓Ok_mk] | dsimp only))

end Sys2Proof.Machine
end

