-- ==== Sys2Proof/Laws/KeepLink.lean ====
section
/-! SUPPORT. Every operation of Machine/Link.lean keeps `Ok`. -/
set_option linter.all false
namespace Sys2Proof.Machine
variable {F : Fuse}

theorem setPort_keeps (p : Nat) (v : LinkPort) (c : Chip)  (hok_c : Ok F c) : Ok F (setPort p v c) := by
  unfold setPort
  repeat' ((with_reducible
      first
        | assumption | apply OkP_of | simp only [↓Ok_mk] | dsimp only))

theorem modPort_keeps (p : Nat) (f : LinkPort → LinkPort) (c : Chip)  (hok_c : Ok F c) : Ok F (modPort p f c) := by
  unfold modPort
  repeat' ((with_reducible
      first
        | assumption | apply setPort_keeps | dsimp only))

theorem sendPlain_keeps (p kind : Nat) (nak : Bool) (body : Bytes) (c : Chip)  (hok_c : Ok F c) : Ok F (sendPlain p kind nak body c) := by
  unfold sendPlain
  repeat' ((with_reducible
      first
        | assumption | apply send_keeps | dsimp only))

theorem sendCredit_keeps (p : Nat) (c : Chip)  (hok_c : Ok F c) : Ok F (sendCredit p c) := by
  unfold sendCredit
  repeat' ((with_reducible
      first
        | assumption | apply sendPlain_keeps | dsimp only))

theorem portAsk_keeps (p : Nat) (c : Chip)  (hok_c : Ok F c) : Ok F (portAsk p c) := by
  unfold portAsk
  repeat' ((with_reducible
      first
        | assumption | apply modPort_keeps
        | (intro cc; refine_lift have hcc : Ok F cc := ?_; ?_; subst cc; rotate_left; clear_value cc)
        | (intro cc; clear_value cc) | apply OkP_of | split | simp only [↓Ok_mk] | lift_lets | dsimp only))

theorem countFlits_keeps (dir p n : Nat) (c : Chip)  (hok_c : Ok F c) : Ok F (countFlits dir p n c) := by
  unfold countFlits
  repeat' ((with_reducible
      first
        | assumption | apply OkP_of | simp only [↓Ok_mk] | dsimp only))

theorem pump_keeps (p : Nat) (a0 : Nat) (a1 : Chip) (hok_a1 : Ok F a1) : Ok F (pump p a0 a1) := by
  induction a0 generalizing a1 with
  | zero =>
    unfold pump
    repeat' ((with_reducible
        first
          | assumption | apply send_keeps | apply setPort_keeps | apply countFlits_keeps | apply ih
          | (intro cc; refine_lift have hcc : Ok F cc := ?_; ?_; subst cc; rotate_left; clear_value cc)
          | (intro cc; clear_value cc) | apply OkP_of | split | simp only [↓Ok_mk] | lift_lets | dsimp only))
  | succ n ih =>
    unfold pump
    repeat' ((with_reducible
        first
          | assumption | apply send_keeps | apply setPort_keeps | apply countFlits_keeps | apply ih
          | (intro cc; refine_lift have hcc : Ok F cc := ?_; ?_; subst cc; rotate_left; clear_value cc)
          | (intro cc; clear_value cc) | apply OkP_of | split | simp only [↓Ok_mk] | lift_lets | dsimp only))

theorem queueFlits_keeps (p vc : Nat) (bodies : List Bytes) (c : Chip)  (hok_c : Ok F c) : Ok F (queueFlits p vc bodies c) := by
  unfold queueFlits
  repeat' ((with_reducible
      first
        | assumption | apply modPort_keeps | apply portAsk_keeps | apply pump_keeps
        | (intro cc; refine_lift have hcc : Ok F cc := ?_; ?_; subst cc; rotate_left; clear_value cc)
        | (intro cc; clear_value cc) | apply OkP_of | simp only [↓Ok_mk] | lift_lets | dsimp only))

theorem leaveUp_keeps (p : Nat) (c : Chip)  (hok_c : Ok F c) : Ok F (leaveUp p c) := by
  unfold leaveUp
  repeat' ((with_reducible
      first
        | assumption | apply emit_keeps | apply setPort_keeps
        | (intro cc; refine_lift have hcc : Ok F cc := ?_; ?_; subst cc; rotate_left; clear_value cc)
        | (intro cc; clear_value cc) | apply OkP_of | split | simp only [↓Ok_mk] | lift_lets | dsimp only))

theorem startReplay_keeps (p : Nat) (c : Chip)  (hok_c : Ok F c) : Ok F (startReplay p c) := by
  unfold startReplay
  repeat' ((with_reducible
      first
        | assumption | apply send_keeps | apply bump_keeps | apply emit_keeps | apply setPort_keeps
        | apply modPort_keeps | apply countFlits_keeps | apply leaveUp_keeps
        | (intro cc; refine_lift have hcc : Ok F cc := ?_; ?_; subst cc; rotate_left; clear_value cc)
        | (intro cc; clear_value cc) | apply OkP_of | apply foldl_keeps | split | intro _ | simp only [↓Ok_mk]
        | lift_lets | dsimp only))

theorem flitAck_keeps (p : Nat) (f : BitVec 2048) (c : Chip)  (hok_c : Ok F c) : Ok F (flitAck p f c) := by
  unfold flitAck
  repeat' ((with_reducible
      first
        | assumption | apply modPort_keeps | apply pump_keeps | apply startReplay_keeps
        | (intro cc; refine_lift have hcc : Ok F cc := ?_; ?_; subst cc; rotate_left; clear_value cc)
        | (intro cc; clear_value cc) | split | lift_lets | dsimp only))

theorem takeFlit_keeps (p : Nat) (f : BitVec 2048) (c : Chip)  (hok_c : Ok F c) : Ok F (takeFlit p f c) := by
  unfold takeFlit
  repeat' ((with_reducible
      first
        | assumption | apply modPort_keeps | apply OkP_of | simp only [↓Ok_mk] | dsimp only))

theorem askReplay_keeps (p : Nat) (c : Chip)  (hok_c : Ok F c) : Ok F (askReplay p c) := by
  unfold askReplay
  repeat' ((with_reducible
      first
        | assumption | apply setPort_keeps | apply sendPlain_keeps
        | (intro cc; refine_lift have hcc : Ok F cc := ?_; ?_; subst cc; rotate_left; clear_value cc)
        | (intro cc; clear_value cc) | apply OkP_of | split | simp only [↓Ok_mk] | lift_lets | dsimp only))

theorem discardFlit_keeps (p : Nat) (c : Chip)  (hok_c : Ok F c) : Ok F (discardFlit p c) := by
  unfold discardFlit
  repeat' ((with_reducible
      first
        | assumption | apply bump_keeps | apply askReplay_keeps | dsimp only))

theorem setSess_keeps (m : Nat) (v : LinkSess) (c : Chip)  (hok_c : Ok F c) : Ok F (setSess m v c) := by
  unfold setSess
  repeat' ((with_reducible
      first
        | assumption | apply OkP_of | simp only [↓Ok_mk] | dsimp only))

theorem changeEpoch_keeps (p : Nat) (c : Chip)  (hok_c : Ok F c) : Ok F (changeEpoch p c) := by
  unfold changeEpoch
  repeat' ((with_reducible
      first
        | assumption | apply emit_keeps
        | (intro cc; refine_lift have hcc : Ok F cc := ?_; ?_; subst cc; rotate_left; clear_value cc)
        | (intro cc; clear_value cc) | apply OkP_of | split | simp only [↓Ok_mk] | lift_lets | dsimp only))

theorem heldEpochs_keeps (c : Chip)  (hok_c : Ok F c) : Ok F (heldEpochs c) := by
  unfold heldEpochs
  repeat' ((with_reducible
      first
        | assumption | apply changeEpoch_keeps
        | (intro cc; refine_lift have hcc : Ok F cc := ?_; ?_; subst cc; rotate_left; clear_value cc)
        | (intro cc; clear_value cc) | apply OkP_of | apply foldl_keeps | split | intro _ | simp only [↓Ok_mk]
        | lift_lets | dsimp only))

theorem endIfSpent_keeps (dst : Nat) (c : Chip)  (hok_c : Ok F c) : Ok F (endIfSpent dst c) := by
  unfold endIfSpent
  repeat' ((with_reducible
      first
        | assumption | apply setSess_keeps | apply OkP_of | split | simp only [↓Ok_mk] | dsimp only))

theorem transmit_keeps (p : Nat) (w : WaitMsg) (c : Chip)  (hok_c : Ok F c) : Ok F (transmit p w c) := by
  unfold transmit
  repeat' ((with_reducible
      first
        | assumption | apply send_keeps | apply bump_keeps | apply queueFlits_keeps | apply setSess_keeps
        | apply endIfSpent_keeps
        | (intro cc; refine_lift have hcc : Ok F cc := ?_; ?_; subst cc; rotate_left; clear_value cc)
        | (intro cc; clear_value cc) | apply OkP_of | split | simp only [↓Ok_mk] | lift_lets | dsimp only))

theorem setWaits_keeps (dst : Nat) (l : List WaitMsg) (c : Chip)  (hok_c : Ok F c) : Ok F (setWaits dst l c) := by
  unfold setWaits
  repeat' ((with_reducible
      first
        | assumption | apply OkP_of | simp only [↓Ok_mk] | dsimp only))

theorem drawBytes_keeps  (a0 : Nat) (a1 : Chip) (hok_a1 : Ok F a1) : Ok F (drawBytes a0 a1).2 := by
  induction a0 generalizing a1 with
  | zero =>
    unfold drawBytes
    repeat' ((with_reducible
        first
          | assumption | apply drawFree_keeps | apply ih
          | (intro cc; refine_lift have hcc : Ok F cc := ?_; ?_; subst cc; rotate_left; clear_value cc)
          | (intro cc; refine_lift have hcc : Ok F cc.2 := ?_; ?_; subst cc; rotate_left; clear_value cc)
          | (intro cc; clear_value cc) | split | (refine of_eq2 (by assumption) ?_) | lift_lets | dsimp only))
  | succ n ih =>
    unfold drawBytes
    repeat' ((with_reducible
        first
          | assumption | apply drawFree_keeps | apply ih
          | (intro cc; refine_lift have hcc : Ok F cc := ?_; ?_; subst cc; rotate_left; clear_value cc)
          | (intro cc; refine_lift have hcc : Ok F cc.2 := ?_; ?_; subst cc; rotate_left; clear_value cc)
          | (intro cc; clear_value cc) | split | (refine of_eq2 (by assumption) ?_) | lift_lets | dsimp only))

theorem handMsg_keeps (op dst : Nat) (c : Chip)  (hok_c : Ok F c) : Ok F (handMsg op dst c).2 := by
  unfold handMsg
  repeat' ((with_reducible
      first
        | assumption | apply drawBytes_keeps
        | (intro cc; refine_lift have hcc : Ok F cc := ?_; ?_; subst cc; rotate_left; clear_value cc)
        | (intro cc; refine_lift have hcc : Ok F cc.2 := ?_; ?_; subst cc; rotate_left; clear_value cc)
        | (intro cc; clear_value cc) | apply OkP_of | split | (refine of_eq2 (by assumption) ?_) | simp only [↓Ok_mk]
        | lift_lets | dsimp only))

theorem sendHand_keeps (op dst : Nat) (c : Chip)  (hok_c : Ok F c) : Ok F (sendHand op dst c) := by
  unfold sendHand
  repeat' ((with_reducible
      first
        | assumption | apply transmit_keeps | apply handMsg_keeps
        | (intro cc; refine_lift have hcc : Ok F cc := ?_; ?_; subst cc; rotate_left; clear_value cc)
        | (intro cc; refine_lift have hcc : Ok F cc.2 := ?_; ?_; subst cc; rotate_left; clear_value cc)
        | (intro cc; clear_value cc) | apply OkP_of | split | (refine of_eq2 (by assumption) ?_) | simp only [↓Ok_mk]
        | lift_lets | dsimp only))

theorem openSession_keeps (dst : Nat) (c : Chip)  (hok_c : Ok F c) : Ok F (openSession dst c) := by
  unfold openSession
  repeat' ((with_reducible
      first
        | assumption | apply setSess_keeps | apply sendHand_keeps | apply OkP_of | split | simp only [↓Ok_mk]
        | dsimp only))

theorem flushTo_keeps (dst : Nat) (a0 : Nat) (a1 : Chip) (hok_a1 : Ok F a1) : Ok F (flushTo dst a0 a1) := by
  induction a0 generalizing a1 with
  | zero =>
    unfold flushTo
    repeat' ((with_reducible
        first
          | assumption | apply transmit_keeps | apply setWaits_keeps | apply ih
          | (intro cc; refine_lift have hcc : Ok F cc := ?_; ?_; subst cc; rotate_left; clear_value cc)
          | (intro cc; clear_value cc) | apply OkP_of | split | simp only [↓Ok_mk] | lift_lets | dsimp only))
  | succ n ih =>
    unfold flushTo
    repeat' ((with_reducible
        first
          | assumption | apply transmit_keeps | apply setWaits_keeps | apply ih
          | (intro cc; refine_lift have hcc : Ok F cc := ?_; ?_; subst cc; rotate_left; clear_value cc)
          | (intro cc; clear_value cc) | apply OkP_of | split | simp only [↓Ok_mk] | lift_lets | dsimp only))

theorem flushAll_keeps (c : Chip)  (hok_c : Ok F c) : Ok F (flushAll c) := by
  unfold flushAll
  repeat' ((with_reducible
      first
        | assumption | apply flushTo_keeps | apply foldl_keeps | intro _ | dsimp only))

theorem post_keeps (w : WaitMsg) (c : Chip)  (hok_c : Ok F c) : Ok F (post w c) := by
  unfold post
  repeat' ((with_reducible
      first
        | assumption | apply setWaits_keeps | apply openSession_keeps | apply flushTo_keeps
        | (intro cc; refine_lift have hcc : Ok F cc := ?_; ?_; subst cc; rotate_left; clear_value cc)
        | (intro cc; clear_value cc) | lift_lets | dsimp only))

theorem releaseReq_keeps (r : Nat) (c : Chip)  (hok_c : Ok F c) : Ok F (releaseReq r c) := by
  unfold releaseReq
  repeat' ((with_reducible
      first
        | assumption | apply OkP_of | simp only [↓Ok_mk] | dsimp only))

theorem normWaits_keeps (c : Chip)  (hok_c : Ok F c) : Ok F (normWaits c) := by
  unfold normWaits
  repeat' ((with_reducible
      first
        | assumption | apply OkP_of | simp only [↓Ok_mk] | dsimp only))

theorem endChain_keeps (name serial : Nat) (st : Status) (c : Chip)  (hok_c : Ok F c) : Ok F (endChain name serial st c) := by
  unfold endChain
  repeat' ((with_reducible
      first
        | assumption | apply bump_keeps | apply finishTag_keeps
        | (intro cc; refine_lift have hcc : Ok F cc := ?_; ?_; subst cc; rotate_left; clear_value cc)
        | (intro cc; clear_value cc) | apply OkP_of | split | simp only [↓Ok_mk] | lift_lets | dsimp only))

theorem failWait_keeps (t r va : Nat) (st : Status) (c : Chip)  (hok_c : Ok F c) : Ok F (failWait t r va st c) := by
  unfold failWait
  repeat' ((with_reducible
      first
        | assumption | apply modHart_keeps | apply takeTrap_keeps | apply OkP_of | split | simp only [↓Ok_mk]
        | dsimp only))

theorem failReq_keeps (r : Nat) (st : Status) (c : Chip)  (hok_c : Ok F c) : Ok F (failReq r st c) := by
  unfold failReq
  repeat' ((with_reducible
      first
        | assumption | apply postTrap_keeps | apply releaseReq_keeps | apply normWaits_keeps | apply endChain_keeps
        | apply failWait_keeps
        | (intro cc; refine_lift have hcc : Ok F cc := ?_; ?_; subst cc; rotate_left; clear_value cc)
        | (intro cc; clear_value cc) | apply OkP_of | split | simp only [↓Ok_mk] | lift_lets | dsimp only))

theorem unreachable_keeps (r : Nat) (c : Chip)  (hok_c : Ok F c) : Ok F (unreachable r c) := by
  unfold unreachable
  repeat' ((with_reducible
      first
        | assumption | apply bump_keeps | apply failReq_keeps | dsimp only))

theorem sendReq_keeps (dst : Nat) (kind : ReqKind) (mk : Nat → Msg) (c : Chip)  (hok_c : Ok F c) : Ok F (sendReq dst kind mk c).2 := by
  unfold sendReq
  repeat' ((with_reducible
      first
        | assumption | apply drawSerial_keeps | apply post_keeps | apply unreachable_keeps
        | (intro cc; refine_lift have hcc : Ok F cc := ?_; ?_; subst cc; rotate_left; clear_value cc)
        | (intro cc; refine_lift have hcc : Ok F cc.2 := ?_; ?_; subst cc; rotate_left; clear_value cc)
        | (intro cc; clear_value cc) | apply OkP_of | split | (refine of_eq2 (by assumption) ?_) | simp only [↓Ok_mk]
        | lift_lets | dsimp only))

theorem sendTo_keeps (p op dst len addr : Nat) (kind : ReqKind) (body : Bytes) (pmap : List Bool) (c : Chip)  (hok_c : Ok F c) : Ok F (sendTo p op dst len addr kind body pmap c).2 := by
  unfold sendTo
  repeat' ((with_reducible
      first
        | assumption | apply sendReq_keeps
        | (intro cc; refine_lift have hcc : Ok F cc := ?_; ?_; subst cc; rotate_left; clear_value cc)
        | (intro cc; refine_lift have hcc : Ok F cc.2 := ?_; ?_; subst cc; rotate_left; clear_value cc)
        | (intro cc; clear_value cc) | split | (refine of_eq2 (by assumption) ?_) | lift_lets | dsimp only))

theorem answer_keeps (m : Msg) (op : Nat) (st : Status) (body : Bytes) (pmap : List Bool) (c : Chip)  (hok_c : Ok F c) : Ok F (answer m op st body pmap c) := by
  unfold answer
  repeat' ((with_reducible
      first
        | assumption | apply post_keeps
        | (intro cc; refine_lift have hcc : Ok F cc := ?_; ?_; subst cc; rotate_left; clear_value cc)
        | (intro cc; clear_value cc) | apply OkP_of | split | simp only [↓Ok_mk] | lift_lets | dsimp only))

theorem takeMsg_keeps (p : Nat) (m : Msg) (c : Chip)  (hok_c : Ok F c) : Ok F (takeMsg p m c) := by
  unfold takeMsg
  repeat' ((with_reducible
      first
        | assumption | apply setPort_keeps | apply sendCredit_keeps
        | (intro cc; refine_lift have hcc : Ok F cc := ?_; ?_; subst cc; rotate_left; clear_value cc)
        | (intro cc; clear_value cc) | apply OkP_of | split | simp only [↓Ok_mk] | lift_lets | dsimp only))

theorem noteCtr_keeps (m : Msg) (c : Chip)  (hok_c : Ok F c) : Ok F (noteCtr m c) := by
  unfold noteCtr
  repeat' ((with_reducible
      first
        | assumption | apply setSess_keeps
        | (intro cc; refine_lift have hcc : Ok F cc := ?_; ?_; subst cc; rotate_left; clear_value cc)
        | (intro cc; clear_value cc) | apply OkP_of | simp only [↓Ok_mk] | lift_lets | dsimp only))

theorem acceptCtr_keeps (m : Msg) (c : Chip)  (hok_c : Ok F c) : Ok F (acceptCtr m c) := by
  unfold acceptCtr
  repeat' ((with_reducible
      first
        | assumption | apply bump_keeps | apply noteCtr_keeps | dsimp only))

theorem checks123_keeps (p : Nat) (m : Msg) (c : Chip)  (hok_c : Ok F c) : Ok F (checks123 p m c).2 := by
  unfold checks123
  repeat' ((with_reducible
      first
        | assumption | apply bump_keeps | apply emit_keeps | apply setSess_keeps
        | (intro cc; refine_lift have hcc : Ok F cc := ?_; ?_; subst cc; rotate_left; clear_value cc)
        | (intro cc; clear_value cc) | apply OkP_of | split | simp only [↓Ok_mk] | lift_lets | dsimp only))

theorem check4_keeps (p : Nat) (m : Msg) (c : Chip)  (hok_c : Ok F c) : Ok F (check4 p m c).2 := by
  unfold check4
  repeat' (first
    | (with_reducible
      first
        | assumption | apply bump_keeps | apply emit_keeps | apply deadLetter_keeps
        | (intro cc; refine_lift have hcc : Ok F cc := ?_; ?_; subst cc; rotate_left; clear_value cc)
        | (intro cc; refine_lift have hcc : Ok F cc.2 := ?_; ?_; subst cc; rotate_left; clear_value cc)
        | (intro cc; refine_lift have hcc : Ok F cc.2.2 := ?_; ?_; subst cc; rotate_left; clear_value cc)
        | (intro cc; refine_lift have hcc : Ok F cc.2.2.2 := ?_; ?_; subst cc; rotate_left; clear_value cc)
        | (intro cc; refine_lift have hcc : Ok F cc.1 := ?_; ?_; subst cc; rotate_left; clear_value cc)
        | (intro cc; clear_value cc) | apply OkP_of | apply OkP_state | apply Ok_tput | apply Ok_found
        | apply foldl_keeps | apply foldl_keeps1 | apply foldl_keeps2 | apply forSpan_keeps | split
        | (refine of_eq1 (by assumption) ?_) | (refine of_eq2 (by assumption) ?_) | (refine of_eq3 (by assumption) ?_)
        | (refine of_eq4 (by assumption) ?_) | intro _ | simp only [↓Ok_mk] | lift_lets | dsimp only)
    | (with_reducible show _ ≤ (9 : Nat); decide))

theorem arriveReq_keeps (p : Nat) (m : Msg) (inAlloc : MapEntry → Bool) (own : Chip → Option Status) (f : Chip → Chip) (c : Chip)  (h_f : ∀ x0, Ok F x0 → Ok F (f x0)) (hok_c : Ok F c) : Ok F (arriveReq p m inAlloc own f c) := by
  unfold arriveReq
  repeat' ((with_reducible
      first
        | assumption | apply bump_keeps | apply answer_keeps | apply takeMsg_keeps | apply acceptCtr_keeps
        | apply checks123_keeps | apply check4_keeps | apply h_own | apply h_f
        | (intro cc; refine_lift have hcc : Ok F cc := ?_; ?_; subst cc; rotate_left; clear_value cc)
        | (intro cc; refine_lift have hcc : Ok F cc.2 := ?_; ?_; subst cc; rotate_left; clear_value cc)
        | (intro cc; clear_value cc) | apply OkP_of | split | (refine of_eq2 (by assumption) ?_) | intro _
        | simp only [↓Ok_mk] | lift_lets | dsimp only))

theorem arriveMem_keeps (p : Nat) (m : Msg) (n : Nat) (f : Chip → Chip) (c : Chip)  (h_f : ∀ x0, Ok F x0 → Ok F (f x0)) (hok_c : Ok F c) : Ok F (arriveMem p m n f c) := by
  unfold arriveMem
  repeat' ((with_reducible
      first
        | assumption | apply arriveReq_keeps | apply h_f | intro _ | dsimp only))

theorem arriveAnswer_keeps (p : Nat) (m : Msg) (c : Chip)  (hok_c : Ok F c) : Ok F (arriveAnswer p m c).2 := by
  unfold arriveAnswer
  repeat' ((with_reducible
      first
        | assumption | apply bump_keeps | apply takeMsg_keeps | apply acceptCtr_keeps | apply checks123_keeps
        | apply check4_keeps
        | (intro cc; refine_lift have hcc : Ok F cc := ?_; ?_; subst cc; rotate_left; clear_value cc)
        | (intro cc; refine_lift have hcc : Ok F cc.2 := ?_; ?_; subst cc; rotate_left; clear_value cc)
        | (intro cc; clear_value cc) | apply OkP_of | split | (refine of_eq2 (by assumption) ?_) | simp only [↓Ok_mk]
        | lift_lets | dsimp only))

theorem refusedAnswer_keeps (m : Msg) (c : Chip)  (hok_c : Ok F c) : Ok F (refusedAnswer m c) := by
  unfold refusedAnswer
  repeat' ((with_reducible
      first
        | assumption | apply bump_keeps | apply failReq_keeps | dsimp only))

theorem endFences_keeps (c : Chip)  (hok_c : Ok F c) : Ok F (endFences c) := by
  unfold endFences
  repeat' ((with_reducible
      first
        | assumption | apply modHart_keeps | apply foldl_keeps | split | intro _ | dsimp only))

theorem sendSet_keeps (s : PostedSet) (dst : Nat) (c : Chip)  (hok_c : Ok F c) : Ok F (sendSet s dst c) := by
  unfold sendSet
  repeat' ((with_reducible
      first
        | assumption | apply sendTo_keeps | (refine of_eq2 (by assumption) ?_) | dsimp only))

theorem flushSets_keeps (c : Chip)  (hok_c : Ok F c) : Ok F (flushSets c) := by
  unfold flushSets
  repeat' ((with_reducible
      first
        | assumption | apply sendSet_keeps | apply OkP_of | apply foldl_keeps | split | intro _ | simp only [↓Ok_mk]
        | dsimp only))

end Sys2Proof.Machine
end

