-- ==== Sys2Proof/Laws/KeepPower.lean ====
section
/-! SUPPORT. Every operation of Machine/Power.lean keeps `Ok`. -/
set_option linter.all false
namespace Sys2Proof.Machine
variable {F : Fuse}

theorem askLicence_keeps (w : LicWait) (c : Chip)  (hok_c : Ok F c) : Ok F (askLicence w c) := by
  unfold askLicence
  repeat' ((with_reducible
      first
        | assumption | apply OkP_of | simp only [↓Ok_mk] | dsimp only))

theorem dropGrant_keeps (kind inst : Nat) (c : Chip)  (hok_c : Ok F c) : Ok F (dropGrant kind inst c) := by
  unfold dropGrant
  repeat' ((with_reducible
      first
        | assumption | apply OkP_of | simp only [↓Ok_mk] | dsimp only))

theorem grant_keeps (w : LicWait) (c : Chip)  (hok_c : Ok F c) : Ok F (grant w c) := by
  unfold grant
  repeat' ((with_reducible
      first
        | assumption | apply modHart_keeps | apply finishTag_keeps | apply modPort_keeps
        | (intro cc; refine_lift have hcc : Ok F cc := ?_; ?_; subst cc; rotate_left; clear_value cc)
        | (intro cc; clear_value cc) | apply OkP_of | split | simp only [↓Ok_mk] | lift_lets | dsimp only))

theorem refuse_keeps (w : LicWait) (st : Status) (c : Chip)  (hok_c : Ok F c) : Ok F (refuse w st c) := by
  unfold refuse
  repeat' ((with_reducible
      first
        | assumption | apply finishTag_keeps | apply modPort_keeps
        | (intro cc; refine_lift have hcc : Ok F cc := ?_; ?_; subst cc; rotate_left; clear_value cc)
        | (intro cc; clear_value cc) | apply OkP_of | split | simp only [↓Ok_mk] | lift_lets | dsimp only))

theorem licArrive_keeps (w : LicWait) (c : Chip)  (hok_c : Ok F c) : Ok F (licArrive w c) := by
  unfold licArrive
  repeat' ((with_reducible
      first
        | assumption | apply bump_keeps | apply askLicence_keeps | apply grant_keeps | apply refuse_keeps
        | (intro cc; refine_lift have hcc : Ok F cc := ?_; ?_; subst cc; rotate_left; clear_value cc)
        | (intro cc; clear_value cc) | apply OkP_of | split | simp only [↓Ok_mk] | lift_lets | dsimp only))

theorem licGrants_keeps  (a0 : Nat) (a1 : Chip) (hok_a1 : Ok F a1) : Ok F (licGrants a0 a1) := by
  induction a0 generalizing a1 with
  | zero =>
    unfold licGrants
    repeat' ((with_reducible
        first
          | assumption | apply grant_keeps | apply ih
          | (intro cc; refine_lift have hcc : Ok F cc := ?_; ?_; subst cc; rotate_left; clear_value cc)
          | (intro cc; clear_value cc) | apply OkP_of | split | simp only [↓Ok_mk] | lift_lets | dsimp only))
  | succ n ih =>
    unfold licGrants
    repeat' ((with_reducible
        first
          | assumption | apply grant_keeps | apply ih
          | (intro cc; refine_lift have hcc : Ok F cc := ?_; ?_; subst cc; rotate_left; clear_value cc)
          | (intro cc; clear_value cc) | apply OkP_of | split | simp only [↓Ok_mk] | lift_lets | dsimp only))

theorem wardenCycle_keeps (c : Chip)  (hok_c : Ok F c) : Ok F (wardenCycle c) := by
  unfold wardenCycle
  repeat' ((with_reducible
      first
        | assumption | apply licArrive_keeps | apply licGrants_keeps
        | (intro cc; refine_lift have hcc : Ok F cc := ?_; ?_; subst cc; rotate_left; clear_value cc)
        | (intro cc; clear_value cc) | apply OkP_of | apply foldl_keeps | intro _ | simp only [↓Ok_mk] | lift_lets
        | dsimp only))

theorem licTimeouts_keeps (c : Chip)  (hok_c : Ok F c) : Ok F (licTimeouts c) := by
  unfold licTimeouts
  repeat' ((with_reducible
      first
        | assumption | apply refuse_keeps
        | (intro cc; refine_lift have hcc : Ok F cc := ?_; ?_; subst cc; rotate_left; clear_value cc)
        | (intro cc; clear_value cc) | apply OkP_of | apply foldl_keeps | intro _ | simp only [↓Ok_mk] | lift_lets
        | dsimp only))

theorem resLapse_keeps (c : Chip)  (hok_c : Ok F c) : Ok F (resLapse c) := by
  unfold resLapse
  repeat' ((with_reducible
      first
        | assumption | apply OkP_of | simp only [↓Ok_mk] | dsimp only))

theorem resGrant_keeps (c : Chip)  (hok_c : Ok F c) : Ok F (resGrant c) := by
  unfold resGrant
  repeat' ((with_reducible
      first
        | assumption | apply OkP_of | apply foldl_keeps | intro _ | simp only [↓Ok_mk] | dsimp only))

theorem poolCompute_keeps (c : Chip)  (hok_c : Ok F c) : Ok F (poolCompute c) := by
  unfold poolCompute
  repeat' ((with_reducible
      first
        | assumption | (intro cc; refine_lift have hcc : Ok F cc := ?_; ?_; subst cc; rotate_left; clear_value cc)
        | (intro cc; clear_value cc) | apply OkP_of | split | simp only [↓Ok_mk] | lift_lets | dsimp only))

theorem recap_keeps (c : Chip)  (hok_c : Ok F c) : Ok F (recap c) := by
  unfold recap
  repeat' ((with_reducible
      first
        | assumption | apply emit_keeps
        | (intro cc; refine_lift have hcc : Ok F cc := ?_; ?_; subst cc; rotate_left; clear_value cc)
        | (intro cc; clear_value cc) | apply OkP_of | split | simp only [↓Ok_mk] | lift_lets | dsimp only))

theorem floorActed_keeps (f : Floors → Floors) (c : Chip)  (hok_c : Ok F c) : Ok F (floorActed f c) := by
  unfold floorActed
  repeat' ((with_reducible
      first
        | assumption | apply bump_keeps | apply OkP_of | simp only [↓Ok_mk] | dsimp only))

theorem pkgSample_keeps (pkg inp : Nat) (c : Chip)  (hok_c : Ok F c) : Ok F (pkgSample pkg inp c) := by
  unfold pkgSample
  repeat' ((with_reducible
      first
        | assumption | apply emit_keeps | apply floorActed_keeps
        | (intro cc; refine_lift have hcc : Ok F cc := ?_; ?_; subst cc; rotate_left; clear_value cc)
        | (intro cc; clear_value cc) | apply OkP_of | apply foldl_keeps | split | intro _ | simp only [↓Ok_mk]
        | lift_lets | dsimp only))

theorem tripDie_keeps (d : Nat) (sensor : Nat) (c : Chip)  (hok_c : Ok F c) : Ok F (tripDie d sensor c) := by
  unfold tripDie
  repeat' ((with_reducible
      first
        | assumption | apply emit_keeps | apply floorActed_keeps | apply OkP_of | apply Ok_tput | apply Ok_found
        | split | simp only [↓Ok_mk] | dsimp only))

theorem floorRestore_keeps (c : Chip)  (hok_c : Ok F c) : Ok F (floorRestore c) := by
  unfold floorRestore
  repeat' ((with_reducible
      first
        | assumption | (intro cc; refine_lift have hcc : Ok F cc := ?_; ?_; subst cc; rotate_left; clear_value cc)
        | (intro cc; clear_value cc) | apply OkP_of | simp only [↓Ok_mk] | lift_lets | dsimp only))

theorem setSensor_keeps (s : Nat) (v : Sensor) (c : Chip)  (hok_c : Ok F c) : Ok F (setSensor s v c) := by
  unfold setSensor
  repeat' ((with_reducible
      first
        | assumption | apply OkP_of | simp only [↓Ok_mk] | dsimp only))

theorem failSensor_keeps (s : Nat) (c : Chip)  (hok_c : Ok F c) : Ok F (failSensor s c) := by
  unfold failSensor
  repeat' ((with_reducible
      first
        | assumption | apply emit_keeps | apply tripDie_keeps | apply setSensor_keeps
        | (intro cc; refine_lift have hcc : Ok F cc := ?_; ?_; subst cc; rotate_left; clear_value cc)
        | (intro cc; clear_value cc) | apply OkP_of | apply Ok_tput | apply Ok_found | split | simp only [↓Ok_mk]
        | lift_lets | dsimp only))

theorem keepWarm_keeps (c : Chip)  (hok_c : Ok F c) : Ok F (keepWarm c) := by
  unfold keepWarm
  repeat' ((with_reducible
      first
        | assumption | apply drawFree_keeps
        | (intro cc; refine_lift have hcc : Ok F cc := ?_; ?_; subst cc; rotate_left; clear_value cc)
        | (intro cc; refine_lift have hcc : Ok F cc.2 := ?_; ?_; subst cc; rotate_left; clear_value cc)
        | (intro cc; clear_value cc) | apply OkP_of | apply foldl_keeps | split | (refine of_eq2 (by assumption) ?_)
        | intro _ | simp only [↓Ok_mk] | lift_lets | dsimp only))

theorem readSensor_keeps (s : Nat) (v : Option Int) (c : Chip)  (hok_c : Ok F c) : Ok F (readSensor s v c) := by
  unfold readSensor
  repeat' ((with_reducible
      first
        | assumption | apply emit_keeps | apply setSensor_keeps | apply failSensor_keeps | apply keepWarm_keeps
        | (intro cc; refine_lift have hcc : Ok F cc := ?_; ?_; subst cc; rotate_left; clear_value cc)
        | (intro cc; clear_value cc) | apply OkP_of | split | simp only [↓Ok_mk] | lift_lets | dsimp only))

theorem setInlet_keeps (i : Int) (c : Chip)  (hok_c : Ok F c) : Ok F (setInlet i c) := by
  unfold setInlet
  repeat' ((with_reducible
      first
        | assumption | apply recap_keeps
        | (intro cc; refine_lift have hcc : Ok F cc := ?_; ?_; subst cc; rotate_left; clear_value cc)
        | (intro cc; clear_value cc) | apply OkP_of | split | simp only [↓Ok_mk] | lift_lets | dsimp only))

theorem rthEnd_keeps (p : Nat) (t i : Int) (c : Chip)  (hok_c : Ok F c) : Ok F (rthEnd p t i c) := by
  unfold rthEnd
  repeat' ((with_reducible
      first
        | assumption | apply setObj_keeps | apply emit_keeps | apply recap_keeps
        | (intro cc; refine_lift have hcc : Ok F cc := ?_; ?_; subst cc; rotate_left; clear_value cc)
        | (intro cc; clear_value cc) | apply OkP_of | apply foldl_keeps | split | intro _ | simp only [↓Ok_mk]
        | lift_lets | dsimp only))

end Sys2Proof.Machine
end

