-- ==== Sys2Proof/Laws/KeepPair.lean ====
section
/-! SUPPORT. Every operation of Machine/Pair.lean keeps `Ok`. -/
set_option linter.all false
namespace Sys2Proof.Machine
variable {F : Fuse}

theorem modPair_keeps (f : Pair → Pair) (c : Chip)  (hok_c : Ok F c) : Ok F (modPair f c) := by
  unfold modPair
  repeat' ((with_reducible
      first
        | assumption | apply OkP_of | simp only [↓Ok_mk] | dsimp only))

theorem sendMate_keeps (op : Nat) (body : Bytes) (c : Chip)  (hok_c : Ok F c) : Ok F (sendMate op body c).2 := by
  unfold sendMate
  repeat' ((with_reducible
      first
        | assumption | apply transmit_keeps
        | (intro cc; refine_lift have hcc : Ok F cc := ?_; ?_; subst cc; rotate_left; clear_value cc)
        | (intro cc; clear_value cc) | apply OkP_of | split | simp only [↓Ok_mk] | lift_lets | dsimp only))

theorem sendHb_keeps (c : Chip)  (hok_c : Ok F c) : Ok F (sendHb c) := by
  unfold sendHb
  repeat' ((with_reducible
      first
        | assumption | apply sendMate_keeps
        | (intro cc; refine_lift have hcc : Ok F cc := ?_; ?_; subst cc; rotate_left; clear_value cc)
        | (intro cc; refine_lift have hcc : Ok F cc.2 := ?_; ?_; subst cc; rotate_left; clear_value cc)
        | (intro cc; clear_value cc) | split | (refine of_eq2 (by assumption) ?_) | lift_lets | dsimp only))

theorem sendDigest_keeps (q kind n seq own : Nat) (c : Chip)  (hok_c : Ok F c) : Ok F (sendDigest q kind n seq own c) := by
  unfold sendDigest
  repeat' ((with_reducible
      first
        | assumption | apply sendMate_keeps | (refine of_eq2 (by assumption) ?_) | dsimp only))

theorem raiseClaim_keeps (c : Chip)  (hok_c : Ok F c) : Ok F (raiseClaim c) := by
  unfold raiseClaim
  repeat' (first
    | (with_reducible
      first
        | assumption | apply modPair_keeps | apply sendHb_keeps | apply OkP_of | apply OkP_state | split
        | simp only [↓Ok_mk] | dsimp only)
    | (with_reducible show _ ≤ (9 : Nat); decide))

theorem clearClaim_keeps (c : Chip)  (hok_c : Ok F c) : Ok F (clearClaim c) := by
  unfold clearClaim
  repeat' ((with_reducible
      first
        | assumption | apply modPair_keeps | apply sendHb_keeps | apply OkP_of | split | simp only [↓Ok_mk]
        | dsimp only))

theorem enterUnpaired_keeps (c : Chip)  (hok_c : Ok F c) : Ok F (enterUnpaired c) := by
  unfold enterUnpaired
  repeat' ((with_reducible
      first
        | assumption | apply emit_keeps | apply modPair_keeps | apply raiseClaim_keeps | apply clearClaim_keeps
        | (intro cc; refine_lift have hcc : Ok F cc := ?_; ?_; subst cc; rotate_left; clear_value cc)
        | (intro cc; clear_value cc) | apply OkP_of | split | simp only [↓Ok_mk] | lift_lets | dsimp only))

theorem failForm_keeps (st : Status) (c : Chip)  (hok_c : Ok F c) : Ok F (failForm st c) := by
  unfold failForm
  repeat' ((with_reducible
      first
        | assumption | apply emit_keeps | apply clearClaim_keeps | apply enterUnpaired_keeps
        | (intro cc; refine_lift have hcc : Ok F cc := ?_; ?_; subst cc; rotate_left; clear_value cc)
        | (intro cc; clear_value cc) | split | lift_lets | dsimp only))

theorem yieldPair_keeps (reason : Status) (c : Chip)  (hok_c : Ok F c) : Ok F (yieldPair reason c) := by
  unfold yieldPair
  repeat' ((with_reducible
      first
        | assumption | apply emit_keeps | apply modPair_keeps | apply sendMate_keeps | apply clearClaim_keeps
        | (intro cc; refine_lift have hcc : Ok F cc := ?_; ?_; subst cc; rotate_left; clear_value cc)
        | (intro cc; refine_lift have hcc : Ok F cc.2 := ?_; ?_; subst cc; rotate_left; clear_value cc)
        | (intro cc; clear_value cc) | apply OkP_of | split | (refine of_eq2 (by assumption) ?_) | simp only [↓Ok_mk]
        | lift_lets | dsimp only))

theorem leaveSync_keeps (reason : Status) (c : Chip)  (hok_c : Ok F c) : Ok F (leaveSync reason c) := by
  unfold leaveSync
  repeat' ((with_reducible
      first
        | assumption | apply emit_keeps | apply modPair_keeps | apply OkP_of | split | simp only [↓Ok_mk] | dsimp only))

theorem leavePair_keeps (reason : Status) (c : Chip)  (hok_c : Ok F c) : Ok F (leavePair reason c) := by
  unfold leavePair
  repeat' ((with_reducible
      first
        | assumption | apply emit_keeps | apply modPair_keeps | apply clearClaim_keeps | apply yieldPair_keeps
        | apply leaveSync_keeps
        | (intro cc; refine_lift have hcc : Ok F cc := ?_; ?_; subst cc; rotate_left; clear_value cc)
        | (intro cc; clear_value cc) | apply OkP_of | split | simp only [↓Ok_mk] | lift_lets | dsimp only))

theorem pairPoison_keeps (c : Chip)  (hok_c : Ok F c) : Ok F (pairPoison c) := by
  unfold pairPoison
  repeat' ((with_reducible
      first
        | assumption | apply modPair_keeps | apply yieldPair_keeps | apply leaveSync_keeps | apply OkP_of | split
        | simp only [↓Ok_mk] | dsimp only))

theorem weltPoppable_keeps (c : Chip)  (hok_c : Ok F c) : Ok F (weltPoppable c) := by
  unfold weltPoppable
  repeat' ((with_reducible
      first
        | assumption | apply makePoppable_keeps | apply foldl_keeps | split | intro _ | dsimp only))

theorem dropEg_keeps (q n seq : Nat) (c : Chip)  (hok_c : Ok F c) : Ok F (dropEg q n seq c) := by
  unfold dropEg
  repeat' ((with_reducible
      first
        | assumption | apply removePkt_keeps | apply modPair_keeps | apply OkP_of | simp only [↓Ok_mk] | dsimp only))

theorem mismatchEg_keeps (e : EgRec) (c : Chip)  (hok_c : Ok F c) : Ok F (mismatchEg e c) := by
  unfold mismatchEg
  repeat' ((with_reducible
      first
        | assumption | apply bump_keeps | apply shadowReset_keeps | apply emit_keeps | apply modPair_keeps
        | apply dropEg_keeps
        | (intro cc; refine_lift have hcc : Ok F cc := ?_; ?_; subst cc; rotate_left; clear_value cc)
        | (intro cc; clear_value cc) | apply OkP_of | simp only [↓Ok_mk] | lift_lets | dsimp only))

theorem compareEg_keeps (q n seq : Nat) (c : Chip)  (hok_c : Ok F c) : Ok F (compareEg q n seq c) := by
  unfold compareEg
  repeat' ((with_reducible
      first
        | assumption | apply mismatchEg_keeps | apply OkP_of | split | simp only [↓Ok_mk] | dsimp only))

theorem confirmEg_keeps (q n seq : Nat) (c : Chip)  (hok_c : Ok F c) : Ok F (confirmEg q n seq c) := by
  unfold confirmEg
  repeat' ((with_reducible
      first
        | assumption | apply bump_keeps | apply dropEg_keeps | split | dsimp only))

theorem weltCommit_keeps (q : Nat) (c : Chip)  (hok_c : Ok F c) : Ok F (weltCommit q c) := by
  unfold weltCommit
  repeat' ((with_reducible
      first
        | assumption | apply modPair_keeps | apply sendDigest_keeps | apply compareEg_keeps | apply confirmEg_keeps
        | (intro cc; refine_lift have hcc : Ok F cc := ?_; ?_; subst cc; rotate_left; clear_value cc)
        | (intro cc; clear_value cc) | apply OkP_of | split | simp only [↓Ok_mk] | lift_lets | dsimp only))

theorem putPacket_keeps (hard : Bool) (src : Source) (q : Nat) (ws : List (Word × Bool)) (bad : Bool) (c : Chip)  (hok_c : Ok F c) : Ok F (putPacket hard src q ws bad c).2 := by
  unfold putPacket
  repeat' ((with_reducible
      first
        | assumption | apply enginePutAs_keeps | apply weltCommit_keeps
        | (intro cc; refine_lift have hcc : Ok F cc := ?_; ?_; subst cc; rotate_left; clear_value cc)
        | (intro cc; refine_lift have hcc : Ok F cc.2 := ?_; ?_; subst cc; rotate_left; clear_value cc)
        | (intro cc; clear_value cc) | apply OkP_of | split | (refine of_eq2 (by assumption) ?_) | simp only [↓Ok_mk]
        | lift_lets | dsimp only))

theorem sendSegs_keeps (part dst dq q n seq : Nat) (a0 : Nat) (a1 : Bool) (a2 : List (Word × Bool)) (a3 : Chip) (hok_a3 : Ok F a3) : Ok F (sendSegs part dst dq q n seq a0 a1 a2 a3) := by
  induction a0 generalizing a1 a2 a3 with
  | zero =>
    unfold sendSegs
    repeat' ((with_reducible
        first
          | assumption | apply sendReq_keeps | apply ih
          | (intro cc; refine_lift have hcc : Ok F cc := ?_; ?_; subst cc; rotate_left; clear_value cc)
          | (intro cc; refine_lift have hcc : Ok F cc.2 := ?_; ?_; subst cc; rotate_left; clear_value cc)
          | (intro cc; clear_value cc) | apply OkP_of | split | (refine of_eq2 (by assumption) ?_)
          | simp only [↓Ok_mk] | lift_lets | dsimp only))
  | succ n ih =>
    unfold sendSegs
    repeat' ((with_reducible
        first
          | assumption | apply sendReq_keeps | apply ih
          | (intro cc; refine_lift have hcc : Ok F cc := ?_; ?_; subst cc; rotate_left; clear_value cc)
          | (intro cc; refine_lift have hcc : Ok F cc.2 := ?_; ?_; subst cc; rotate_left; clear_value cc)
          | (intro cc; clear_value cc) | apply OkP_of | split | (refine of_eq2 (by assumption) ?_)
          | simp only [↓Ok_mk] | lift_lets | dsimp only))

theorem sendEg_keeps (q : Nat) (want : Nat) (c : Chip)  (hok_c : Ok F c) : Ok F (sendEg q want c) := by
  unfold sendEg
  repeat' ((with_reducible
      first
        | assumption | apply bump_keeps | apply modPair_keeps | apply sendSegs_keeps
        | (intro cc; refine_lift have hcc : Ok F cc := ?_; ?_; subst cc; rotate_left; clear_value cc)
        | (intro cc; clear_value cc) | apply OkP_of | split | simp only [↓Ok_mk] | lift_lets | dsimp only))

theorem egAnswer_keeps (q n seq : Nat) (last : Bool) (st : Status) (c : Chip)  (hok_c : Ok F c) : Ok F (egAnswer q n seq last st c) := by
  unfold egAnswer
  repeat' ((with_reducible
      first
        | assumption | apply emit_keeps | apply modPair_keeps | apply sendMate_keeps | apply confirmEg_keeps
        | (intro cc; refine_lift have hcc : Ok F cc := ?_; ?_; subst cc; rotate_left; clear_value cc)
        | (intro cc; refine_lift have hcc : Ok F cc.2 := ?_; ?_; subst cc; rotate_left; clear_value cc)
        | (intro cc; clear_value cc) | apply OkP_of | split | (refine of_eq2 (by assumption) ?_) | simp only [↓Ok_mk]
        | lift_lets | dsimp only))

theorem markDups_keeps (c : Chip)  (hok_c : Ok F c) : Ok F (markDups c) := by
  unfold markDups
  repeat' ((with_reducible
      first
        | assumption | apply modPair_keeps | apply OkP_of | apply foldl_keeps | split | intro _ | simp only [↓Ok_mk]
        | dsimp only))

theorem missingDigests_keeps (n : Nat) (c : Chip)  (hok_c : Ok F c) : Ok F (missingDigests n c) := by
  unfold missingDigests
  repeat' ((with_reducible
      first
        | assumption | apply mismatchEg_keeps | apply foldl_keeps | split | intro _ | dsimp only))

theorem discardHard_keeps (p n : Nat) (c : Chip)  (hok_c : Ok F c) : Ok F (discardHard p n c) := by
  unfold discardHard
  repeat' ((with_reducible
      first
        | assumption | apply dropEg_keeps | apply foldl_keeps | split | intro _ | dsimp only))

theorem discardEgress_keeps (p : Nat) (c : Chip)  (hok_c : Ok F c) : Ok F (discardEgress p c) := by
  unfold discardEgress
  repeat' ((with_reducible
      first
        | assumption | apply dropEg_keeps | apply foldl_keeps | intro _ | dsimp only))

theorem dropInput_keeps (r : InRec) (c : Chip)  (hok_c : Ok F c) : Ok F (dropInput r c) := by
  unfold dropInput
  repeat' ((with_reducible
      first
        | assumption | apply bump_keeps | apply modQueue_keeps | apply freeCells_keeps | apply modPair_keeps
        | (intro cc; refine_lift have hcc : Ok F cc := ?_; ?_; subst cc; rotate_left; clear_value cc)
        | (intro cc; clear_value cc) | apply OkP_of | simp only [↓Ok_mk] | lift_lets | dsimp only))

theorem commitInput_keeps (r : InRec) (c : Chip)  (hok_c : Ok F c) : Ok F (commitInput r c) := by
  unfold commitInput
  repeat' ((with_reducible
      first
        | assumption | apply commitPkt_keeps | apply modPair_keeps | apply weltCommit_keeps
        | (intro cc; refine_lift have hcc : Ok F cc := ?_; ?_; subst cc; rotate_left; clear_value cc)
        | (intro cc; clear_value cc) | apply OkP_of | simp only [↓Ok_mk] | lift_lets | dsimp only))

theorem settleQueue_keeps (alone : Bool) (q : Nat) (c : Chip)  (hok_c : Ok F c) : Ok F (settleQueue alone q c) := by
  unfold settleQueue
  repeat' ((with_reducible
      first
        | assumption | apply bump_keeps | apply shadowReset_keeps | apply emit_keeps | apply modPair_keeps
        | apply dropInput_keeps | apply commitInput_keeps
        | (intro cc; refine_lift have hcc : Ok F cc := ?_; ?_; subst cc; rotate_left; clear_value cc)
        | (intro cc; clear_value cc) | apply OkP_of | apply foldl_keeps | split | intro _ | simp only [↓Ok_mk]
        | lift_lets | dsimp only))

theorem settleInputs_keeps (alone : Bool) (c : Chip)  (hok_c : Ok F c) : Ok F (settleInputs alone c) := by
  unfold settleInputs
  repeat' ((with_reducible
      first
        | assumption | apply engineSet_keeps | apply settleQueue_keeps
        | (intro cc; refine_lift have hcc : Ok F cc := ?_; ?_; subst cc; rotate_left; clear_value cc)
        | (intro cc; clear_value cc) | apply foldl_keeps | split | intro _ | lift_lets | dsimp only))

theorem mateSilent_keeps (c : Chip)  (hok_c : Ok F c) : Ok F (mateSilent c) := by
  unfold mateSilent
  repeat' ((with_reducible
      first
        | assumption | apply emit_keeps | apply modPair_keeps | apply leaveSync_keeps
        | (intro cc; refine_lift have hcc : Ok F cc := ?_; ?_; subst cc; rotate_left; clear_value cc)
        | (intro cc; clear_value cc) | apply OkP_of | split | simp only [↓Ok_mk] | lift_lets | dsimp only))

theorem mateBoundary_keeps (n overs : Nat) (c : Chip)  (hok_c : Ok F c) : Ok F (mateBoundary n overs c) := by
  unfold mateBoundary
  repeat' ((with_reducible
      first
        | assumption | apply modPair_keeps | apply yieldPair_keeps | apply leaveSync_keeps
        | apply missingDigests_keeps | apply settleInputs_keeps
        | (intro cc; refine_lift have hcc : Ok F cc := ?_; ?_; subst cc; rotate_left; clear_value cc)
        | (intro cc; clear_value cc) | apply OkP_of | split | simp only [↓Ok_mk] | lift_lets | dsimp only))

theorem boundarySend_keeps (n boundary overs : Nat) (c : Chip)  (hok_c : Ok F c) : Ok F (boundarySend n boundary overs c) := by
  unfold boundarySend
  repeat' ((with_reducible
      first
        | assumption | apply modPair_keeps | apply sendMate_keeps | apply mateBoundary_keeps
        | (intro cc; refine_lift have hcc : Ok F cc := ?_; ?_; subst cc; rotate_left; clear_value cc)
        | (intro cc; refine_lift have hcc : Ok F cc.2 := ?_; ?_; subst cc; rotate_left; clear_value cc)
        | (intro cc; clear_value cc) | apply OkP_of | split | (refine of_eq2 (by assumption) ?_) | simp only [↓Ok_mk]
        | lift_lets | dsimp only))

theorem formStart_keeps (c : Chip)  (hok_c : Ok F c) : Ok F (formStart c) := by
  unfold formStart
  repeat' ((with_reducible
      first
        | assumption | apply openSession_keeps | apply modPair_keeps | apply sendHb_keeps | apply OkP_of
        | simp only [↓Ok_mk] | dsimp only))

theorem formHb_keeps (h : Hb) (c : Chip)  (hok_c : Ok F c) : Ok F (formHb h c) := by
  unfold formHb
  repeat' ((with_reducible
      first
        | assumption | apply modPair_keeps | apply sendHb_keeps | apply raiseClaim_keeps | apply failForm_keeps
        | (intro cc; refine_lift have hcc : Ok F cc := ?_; ?_; subst cc; rotate_left; clear_value cc)
        | (intro cc; clear_value cc) | apply OkP_of | split | simp only [↓Ok_mk] | lift_lets | dsimp only))

theorem laceTestEnd_keeps (c : Chip)  (hok_c : Ok F c) : Ok F (laceTestEnd c) := by
  unfold laceTestEnd
  repeat' ((with_reducible
      first
        | assumption | apply openSession_keeps | apply modPair_keeps | apply raiseClaim_keeps | apply clearClaim_keeps
        | apply failForm_keeps | apply mateIn_keeps
        | (intro cc; refine_lift have hcc : Ok F cc := ?_; ?_; subst cc; rotate_left; clear_value cc)
        | (intro cc; clear_value cc) | apply OkP_of | apply foldl_keeps | split | intro _ | simp only [↓Ok_mk]
        | lift_lets | dsimp only))

theorem failEgress_keeps (q : Nat) (c : Chip)  (hok_c : Ok F c) : Ok F (failEgress q c) := by
  unfold failEgress
  repeat' ((with_reducible
      first
        | assumption | apply emit_keeps | apply clearClaim_keeps | apply enterUnpaired_keeps | dsimp only))

theorem formBoundary_keeps (n : Nat) (c : Chip)  (hok_c : Ok F c) : Ok F (formBoundary n c) := by
  unfold formBoundary
  repeat' ((with_reducible
      first
        | assumption | apply modPair_keeps | apply sendHb_keeps | apply raiseClaim_keeps | apply formStart_keeps
        | apply failEgress_keeps | apply OkP_of | split | simp only [↓Ok_mk] | dsimp only))

theorem takeover_keeps (c : Chip)  (hok_c : Ok F c) : Ok F (takeover c) := by
  unfold takeover
  repeat' ((with_reducible
      first
        | assumption | apply modPair_keeps | apply raiseClaim_keeps | apply OkP_of | split | simp only [↓Ok_mk]
        | dsimp only))

theorem gateOpen_keeps (c : Chip)  (hok_c : Ok F c) : Ok F (gateOpen c) := by
  unfold gateOpen
  repeat' ((with_reducible
      first
        | assumption | apply setObj_keeps | apply bump_keeps | apply emit_keeps | apply modPair_keeps
        | apply sendHb_keeps | apply markDups_keeps
        | (intro cc; refine_lift have hcc : Ok F cc := ?_; ?_; subst cc; rotate_left; clear_value cc)
        | (intro cc; clear_value cc) | apply OkP_of | split | simp only [↓Ok_mk] | lift_lets | dsimp only))

theorem swapYield_keeps (c : Chip)  (hok_c : Ok F c) : Ok F (swapYield c) := by
  unfold swapYield
  repeat' ((with_reducible
      first
        | assumption | apply modPair_keeps | apply yieldPair_keeps | apply OkP_of | split | simp only [↓Ok_mk]
        | dsimp only))

end Sys2Proof.Machine
end

