-- ==== Sys2Proof/Laws/KeepHooks.lean ====
section
/-! SUPPORT. Every operation of Machine/Hooks.lean keeps `Ok`. -/
set_option linter.all false
namespace Sys2Proof.Machine
variable {F : Fuse}

theorem setBank_keeps (b : Nat) (v : Bank) (c : Chip)  (hok_c : Ok F c) : Ok F (setBank b v c) := by
  unfold setBank
  repeat' ((with_reducible
      first
        | assumption | apply OkP_of | simp only [↓Ok_mk] | dsimp only))

theorem setRun_keeps (duty : Nat) (r : Option HookRun) (c : Chip)  (hok_c : Ok F c) : Ok F (setRun duty r c) := by
  unfold setRun
  repeat' ((with_reducible
      first
        | assumption | apply OkP_of | simp only [↓Ok_mk] | dsimp only))

theorem beginHook_keeps (k : HookCall) (c : Chip)  (hok_c : Ok F c) : Ok F (beginHook k c) := by
  unfold beginHook
  repeat' ((with_reducible
      first
        | assumption | apply bump_keeps | apply setRun_keeps | dsimp only))

theorem nextHook_keeps (duty : Nat) (c : Chip)  (hok_c : Ok F c) : Ok F (nextHook duty c) := by
  unfold nextHook
  repeat' ((with_reducible
      first
        | assumption | apply beginHook_keeps | apply OkP_of | split | simp only [↓Ok_mk] | dsimp only))

theorem callHook_keeps (k : HookCall) (c : Chip)  (hok_c : Ok F c) : Ok F (callHook k c) := by
  unfold callHook
  repeat' ((with_reducible
      first
        | assumption | apply bump_keeps | apply nextHook_keeps
        | (intro cc; refine_lift have hcc : Ok F cc := ?_; ?_; subst cc; rotate_left; clear_value cc)
        | (intro cc; clear_value cc) | apply OkP_of | split | simp only [↓Ok_mk] | lift_lets | dsimp only))

theorem denied_keeps (c : Chip)  (hok_c : Ok F c) : Ok F (denied c) := by
  unfold denied
  repeat' ((with_reducible
      first
        | assumption | apply bump_keeps | dsimp only))

end Sys2Proof.Machine
end

