-- ==== Sys2Proof/Laws/KeepKv.lean ====
section
/-! SUPPORT. Every operation of Machine/Kv.lean keeps `Ok`. -/
set_option linter.all false
namespace Sys2Proof.Machine
variable {F : Fuse}

theorem setSlot_keeps (s : Nat) (v : KvSlot) (c : Chip)  (hok_c : Ok F c) : Ok F (setSlot s v c) := by
  unfold setSlot
  repeat' ((with_reducible
      first
        | assumption | apply OkP_of | simp only [↓Ok_mk] | dsimp only))

theorem modPage_keeps (s i : Nat) (f : KvPage → KvPage) (c : Chip)  (hok_c : Ok F c) : Ok F (modPage s i f c) := by
  unfold modPage
  repeat' ((with_reducible
      first
        | assumption | apply setSlot_keeps
        | (intro cc; refine_lift have hcc : Ok F cc := ?_; ?_; subst cc; rotate_left; clear_value cc)
        | (intro cc; clear_value cc) | apply OkP_of | simp only [↓Ok_mk] | lift_lets | dsimp only))

theorem choose_keeps (l : List Nat) (c : Chip)  (hok_c : Ok F c) : Ok F (choose l c).2 := by
  unfold choose
  repeat' ((with_reducible
      first
        | assumption | apply drawFree_keeps
        | (intro cc; refine_lift have hcc : Ok F cc := ?_; ?_; subst cc; rotate_left; clear_value cc)
        | (intro cc; refine_lift have hcc : Ok F cc.2 := ?_; ?_; subst cc; rotate_left; clear_value cc)
        | (intro cc; clear_value cc) | apply OkP_of | split | (refine of_eq2 (by assumption) ?_) | simp only [↓Ok_mk]
        | lift_lets | dsimp only))

theorem startSpill_keeps (p : Nat) (k : Nat × Nat) (c : Chip)  (hok_c : Ok F c) : Ok F (startSpill p k c).2 := by
  unfold startSpill
  repeat' ((with_reducible
      first
        | assumption | apply modPage_keeps | apply choose_keeps
        | (intro cc; refine_lift have hcc : Ok F cc := ?_; ?_; subst cc; rotate_left; clear_value cc)
        | (intro cc; refine_lift have hcc : Ok F cc.2 := ?_; ?_; subst cc; rotate_left; clear_value cc)
        | (intro cc; clear_value cc) | apply OkP_of | split | (refine of_eq2 (by assumption) ?_) | simp only [↓Ok_mk]
        | lift_lets | dsimp only))

theorem startBack_keeps (p : Nat) (k : Nat × Nat) (c : Chip)  (hok_c : Ok F c) : Ok F (startBack p k c).2 := by
  unfold startBack
  repeat' ((with_reducible
      first
        | assumption | apply modPage_keeps | apply choose_keeps
        | (intro cc; refine_lift have hcc : Ok F cc := ?_; ?_; subst cc; rotate_left; clear_value cc)
        | (intro cc; refine_lift have hcc : Ok F cc.2 := ?_; ?_; subst cc; rotate_left; clear_value cc)
        | (intro cc; clear_value cc) | apply OkP_of | split | (refine of_eq2 (by assumption) ?_) | simp only [↓Ok_mk]
        | lift_lets | dsimp only))

theorem kvPush_keeps (p : Nat) (ws : List Word) (c : Chip)  (hok_c : Ok F c) : Ok F (kvPush p ws c) := by
  unfold kvPush
  repeat' ((with_reducible
      first
        | assumption | apply emit_keeps | apply engineSet_keeps | apply putPacket_keeps
        | (intro cc; refine_lift have hcc : Ok F cc := ?_; ?_; subst cc; rotate_left; clear_value cc)
        | (intro cc; refine_lift have hcc : Ok F cc.2 := ?_; ?_; subst cc; rotate_left; clear_value cc)
        | (intro cc; clear_value cc) | apply OkP_of | apply Ok_tput | apply Ok_found | split
        | (refine of_eq2 (by assumption) ?_) | simp only [↓Ok_mk] | lift_lets | dsimp only))

theorem kvRetry_keeps (p : Nat) (c : Chip)  (hok_c : Ok F c) : Ok F (kvRetry p c) := by
  unfold kvRetry
  repeat' ((with_reducible
      first
        | assumption | apply kvPush_keeps | apply OkP_of | apply foldl_keeps | split | intro _ | simp only [↓Ok_mk]
        | dsimp only))

theorem kvDone_keeps (p cmd tag slot : Nat) (dest : Nat) (st : Status) (entries : List Word) (c : Chip)  (hok_c : Ok F c) : Ok F (kvDone p cmd tag slot dest st entries c) := by
  unfold kvDone
  repeat' ((with_reducible
      first
        | assumption | apply bump_keeps | apply setSlot_keeps | apply kvPush_keeps
        | (intro cc; refine_lift have hcc : Ok F cc := ?_; ?_; subst cc; rotate_left; clear_value cc)
        | (intro cc; clear_value cc) | apply OkP_of | split | simp only [↓Ok_mk] | lift_lets | dsimp only))

theorem prefetchAhead_keeps (p slot after : Nat) (c : Chip)  (hok_c : Ok F c) : Ok F (prefetchAhead p slot after c) := by
  unfold prefetchAhead
  repeat' ((with_reducible
      first
        | assumption | apply startBack_keeps
        | (intro cc; refine_lift have hcc : Ok F cc := ?_; ?_; subst cc; rotate_left; clear_value cc)
        | (intro cc; refine_lift have hcc : Ok F cc.2 := ?_; ?_; subst cc; rotate_left; clear_value cc)
        | (intro cc; clear_value cc) | apply foldl_keeps | split | (refine of_eq2 (by assumption) ?_) | intro _
        | lift_lets | dsimp only))

theorem kvAdvance_keeps (w : KvWait) (c : Chip)  (hok_c : Ok F c) : Ok F (kvAdvance w c) := by
  unfold kvAdvance
  repeat' ((with_reducible
      first
        | assumption | apply modPage_keeps | apply choose_keeps | apply startBack_keeps | apply kvDone_keeps
        | apply prefetchAhead_keeps
        | (intro cc; refine_lift have hcc : Ok F cc := ?_; ?_; subst cc; rotate_left; clear_value cc)
        | (intro cc; refine_lift have hcc : Ok F cc.2 := ?_; ?_; subst cc; rotate_left; clear_value cc)
        | (intro cc; clear_value cc) | apply OkP_of | apply foldl_keeps | split | (refine of_eq2 (by assumption) ?_)
        | intro _ | simp only [↓Ok_mk] | lift_lets | dsimp only))

theorem kvAdvanceAll_keeps (c : Chip)  (hok_c : Ok F c) : Ok F (kvAdvanceAll c) := by
  unfold kvAdvanceAll
  repeat' ((with_reducible
      first
        | assumption | apply kvAdvance_keeps | apply foldl_keeps | intro _ | dsimp only))

theorem kvWaitFor_keeps (w : KvWait) (c : Chip)  (hok_c : Ok F c) : Ok F (kvWaitFor w c) := by
  unfold kvWaitFor
  repeat' ((with_reducible
      first
        | assumption | apply kvAdvance_keeps | apply OkP_of | simp only [↓Ok_mk] | dsimp only))

theorem kvMoveDone_keeps (k : Nat) (ecc : Ecc) (c : Chip)  (hok_c : Ok F c) : Ok F (kvMoveDone k ecc c) := by
  unfold kvMoveDone
  repeat' ((with_reducible
      first
        | assumption | apply bump_keeps | apply memWrite_keeps | apply applyEcc_keeps | apply modPage_keeps
        | apply kvAdvanceAll_keeps
        | (intro cc; refine_lift have hcc : Ok F cc := ?_; ?_; subst cc; rotate_left; clear_value cc)
        | (intro cc; clear_value cc) | apply OkP_of | apply forSpan_keeps | split | intro _ | simp only [↓Ok_mk]
        | lift_lets | dsimp only))

theorem startSpills_keeps (p : Nat) (l : List (Nat × Nat)) (c : Chip)  (hok_c : Ok F c) : Ok F (startSpills p l c) := by
  unfold startSpills
  repeat' ((with_reducible
      first
        | assumption | apply startSpill_keeps | apply foldl_keeps | (refine of_eq2 (by assumption) ?_) | intro _
        | dsimp only))

theorem kvOpen_keeps (p tag : Nat) (w1 w2 : Nat) (c : Chip)  (hok_c : Ok F c) : Ok F (kvOpen p tag w1 w2 c) := by
  unfold kvOpen
  repeat' ((with_reducible
      first
        | assumption | apply setSlot_keeps | apply kvDone_keeps
        | (intro cc; refine_lift have hcc : Ok F cc := ?_; ?_; subst cc; rotate_left; clear_value cc)
        | (intro cc; clear_value cc) | apply OkP_of | split | simp only [↓Ok_mk] | lift_lets | dsimp only))

theorem kvAppend_keeps (p tag w1 : Nat) (c : Chip)  (hok_c : Ok F c) : Ok F (kvAppend p tag w1 c) := by
  unfold kvAppend
  repeat' ((with_reducible
      first
        | assumption | apply emit_keeps | apply setSlot_keeps | apply modPage_keeps | apply kvDone_keeps
        | apply kvWaitFor_keeps | apply startSpills_keeps
        | (intro cc; refine_lift have hcc : Ok F cc := ?_; ?_; subst cc; rotate_left; clear_value cc)
        | (intro cc; clear_value cc) | apply OkP_of | apply foldl_keeps | split | intro _ | simp only [↓Ok_mk]
        | lift_lets | dsimp only))

theorem kvMap_keeps (p tag w1 dest : Nat) (c : Chip)  (hok_c : Ok F c) : Ok F (kvMap p tag w1 dest c) := by
  unfold kvMap
  repeat' ((with_reducible
      first
        | assumption | apply setSlot_keeps | apply modPage_keeps | apply kvDone_keeps | apply kvWaitFor_keeps
        | apply startSpills_keeps
        | (intro cc; refine_lift have hcc : Ok F cc := ?_; ?_; subst cc; rotate_left; clear_value cc)
        | (intro cc; clear_value cc) | apply OkP_of | apply foldl_keeps | split | intro _ | simp only [↓Ok_mk]
        | lift_lets | dsimp only))

theorem kvUnpin_keeps (p tag w1 dest : Nat) (c : Chip)  (hok_c : Ok F c) : Ok F (kvUnpin p tag w1 dest c) := by
  unfold kvUnpin
  repeat' ((with_reducible
      first
        | assumption | apply modPage_keeps | apply kvDone_keeps
        | (intro cc; refine_lift have hcc : Ok F cc := ?_; ?_; subst cc; rotate_left; clear_value cc)
        | (intro cc; clear_value cc) | apply OkP_of | apply foldl_keeps | split | intro _ | simp only [↓Ok_mk]
        | lift_lets | dsimp only))

theorem kvPrefetch_keeps (p tag w1 dest : Nat) (c : Chip)  (hok_c : Ok F c) : Ok F (kvPrefetch p tag w1 dest c) := by
  unfold kvPrefetch
  repeat' ((with_reducible
      first
        | assumption | apply startBack_keeps | apply kvDone_keeps
        | (intro cc; refine_lift have hcc : Ok F cc := ?_; ?_; subst cc; rotate_left; clear_value cc)
        | (intro cc; refine_lift have hcc : Ok F cc.2 := ?_; ?_; subst cc; rotate_left; clear_value cc)
        | (intro cc; clear_value cc) | apply OkP_of | apply foldl_keeps | split | (refine of_eq2 (by assumption) ?_)
        | intro _ | simp only [↓Ok_mk] | lift_lets | dsimp only))

theorem kvSpill_keeps (p tag w1 dest : Nat) (c : Chip)  (hok_c : Ok F c) : Ok F (kvSpill p tag w1 dest c) := by
  unfold kvSpill
  repeat' (first
    | (with_reducible
      first
        | assumption | apply startSpill_keeps | apply kvDone_keeps | apply kvWaitFor_keeps
        | (intro cc; refine_lift have hcc : Ok F cc := ?_; ?_; subst cc; rotate_left; clear_value cc)
        | (intro cc; refine_lift have hcc : Ok F cc.2 := ?_; ?_; subst cc; rotate_left; clear_value cc)
        | (intro cc; refine_lift have hcc : Ok F cc.2.2 := ?_; ?_; subst cc; rotate_left; clear_value cc)
        | (intro cc; refine_lift have hcc : Ok F cc.2.2.2 := ?_; ?_; subst cc; rotate_left; clear_value cc)
        | (intro cc; refine_lift have hcc : Ok F cc.1 := ?_; ?_; subst cc; rotate_left; clear_value cc)
        | (intro cc; clear_value cc) | apply OkP_of | apply OkP_state | apply Ok_tput | apply Ok_found
        | apply foldl_keeps | apply foldl_keeps1 | apply foldl_keeps2 | apply forSpan_keeps | split
        | (refine of_eq1 (by assumption) ?_) | (refine of_eq2 (by assumption) ?_) | (refine of_eq3 (by assumption) ?_)
        | (refine of_eq4 (by assumption) ?_) | intro _ | simp only [↓Ok_mk] | lift_lets | dsimp only)
    | (with_reducible show _ ≤ (9 : Nat); decide))

theorem closeSlot_keeps (slot : Nat) (c : Chip)  (hok_c : Ok F c) : Ok F (closeSlot slot c) := by
  unfold closeSlot
  repeat' ((with_reducible
      first
        | assumption | apply setSlot_keeps | apply OkP_of | simp only [↓Ok_mk] | dsimp only))

theorem kvClose_keeps (p tag w1 dest : Nat) (c : Chip)  (hok_c : Ok F c) : Ok F (kvClose p tag w1 dest c) := by
  unfold kvClose
  repeat' (first
    | (with_reducible
      first
        | assumption | apply emit_keeps | apply kvDone_keeps | apply closeSlot_keeps
        | (intro cc; refine_lift have hcc : Ok F cc := ?_; ?_; subst cc; rotate_left; clear_value cc)
        | (intro cc; refine_lift have hcc : Ok F cc.2 := ?_; ?_; subst cc; rotate_left; clear_value cc)
        | (intro cc; refine_lift have hcc : Ok F cc.2.2 := ?_; ?_; subst cc; rotate_left; clear_value cc)
        | (intro cc; refine_lift have hcc : Ok F cc.2.2.2 := ?_; ?_; subst cc; rotate_left; clear_value cc)
        | (intro cc; refine_lift have hcc : Ok F cc.1 := ?_; ?_; subst cc; rotate_left; clear_value cc)
        | (intro cc; clear_value cc) | apply OkP_of | apply OkP_state | apply Ok_tput | apply Ok_found
        | apply foldl_keeps | apply foldl_keeps1 | apply foldl_keeps2 | apply forSpan_keeps | split
        | (refine of_eq1 (by assumption) ?_) | (refine of_eq2 (by assumption) ?_) | (refine of_eq3 (by assumption) ?_)
        | (refine of_eq4 (by assumption) ?_) | intro _ | simp only [↓Ok_mk] | lift_lets | dsimp only)
    | (with_reducible show _ ≤ (9 : Nat); decide))

theorem kvBucket_keeps (p tag : Nat) (ws : List Word) (c : Chip)  (hok_c : Ok F c) : Ok F (kvBucket p tag ws c) := by
  unfold kvBucket
  repeat' ((with_reducible
      first
        | assumption | apply kvDone_keeps
        | (intro cc; refine_lift have hcc : Ok F cc := ?_; ?_; subst cc; rotate_left; clear_value cc)
        | (intro cc; clear_value cc) | split | lift_lets | dsimp only))

theorem kvCommand_keeps (p dest : Nat) (ws : List Word) (c : Chip)  (hok_c : Ok F c) : Ok F (kvCommand p dest ws c) := by
  unfold kvCommand
  repeat' ((with_reducible
      first
        | assumption | apply kvDone_keeps | apply kvOpen_keeps | apply kvAppend_keeps | apply kvMap_keeps
        | apply kvUnpin_keeps | apply kvPrefetch_keeps | apply kvSpill_keeps | apply kvClose_keeps
        | apply kvBucket_keeps
        | (intro cc; refine_lift have hcc : Ok F cc := ?_; ?_; subst cc; rotate_left; clear_value cc)
        | (intro cc; clear_value cc) | split | lift_lets | dsimp only))

theorem kvRead_keeps (cmd p : Nat) (hook : Option (List Word)) (c : Chip)  (hok_c : Ok F c) : Ok F (kvRead cmd p hook c) := by
  unfold kvRead
  repeat' ((with_reducible
      first
        | assumption | apply dropHead_keeps | apply denied_keeps | apply kvCommand_keeps
        | (intro cc; refine_lift have hcc : Ok F cc := ?_; ?_; subst cc; rotate_left; clear_value cc)
        | (intro cc; clear_value cc) | apply OkP_of | split | simp only [↓Ok_mk] | lift_lets | dsimp only))

theorem releasePins_keeps (p : Nat) (c : Chip)  (hok_c : Ok F c) : Ok F (releasePins p c) := by
  unfold releasePins
  repeat' ((with_reducible
      first
        | assumption | apply modPage_keeps | apply OkP_of | apply foldl_keeps | split | intro _ | simp only [↓Ok_mk]
        | dsimp only))

end Sys2Proof.Machine
end

