-- ==== Sys2Proof/Laws/KeepServing.lean ====
section
/-! SUPPORT. Every operation of Machine/Serving.lean keeps `Ok`. -/
set_option linter.all false
namespace Sys2Proof.Machine
variable {F : Fuse}

theorem setSeq_keeps (s : Nat) (v : SeqRec) (c : Chip)  (hok_c : Ok F c) : Ok F (setSeq s v c) := by
  unfold setSeq
  repeat' ((with_reducible
      first
        | assumption | apply OkP_of | simp only [↓Ok_mk] | dsimp only))

theorem setAcct_keeps (a : Nat) (v : Account) (c : Chip)  (hok_c : Ok F c) : Ok F (setAcct a v c) := by
  unfold setAcct
  repeat' ((with_reducible
      first
        | assumption | apply OkP_of | simp only [↓Ok_mk] | dsimp only))

theorem setPfx_keeps (e : Nat) (v : Option PfxEnt) (c : Chip)  (hok_c : Ok F c) : Ok F (setPfx e v c) := by
  unfold setPfx
  repeat' ((with_reducible
      first
        | assumption | apply OkP_of | simp only [↓Ok_mk] | dsimp only))

theorem modPfx_keeps (e : Nat) (f : PfxEnt → PfxEnt) (c : Chip)  (hok_c : Ok F c) : Ok F (modPfx e f c) := by
  unfold modPfx
  repeat' ((with_reducible
      first
        | assumption | apply setPfx_keeps | dsimp only))

theorem srvPush_keeps (p : Nat) (ws : List Word) (c : Chip)  (hok_c : Ok F c) : Ok F (srvPush p ws c) := by
  unfold srvPush
  repeat' ((with_reducible
      first
        | assumption | apply emit_keeps | apply engineSet_keeps | apply putPacket_keeps
        | (intro cc; refine_lift have hcc : Ok F cc := ?_; ?_; subst cc; rotate_left; clear_value cc)
        | (intro cc; refine_lift have hcc : Ok F cc.2 := ?_; ?_; subst cc; rotate_left; clear_value cc)
        | (intro cc; clear_value cc) | apply OkP_of | apply Ok_tput | apply Ok_found | split
        | (refine of_eq2 (by assumption) ?_) | simp only [↓Ok_mk] | lift_lets | dsimp only))

theorem srvRetry_keeps (p : Nat) (c : Chip)  (hok_c : Ok F c) : Ok F (srvRetry p c) := by
  unfold srvRetry
  repeat' ((with_reducible
      first
        | assumption | apply srvPush_keeps | apply OkP_of | apply foldl_keeps | split | intro _ | simp only [↓Ok_mk]
        | dsimp only))

theorem srvDone_keeps (p cmd tag : Nat) (st : Status) (w1 : Nat) (more : List Word) (c : Chip)  (hok_c : Ok F c) : Ok F (srvDone p cmd tag st w1 more c) := by
  unfold srvDone
  repeat' ((with_reducible
      first
        | assumption | apply srvPush_keeps | dsimp only))

theorem seqOpen_keeps (p tag w1 : Nat) (c : Chip)  (hok_c : Ok F c) : Ok F (seqOpen p tag w1 c) := by
  unfold seqOpen
  repeat' ((with_reducible
      first
        | assumption | apply setSeq_keeps | apply setAcct_keeps | apply srvDone_keeps
        | (intro cc; refine_lift have hcc : Ok F cc := ?_; ?_; subst cc; rotate_left; clear_value cc)
        | (intro cc; clear_value cc) | apply OkP_of | split | simp only [↓Ok_mk] | lift_lets | dsimp only))

theorem closeSeq_keeps (s : Nat) (c : Chip)  (hok_c : Ok F c) : Ok F (closeSeq s c) := by
  unfold closeSeq
  repeat' ((with_reducible
      first
        | assumption | apply setSeq_keeps | apply setAcct_keeps | apply modPfx_keeps
        | (intro cc; refine_lift have hcc : Ok F cc := ?_; ?_; subst cc; rotate_left; clear_value cc)
        | (intro cc; clear_value cc) | apply OkP_of | split | simp only [↓Ok_mk] | lift_lets | dsimp only))

theorem seqClose_keeps (p tag w1 : Nat) (hook : Bool) (c : Chip)  (hok_c : Ok F c) : Ok F (seqClose p tag w1 hook c) := by
  unfold seqClose
  repeat' (first
    | (with_reducible
      first
        | assumption | apply emit_keeps | apply srvDone_keeps | apply closeSeq_keeps
        | (intro cc; refine_lift have hcc : Ok F cc := ?_; ?_; subst cc; rotate_left; clear_value cc)
        | (intro cc; refine_lift have hcc : Ok F cc.2 := ?_; ?_; subst cc; rotate_left; clear_value cc)
        | (intro cc; refine_lift have hcc : Ok F cc.2.2 := ?_; ?_; subst cc; rotate_left; clear_value cc)
        | (intro cc; refine_lift have hcc : Ok F cc.2.2.2 := ?_; ?_; subst cc; rotate_left; clear_value cc)
        | (intro cc; refine_lift have hcc : Ok F cc.1 := ?_; ?_; subst cc; rotate_left; clear_value cc)
        | (intro cc; clear_value cc) | apply OkP_of | apply OkP_state | apply Ok_tput | apply Ok_found
        | apply foldl_keeps | apply foldl_keeps1 | apply foldl_keeps2 | apply forSpan_keeps | split
        | (refine of_eq1 (by assumption) ?_) | (refine of_eq2 (by assumption) ?_) | (refine of_eq3 (by assumption) ?_)
        | (refine of_eq4 (by assumption) ?_) | intro _ | simp only [↓Ok_mk] | lift_lets | dsimp only)
    | (with_reducible show _ ≤ (9 : Nat); decide))

theorem pfxLookup_keeps (p tag w1 w2 w3 : Nat) (c : Chip)  (hok_c : Ok F c) : Ok F (pfxLookup p tag w1 w2 w3 c) := by
  unfold pfxLookup
  repeat' ((with_reducible
      first
        | assumption | apply bump_keeps | apply setSeq_keeps | apply modPfx_keeps | apply srvDone_keeps
        | (intro cc; refine_lift have hcc : Ok F cc := ?_; ?_; subst cc; rotate_left; clear_value cc)
        | (intro cc; clear_value cc) | apply OkP_of | apply foldl_keeps | split | intro _ | simp only [↓Ok_mk]
        | lift_lets | dsimp only))

theorem evictPfx_keeps (e : Nat) (c : Chip)  (hok_c : Ok F c) : Ok F (evictPfx e c) := by
  unfold evictPfx
  repeat' ((with_reducible
      first
        | assumption | apply kvUnpin_keeps | apply setPfx_keeps | apply modPfx_keeps
        | (intro cc; refine_lift have hcc : Ok F cc := ?_; ?_; subst cc; rotate_left; clear_value cc)
        | (intro cc; clear_value cc) | apply OkP_of | split | simp only [↓Ok_mk] | lift_lets | dsimp only))

theorem pfxContinue_keeps (p : Nat) (c : Chip)  (hok_c : Ok F c) : Ok F (pfxContinue p c) := by
  unfold pfxContinue
  repeat' ((with_reducible
      first
        | assumption | apply bump_keeps | apply setPfx_keeps | apply modPfx_keeps | apply srvDone_keeps
        | apply evictPfx_keeps
        | (intro cc; refine_lift have hcc : Ok F cc := ?_; ?_; subst cc; rotate_left; clear_value cc)
        | (intro cc; clear_value cc) | apply OkP_of | split | simp only [↓Ok_mk] | lift_lets | dsimp only))

theorem pfxContinueAll_keeps (c : Chip)  (hok_c : Ok F c) : Ok F (pfxContinueAll c) := by
  unfold pfxContinueAll
  repeat' ((with_reducible
      first
        | assumption | apply pfxContinue_keeps | apply foldl_keeps | intro _ | dsimp only))

theorem pfxInsert_keeps (p tag w1 w2 w3 : Nat) (c : Chip)  (hok_c : Ok F c) : Ok F (pfxInsert p tag w1 w2 w3 c) := by
  unfold pfxInsert
  repeat' ((with_reducible
      first
        | assumption | apply bump_keeps | apply kvMap_keeps | apply srvDone_keeps | apply pfxContinue_keeps
        | (intro cc; refine_lift have hcc : Ok F cc := ?_; ?_; subst cc; rotate_left; clear_value cc)
        | (intro cc; clear_value cc) | apply OkP_of | split | simp only [↓Ok_mk] | lift_lets | dsimp only))

theorem pfxRemove_keeps (p tag w1 : Nat) (c : Chip)  (hok_c : Ok F c) : Ok F (pfxRemove p tag w1 c) := by
  unfold pfxRemove
  repeat' ((with_reducible
      first
        | assumption | apply srvDone_keeps | apply evictPfx_keeps
        | (intro cc; refine_lift have hcc : Ok F cc := ?_; ?_; subst cc; rotate_left; clear_value cc)
        | (intro cc; clear_value cc) | apply OkP_of | split | simp only [↓Ok_mk] | lift_lets | dsimp only))

theorem admitEntry_keeps (h : Nat) (w : Nat) (c : Chip)  (hok_c : Ok F c) : Ok F (admitEntry h w c).2 := by
  unfold admitEntry
  repeat' ((with_reducible
      first
        | assumption | apply setSeq_keeps | apply setAcct_keeps
        | (intro cc; refine_lift have hcc : Ok F cc := ?_; ?_; subst cc; rotate_left; clear_value cc)
        | (intro cc; clear_value cc) | apply OkP_of | split | simp only [↓Ok_mk] | lift_lets | dsimp only))

theorem admitAll_keeps (h : Nat) (a0 : List Nat) (a1 : Chip) (hok_a1 : Ok F a1) : Ok F (admitAll h a0 a1).2 := by
  induction a0 generalizing a1 with
  | nil =>
    unfold admitAll
    repeat' ((with_reducible
        first
          | assumption | apply admitEntry_keeps | apply ih
          | (intro cc; refine_lift have hcc : Ok F cc := ?_; ?_; subst cc; rotate_left; clear_value cc)
          | (intro cc; refine_lift have hcc : Ok F cc.2 := ?_; ?_; subst cc; rotate_left; clear_value cc)
          | (intro cc; clear_value cc) | split | (refine of_eq2 (by assumption) ?_) | lift_lets | dsimp only))
  | cons y l ih =>
    unfold admitAll
    repeat' ((with_reducible
        first
          | assumption | apply admitEntry_keeps | apply ih
          | (intro cc; refine_lift have hcc : Ok F cc := ?_; ?_; subst cc; rotate_left; clear_value cc)
          | (intro cc; refine_lift have hcc : Ok F cc.2 := ?_; ?_; subst cc; rotate_left; clear_value cc)
          | (intro cc; clear_value cc) | split | (refine of_eq2 (by assumption) ?_) | lift_lets | dsimp only))

theorem srvAdmit_keeps (p tag w1 : Nat) (ws : List Nat) (c : Chip)  (hok_c : Ok F c) : Ok F (srvAdmit p tag w1 ws c) := by
  unfold srvAdmit
  repeat' ((with_reducible
      first
        | assumption | apply choose_keeps | apply srvDone_keeps | apply admitAll_keeps
        | (intro cc; refine_lift have hcc : Ok F cc := ?_; ?_; subst cc; rotate_left; clear_value cc)
        | (intro cc; refine_lift have hcc : Ok F cc.2 := ?_; ?_; subst cc; rotate_left; clear_value cc)
        | (intro cc; clear_value cc) | apply OkP_of | split | (refine of_eq2 (by assumption) ?_) | simp only [↓Ok_mk]
        | lift_lets | dsimp only))

theorem chargeEntry_keeps (e : StepEnt) (c : Chip)  (hok_c : Ok F c) : Ok F (chargeEntry e c) := by
  unfold chargeEntry
  repeat' ((with_reducible
      first
        | assumption | apply setSeq_keeps | apply setAcct_keeps
        | (intro cc; refine_lift have hcc : Ok F cc := ?_; ?_; subst cc; rotate_left; clear_value cc)
        | (intro cc; clear_value cc) | apply OkP_of | split | simp only [↓Ok_mk] | lift_lets | dsimp only))

theorem srvStepDone_keeps (p tag w1 : Nat) (ws : List Word) (hard : Bool) (c : Chip)  (hok_c : Ok F c) : Ok F (srvStepDone p tag w1 ws hard c) := by
  unfold srvStepDone
  repeat' ((with_reducible
      first
        | assumption | apply bump_keeps | apply setByIndex_keeps | apply putPacket_keeps | apply srvDone_keeps
        | apply chargeEntry_keeps
        | (intro cc; refine_lift have hcc : Ok F cc := ?_; ?_; subst cc; rotate_left; clear_value cc)
        | (intro cc; refine_lift have hcc : Ok F cc.2 := ?_; ?_; subst cc; rotate_left; clear_value cc)
        | (intro cc; clear_value cc) | apply OkP_of | apply foldl_keeps | split | (refine of_eq2 (by assumption) ?_)
        | intro _ | simp only [↓Ok_mk] | lift_lets | dsimp only))

theorem closeBatches_keeps (p : Nat) (c : Chip)  (hok_c : Ok F c) : Ok F (closeBatches p c) := by
  unfold closeBatches
  repeat' ((with_reducible
      first
        | assumption | apply setSeq_keeps | apply setAcct_keeps
        | (intro cc; refine_lift have hcc : Ok F cc := ?_; ?_; subst cc; rotate_left; clear_value cc)
        | (intro cc; clear_value cc) | apply OkP_of | apply foldl_keeps | split | intro _ | simp only [↓Ok_mk]
        | lift_lets | dsimp only))

theorem srvCommand_keeps (p : Nat) (hook hard : Bool) (ws : List Word) (c : Chip)  (hok_c : Ok F c) : Ok F (srvCommand p hook hard ws c) := by
  unfold srvCommand
  repeat' ((with_reducible
      first
        | assumption | apply srvDone_keeps | apply seqOpen_keeps | apply seqClose_keeps | apply pfxLookup_keeps
        | apply pfxInsert_keeps | apply pfxRemove_keeps | apply srvAdmit_keeps | apply srvStepDone_keeps
        | (intro cc; refine_lift have hcc : Ok F cc := ?_; ?_; subst cc; rotate_left; clear_value cc)
        | (intro cc; clear_value cc) | split | lift_lets | dsimp only))

theorem srvRead_keeps (cmd p : Nat) (hook : Option (List Word)) (c : Chip)  (hok_c : Ok F c) : Ok F (srvRead cmd p hook c) := by
  unfold srvRead
  repeat' ((with_reducible
      first
        | assumption | apply dropHead_keeps | apply denied_keeps | apply srvCommand_keeps
        | (intro cc; refine_lift have hcc : Ok F cc := ?_; ?_; subst cc; rotate_left; clear_value cc)
        | (intro cc; clear_value cc) | apply OkP_of | split | simp only [↓Ok_mk] | lift_lets | dsimp only))

theorem stageApply_keeps (c : Chip)  (hok_c : Ok F c) : Ok F (stageApply c) := by
  unfold stageApply
  repeat' ((with_reducible
      first
        | assumption | apply setAcct_keeps
        | (intro cc; refine_lift have hcc : Ok F cc := ?_; ?_; subst cc; rotate_left; clear_value cc)
        | (intro cc; clear_value cc) | apply OkP_of | apply foldl_keeps | split | intro _ | simp only [↓Ok_mk]
        | lift_lets | dsimp only))

theorem refill_keeps (c : Chip)  (hok_c : Ok F c) : Ok F (refill c) := by
  unfold refill
  repeat' ((with_reducible
      first
        | assumption | apply bump_keeps | apply OkP_of | split | simp only [↓Ok_mk] | dsimp only))

theorem clearServing_keeps (p : Nat) (e : MapEntry) (c : Chip)  (hok_c : Ok F c) : Ok F (clearServing p e c) := by
  unfold clearServing
  repeat' ((with_reducible
      first
        | assumption | apply evictPfx_keeps
        | (intro cc; refine_lift have hcc : Ok F cc := ?_; ?_; subst cc; rotate_left; clear_value cc)
        | (intro cc; clear_value cc) | apply OkP_of | apply foldl_keeps | split | intro _ | simp only [↓Ok_mk]
        | lift_lets | dsimp only))

end Sys2Proof.Machine
end

