-- ==== Sys2Proof/Laws/KeepVideo.lean ====
section
/-! SUPPORT. Every operation of Machine/Video.lean keeps `Ok`. -/
set_option linter.all false
namespace Sys2Proof.Machine
variable {F : Fuse}

theorem setVses_keeps (s : Nat) (v : Option VSession) (c : Chip)  (hok_c : Ok F c) : Ok F (setVses s v c) := by
  unfold setVses
  repeat' ((with_reducible
      first
        | assumption | apply OkP_of | simp only [↓Ok_mk] | dsimp only))

theorem modVses_keeps (s : Nat) (f : VSession → VSession) (c : Chip)  (hok_c : Ok F c) : Ok F (modVses s f c) := by
  unfold modVses
  repeat' ((with_reducible
      first
        | assumption | apply setVses_keeps | dsimp only))

theorem setVcore_keeps (k : Nat) (v : VCore) (c : Chip)  (hok_c : Ok F c) : Ok F (setVcore k v c) := by
  unfold setVcore
  repeat' ((with_reducible
      first
        | assumption | apply OkP_of | simp only [↓Ok_mk] | dsimp only))

theorem vidPush_keeps (p : Nat) (ws : List Word) (c : Chip)  (hok_c : Ok F c) : Ok F (vidPush p ws c) := by
  unfold vidPush
  repeat' ((with_reducible
      first
        | assumption | apply emit_keeps | apply engineSet_keeps | apply putPacket_keeps
        | (intro cc; refine_lift have hcc : Ok F cc := ?_; ?_; subst cc; rotate_left; clear_value cc)
        | (intro cc; refine_lift have hcc : Ok F cc.2 := ?_; ?_; subst cc; rotate_left; clear_value cc)
        | (intro cc; clear_value cc) | apply OkP_of | apply Ok_tput | apply Ok_found | split
        | (refine of_eq2 (by assumption) ?_) | simp only [↓Ok_mk] | lift_lets | dsimp only))

theorem vidRetry_keeps (p : Nat) (c : Chip)  (hok_c : Ok F c) : Ok F (vidRetry p c) := by
  unfold vidRetry
  repeat' ((with_reducible
      first
        | assumption | apply vidPush_keeps | apply OkP_of | apply foldl_keeps | split | intro _ | simp only [↓Ok_mk]
        | dsimp only))

theorem vidDone_keeps (p cmd tag : Nat) (st : Status) (w1 : Nat) (c : Chip)  (hok_c : Ok F c) : Ok F (vidDone p cmd tag st w1 c) := by
  unfold vidDone
  repeat' ((with_reducible
      first
        | assumption | apply vidPush_keeps | dsimp only))

theorem vidNotice_keeps (s : Nat) (ws : List Word) (c : Chip)  (hok_c : Ok F c) : Ok F (vidNotice s ws c) := by
  unfold vidNotice
  repeat' ((with_reducible
      first
        | assumption | apply emit_keeps | apply engineSet_keeps | apply putPacket_keeps | apply setVses_keeps
        | apply modVses_keeps
        | (intro cc; refine_lift have hcc : Ok F cc := ?_; ?_; subst cc; rotate_left; clear_value cc)
        | (intro cc; refine_lift have hcc : Ok F cc.2 := ?_; ?_; subst cc; rotate_left; clear_value cc)
        | (intro cc; clear_value cc) | apply OkP_of | split | (refine of_eq2 (by assumption) ?_) | simp only [↓Ok_mk]
        | lift_lets | dsimp only))

theorem vidOutRetry_keeps (s : Nat) (c : Chip)  (hok_c : Ok F c) : Ok F (vidOutRetry s c) := by
  unfold vidOutRetry
  repeat' ((with_reducible
      first
        | assumption | apply setVses_keeps | apply vidNotice_keeps | apply OkP_of | apply foldl_keeps | split
        | intro _ | simp only [↓Ok_mk] | dsimp only))

theorem decNotice_keeps (s : Nat) (h : VHeld) (st : Status) (outNo : Nat) (c : Chip)  (hok_c : Ok F c) : Ok F (decNotice s h st outNo c) := by
  unfold decNotice
  repeat' ((with_reducible
      first
        | assumption | apply vidNotice_keeps
        | (intro cc; refine_lift have hcc : Ok F cc := ?_; ?_; subst cc; rotate_left; clear_value cc)
        | (intro cc; clear_value cc) | lift_lets | dsimp only))

theorem encNotice_keeps (s : Nat) (e : VEnc) (off len piece : Nat) (last : Bool) (qp : Nat) (st : Status) (soFar : Nat) (c : Chip)  (hok_c : Ok F c) : Ok F (encNotice s e off len piece last qp st soFar c) := by
  unfold encNotice
  repeat' ((with_reducible
      first
        | assumption | apply vidNotice_keeps
        | (intro cc; refine_lift have hcc : Ok F cc := ?_; ?_; subst cc; rotate_left; clear_value cc)
        | (intro cc; clear_value cc) | lift_lets | dsimp only))

theorem modPiece_keeps (s i : Nat) (f : VPiece → VPiece) (c : Chip)  (hok_c : Ok F c) : Ok F (modPiece s i f c) := by
  unfold modPiece
  repeat' ((with_reducible
      first
        | assumption | apply modVses_keeps | apply OkP_of | simp only [↓Ok_mk] | dsimp only))

theorem coreTake_keeps (k : Nat) (c : Chip)  (hok_c : Ok F c) : Ok F (coreTake k c) := by
  unfold coreTake
  repeat' ((with_reducible
      first
        | assumption | apply setVcore_keeps | apply modPiece_keeps | apply OkP_of | split | simp only [↓Ok_mk]
        | dsimp only))

theorem vidSchedule_keeps (c : Chip)  (hok_c : Ok F c) : Ok F (vidSchedule c) := by
  unfold vidSchedule
  repeat' ((with_reducible
      first
        | assumption | apply coreTake_keeps | apply forSpan_keeps | intro _ | dsimp only))

theorem coreFree_keeps (k : Nat) (c : Chip)  (hok_c : Ok F c) : Ok F (coreFree k c) := by
  unfold coreFree
  repeat' ((with_reducible
      first
        | assumption | apply bump_keeps | apply setVcore_keeps | apply OkP_of | split | simp only [↓Ok_mk]
        | dsimp only))

theorem freeCoresOf_keeps (s : Nat) (c : Chip)  (hok_c : Ok F c) : Ok F (freeCoresOf s c) := by
  unfold freeCoresOf
  repeat' ((with_reducible
      first
        | assumption | apply coreFree_keeps | apply forSpan_keeps | split | intro _ | dsimp only))

theorem vidPreemptNow_keeps (k : Nat) (c : Chip)  (hok_c : Ok F c) : Ok F (vidPreemptNow k c) := by
  unfold vidPreemptNow
  repeat' ((with_reducible
      first
        | assumption | apply bump_keeps | apply modPiece_keeps | apply coreTake_keeps | apply vidSchedule_keeps
        | apply coreFree_keeps
        | (intro cc; refine_lift have hcc : Ok F cc := ?_; ?_; subst cc; rotate_left; clear_value cc)
        | (intro cc; clear_value cc) | apply OkP_of | split | simp only [↓Ok_mk] | lift_lets | dsimp only))

theorem deliver_keeps (s : Nat) (h : VHeld) (c : Chip)  (hok_c : Ok F c) : Ok F (deliver s h c) := by
  unfold deliver
  repeat' ((with_reducible
      first
        | assumption | apply setVses_keeps | apply decNotice_keeps
        | (intro cc; refine_lift have hcc : Ok F cc := ?_; ?_; subst cc; rotate_left; clear_value cc)
        | (intro cc; clear_value cc) | apply OkP_of | split | simp only [↓Ok_mk] | lift_lets | dsimp only))

theorem writePicture_keeps (v : VSession) (num buf : Nat) (d : DecPic) (c : Chip)  (hok_c : Ok F c) : Ok F (writePicture v num buf d c) := by
  unfold writePicture
  repeat' ((with_reducible
      first
        | assumption | apply memWrite_keeps
        | (intro cc; refine_lift have hcc : Ok F cc := ?_; ?_; subst cc; rotate_left; clear_value cc)
        | (intro cc; clear_value cc) | split | lift_lets | dsimp only))

theorem decAdvance_keeps (s : Nat) (a0 : Nat) (a1 : Chip) (hok_a1 : Ok F a1) : Ok F (decAdvance s a0 a1) := by
  induction a0 generalizing a1 with
  | zero =>
    unfold decAdvance
    repeat' ((with_reducible
        first
          | assumption | apply choose_keeps | apply setVses_keeps | apply modVses_keeps | apply vidDone_keeps
          | apply decNotice_keeps | apply deliver_keeps | apply ih
          | (intro cc; refine_lift have hcc : Ok F cc := ?_; ?_; subst cc; rotate_left; clear_value cc)
          | (intro cc; refine_lift have hcc : Ok F cc.2 := ?_; ?_; subst cc; rotate_left; clear_value cc)
          | (intro cc; clear_value cc) | apply OkP_of | apply foldl_keeps | split | (refine of_eq2 (by assumption) ?_)
          | intro _ | simp only [↓Ok_mk] | lift_lets | dsimp only))
  | succ n ih =>
    unfold decAdvance
    repeat' ((with_reducible
        first
          | assumption | apply choose_keeps | apply setVses_keeps | apply modVses_keeps | apply vidDone_keeps
          | apply decNotice_keeps | apply deliver_keeps | apply ih
          | (intro cc; refine_lift have hcc : Ok F cc := ?_; ?_; subst cc; rotate_left; clear_value cc)
          | (intro cc; refine_lift have hcc : Ok F cc.2 := ?_; ?_; subst cc; rotate_left; clear_value cc)
          | (intro cc; clear_value cc) | apply OkP_of | apply foldl_keeps | split | (refine of_eq2 (by assumption) ?_)
          | intro _ | simp only [↓Ok_mk] | lift_lets | dsimp only))

theorem decGo_keeps (s : Nat) (c : Chip)  (hok_c : Ok F c) : Ok F (decGo s c) := by
  unfold decGo
  repeat' ((with_reducible
      first
        | assumption | apply vidSchedule_keeps | apply decAdvance_keeps | apply OkP_of | split | simp only [↓Ok_mk]
        | dsimp only))

theorem decFinish_keeps (s : Nat) (v : VSession) (p : VPic) (d : DecPic) (extra : Nat) (c : Chip)  (hok_c : Ok F c) : Ok F (decFinish s v p d extra c) := by
  unfold decFinish
  repeat' ((with_reducible
      first
        | assumption | apply bump_keeps | apply setVses_keeps | apply modVses_keeps | apply deliver_keeps
        | apply writePicture_keeps | apply decGo_keeps
        | (intro cc; refine_lift have hcc : Ok F cc := ?_; ?_; subst cc; rotate_left; clear_value cc)
        | (intro cc; clear_value cc) | apply OkP_of | apply foldl_keeps | split | intro _ | simp only [↓Ok_mk]
        | lift_lets | dsimp only))

theorem encAdvance_keeps (s : Nat) (a0 : Nat) (a1 : Chip) (hok_a1 : Ok F a1) : Ok F (encAdvance s a0 a1) := by
  induction a0 generalizing a1 with
  | zero =>
    unfold encAdvance
    repeat' ((with_reducible
        first
          | assumption | apply askLicence_keeps | apply setVses_keeps | apply vidDone_keeps | apply ih
          | (intro cc; refine_lift have hcc : Ok F cc := ?_; ?_; subst cc; rotate_left; clear_value cc)
          | (intro cc; clear_value cc) | apply OkP_of | split | simp only [↓Ok_mk] | lift_lets | dsimp only))
  | succ n ih =>
    unfold encAdvance
    repeat' ((with_reducible
        first
          | assumption | apply askLicence_keeps | apply setVses_keeps | apply vidDone_keeps | apply ih
          | (intro cc; refine_lift have hcc : Ok F cc := ?_; ?_; subst cc; rotate_left; clear_value cc)
          | (intro cc; clear_value cc) | apply OkP_of | split | simp only [↓Ok_mk] | lift_lets | dsimp only))

theorem encGo_keeps (s : Nat) (c : Chip)  (hok_c : Ok F c) : Ok F (encGo s c) := by
  unfold encGo
  repeat' ((with_reducible
      first
        | assumption | apply vidSchedule_keeps | apply encAdvance_keeps | apply OkP_of | split | simp only [↓Ok_mk]
        | dsimp only))

theorem encGranted_keeps (c : Chip)  (hok_c : Ok F c) : Ok F (encGranted c) := by
  unfold encGranted
  repeat' ((with_reducible
      first
        | assumption | apply askLicence_keeps | apply modVses_keeps | apply OkP_of | apply foldl_keeps | split
        | intro _ | simp only [↓Ok_mk] | dsimp only))

theorem encDecided_keeps (s qp : Nat) (map : Bool) (c : Chip)  (hok_c : Ok F c) : Ok F (encDecided s qp map c) := by
  unfold encDecided
  repeat' ((with_reducible
      first
        | assumption | apply modVses_keeps | apply vidSchedule_keeps | apply OkP_of | simp only [↓Ok_mk] | dsimp only))

theorem encFallback_keeps (s : Nat) (c : Chip)  (hok_c : Ok F c) : Ok F (encFallback s c) := by
  unfold encFallback
  repeat' ((with_reducible
      first
        | assumption | apply encDecided_keeps | apply OkP_of | split | simp only [↓Ok_mk] | dsimp only))

theorem rateLate_keeps (s : Nat) (c : Chip)  (hok_c : Ok F c) : Ok F (rateLate s c) := by
  unfold rateLate
  repeat' ((with_reducible
      first
        | assumption | apply bump_keeps | apply emit_keeps | apply encFallback_keeps | apply OkP_of | split
        | simp only [↓Ok_mk] | dsimp only))

theorem rateResult_keeps (s num : Nat) (a0 : Word) (pair : Nat) (c : Chip)  (hok_c : Ok F c) : Ok F (rateResult s num a0 pair c) := by
  unfold rateResult
  repeat' ((with_reducible
      first
        | assumption | apply emit_keeps | apply denied_keeps | apply encDecided_keeps | apply encFallback_keeps
        | (intro cc; refine_lift have hcc : Ok F cc := ?_; ?_; subst cc; rotate_left; clear_value cc)
        | (intro cc; clear_value cc) | apply OkP_of | split | simp only [↓Ok_mk] | lift_lets | dsimp only))

theorem motionDone_keeps (s : Nat) (intra inter : Word) (c : Chip)  (hok_c : Ok F c) : Ok F (motionDone s intra inter c) := by
  unfold motionDone
  repeat' ((with_reducible
      first
        | assumption | apply callHook_keeps | apply modVses_keeps | apply encDecided_keeps | apply encFallback_keeps
        | apply rateLate_keeps
        | (intro cc; refine_lift have hcc : Ok F cc := ?_; ?_; subst cc; rotate_left; clear_value cc)
        | (intro cc; clear_value cc) | apply OkP_of | split | simp only [↓Ok_mk] | lift_lets | dsimp only))

theorem ringWrite_keeps (d : Bytes) (off : Nat) (bs : Bytes) (c : Chip)  (hok_c : Ok F c) : Ok F (ringWrite d off bs c) := by
  unfold ringWrite
  repeat' ((with_reducible
      first
        | assumption | apply memWrite_keeps
        | (intro cc; refine_lift have hcc : Ok F cc := ?_; ?_; subst cc; rotate_left; clear_value cc)
        | (intro cc; clear_value cc) | lift_lets | dsimp only))

theorem encEnd_keeps (s : Nat) (e : VEnc) (ok : Bool) (c : Chip)  (hok_c : Ok F c) : Ok F (encEnd s e ok c) := by
  unfold encEnd
  repeat' ((with_reducible
      first
        | assumption | apply bump_keeps | apply dropGrant_keeps | apply setVses_keeps | apply vidDone_keeps
        | apply freeCoresOf_keeps | apply encGo_keeps
        | (intro cc; refine_lift have hcc : Ok F cc := ?_; ?_; subst cc; rotate_left; clear_value cc)
        | (intro cc; clear_value cc) | apply OkP_of | split | simp only [↓Ok_mk] | lift_lets | dsimp only))

theorem encAbandon_keeps (s : Nat) (e : VEnc) (st : Status) (c : Chip)  (hok_c : Ok F c) : Ok F (encAbandon s e st c) := by
  unfold encAbandon
  repeat' ((with_reducible
      first
        | assumption | apply setVses_keeps | apply encNotice_keeps | apply encEnd_keeps
        | (intro cc; refine_lift have hcc : Ok F cc := ?_; ?_; subst cc; rotate_left; clear_value cc)
        | (intro cc; clear_value cc) | apply OkP_of | split | simp only [↓Ok_mk] | lift_lets | dsimp only))

theorem encPour_keeps (s : Nat) (e : VEnc) (a0 : Nat) (a1 : Chip) (hok_a1 : Ok F a1) : Ok F (encPour s e a0 a1) := by
  induction a0 generalizing a1 with
  | zero =>
    unfold encPour
    repeat' ((with_reducible
        first
          | assumption | apply setVses_keeps | apply encNotice_keeps | apply ringWrite_keeps | apply encEnd_keeps
          | apply encAbandon_keeps | apply ih
          | (intro cc; refine_lift have hcc : Ok F cc := ?_; ?_; subst cc; rotate_left; clear_value cc)
          | (intro cc; clear_value cc) | apply OkP_of | split | simp only [↓Ok_mk] | lift_lets | dsimp only))
  | succ n ih =>
    unfold encPour
    repeat' ((with_reducible
        first
          | assumption | apply setVses_keeps | apply encNotice_keeps | apply ringWrite_keeps | apply encEnd_keeps
          | apply encAbandon_keeps | apply ih
          | (intro cc; refine_lift have hcc : Ok F cc := ?_; ?_; subst cc; rotate_left; clear_value cc)
          | (intro cc; clear_value cc) | apply OkP_of | split | simp only [↓Ok_mk] | lift_lets | dsimp only))

theorem pieceDone_keeps (k : Nat) (e : PieceEnd) (c : Chip)  (hok_c : Ok F c) : Ok F (pieceDone k e c) := by
  unfold pieceDone
  repeat' ((with_reducible
      first
        | assumption | apply bump_keeps | apply modPiece_keeps | apply vidSchedule_keeps | apply coreFree_keeps
        | apply decFinish_keeps | apply encPour_keeps
        | (intro cc; refine_lift have hcc : Ok F cc := ?_; ?_; subst cc; rotate_left; clear_value cc)
        | (intro cc; clear_value cc) | apply OkP_of | split | simp only [↓Ok_mk] | lift_lets | dsimp only))

theorem watchdog_keeps (k unfinished : Nat) (c : Chip)  (hok_c : Ok F c) : Ok F (watchdog k unfinished c) := by
  unfold watchdog
  repeat' ((with_reducible
      first
        | assumption | apply bump_keeps | apply emit_keeps | apply freeCoresOf_keeps | apply decFinish_keeps
        | apply encAbandon_keeps
        | (intro cc; refine_lift have hcc : Ok F cc := ?_; ?_; subst cc; rotate_left; clear_value cc)
        | (intro cc; clear_value cc) | apply OkP_of | split | simp only [↓Ok_mk] | lift_lets | dsimp only))

theorem vidOpenCmd_keeps (p tag w1 : Nat) (c : Chip)  (hok_c : Ok F c) : Ok F (vidOpenCmd p tag w1 c) := by
  unfold vidOpenCmd
  repeat' ((with_reducible
      first
        | assumption | apply choose_keeps | apply setVses_keeps | apply vidDone_keeps
        | (intro cc; refine_lift have hcc : Ok F cc := ?_; ?_; subst cc; rotate_left; clear_value cc)
        | (intro cc; refine_lift have hcc : Ok F cc.2 := ?_; ?_; subst cc; rotate_left; clear_value cc)
        | (intro cc; clear_value cc) | apply OkP_of | split | (refine of_eq2 (by assumption) ?_) | simp only [↓Ok_mk]
        | lift_lets | dsimp only))

theorem vidDecodeCmd_keeps (p tag : Nat) (w1 w2 : Nat) (user : Word) (count : Nat) (pics : List DecPic) (c : Chip)  (hok_c : Ok F c) : Ok F (vidDecodeCmd p tag w1 w2 user count pics c) := by
  unfold vidDecodeCmd
  repeat' ((with_reducible
      first
        | assumption | apply drawSerial_keeps | apply setVses_keeps | apply vidDone_keeps | apply decGo_keeps
        | (intro cc; refine_lift have hcc : Ok F cc := ?_; ?_; subst cc; rotate_left; clear_value cc)
        | (intro cc; refine_lift have hcc : Ok F cc.2 := ?_; ?_; subst cc; rotate_left; clear_value cc)
        | (intro cc; clear_value cc) | apply OkP_of | split | (refine of_eq2 (by assumption) ?_) | simp only [↓Ok_mk]
        | lift_lets | dsimp only))

theorem vidEncodeCmd_keeps (p tag : Nat) (w1 w2 : Nat) (user : Word) (count : Nat) (c : Chip)  (hok_c : Ok F c) : Ok F (vidEncodeCmd p tag w1 w2 user count c) := by
  unfold vidEncodeCmd
  repeat' ((with_reducible
      first
        | assumption | apply drawSerial_keeps | apply setVses_keeps | apply vidDone_keeps | apply encGo_keeps
        | (intro cc; refine_lift have hcc : Ok F cc := ?_; ?_; subst cc; rotate_left; clear_value cc)
        | (intro cc; refine_lift have hcc : Ok F cc.2 := ?_; ?_; subst cc; rotate_left; clear_value cc)
        | (intro cc; clear_value cc) | apply OkP_of | split | (refine of_eq2 (by assumption) ?_) | simp only [↓Ok_mk]
        | lift_lets | dsimp only))

theorem vidReleaseCmd_keeps (p tag w1 : Nat) (c : Chip)  (hok_c : Ok F c) : Ok F (vidReleaseCmd p tag w1 c) := by
  unfold vidReleaseCmd
  repeat' ((with_reducible
      first
        | assumption | apply setVses_keeps | apply vidDone_keeps
        | (intro cc; refine_lift have hcc : Ok F cc := ?_; ?_; subst cc; rotate_left; clear_value cc)
        | (intro cc; clear_value cc) | apply OkP_of | split | simp only [↓Ok_mk] | lift_lets | dsimp only))

theorem vidEndCmd_keeps (p tag w1 count : Nat) (c : Chip)  (hok_c : Ok F c) : Ok F (vidEndCmd p tag w1 count c) := by
  unfold vidEndCmd
  repeat' ((with_reducible
      first
        | assumption | apply drawSerial_keeps | apply setVses_keeps | apply vidDone_keeps | apply decGo_keeps
        | apply encGo_keeps
        | (intro cc; refine_lift have hcc : Ok F cc := ?_; ?_; subst cc; rotate_left; clear_value cc)
        | (intro cc; refine_lift have hcc : Ok F cc.2 := ?_; ?_; subst cc; rotate_left; clear_value cc)
        | (intro cc; clear_value cc) | apply OkP_of | split | (refine of_eq2 (by assumption) ?_) | simp only [↓Ok_mk]
        | lift_lets | dsimp only))

theorem vidBsFreeCmd_keeps (p tag w1 : Nat) (c : Chip)  (hok_c : Ok F c) : Ok F (vidBsFreeCmd p tag w1 c) := by
  unfold vidBsFreeCmd
  repeat' ((with_reducible
      first
        | assumption | apply setVses_keeps | apply vidDone_keeps
        | (intro cc; refine_lift have hcc : Ok F cc := ?_; ?_; subst cc; rotate_left; clear_value cc)
        | (intro cc; clear_value cc) | apply OkP_of | split | simp only [↓Ok_mk] | lift_lets | dsimp only))

theorem vidCloseCmd_keeps (p tag w1 : Nat) (c : Chip)  (hok_c : Ok F c) : Ok F (vidCloseCmd p tag w1 c) := by
  unfold vidCloseCmd
  repeat' ((with_reducible
      first
        | assumption | apply setVses_keeps | apply vidDone_keeps
        | (intro cc; refine_lift have hcc : Ok F cc := ?_; ?_; subst cc; rotate_left; clear_value cc)
        | (intro cc; clear_value cc) | apply OkP_of | split | simp only [↓Ok_mk] | lift_lets | dsimp only))

theorem vidCommand_keeps (p count : Nat) (ws : List Word) (pics : List DecPic) (c : Chip)  (hok_c : Ok F c) : Ok F (vidCommand p count ws pics c) := by
  unfold vidCommand
  repeat' ((with_reducible
      first
        | assumption | apply vidDone_keeps | apply vidOpenCmd_keeps | apply vidDecodeCmd_keeps
        | apply vidEncodeCmd_keeps | apply vidReleaseCmd_keeps | apply vidEndCmd_keeps | apply vidBsFreeCmd_keeps
        | apply vidCloseCmd_keeps
        | (intro cc; refine_lift have hcc : Ok F cc := ?_; ?_; subst cc; rotate_left; clear_value cc)
        | (intro cc; clear_value cc) | split | lift_lets | dsimp only))

theorem vidRead_keeps (cmd p : Nat) (pics : List DecPic) (c : Chip)  (hok_c : Ok F c) : Ok F (vidRead cmd p pics c) := by
  unfold vidRead
  repeat' ((with_reducible
      first
        | assumption | apply dropHead_keeps | apply vidCommand_keeps
        | (intro cc; refine_lift have hcc : Ok F cc := ?_; ?_; subst cc; rotate_left; clear_value cc)
        | (intro cc; clear_value cc) | apply OkP_of | split | simp only [↓Ok_mk] | lift_lets | dsimp only))

theorem closeSessions_keeps (p : Nat) (c : Chip)  (hok_c : Ok F c) : Ok F (closeSessions p c) := by
  unfold closeSessions
  repeat' ((with_reducible
      first
        | assumption | apply dropGrant_keeps | apply setVses_keeps | apply freeCoresOf_keeps | apply OkP_of
        | apply foldl_keeps | split | intro _ | simp only [↓Ok_mk] | dsimp only))

end Sys2Proof.Machine
end

