-- ==== Sys2Proof/Laws/KeepFaults.lean ====
section
/-! SUPPORT. Every operation of Machine/Faults.lean keeps `Ok`. -/
set_option linter.all false
namespace Sys2Proof.Machine
variable {F : Fuse}

theorem setFdp_keeps (n : Nat) (v : Session) (c : Chip)  (hok_c : Ok F c) : Ok F (setFdp n v c) := by
  unfold setFdp
  repeat' ((with_reducible
      first
        | assumption | apply OkP_of | simp only [↓Ok_mk] | dsimp only))

theorem endSession_keeps (n : Nat) (c : Chip)  (hok_c : Ok F c) : Ok F (endSession n c) := by
  unfold endSession
  repeat' ((with_reducible
      first
        | assumption | apply setFdp_keeps
        | (intro cc; refine_lift have hcc : Ok F cc := ?_; ?_; subst cc; rotate_left; clear_value cc)
        | (intro cc; clear_value cc) | apply OkP_of | simp only [↓Ok_mk] | lift_lets | dsimp only))

theorem endSessions_keeps (c : Chip)  (hok_c : Ok F c) : Ok F (endSessions c) := by
  unfold endSessions
  repeat' ((with_reducible
      first
        | assumption | apply endSession_keeps
        | (intro cc; refine_lift have hcc : Ok F cc := ?_; ?_; subst cc; rotate_left; clear_value cc)
        | (intro cc; clear_value cc) | apply OkP_of | apply forSpan_keeps | intro _ | simp only [↓Ok_mk] | lift_lets
        | dsimp only))

theorem modPartFlt_keeps (p : Nat) (f : PartFlt → PartFlt) (c : Chip)  (hok_c : Ok F c) : Ok F (modPartFlt p f c) := by
  unfold modPartFlt
  repeat' ((with_reducible
      first
        | assumption | apply OkP_of | simp only [↓Ok_mk] | dsimp only))

theorem startBundle_keeps (reason : Nat) (c : Chip)  (hok_c : Ok F c) : Ok F (startBundle reason c) := by
  unfold startBundle
  repeat' ((with_reducible
      first
        | assumption | apply startDump_keeps
        | (intro cc; refine_lift have hcc : Ok F cc := ?_; ?_; subst cc; rotate_left; clear_value cc)
        | (intro cc; clear_value cc) | apply OkP_of | simp only [↓Ok_mk] | lift_lets | dsimp only))

theorem bundleDone_keeps (c : Chip)  (hok_c : Ok F c) : Ok F (bundleDone c) := by
  unfold bundleDone
  repeat' ((with_reducible
      first
        | assumption | apply emit_keeps | apply OkP_of | split | simp only [↓Ok_mk] | dsimp only))

theorem standDown_keeps (reason : Status) (c : Chip)  (hok_c : Ok F c) : Ok F (standDown reason c) := by
  unfold standDown
  repeat' ((with_reducible
      first
        | assumption | apply clearClaim_keeps | apply leavePair_keeps | dsimp only))

theorem haltThreads_keeps (c : Chip)  (hok_c : Ok F c) : Ok F (haltThreads c) := by
  unfold haltThreads
  repeat' ((with_reducible
      first
        | assumption | apply OkP_of | split | simp only [↓Ok_mk] | dsimp only))

theorem abortAll_keeps (c : Chip)  (hok_c : Ok F c) : Ok F (abortAll c) := by
  unfold abortAll
  repeat' ((with_reducible
      first
        | assumption | apply abortTag_keeps | apply foldl_keeps | intro _ | dsimp only))

theorem saveTime_keeps (c : Chip)  (hok_c : Ok F c) : Ok F (saveTime c) := by
  unfold saveTime
  repeat' ((with_reducible
      first
        | assumption | apply OkP_of | simp only [↓Ok_mk] | dsimp only))

theorem moduleFail_keeps (src : Source) (st : Status) (c : Chip)  (hok_c : Ok F c) : Ok F (moduleFail src st c) := by
  unfold moduleFail
  repeat' (first
    | (with_reducible
      first
        | assumption | apply enterState_keeps | apply emit_keeps | apply endSessions_keeps | apply startBundle_keeps
        | apply standDown_keeps | apply haltThreads_keeps | apply abortAll_keeps | apply saveTime_keeps
        | (intro cc; refine_lift have hcc : Ok F cc := ?_; ?_; subst cc; rotate_left; clear_value cc)
        | (intro cc; clear_value cc) | apply OkP_state | split | lift_lets | dsimp only)
    | (with_reducible show _ ≤ (9 : Nat); decide))

theorem settleFatal_keeps (c : Chip)  (hok_c : Ok F c) : Ok F (settleFatal c) := by
  unfold settleFatal
  repeat' ((with_reducible
      first
        | assumption | apply moduleFail_keeps | apply OkP_of | split | simp only [↓Ok_mk] | dsimp only))

theorem enterFenced_keeps (latch : Bool) (c : Chip)  (hok_c : Ok F c) : Ok F (enterFenced latch c) := by
  unfold enterFenced
  repeat' (first
    | (with_reducible
      first
        | assumption | apply enterState_keeps | apply emit_keeps | apply endSessions_keeps | apply startBundle_keeps
        | apply standDown_keeps | apply haltThreads_keeps | apply saveTime_keeps
        | (intro cc; refine_lift have hcc : Ok F cc := ?_; ?_; subst cc; rotate_left; clear_value cc)
        | (intro cc; clear_value cc) | apply OkP_state | split | lift_lets | dsimp only)
    | (with_reducible show _ ≤ (9 : Nat); decide))

theorem fencedToLatch_keeps (c : Chip)  (hok_c : Ok F c) : Ok F (fencedToLatch c) := by
  unfold fencedToLatch
  repeat' (first
    | (with_reducible
      first
        | assumption | apply startBundle_keeps | apply OkP_state | split | dsimp only)
    | (with_reducible show _ ≤ (9 : Nat); decide))

theorem logAdmit_keeps (c : Chip)  (hok_c : Ok F c) : Ok F (logAdmit c) := by
  unfold logAdmit
  repeat' ((with_reducible
      first
        | assumption | apply setObj_keeps | apply bump_keeps | apply callHook_keeps
        | (intro cc; refine_lift have hcc : Ok F cc := ?_; ?_; subst cc; rotate_left; clear_value cc)
        | (intro cc; clear_value cc) | apply OkP_of | split | simp only [↓Ok_mk] | lift_lets | dsimp only))

theorem suppressReports_keeps (closed : Nat) (c : Chip)  (hok_c : Ok F c) : Ok F (suppressReports closed c) := by
  unfold suppressReports
  repeat' ((with_reducible
      first
        | assumption | apply emitRaw_keeps | apply OkP_of | apply foldl_keeps | intro _ | simp only [↓Ok_mk]
        | dsimp only))

theorem wrapReport_keeps (c : Chip)  (hok_c : Ok F c) : Ok F (wrapReport c) := by
  unfold wrapReport
  repeat' ((with_reducible
      first
        | assumption | apply emit_keeps
        | (intro cc; refine_lift have hcc : Ok F cc := ?_; ?_; subst cc; rotate_left; clear_value cc)
        | (intro cc; clear_value cc) | apply OkP_of | split | simp only [↓Ok_mk] | lift_lets | dsimp only))

theorem startRuntime_keeps (p cause causeTo : Nat) (c : Chip)  (hok_c : Ok F c) : Ok F (startRuntime p cause causeTo c) := by
  unfold startRuntime
  repeat' ((with_reducible
      first
        | assumption | apply setHart_keeps | apply emit_keeps | apply modPartFlt_keeps
        | (intro cc; refine_lift have hcc : Ok F cc := ?_; ?_; subst cc; rotate_left; clear_value cc)
        | (intro cc; clear_value cc) | apply OkP_of | split | simp only [↓Ok_mk] | lift_lets | dsimp only))

theorem resetQueues_keeps (p : Nat) (keep : Nat → Bool) (c : Chip)  (hok_c : Ok F c) : Ok F (resetQueues p keep c) := by
  unfold resetQueues
  repeat' ((with_reducible
      first
        | assumption | apply startReset_keeps | apply foldl_keeps | intro _ | dsimp only))

theorem restartPart_keeps (p : Nat) (image : Chip → Chip) (cause causeTo : Nat) (c : Chip)  (h_image : ∀ x0, Ok F x0 → Ok F (image x0)) (hok_c : Ok F c) : Ok F (restartPart p image cause causeTo c) := by
  unfold restartPart
  repeat' ((with_reducible
      first
        | assumption | apply bump_keeps | apply emit_keeps | apply rewind_keeps | apply stopThread_keeps
        | apply changeEpoch_keeps | apply discardEgress_keeps | apply releasePins_keeps | apply closeBatches_keeps
        | apply modPartFlt_keeps | apply startRuntime_keeps | apply resetQueues_keeps | apply h_image
        | (intro cc; refine_lift have hcc : Ok F cc := ?_; ?_; subst cc; rotate_left; clear_value cc)
        | (intro cc; clear_value cc) | apply OkP_of | apply foldl_keeps | split | intro _ | simp only [↓Ok_mk]
        | lift_lets | dsimp only))

theorem restartsDue_keeps (c : Chip)  (hok_c : Ok F c) : Ok F (restartsDue c) := by
  unfold restartsDue
  repeat' ((with_reducible
      first
        | assumption | apply clearAlloc_keeps | apply restartPart_keeps
        | (intro cc; refine_lift have hcc : Ok F cc := ?_; ?_; subst cc; rotate_left; clear_value cc)
        | (intro cc; clear_value cc) | apply OkP_of | apply foldl_keeps | split | intro _ | simp only [↓Ok_mk]
        | lift_lets | dsimp only))

theorem rollbackDue_keeps (n : Nat) (c : Chip)  (hok_c : Ok F c) : Ok F (rollbackDue n c) := by
  unfold rollbackDue
  repeat' (first
    | (with_reducible
      first
        | assumption | apply enterState_keeps | apply emit_keeps | apply applyImage_keeps | apply applySaved_keeps
        | apply restoredEvent_keeps | apply restartPart_keeps
        | (intro cc; refine_lift have hcc : Ok F cc := ?_; ?_; subst cc; rotate_left; clear_value cc)
        | (intro cc; clear_value cc) | apply OkP_of | apply foldl_keeps | split | intro _ | simp only [↓Ok_mk]
        | lift_lets | dsimp only)
    | (with_reducible show _ ≤ (9 : Nat); decide))

theorem admission_keeps (n : Nat) (c : Chip)  (hok_c : Ok F c) : Ok F (admission n c) := by
  unfold admission
  repeat' (first
    | (with_reducible
      first
        | assumption | apply enterState_keeps | apply emit_keeps | apply applyImage_keeps | apply startRuntime_keeps
        | (intro cc; refine_lift have hcc : Ok F cc := ?_; ?_; subst cc; rotate_left; clear_value cc)
        | (intro cc; clear_value cc) | apply OkP_of | apply foldl_keeps | split | intro _ | simp only [↓Ok_mk]
        | lift_lets | dsimp only)
    | (with_reducible show _ ≤ (9 : Nat); decide))

theorem ckptImages_keeps (n : Nat) (c : Chip)  (hok_c : Ok F c) : Ok F (ckptImages n c) := by
  unfold ckptImages
  repeat' ((with_reducible
      first
        | assumption | apply takeImage_keeps | apply foldl_keeps | split | intro _ | dsimp only))

theorem ckptBegin_keeps (roll : Bool) (n : Nat) (c : Chip)  (hok_c : Ok F c) : Ok F (ckptBegin roll n c) := by
  unfold ckptBegin
  repeat' ((with_reducible
      first
        | assumption | apply emit_keeps | apply engineSet_keeps | apply modPartFlt_keeps
        | (intro cc; refine_lift have hcc : Ok F cc := ?_; ?_; subst cc; rotate_left; clear_value cc)
        | (intro cc; clear_value cc) | apply OkP_of | apply foldl_keeps | split | intro _ | simp only [↓Ok_mk]
        | lift_lets | dsimp only))

theorem commitSave_keeps (p n : Nat) (c : Chip)  (hok_c : Ok F c) : Ok F (commitSave p n c) := by
  unfold commitSave
  repeat' ((with_reducible
      first
        | assumption | apply emit_keeps | apply modPartFlt_keeps
        | (intro cc; refine_lift have hcc : Ok F cc := ?_; ?_; subst cc; rotate_left; clear_value cc)
        | (intro cc; clear_value cc) | apply OkP_of | simp only [↓Ok_mk] | lift_lets | dsimp only))

theorem shadowStep_keeps (c : Chip)  (hok_c : Ok F c) : Ok F (shadowStep c) := by
  unfold shadowStep
  repeat' ((with_reducible
      first
        | assumption | apply emit_keeps
        | (intro cc; refine_lift have hcc : Ok F cc := ?_; ?_; subst cc; rotate_left; clear_value cc)
        | (intro cc; clear_value cc) | apply OkP_of | split | simp only [↓Ok_mk] | lift_lets | dsimp only))

theorem noteHard_keeps (c : Chip)  (hok_c : Ok F c) : Ok F (noteHard c) := by
  unfold noteHard
  repeat' ((with_reducible
      first
        | assumption | apply modPartFlt_keeps | apply OkP_of | apply foldl_keeps | split | intro _
        | simp only [↓Ok_mk] | dsimp only))

end Sys2Proof.Machine
end

