-- ==== Sys2Proof/Laws/KeepFdp.lean ====
section
/-! SUPPORT. Every operation of Machine/Fdp.lean keeps `Ok`. -/
set_option linter.all false
namespace Sys2Proof.Machine
variable {F : Fuse}

theorem keepResp_keeps (who : Requester) (k : Kept) (c : Chip)  (hok_c : Ok F c) : Ok F (keepResp who k c) := by
  unfold keepResp
  repeat' ((with_reducible
      first
        | assumption | apply setFdp_keeps
        | (intro cc; refine_lift have hcc : Ok F cc := ?_; ?_; subst cc; rotate_left; clear_value cc)
        | (intro cc; clear_value cc) | apply OkP_of | split | simp only [↓Ok_mk] | lift_lets | dsimp only))

theorem frameSent_keeps (c : Chip)  (hok_c : Ok F c) : Ok F (frameSent c) := by
  unfold frameSent
  repeat' ((with_reducible
      first
        | assumption | apply OkP_of | simp only [↓Ok_mk] | dsimp only))

theorem recordSent_keeps (n : Nat) (c : Chip)  (hok_c : Ok F c) : Ok F (recordSent n c) := by
  unfold recordSent
  repeat' ((with_reducible
      first
        | assumption | apply send_keeps | apply setFdp_keeps | apply frameSent_keeps
        | (intro cc; refine_lift have hcc : Ok F cc := ?_; ?_; subst cc; rotate_left; clear_value cc)
        | (intro cc; clear_value cc) | apply OkP_of | split | simp only [↓Ok_mk] | lift_lets | dsimp only))

theorem sendResp_keeps (who : Requester) (m : DMsg) (r : Resp) (c : Chip)  (hok_c : Ok F c) : Ok F (sendResp who m r c) := by
  unfold sendResp
  repeat' ((with_reducible
      first
        | assumption | apply send_keeps | apply answer_keeps | apply recordSent_keeps | apply OkP_of | split
        | simp only [↓Ok_mk] | dsimp only))

theorem respond_keeps (keep : Bool) (who : Requester) (m : DMsg) (r : Resp) (c : Chip)  (hok_c : Ok F c) : Ok F (respond keep who m r c) := by
  unfold respond
  repeat' ((with_reducible
      first
        | assumption | apply keepResp_keeps | apply sendResp_keeps | split | dsimp only))

theorem beginReq_keeps (who : Requester) (m : DMsg) (c c' : Chip) (e : beginReq who m c = some c') (hok_c : Ok F c) : Ok F c' := by
  unfold beginReq at e
  cases who with
  | session n =>
    dsimp only at e
    split at e
    · cases e
    · split at e
      · cases e; exact hok_c
      · split at e
        · cases e; exact setFdp_keeps _ _ _ hok_c
        · cases e
  | mailbox =>
    dsimp only at e
    split at e
    · cases e; exact hok_c
    · split at e
      · cases e; exact hok_c
      · cases e
  | policy => cases e; exact hok_c

theorem answerHeader_keeps (who : Requester) (m : DMsg) (st : Status) (c : Chip)  (hok_c : Ok F c) : Ok F (answerHeader who m st c) := by
  unfold answerHeader
  repeat' ((with_reducible
      first
        | assumption | apply respond_keeps
        | (intro cc; refine_lift have hcc : Ok F cc := ?_; ?_; subst cc; rotate_left; clear_value cc)
        | (intro cc; clear_value cc) | lift_lets | dsimp only))

end Sys2Proof.Machine
end

