-- ==== Sys2Proof/Laws/KeepCounters.lean ====
section
/-! SUPPORT. Every operation of Machine/Counters.lean keeps `Ok`. -/
set_option linter.all false
namespace Sys2Proof.Machine
variable {F : Fuse}

theorem advanceCtr_keeps (n : Nat) (c : Chip)  (hok_c : Ok F c) : Ok F (advanceCtr n c) := by
  unfold advanceCtr
  repeat' ((with_reducible
      first
        | assumption | apply drawFree_keeps
        | (intro cc; refine_lift have hcc : Ok F cc := ?_; ?_; subst cc; rotate_left; clear_value cc)
        | (intro cc; refine_lift have hcc : Ok F cc.2 := ?_; ?_; subst cc; rotate_left; clear_value cc)
        | (intro cc; clear_value cc) | apply OkP_of | split | (refine of_eq2 (by assumption) ?_) | simp only [↓Ok_mk]
        | lift_lets | dsimp only))

theorem dropCounters_keeps (p : Nat) (c : Chip)  (hok_c : Ok F c) : Ok F (dropCounters p c) := by
  unfold dropCounters
  repeat' ((with_reducible
      first
        | assumption | apply setObj_keeps | apply OkP_of | apply foldl_keeps | split | intro _ | simp only [↓Ok_mk]
        | dsimp only))

theorem snapshotFor_keeps (n at_ p : Nat) (c : Chip)  (hok_c : Ok F c) : Ok F (snapshotFor n at_ p c) := by
  unfold snapshotFor
  repeat' ((with_reducible
      first
        | assumption | apply bump_keeps | apply emit_keeps | apply engineSet_keeps | apply putPacket_keeps
        | (intro cc; refine_lift have hcc : Ok F cc := ?_; ?_; subst cc; rotate_left; clear_value cc)
        | (intro cc; refine_lift have hcc : Ok F cc.2 := ?_; ?_; subst cc; rotate_left; clear_value cc)
        | (intro cc; clear_value cc) | apply OkP_of | apply Ok_tput | apply Ok_found | split
        | (refine of_eq2 (by assumption) ?_) | simp only [↓Ok_mk] | lift_lets | dsimp only))

theorem snapshotCounters_keeps (n at_ : Nat) (c : Chip)  (hok_c : Ok F c) : Ok F (snapshotCounters n at_ c) := by
  unfold snapshotCounters
  repeat' ((with_reducible
      first
        | assumption | apply advanceCtr_keeps | apply snapshotFor_keeps
        | (intro cc; refine_lift have hcc : Ok F cc := ?_; ?_; subst cc; rotate_left; clear_value cc)
        | (intro cc; clear_value cc) | apply OkP_of | apply foldl_keeps | split | intro _ | simp only [↓Ok_mk]
        | lift_lets | dsimp only))

theorem bandwidthStep_keeps (n at_ : Nat) (c : Chip)  (hok_c : Ok F c) : Ok F (bandwidthStep n at_ c) := by
  unfold bandwidthStep
  repeat' ((with_reducible
      first
        | assumption | apply setObj_keeps
        | (intro cc; refine_lift have hcc : Ok F cc := ?_; ?_; subst cc; rotate_left; clear_value cc)
        | (intro cc; clear_value cc) | apply OkP_of | apply forSpan_keeps | split | intro _ | simp only [↓Ok_mk]
        | lift_lets | dsimp only))

theorem tagChoice_keeps (t : Nat) (c : Chip)  (hok_c : Ok F c) : Ok F (tagChoice t c).2 := by
  unfold tagChoice
  repeat' ((with_reducible
      first
        | assumption | apply modHart_keeps | apply modGrove_keeps
        | (intro cc; refine_lift have hcc : Ok F cc := ?_; ?_; subst cc; rotate_left; clear_value cc)
        | (intro cc; clear_value cc) | apply OkP_of | split | simp only [↓Ok_mk] | lift_lets | dsimp only))

theorem smplSource_keeps (c : Chip) (t pa : Nat)  (hok_c : Ok F c) : Ok F (smplSource c t pa).2 := by
  unfold smplSource
  repeat' ((with_reducible
      first
        | assumption | apply drawFree_keeps
        | (intro cc; refine_lift have hcc : Ok F cc := ?_; ?_; subst cc; rotate_left; clear_value cc)
        | (intro cc; refine_lift have hcc : Ok F cc.2 := ?_; ?_; subst cc; rotate_left; clear_value cc)
        | (intro cc; clear_value cc) | apply OkP_of | split | (refine of_eq2 (by assumption) ?_) | simp only [↓Ok_mk]
        | lift_lets | dsimp only))

theorem writeSample_keeps (x : Sample) (bytes : Bytes) (c : Chip)  (hok_c : Ok F c) : Ok F (writeSample x bytes c) := by
  unfold writeSample
  repeat' ((with_reducible
      first
        | assumption | apply bump_keeps | apply emit_keeps | apply engineSet_keeps | apply putPacket_keeps
        | (intro cc; refine_lift have hcc : Ok F cc := ?_; ?_; subst cc; rotate_left; clear_value cc)
        | (intro cc; refine_lift have hcc : Ok F cc.2 := ?_; ?_; subst cc; rotate_left; clear_value cc)
        | (intro cc; clear_value cc) | apply OkP_of | apply Ok_tput | apply Ok_found | split
        | (refine of_eq2 (by assumption) ?_) | simp only [↓Ok_mk] | lift_lets | dsimp only))

theorem flushSamples_keeps (c : Chip)  (hok_c : Ok F c) : Ok F (flushSamples c) := by
  unfold flushSamples
  repeat' ((with_reducible
      first
        | assumption | apply writeSample_keeps
        | (intro cc; refine_lift have hcc : Ok F cc := ?_; ?_; subst cc; rotate_left; clear_value cc)
        | (intro cc; clear_value cc) | apply OkP_of | apply foldl_keeps | split | intro _ | simp only [↓Ok_mk]
        | lift_lets | dsimp only))

theorem issueAs_keeps (t insn : Nat) (va : Option (Acc × Nat)) (f : Chip → Chip) (c : Chip)  (h_f : ∀ x0, Ok F x0 → Ok F (f x0)) (hok_c : Ok F c) : Ok F (issueAs t insn va f c) := by
  unfold issueAs
  repeat' ((with_reducible
      first
        | assumption | apply drawFree_keeps | apply bump_keeps | apply xlate_keeps | apply tagChoice_keeps
        | apply smplSource_keeps | apply flushSamples_keeps | apply h_f
        | (intro cc; refine_lift have hcc : Ok F cc := ?_; ?_; subst cc; rotate_left; clear_value cc)
        | (intro cc; refine_lift have hcc : Ok F cc.1 := ?_; ?_; subst cc; rotate_left; clear_value cc)
        | (intro cc; refine_lift have hcc : Ok F cc.2 := ?_; ?_; subst cc; rotate_left; clear_value cc)
        | (intro cc; clear_value cc) | apply OkP_of | split | (refine of_eq1 (by assumption) ?_)
        | (refine of_eq2 (by assumption) ?_) | intro _ | simp only [↓Ok_mk] | lift_lets | dsimp only))

theorem runInsn_keeps (t insn : Nat) (va : Option (Acc × Nat)) (f : Chip → Chip) (c : Chip)  (h_f : ∀ x0, Ok F x0 → Ok F (f x0)) (hok_c : Ok F c) : Ok F (runInsn t insn va f c) := by
  unfold runInsn
  repeat' ((with_reducible
      first
        | assumption | apply hartDo_keeps | apply issueAs_keeps | apply h_f | intro _ | dsimp only))

end Sys2Proof.Machine
end

