-- ==== Sys2Proof/Laws/KeepPartition.lean ====
section
/-! SUPPORT. Every operation of Machine/Partition.lean keeps `Ok`. -/
set_option linter.all false
namespace Sys2Proof.Machine
variable {F : Fuse}

theorem fillKeys_keeps (p : Nat) (c : Chip)  (hok_c : Ok F c) : Ok F (fillKeys p c) := by
  unfold fillKeys
  repeat' ((with_reducible
      first
        | assumption | (intro cc; refine_lift have hcc : Ok F cc := ?_; ?_; subst cc; rotate_left; clear_value cc)
        | (intro cc; clear_value cc) | apply OkP_of | apply foldl_keeps | split | intro _ | simp only [↓Ok_mk]
        | lift_lets | dsimp only))

theorem blobWrite_keeps (who : Requester) (svc : Nat) (m : FdpReq) (p : Nat) (b : Bytes) (plain : Option Bytes) (c : Chip)  (hok_c : Ok F c) : Ok F (blobWrite who svc m p b plain c).2 := by
  unfold blobWrite
  repeat' ((with_reducible
      first
        | assumption | apply emit_keeps
        | (intro cc; refine_lift have hcc : Ok F cc := ?_; ?_; subst cc; rotate_left; clear_value cc)
        | (intro cc; clear_value cc) | apply OkP_of | split | simp only [↓Ok_mk] | lift_lets | dsimp only))

theorem answerInstall_keeps (i : Install) (st : Status) (c : Chip)  (hok_c : Ok F c) : Ok F (answerInstall i st c) := by
  unfold answerInstall
  repeat' ((with_reducible
      first
        | assumption | apply respond_keeps | dsimp only))

theorem keyInstalled_keeps (p : Nat) (c : Chip)  (hok_c : Ok F c) : Ok F (keyInstalled p c) := by
  unfold keyInstalled
  repeat' ((with_reducible
      first
        | assumption | apply emit_keeps | apply fillKeys_keeps | apply answerInstall_keeps
        | (intro cc; refine_lift have hcc : Ok F cc := ?_; ?_; subst cc; rotate_left; clear_value cc)
        | (intro cc; clear_value cc) | apply OkP_of | split | simp only [↓Ok_mk] | lift_lets | dsimp only))

theorem dropInstalls_keeps (p : Nat) (c : Chip)  (hok_c : Ok F c) : Ok F (dropInstalls p c) := by
  unfold dropInstalls
  repeat' ((with_reducible
      first
        | assumption | apply emit_keeps | apply answerInstall_keeps | apply OkP_of | apply foldl_keeps | intro _
        | simp only [↓Ok_mk] | dsimp only))

theorem clearPartObjs_keeps (p : Nat) (c : Chip)  (hok_c : Ok F c) : Ok F (clearPartObjs p c) := by
  unfold clearPartObjs
  repeat' ((with_reducible
      first
        | assumption | apply OkP_of | simp only [↓Ok_mk] | dsimp only))

theorem clearGrove_keeps (g : Nat) (c : Chip)  (hok_c : Ok F c) : Ok F (clearGrove g c) := by
  unfold clearGrove
  repeat' ((with_reducible
      first
        | assumption | apply modGrove_keeps | apply memClear_keeps
        | (intro cc; refine_lift have hcc : Ok F cc := ?_; ?_; subst cc; rotate_left; clear_value cc)
        | (intro cc; clear_value cc) | apply OkP_of | split | simp only [↓Ok_mk] | lift_lets | dsimp only))

theorem clearStands_keeps (e : MapEntry) (off mib : Nat) (c : Chip)  (hok_c : Ok F c) : Ok F (clearStands e off mib c) := by
  unfold clearStands
  repeat' ((with_reducible
      first
        | assumption | apply memClear_keeps | apply foldl_keeps | intro _ | dsimp only))

theorem releaseRange_keeps (p tier base gib : Nat) (c : Chip)  (hok_c : Ok F c) : Ok F (releaseRange p tier base gib c) := by
  unfold releaseRange
  repeat' ((with_reducible
      first
        | assumption | (intro cc; refine_lift have hcc : Ok F cc := ?_; ?_; subst cc; rotate_left; clear_value cc)
        | (intro cc; clear_value cc) | apply OkP_of | split | simp only [↓Ok_mk] | lift_lets | dsimp only))

theorem releaseQueues_keeps (first num : Nat) (c : Chip)  (hok_c : Ok F c) : Ok F (releaseQueues first num c) := by
  unfold releaseQueues
  repeat' ((with_reducible
      first
        | assumption | apply modQueue_keeps | apply startReset_keeps | apply OkP_of | apply foldl_keeps | intro _
        | simp only [↓Ok_mk] | dsimp only))

theorem releaseSlots_keeps (first num : Nat) (c : Chip)  (hok_c : Ok F c) : Ok F (releaseSlots first num c) := by
  unfold releaseSlots
  repeat' ((with_reducible
      first
        | assumption | apply closeSlot_keeps | apply foldl_keeps | intro _ | dsimp only))

theorem setMap_keeps (p : Nat) (e : MapEntry) (c : Chip)  (hok_c : Ok F c) : Ok F (setMap p e c) := by
  unfold setMap
  repeat' ((with_reducible
      first
        | assumption | apply OkP_of | simp only [↓Ok_mk] | dsimp only))

theorem closeWindows_keeps (v : Nat) (c : Chip)  (hok_c : Ok F c) : Ok F (closeWindows v c) := by
  unfold closeWindows
  repeat' ((with_reducible
      first
        | assumption | apply setObj_keeps | apply forSpan_keeps | split | intro _ | dsimp only))

theorem changeTenant_keeps (p : Nat) (new : MapEntry) (c : Chip)  (hok_c : Ok F c) : Ok F (changeTenant p new c) := by
  unfold changeTenant
  repeat' ((with_reducible
      first
        | assumption | apply bump_keeps | apply emit_keeps | apply memClear_keeps | apply rewind_keeps
        | apply stopThread_keeps | apply resetBlazes_keeps | apply changeEpoch_keeps | apply discardEgress_keeps
        | apply closeBatches_keeps | apply clearServing_keeps | apply closeSessions_keeps | apply dropCounters_keeps
        | apply dropInstalls_keeps | apply clearPartObjs_keeps | apply clearGrove_keeps | apply clearStands_keeps
        | apply releaseRange_keeps | apply releaseQueues_keeps | apply releaseSlots_keeps | apply setMap_keeps
        | apply closeWindows_keeps
        | (intro cc; refine_lift have hcc : Ok F cc := ?_; ?_; subst cc; rotate_left; clear_value cc)
        | (intro cc; clear_value cc) | apply OkP_of | apply foldl_keeps | intro _ | simp only [↓Ok_mk] | lift_lets
        | dsimp only))

theorem stopGrove_keeps (g : Nat) (c : Chip)  (hok_c : Ok F c) : Ok F (stopGrove g c) := by
  unfold stopGrove
  repeat' ((with_reducible
      first
        | assumption | apply stopThread_keeps | apply foldl_keeps | intro _ | dsimp only))

theorem changeBlazes_keeps (p : Nat) (old new : MapEntry) (c : Chip)  (hok_c : Ok F c) : Ok F (changeBlazes p old new c) := by
  unfold changeBlazes
  repeat' ((with_reducible
      first
        | assumption | apply resetBlazes_keeps
        | (intro cc; refine_lift have hcc : Ok F cc := ?_; ?_; subst cc; rotate_left; clear_value cc)
        | (intro cc; clear_value cc) | apply OkP_of | apply foldl_keeps | split | intro _ | simp only [↓Ok_mk]
        | lift_lets | dsimp only))

theorem removeResources_keeps (p : Nat) (old new : MapEntry) (c : Chip)  (hok_c : Ok F c) : Ok F (removeResources p old new c) := by
  unfold removeResources
  repeat' ((with_reducible
      first
        | assumption | apply memClear_keeps | apply clearGrove_keeps | apply clearStands_keeps
        | apply releaseRange_keeps | apply releaseQueues_keeps | apply releaseSlots_keeps | apply closeWindows_keeps
        | apply stopGrove_keeps | apply changeBlazes_keeps
        | (intro cc; refine_lift have hcc : Ok F cc := ?_; ?_; subst cc; rotate_left; clear_value cc)
        | (intro cc; clear_value cc) | apply OkP_of | apply foldl_keeps | split | intro _ | simp only [↓Ok_mk]
        | lift_lets | dsimp only))

theorem applyEntry_keeps (p : Nat) (new : MapEntry) (c : Chip)  (hok_c : Ok F c) : Ok F (applyEntry p new c) := by
  unfold applyEntry
  repeat' (first
    | (with_reducible
      first
        | assumption | apply changeEpoch_keeps | apply fillKeys_keeps | apply setMap_keeps | apply changeTenant_keeps
        | apply removeResources_keeps
        | (intro cc; refine_lift have hcc : Ok F cc := ?_; ?_; subst cc; rotate_left; clear_value cc)
        | (intro cc; refine_lift have hcc : Ok F cc.2 := ?_; ?_; subst cc; rotate_left; clear_value cc)
        | (intro cc; refine_lift have hcc : Ok F cc.2.2 := ?_; ?_; subst cc; rotate_left; clear_value cc)
        | (intro cc; refine_lift have hcc : Ok F cc.2.2.2 := ?_; ?_; subst cc; rotate_left; clear_value cc)
        | (intro cc; refine_lift have hcc : Ok F cc.1 := ?_; ?_; subst cc; rotate_left; clear_value cc)
        | (intro cc; clear_value cc) | apply OkP_of | apply OkP_state | apply Ok_tput | apply Ok_found
        | apply foldl_keeps | apply foldl_keeps1 | apply foldl_keeps2 | apply forSpan_keeps | split
        | (refine of_eq1 (by assumption) ?_) | (refine of_eq2 (by assumption) ?_) | (refine of_eq3 (by assumption) ?_)
        | (refine of_eq4 (by assumption) ?_) | intro _ | simp only [↓Ok_mk] | lift_lets | dsimp only)
    | (with_reducible show _ ≤ (9 : Nat); decide))

theorem mapApply_keeps (n : Nat) (c : Chip)  (hok_c : Ok F c) : Ok F (mapApply n c) := by
  unfold mapApply
  repeat' (first
    | (with_reducible
      first
        | assumption | apply enterState_keeps | apply emit_keeps | apply modPair_keeps | apply applyEntry_keeps
        | (intro cc; refine_lift have hcc : Ok F cc := ?_; ?_; subst cc; rotate_left; clear_value cc)
        | (intro cc; clear_value cc) | apply OkP_of | apply OkP_state | apply foldl_keeps | split | intro _
        | simp only [↓Ok_mk] | lift_lets | dsimp only)
    | (with_reducible show _ ≤ (9 : Nat); decide))

theorem releaseAllParts_keeps (c : Chip)  (hok_c : Ok F c) : Ok F (releaseAllParts c) := by
  unfold releaseAllParts
  repeat' ((with_reducible
      first
        | assumption | apply changeTenant_keeps
        | (intro cc; refine_lift have hcc : Ok F cc := ?_; ?_; subst cc; rotate_left; clear_value cc)
        | (intro cc; clear_value cc) | apply OkP_of | apply foldl_keeps | split | intro _ | simp only [↓Ok_mk]
        | lift_lets | dsimp only))

theorem setSel_keeps (who : Requester) (idx sub v : Nat) (c : Chip)  (hok_c : Ok F c) : Ok F (setSel who idx sub v c) := by
  unfold setSel
  repeat' ((with_reducible
      first
        | assumption | (intro cc; refine_lift have hcc : Ok F cc := ?_; ?_; subst cc; rotate_left; clear_value cc)
        | (intro cc; clear_value cc) | apply OkP_of | split | simp only [↓Ok_mk] | lift_lets | dsimp only))

theorem reportStart_keeps (who : Requester) (c : Chip)  (hok_c : Ok F c) : Ok F (reportStart who c) := by
  unfold reportStart
  repeat' ((with_reducible
      first
        | assumption | apply OkP_of | simp only [↓Ok_mk] | dsimp only))

theorem reportReady_keeps (who : Requester) (c : Chip)  (hok_c : Ok F c) : Ok F (reportReady who c) := by
  unfold reportReady
  repeat' ((with_reducible
      first
        | assumption | apply OkP_of | split | simp only [↓Ok_mk] | dsimp only))

theorem readFuses_keeps (c : Chip)  (hok_c : Ok F c) : Ok F (readFuses c) := by
  unfold readFuses
  repeat' ((with_reducible
      first
        | assumption | apply emit_keeps | apply moduleFail_keeps
        | (intro cc; refine_lift have hcc : Ok F cc := ?_; ?_; subst cc; rotate_left; clear_value cc)
        | (intro cc; clear_value cc) | apply OkP_of | apply foldl_keeps | split | intro _ | simp only [↓Ok_mk]
        | lift_lets | dsimp only))

theorem fuseProgram_keeps (w bits : Nat) (tl th cl ch : Nat) (c : Chip) (hok_c : Ok F c) :
    Ok F (fuseProgram w bits tl th cl ch c) := by
  unfold fuseProgram
  lift_lets
  intro put f d
  have hd : Ok F d := ⟨hok_c.1, hok_c.2.1, hok_c.2.2.1, hok_c.2.2.2.1,
    FuseKept_tmod (FuseKept_tmod hok_c.2.2.2.2.1), FuseKept_tmod (FuseKept_tmod hok_c.2.2.2.2.2)⟩
  clear_value d
  intro ok
  clear_value ok
  split
  · exact hd
  · exact emit_keeps _ _ _ _ _ hd

theorem debugLock_keeps (v : Nat) (c : Chip)  (hok_c : Ok F c) : Ok F (debugLock v c) := by
  unfold debugLock
  repeat' ((with_reducible
      first
        | assumption | apply OkP_of | split | simp only [↓Ok_mk] | dsimp only))

end Sys2Proof.Machine
end

