-- ==== Sys2Proof/Laws/KeepFirmware.lean ====
section
/-! SUPPORT. Every operation of Machine/Firmware.lean keeps `Ok`. -/
set_option linter.all false
namespace Sys2Proof.Machine
variable {F : Fuse}

theorem eraseStart_keeps (c : Chip)  (hok_c : Ok F c) : Ok F (eraseStart c) := by
  unfold eraseStart
  repeat' ((with_reducible
      first
        | assumption | apply OkP_of | simp only [↓Ok_mk] | dsimp only))

theorem eraseDone_keeps (c : Chip)  (hok_c : Ok F c) : Ok F (eraseDone c) := by
  unfold eraseDone
  repeat' ((with_reducible
      first
        | assumption | apply setBank_keeps | apply OkP_of | split | simp only [↓Ok_mk] | dsimp only))

theorem chunkWrite_keeps (k : Nat) (bs : Bytes) (c : Chip)  (hok_c : Ok F c) : Ok F (chunkWrite k bs c) := by
  unfold chunkWrite
  repeat' ((with_reducible
      first
        | assumption | apply setBank_keeps
        | (intro cc; refine_lift have hcc : Ok F cc := ?_; ?_; subst cc; rotate_left; clear_value cc)
        | (intro cc; clear_value cc) | apply OkP_of | simp only [↓Ok_mk] | lift_lets | dsimp only))

theorem commitRefused_keeps (c : Chip)  (hok_c : Ok F c) : Ok F (commitRefused c) := by
  unfold commitRefused
  repeat' ((with_reducible
      first
        | assumption | apply emit_keeps | split | dsimp only))

theorem commitBank_keeps (c : Chip)  (hok_c : Ok F c) : Ok F (commitBank c) := by
  unfold commitBank
  repeat' ((with_reducible
      first
        | assumption | apply OkP_of | simp only [↓Ok_mk] | dsimp only))

theorem confirmBank_keeps (c : Chip)  (hok_c : Ok F c) : Ok F (confirmBank c) := by
  unfold confirmBank
  repeat' ((with_reducible
      first
        | assumption | apply setObj_keeps | apply emit_keeps | split | dsimp only))

theorem ratesFallBack_keeps (c : Chip)  (hok_c : Ok F c) : Ok F (ratesFallBack c) := by
  unfold ratesFallBack
  repeat' ((with_reducible
      first
        | assumption | apply encFallback_keeps | apply OkP_of | apply foldl_keeps | split | intro _
        | simp only [↓Ok_mk] | dsimp only))

theorem haltFirmware_keeps (pair : Nat) (c : Chip)  (hok_c : Ok F c) : Ok F (haltFirmware pair c) := by
  unfold haltFirmware
  repeat' ((with_reducible
      first
        | assumption | apply emit_keeps | apply ratesFallBack_keeps
        | (intro cc; refine_lift have hcc : Ok F cc := ?_; ?_; subst cc; rotate_left; clear_value cc)
        | (intro cc; clear_value cc) | apply OkP_of | split | simp only [↓Ok_mk] | lift_lets | dsimp only))

theorem afterHook_keeps (h : Nat) (late : Bool) (pair : Nat) (c : Chip)  (hok_c : Ok F c) : Ok F (afterHook h late pair c) := by
  unfold afterHook
  repeat' ((with_reducible
      first
        | assumption | apply haltFirmware_keeps
        | (intro cc; refine_lift have hcc : Ok F cc := ?_; ?_; subst cc; rotate_left; clear_value cc)
        | (intro cc; clear_value cc) | apply OkP_of | split | simp only [↓Ok_mk] | lift_lets | dsimp only))

theorem countLate_keeps (k : HookCall) (pair : Nat) (c : Chip)  (hok_c : Ok F c) : Ok F (countLate k pair c) := by
  unfold countLate
  repeat' ((with_reducible
      first
        | assumption | apply bump_keeps | apply emit_keeps | apply rateLate_keeps | apply afterHook_keeps
        | (intro cc; refine_lift have hcc : Ok F cc := ?_; ?_; subst cc; rotate_left; clear_value cc)
        | (intro cc; clear_value cc) | apply OkP_of | apply Ok_tput | apply Ok_found | split | simp only [↓Ok_mk]
        | lift_lets | dsimp only))

theorem hookLate_keeps (pair : Nat) (c : Chip)  (hok_c : Ok F c) : Ok F (hookLate pair c) := by
  unfold hookLate
  repeat' ((with_reducible
      first
        | assumption | apply setRun_keeps | apply countLate_keeps | apply OkP_of | split | simp only [↓Ok_mk]
        | dsimp only))

theorem hookReturn_keeps (pair : Nat) (a0 : Word) (c : Chip)  (hok_c : Ok F c) : Ok F (hookReturn pair a0 c) := by
  unfold hookReturn
  repeat' ((with_reducible
      first
        | assumption | apply setObj_keeps | apply setRun_keeps | apply nextHook_keeps | apply rateResult_keeps
        | apply afterHook_keeps | apply countLate_keeps
        | (intro cc; refine_lift have hcc : Ok F cc := ?_; ?_; subst cc; rotate_left; clear_value cc)
        | (intro cc; clear_value cc) | apply OkP_of | split | simp only [↓Ok_mk] | lift_lets | dsimp only))

theorem hookLost_keeps (pair : Nat) (c : Chip)  (hok_c : Ok F c) : Ok F (hookLost pair c) := by
  unfold hookLost
  repeat' ((with_reducible
      first
        | assumption | apply haltFirmware_keeps | apply OkP_of | split | simp only [↓Ok_mk] | dsimp only))

theorem restartFirmware_keeps (c : Chip)  (hok_c : Ok F c) : Ok F (restartFirmware c) := by
  unfold restartFirmware
  repeat' ((with_reducible
      first
        | assumption | apply emit_keeps | apply nextHook_keeps | apply rateLate_keeps
        | (intro cc; refine_lift have hcc : Ok F cc := ?_; ?_; subst cc; rotate_left; clear_value cc)
        | (intro cc; clear_value cc) | apply OkP_of | split | simp only [↓Ok_mk] | lift_lets | dsimp only))

theorem lockstep_keeps (pair : Nat) (c : Chip)  (hok_c : Ok F c) : Ok F (lockstep pair c) := by
  unfold lockstep
  repeat' ((with_reducible
      first
        | assumption | apply emit_keeps | apply setRun_keeps | apply nextHook_keeps | apply moduleFail_keeps
        | apply countLate_keeps
        | (intro cc; refine_lift have hcc : Ok F cc := ?_; ?_; subst cc; rotate_left; clear_value cc)
        | (intro cc; clear_value cc) | apply OkP_of | apply Ok_tput | apply Ok_found | apply foldl_keeps | split
        | intro _ | simp only [↓Ok_mk] | lift_lets | dsimp only))

theorem dropPressure_keeps (c : Chip)  (hok_c : Ok F c) : Ok F (dropPressure c) := by
  unfold dropPressure
  repeat' ((with_reducible
      first
        | assumption | apply bump_keeps
        | (intro cc; refine_lift have hcc : Ok F cc := ?_; ?_; subst cc; rotate_left; clear_value cc)
        | (intro cc; clear_value cc) | apply OkP_of | split | simp only [↓Ok_mk] | lift_lets | dsimp only))

theorem boundaryHooks_keeps (n overs : Nat) (c : Chip)  (hok_c : Ok F c) : Ok F (boundaryHooks n overs c) := by
  unfold boundaryHooks
  repeat' ((with_reducible
      first
        | assumption | apply callHook_keeps | apply dropPressure_keeps
        | (intro cc; refine_lift have hcc : Ok F cc := ?_; ?_; subst cc; rotate_left; clear_value cc)
        | (intro cc; clear_value cc) | apply OkP_of | apply foldl_keeps | split | intro _ | simp only [↓Ok_mk]
        | lift_lets | dsimp only))

end Sys2Proof.Machine
end

