-- ==== Sys2Proof/Laws/KeepTensor.lean ====
section
/-! SUPPORT. Every operation of Machine/Tensor.lean keeps `Ok`. -/
set_option linter.all false
namespace Sys2Proof.Machine
variable {F : Fuse}

theorem ownBlock_keeps (t va align n : Nat) (c : Chip)  (hok_c : Ok F c) : Ok F (ownBlock t va align n c).1 := by
  unfold ownBlock
  repeat' ((with_reducible
      first
        | assumption | apply xlateRange_keeps | apply OkP_of | split | (refine of_eq1 (by assumption) ?_)
        | simp only [↓Ok_mk] | dsimp only))

theorem readPasses_keeps (t : Nat) (a0 : Nat) (a1 : Nat) (a2 : Chip) (hok_a2 : Ok F a2) : Ok F (readPasses t a0 a1 a2).1 := by
  induction a0 generalizing a1 a2 with
  | zero =>
    unfold readPasses
    repeat' ((with_reducible
        first
          | assumption | apply ownBlock_keeps | apply ih
          | (intro cc; refine_lift have hcc : Ok F cc := ?_; ?_; subst cc; rotate_left; clear_value cc)
          | (intro cc; refine_lift have hcc : Ok F cc.1 := ?_; ?_; subst cc; rotate_left; clear_value cc)
          | (intro cc; clear_value cc) | apply OkP_of | split | (refine of_eq1 (by assumption) ?_)
          | simp only [↓Ok_mk] | lift_lets | dsimp only))
  | succ n ih =>
    unfold readPasses
    repeat' ((with_reducible
        first
          | assumption | apply ownBlock_keeps | apply ih
          | (intro cc; refine_lift have hcc : Ok F cc := ?_; ?_; subst cc; rotate_left; clear_value cc)
          | (intro cc; refine_lift have hcc : Ok F cc.1 := ?_; ?_; subst cc; rotate_left; clear_value cc)
          | (intro cc; clear_value cc) | apply OkP_of | split | (refine of_eq1 (by assumption) ?_)
          | simp only [↓Ok_mk] | lift_lets | dsimp only))

theorem checkRange_keeps (t : Nat) (r : Rng) (c : Chip)  (hok_c : Ok F c) : Ok F (checkRange t r c).1 := by
  unfold checkRange
  repeat' ((with_reducible
      first
        | assumption | apply xlateRange_keeps
        | (intro cc; refine_lift have hcc : Ok F cc := ?_; ?_; subst cc; rotate_left; clear_value cc)
        | (intro cc; refine_lift have hcc : Ok F cc.1 := ?_; ?_; subst cc; rotate_left; clear_value cc)
        | (intro cc; clear_value cc) | apply OkP_of | split | (refine of_eq1 (by assumption) ?_) | simp only [↓Ok_mk]
        | lift_lets | dsimp only))

theorem checkRanges_keeps (t : Nat) (a0 : List Rng) (a1 : Chip) (hok_a1 : Ok F a1) : Ok F (checkRanges t a0 a1).1 := by
  induction a0 generalizing a1 with
  | nil =>
    unfold checkRanges
    repeat' ((with_reducible
        first
          | assumption | apply checkRange_keeps | apply ih | apply OkP_of | split | (refine of_eq1 (by assumption) ?_)
          | simp only [↓Ok_mk] | dsimp only))
  | cons y l ih =>
    unfold checkRanges
    repeat' ((with_reducible
        first
          | assumption | apply checkRange_keeps | apply ih | apply OkP_of | split | (refine of_eq1 (by assumption) ?_)
          | simp only [↓Ok_mk] | dsimp only))

theorem checkOperands_keeps (t : Nat) (a0 : List Pass) (a1 : Chip) (hok_a1 : Ok F a1) : Ok F (checkOperands t a0 a1).1 := by
  induction a0 generalizing a1 with
  | nil =>
    unfold checkOperands
    repeat' ((with_reducible
        first
          | assumption | apply xlateRange_keeps | apply checkRanges_keeps | apply ih
          | (intro cc; refine_lift have hcc : Ok F cc := ?_; ?_; subst cc; rotate_left; clear_value cc)
          | (intro cc; refine_lift have hcc : Ok F cc.1 := ?_; ?_; subst cc; rotate_left; clear_value cc)
          | (intro cc; clear_value cc) | apply OkP_of | split | (refine of_eq1 (by assumption) ?_)
          | simp only [↓Ok_mk] | lift_lets | dsimp only))
  | cons y l ih =>
    unfold checkOperands
    repeat' ((with_reducible
        first
          | assumption | apply xlateRange_keeps | apply checkRanges_keeps | apply ih
          | (intro cc; refine_lift have hcc : Ok F cc := ?_; ?_; subst cc; rotate_left; clear_value cc)
          | (intro cc; refine_lift have hcc : Ok F cc.1 := ?_; ?_; subst cc; rotate_left; clear_value cc)
          | (intro cc; clear_value cc) | apply OkP_of | split | (refine of_eq1 (by assumption) ?_)
          | simp only [↓Ok_mk] | lift_lets | dsimp only))

end Sys2Proof.Machine
end

