-- ==== Sys2Proof/Laws/KeepTensorOps.lean ====
section
/-! SUPPORT. Every operation of Machine/TensorOps.lean keeps `Ok`. -/
set_option linter.all false
namespace Sys2Proof.Machine
variable {F : Fuse}

theorem writeRes_keeps (g : Nat) (segs : List Seg) (ws : List Wr) (c : Chip)  (hok_c : Ok F c) : Ok F (writeRes g segs ws c) := by
  unfold writeRes
  repeat' ((with_reducible
      first
        | assumption | apply writeSegs_keeps
        | (intro cc; refine_lift have hcc : Ok F cc := ?_; ?_; subst cc; rotate_left; clear_value cc)
        | (intro cc; clear_value cc) | apply OkP_of | apply Ok_tput | apply Ok_found | apply foldl_keeps | intro _
        | simp only [↓Ok_mk] | lift_lets | dsimp only))

theorem runPasses_keeps (g : Nat) (segs : List Seg) (a0 : List Pass) (a1 : Chip) (hok_a1 : Ok F a1) : Ok F (runPasses g segs a0 a1).2.2 := by
  induction a0 generalizing a1 with
  | nil =>
    unfold runPasses
    repeat' ((with_reducible
        first
          | assumption | apply writeRes_keeps | apply ih
          | (intro cc; refine_lift have hcc : Ok F cc := ?_; ?_; subst cc; rotate_left; clear_value cc)
          | (intro cc; clear_value cc) | apply OkP_of | split | (refine of_eq3 (by assumption) ?_)
          | simp only [↓Ok_mk] | lift_lets | dsimp only))
  | cons y l ih =>
    unfold runPasses
    repeat' ((with_reducible
        first
          | assumption | apply writeRes_keeps | apply ih
          | (intro cc; refine_lift have hcc : Ok F cc := ?_; ?_; subst cc; rotate_left; clear_value cc)
          | (intro cc; clear_value cc) | apply OkP_of | split | (refine of_eq3 (by assumption) ?_)
          | simp only [↓Ok_mk] | lift_lets | dsimp only))

end Sys2Proof.Machine
end

