-- ==== Sys2Proof/Laws/KeepMover.lean ====
section
/-! SUPPORT. Every operation of Machine/Mover.lean keeps `Ok`. -/
set_option linter.all false
namespace Sys2Proof.Machine
variable {F : Fuse}

theorem setChain_keeps (name : Nat) (o : MoverOp) (c : Chip)  (hok_c : Ok F c) : Ok F (setChain name o c) := by
  unfold setChain
  repeat' ((with_reducible
      first
        | assumption | apply setTag_keeps | apply OkP_of | simp only [↓Ok_mk] | dsimp only))

theorem chunkDone_keeps (name : Nat) (c : Chip)  (hok_c : Ok F c) : Ok F (chunkDone name c) := by
  unfold chunkDone
  repeat' ((with_reducible
      first
        | assumption | apply bump_keeps | apply endChain_keeps | apply setChain_keeps
        | (intro cc; refine_lift have hcc : Ok F cc := ?_; ?_; subst cc; rotate_left; clear_value cc)
        | (intro cc; clear_value cc) | apply OkP_of | split | simp only [↓Ok_mk] | lift_lets | dsimp only))

theorem writePoison_keeps (a : Nat) (bs : Bytes) (ps : List Bool) (c : Chip)  (hok_c : Ok F c) : Ok F (writePoison a bs ps c) := by
  unfold writePoison
  repeat' ((with_reducible
      first
        | assumption | apply memWrite_keeps
        | (intro cc; refine_lift have hcc : Ok F cc := ?_; ?_; subst cc; rotate_left; clear_value cc)
        | (intro cc; clear_value cc) | apply OkP_of | apply Ok_tput | apply Ok_found | apply foldl_keeps | split
        | intro _ | simp only [↓Ok_mk] | lift_lets | dsimp only))

theorem chunkWrite2_keeps (name : Nat) (dpa : Nat) (ecc : Ecc) (c : Chip)  (hok_c : Ok F c) : Ok F (chunkWrite2 name dpa ecc c) := by
  unfold chunkWrite2
  repeat' ((with_reducible
      first
        | assumption | apply eccStore_keeps | apply sendTo_keeps | apply setChain_keeps | apply chunkDone_keeps
        | apply writePoison_keeps
        | (intro cc; refine_lift have hcc : Ok F cc := ?_; ?_; subst cc; rotate_left; clear_value cc)
        | (intro cc; refine_lift have hcc : Ok F cc.2 := ?_; ?_; subst cc; rotate_left; clear_value cc)
        | (intro cc; clear_value cc) | apply OkP_of | split | (refine of_eq2 (by assumption) ?_) | simp only [↓Ok_mk]
        | lift_lets | dsimp only))

theorem chunkGo_keeps (name : Nat) (ecc : Ecc) (a0 : Nat) (a1 : Chip) (hok_a1 : Ok F a1) : Ok F (chunkGo name ecc a0 a1) := by
  induction a0 generalizing a1 with
  | zero =>
    unfold chunkGo
    repeat' ((with_reducible
        first
          | assumption | apply applyEcc_keeps | apply countViolation_keeps | apply xlate_keeps | apply endChain_keeps
          | apply sendTo_keeps | apply setChain_keeps | apply chunkWrite2_keeps | apply ih
          | (intro cc; refine_lift have hcc : Ok F cc := ?_; ?_; subst cc; rotate_left; clear_value cc)
          | (intro cc; refine_lift have hcc : Ok F cc.1 := ?_; ?_; subst cc; rotate_left; clear_value cc)
          | (intro cc; refine_lift have hcc : Ok F cc.2 := ?_; ?_; subst cc; rotate_left; clear_value cc)
          | (intro cc; clear_value cc) | apply OkP_of | split | (refine of_eq1 (by assumption) ?_)
          | (refine of_eq2 (by assumption) ?_) | simp only [↓Ok_mk] | lift_lets | dsimp only))
  | succ n ih =>
    unfold chunkGo
    repeat' ((with_reducible
        first
          | assumption | apply applyEcc_keeps | apply countViolation_keeps | apply xlate_keeps | apply endChain_keeps
          | apply sendTo_keeps | apply setChain_keeps | apply chunkWrite2_keeps | apply ih
          | (intro cc; refine_lift have hcc : Ok F cc := ?_; ?_; subst cc; rotate_left; clear_value cc)
          | (intro cc; refine_lift have hcc : Ok F cc.1 := ?_; ?_; subst cc; rotate_left; clear_value cc)
          | (intro cc; refine_lift have hcc : Ok F cc.2 := ?_; ?_; subst cc; rotate_left; clear_value cc)
          | (intro cc; clear_value cc) | apply OkP_of | split | (refine of_eq1 (by assumption) ?_)
          | (refine of_eq2 (by assumption) ?_) | simp only [↓Ok_mk] | lift_lets | dsimp only))

theorem moverChunk_keeps (name : Nat) (ecc : Ecc) (c : Chip)  (hok_c : Ok F c) : Ok F (moverChunk name ecc c) := by
  unfold moverChunk
  repeat' ((with_reducible
      first
        | assumption | apply chunkGo_keeps | apply OkP_of | split | simp only [↓Ok_mk] | dsimp only))

theorem moverData_keeps (name serial r : Nat) (bs : Bytes) (pm : List Bool) (c : Chip)  (hok_c : Ok F c) : Ok F (moverData name serial r bs pm c) := by
  unfold moverData
  repeat' ((with_reducible
      first
        | assumption | apply setChain_keeps | apply chunkGo_keeps
        | (intro cc; refine_lift have hcc : Ok F cc := ?_; ?_; subst cc; rotate_left; clear_value cc)
        | (intro cc; clear_value cc) | apply OkP_of | split | simp only [↓Ok_mk] | lift_lets | dsimp only))

theorem moverAcked_keeps (name serial r : Nat) (c : Chip)  (hok_c : Ok F c) : Ok F (moverAcked name serial r c) := by
  unfold moverAcked
  repeat' ((with_reducible
      first
        | assumption | apply chunkDone_keeps | apply OkP_of | split | simp only [↓Ok_mk] | dsimp only))

theorem arithDone_keeps (g serial : Nat) (n : Note) (c : Chip)  (hok_c : Ok F c) : Ok F (arithDone g serial n c) := by
  unfold arithDone
  repeat' ((with_reducible
      first
        | assumption | apply bump_keeps | apply setGrove_keeps
        | (intro cc; refine_lift have hcc : Ok F cc := ?_; ?_; subst cc; rotate_left; clear_value cc)
        | (intro cc; clear_value cc) | apply OkP_of | split | simp only [↓Ok_mk] | lift_lets | dsimp only))

theorem countPass_keeps (p : Pass) (c : Chip)  (hok_c : Ok F c) : Ok F (countPass p c) := by
  unfold countPass
  repeat' ((with_reducible
      first
        | assumption | apply bump_keeps | split | dsimp only))

theorem tensorDone_keeps (name : Nat) (ecc : Ecc) (c : Chip)  (hok_c : Ok F c) : Ok F (tensorDone name ecc c) := by
  unfold tensorDone
  repeat' ((with_reducible
      first
        | assumption | apply bump_keeps | apply applyEcc_keeps | apply finishTag_keeps | apply runPasses_keeps
        | apply arithDone_keeps | apply countPass_keeps
        | (intro cc; refine_lift have hcc : Ok F cc := ?_; ?_; subst cc; rotate_left; clear_value cc)
        | (intro cc; refine_lift have hcc : Ok F cc.2.2 := ?_; ?_; subst cc; rotate_left; clear_value cc)
        | (intro cc; clear_value cc) | apply OkP_of | apply foldl_keeps | split | (refine of_eq3 (by assumption) ?_)
        | intro _ | simp only [↓Ok_mk] | lift_lets | dsimp only))

theorem retireGrove_keeps (g : Nat) (c : Chip)  (hok_c : Ok F c) : Ok F (retireGrove g c) := by
  unfold retireGrove
  repeat' ((with_reducible
      first
        | assumption | apply setGrove_keeps | apply abortTag_keeps
        | (intro cc; refine_lift have hcc : Ok F cc := ?_; ?_; subst cc; rotate_left; clear_value cc)
        | (intro cc; clear_value cc) | apply OkP_of | apply foldl_keeps | split | intro _ | simp only [↓Ok_mk]
        | lift_lets | dsimp only))

theorem retireArray_keeps (g a col : Nat) (c : Chip)  (hok_c : Ok F c) : Ok F (retireArray g a col c) := by
  unfold retireArray
  repeat' ((with_reducible
      first
        | assumption | apply setObj_keeps | apply setGrove_keeps | apply emit_keeps | apply retireGrove_keeps
        | (intro cc; refine_lift have hcc : Ok F cc := ?_; ?_; subst cc; rotate_left; clear_value cc)
        | (intro cc; clear_value cc) | apply OkP_of | split | simp only [↓Ok_mk] | lift_lets | dsimp only))

theorem tileEnd_keeps (name tile a : Nat) (fail : Option Nat) (c : Chip)  (hok_c : Ok F c) : Ok F (tileEnd name tile a fail c) := by
  unfold tileEnd
  repeat' ((with_reducible
      first
        | assumption | apply bump_keeps | apply setGrove_keeps | apply modGrove_keeps | apply emit_keeps
        | apply retireArray_keeps
        | (intro cc; refine_lift have hcc : Ok F cc := ?_; ?_; subst cc; rotate_left; clear_value cc)
        | (intro cc; clear_value cc) | apply OkP_of | split | simp only [↓Ok_mk] | lift_lets | dsimp only))

theorem samplingDone_keeps (name : Nat) (retried retiredToo : Bool) (c : Chip)  (hok_c : Ok F c) : Ok F (samplingDone name retried retiredToo c) := by
  unfold samplingDone
  repeat' ((with_reducible
      first
        | assumption | apply drawFree_keeps | apply setObj_keeps | apply bump_keeps | apply emit_keeps
        | apply finishTag_keeps | apply runPasses_keeps | apply arithDone_keeps
        | (intro cc; refine_lift have hcc : Ok F cc := ?_; ?_; subst cc; rotate_left; clear_value cc)
        | (intro cc; refine_lift have hcc : Ok F cc.2 := ?_; ?_; subst cc; rotate_left; clear_value cc)
        | (intro cc; refine_lift have hcc : Ok F cc.2.2 := ?_; ?_; subst cc; rotate_left; clear_value cc)
        | (intro cc; clear_value cc) | apply OkP_of | apply foldl_keeps | split | (refine of_eq2 (by assumption) ?_)
        | (refine of_eq3 (by assumption) ?_) | intro _ | simp only [↓Ok_mk] | lift_lets | dsimp only))

end Sys2Proof.Machine
end

