-- ==== Sys2Proof/Laws/KeepSettle.lean ====
section
/-! SUPPORT. Every operation of Machine/Settle.lean keeps `Ok`. -/
set_option linter.all false
namespace Sys2Proof.Machine
variable {F : Fuse}

theorem settleMem_keeps (c : Chip)  (hok_c : Ok F c) : Ok F (settleMem c) := by
  unfold settleMem
  repeat' ((with_reducible
      first
        | assumption | apply pairPoison_keeps | apply settleFatal_keeps | dsimp only))

theorem toldRewound_keeps (t q : Nat) (c : Chip)  (hok_c : Ok F c) : Ok F (toldRewound t q c) := by
  unfold toldRewound
  repeat' ((with_reducible
      first
        | assumption | apply modHart_keeps | apply OkP_of | simp only [↓Ok_mk] | dsimp only))

theorem commitStatus_keeps (t q : Nat) (c : Chip)  (hok_c : Ok F c) : Ok F (commitStatus t q c).2 := by
  unfold commitStatus
  repeat' ((with_reducible
      first
        | assumption | apply rewind_keeps | apply commitPkt_keeps | apply weltCommit_keeps | apply toldRewound_keeps
        | apply OkP_of | split | simp only [↓Ok_mk] | dsimp only))

theorem retireStatus_keeps (t rd : Nat) (r : Status × Chip) (hok_c : Ok F r.2) : Ok F (retireStatus t rd r) :=
  retire_keeps _ _ _ _ hok_c

theorem endCommits_keeps (c : Chip) (hok_c : Ok F c) : Ok F (endCommits c) := by
  unfold endCommits
  repeat' ((with_reducible
      first
        | assumption | apply modHart_keeps | apply retireStatus_keeps | apply commitStatus_keeps | apply foldl_keeps | split | intro _ | dsimp only))

theorem settle_keeps (c : Chip)  (hok_c : Ok F c) : Ok F (settle c) := by
  unfold settle
  repeat' ((with_reducible
      first
        | assumption | apply flushAll_keeps | apply endCommits_keeps | apply endFences_keeps | apply flushSets_keeps | apply weltPoppable_keeps
        | apply pfxContinueAll_keeps | apply encGranted_keeps | apply noteHard_keeps | apply flushSamples_keeps
        | apply settleMem_keeps | dsimp only))

end Sys2Proof.Machine
end

