-- ==== Sys2Proof/Laws/KeepExt.lean ====
section
/-! SUPPORT. Every operation of Machine/Ext.lean keeps `Ok`. -/
set_option linter.all false
namespace Sys2Proof.Machine
variable {F : Fuse}

theorem memTrap_keeps (t : Nat) (tr : Trap) (c : Chip)  (hok_c : Ok F c) : Ok F (memTrap t tr c) := by
  unfold memTrap
  repeat' ((with_reducible
      first
        | assumption | apply countViolation_keeps | apply takeTrap_keeps | apply OkP_of | split | simp only [↓Ok_mk]
        | dsimp only))

theorem operandTrap_keeps (t insn : Nat) (tr : Trap) (c : Chip)  (hok_c : Ok F c) : Ok F (operandTrap t insn tr c) := by
  unfold operandTrap
  repeat' ((with_reducible
      first
        | assumption | apply extFault_keeps | apply memTrap_keeps | apply OkP_of | split | simp only [↓Ok_mk]
        | dsimp only))

theorem takeTag_keeps (t rd cost : Nat) (op : TagOp) (after : Nat → Chip → Chip) (c : Chip)  (h_after : ∀ x0 x1, Ok F x1 → Ok F (after x0 x1)) (hok_c : Ok F c) : Ok F (takeTag t rd cost op after c) := by
  unfold takeTag
  repeat' ((with_reducible
      first
        | assumption | apply bump_keeps | apply retire_keeps | apply issueTag_keeps | apply h_after
        | (intro cc; refine_lift have hcc : Ok F cc := ?_; ?_; subst cc; rotate_left; clear_value cc)
        | (intro cc; refine_lift have hcc : Ok F cc.2 := ?_; ?_; subst cc; rotate_left; clear_value cc)
        | (intro cc; clear_value cc) | apply OkP_of | split | (refine of_eq2 (by assumption) ?_) | intro _
        | simp only [↓Ok_mk] | lift_lets | dsimp only))

theorem tensorIssue_keeps (t rd rs1 rs2 insn : Nat) (c : Chip)  (hok_c : Ok F c) : Ok F (tensorIssue t rd rs1 rs2 insn c) := by
  unfold tensorIssue
  repeat' (first
    | (with_reducible
      first
        | assumption | apply bump_keeps | apply modGrove_keeps | apply extFault_keeps | apply readPasses_keeps
        | apply checkOperands_keeps | apply operandTrap_keeps | apply takeTag_keeps
        | (intro cc; refine_lift have hcc : Ok F cc := ?_; ?_; subst cc; rotate_left; clear_value cc)
        | (intro cc; refine_lift have hcc : Ok F cc.2 := ?_; ?_; subst cc; rotate_left; clear_value cc)
        | (intro cc; refine_lift have hcc : Ok F cc.2.2 := ?_; ?_; subst cc; rotate_left; clear_value cc)
        | (intro cc; refine_lift have hcc : Ok F cc.2.2.2 := ?_; ?_; subst cc; rotate_left; clear_value cc)
        | (intro cc; refine_lift have hcc : Ok F cc.1 := ?_; ?_; subst cc; rotate_left; clear_value cc)
        | (intro cc; clear_value cc) | apply OkP_of | apply OkP_state | apply Ok_tput | apply Ok_found
        | apply foldl_keeps | apply foldl_keeps1 | apply foldl_keeps2 | apply forSpan_keeps | split
        | (refine of_eq1 (by assumption) ?_) | (refine of_eq2 (by assumption) ?_) | (refine of_eq3 (by assumption) ?_)
        | (refine of_eq4 (by assumption) ?_) | intro _ | simp only [↓Ok_mk] | lift_lets | dsimp only)
    | (with_reducible show _ ≤ (9 : Nat); decide))

theorem moveFirst_keeps (t : Nat) (d : MDesc) (c : Chip)  (hok_c : Ok F c) : Ok F (moveFirst t d c).1 := by
  unfold moveFirst
  repeat' ((with_reducible
      first
        | assumption | apply xlate_keeps
        | (intro cc; refine_lift have hcc : Ok F cc := ?_; ?_; subst cc; rotate_left; clear_value cc)
        | (intro cc; refine_lift have hcc : Ok F cc.1 := ?_; ?_; subst cc; rotate_left; clear_value cc)
        | (intro cc; clear_value cc) | apply OkP_of | split | (refine of_eq1 (by assumption) ?_) | simp only [↓Ok_mk]
        | lift_lets | dsimp only))

theorem moveIssue_keeps (t rd rs1 rs2 insn : Nat) (c : Chip)  (hok_c : Ok F c) : Ok F (moveIssue t rd rs1 rs2 insn c) := by
  unfold moveIssue
  repeat' (first
    | (with_reducible
      first
        | assumption | apply bump_keeps | apply extFault_keeps | apply ownBlock_keeps | apply operandTrap_keeps
        | apply takeTag_keeps | apply moveFirst_keeps
        | (intro cc; refine_lift have hcc : Ok F cc := ?_; ?_; subst cc; rotate_left; clear_value cc)
        | (intro cc; refine_lift have hcc : Ok F cc.2 := ?_; ?_; subst cc; rotate_left; clear_value cc)
        | (intro cc; refine_lift have hcc : Ok F cc.2.2 := ?_; ?_; subst cc; rotate_left; clear_value cc)
        | (intro cc; refine_lift have hcc : Ok F cc.2.2.2 := ?_; ?_; subst cc; rotate_left; clear_value cc)
        | (intro cc; refine_lift have hcc : Ok F cc.1 := ?_; ?_; subst cc; rotate_left; clear_value cc)
        | (intro cc; clear_value cc) | apply OkP_of | apply OkP_state | apply Ok_tput | apply Ok_found
        | apply foldl_keeps | apply foldl_keeps1 | apply foldl_keeps2 | apply forSpan_keeps | split
        | (refine of_eq1 (by assumption) ?_) | (refine of_eq2 (by assumption) ?_) | (refine of_eq3 (by assumption) ?_)
        | (refine of_eq4 (by assumption) ?_) | intro _ | simp only [↓Ok_mk] | lift_lets | dsimp only)
    | (with_reducible show _ ≤ (9 : Nat); decide))

theorem lreqIssue_keeps (t rd rs1 insn : Nat) (c : Chip)  (hok_c : Ok F c) : Ok F (lreqIssue t rd rs1 insn c) := by
  unfold lreqIssue
  repeat' (first
    | (with_reducible
      first
        | assumption | apply extFault_keeps | apply askLicence_keeps | apply takeTag_keeps
        | (intro cc; refine_lift have hcc : Ok F cc := ?_; ?_; subst cc; rotate_left; clear_value cc)
        | (intro cc; refine_lift have hcc : Ok F cc.2 := ?_; ?_; subst cc; rotate_left; clear_value cc)
        | (intro cc; refine_lift have hcc : Ok F cc.2.2 := ?_; ?_; subst cc; rotate_left; clear_value cc)
        | (intro cc; refine_lift have hcc : Ok F cc.2.2.2 := ?_; ?_; subst cc; rotate_left; clear_value cc)
        | (intro cc; refine_lift have hcc : Ok F cc.1 := ?_; ?_; subst cc; rotate_left; clear_value cc)
        | (intro cc; clear_value cc) | apply OkP_of | apply OkP_state | apply Ok_tput | apply Ok_found
        | apply foldl_keeps | apply foldl_keeps1 | apply foldl_keeps2 | apply forSpan_keeps | split
        | (refine of_eq1 (by assumption) ?_) | (refine of_eq2 (by assumption) ?_) | (refine of_eq3 (by assumption) ?_)
        | (refine of_eq4 (by assumption) ?_) | intro _ | simp only [↓Ok_mk] | lift_lets | dsimp only)
    | (with_reducible show _ ≤ (9 : Nat); decide))

theorem tagWait_keeps (t rd rs1 insn : Nat) (reap : Bool) (c : Chip)  (hok_c : Ok F c) : Ok F (tagWait t rd rs1 insn reap c) := by
  unfold tagWait
  repeat' ((with_reducible
      first
        | assumption | apply modHart_keeps | apply setTag_keeps | apply retire_keeps | apply extFault_keeps
        | (intro cc; refine_lift have hcc : Ok F cc := ?_; ?_; subst cc; rotate_left; clear_value cc)
        | (intro cc; clear_value cc) | apply OkP_of | split | simp only [↓Ok_mk] | lift_lets | dsimp only))

theorem tagTest_keeps (t rd rs1 insn : Nat) (c : Chip)  (hok_c : Ok F c) : Ok F (tagTest t rd rs1 insn c) := by
  unfold tagTest
  repeat' ((with_reducible
      first
        | assumption | apply retire_keeps | apply extFault_keeps
        | (intro cc; refine_lift have hcc : Ok F cc := ?_; ?_; subst cc; rotate_left; clear_value cc)
        | (intro cc; clear_value cc) | apply OkP_of | split | simp only [↓Ok_mk] | lift_lets | dsimp only))

theorem tagReap_keeps (t rd rs1 insn : Nat) (c : Chip)  (hok_c : Ok F c) : Ok F (tagReap t rd rs1 insn c) := by
  unfold tagReap
  repeat' ((with_reducible
      first
        | assumption | apply setTag_keeps | apply retire_keeps | apply extFault_keeps
        | (intro cc; refine_lift have hcc : Ok F cc := ?_; ?_; subst cc; rotate_left; clear_value cc)
        | (intro cc; clear_value cc) | apply OkP_of | split | simp only [↓Ok_mk] | lift_lets | dsimp only))

theorem licRelease_keeps (t rs1 insn : Nat) (c : Chip)  (hok_c : Ok F c) : Ok F (licRelease t rs1 insn c) := by
  unfold licRelease
  repeat' ((with_reducible
      first
        | assumption | apply modHart_keeps | apply returnRes_keeps | apply extFault_keeps
        | (intro cc; refine_lift have hcc : Ok F cc := ?_; ?_; subst cc; rotate_left; clear_value cc)
        | (intro cc; clear_value cc) | apply OkP_of | split | simp only [↓Ok_mk] | lift_lets | dsimp only))

theorem queueInsn_keeps (t rs1 insn : Nat) (f : Nat → Chip → Chip) (c : Chip)  (h_f : ∀ x0 x1, Ok F x1 → Ok F (f x0 x1)) (hok_c : Ok F c) : Ok F (queueInsn t rs1 insn f c) := by
  unfold queueInsn
  repeat' ((with_reducible
      first
        | assumption | apply extFault_keeps | apply h_f
        | (intro cc; refine_lift have hcc : Ok F cc := ?_; ?_; subst cc; rotate_left; clear_value cc)
        | (intro cc; clear_value cc) | apply OkP_of | split | intro _ | simp only [↓Ok_mk] | lift_lets | dsimp only))

theorem pushStatus_keeps (t q : Nat) (v : Word) (c : Chip)  (hok_c : Ok F c) : Ok F (pushStatus t q v c).2 := by
  unfold pushStatus
  repeat' ((with_reducible
      first
        | assumption | apply countRefusal_keeps | apply openPkt_keeps | apply rewind_keeps | apply pushWord_keeps
        | apply toldRewound_keeps
        | (intro cc; refine_lift have hcc : Ok F cc := ?_; ?_; subst cc; rotate_left; clear_value cc)
        | (intro cc; clear_value cc) | apply OkP_of | split | simp only [↓Ok_mk] | lift_lets | dsimp only))

theorem abortStatus_keeps (t q : Nat) (c : Chip)  (hok_c : Ok F c) : Ok F (abortStatus t q c).2 := by
  unfold abortStatus
  repeat' ((with_reducible
      first
        | assumption | apply rewind_keeps | apply toldRewound_keeps | apply OkP_of | split | simp only [↓Ok_mk]
        | dsimp only))

theorem commitInsn_keeps (t rd q : Nat) (c : Chip) (hok_c : Ok F c) : Ok F (commitInsn t rd q c) := by
  unfold commitInsn
  repeat' ((with_reducible
      first
        | assumption | apply modHart_keeps | apply weltPoppable_keeps | apply retireStatus_keeps | apply commitStatus_keeps | split | dsimp only))

theorem popInsn_keeps (t rd q : Nat) (parityBad : Bool) (ecc : Ecc) (c : Chip)  (hok_c : Ok F c) : Ok F (popInsn t rd q parityBad ecc c) := by
  unfold popInsn
  repeat' ((with_reducible
      first
        | assumption | apply modHart_keeps | apply retire_keeps | apply popWord_keeps | apply OkP_of | split
        | (refine of_eq3 (by assumption) ?_) | simp only [↓Ok_mk] | dsimp only))

theorem blazeInsn_keeps (t rs1 insn : Nat) (f : Nat → Nat → Nat → Chip → Chip) (c : Chip)  (h_f : ∀ x0 x1 x2 x3, Ok F x3 → Ok F (f x0 x1 x2 x3)) (hok_c : Ok F c) : Ok F (blazeInsn t rs1 insn f c) := by
  unfold blazeInsn
  repeat' ((with_reducible
      first
        | assumption | apply extFault_keeps | apply h_f
        | (intro cc; refine_lift have hcc : Ok F cc := ?_; ?_; subst cc; rotate_left; clear_value cc)
        | (intro cc; clear_value cc) | apply OkP_of | split | intro _ | simp only [↓Ok_mk] | lift_lets | dsimp only))

theorem blazePost_keeps (t rs1 insn : Nat) (c : Chip)  (hok_c : Ok F c) : Ok F (blazePost t rs1 insn c) := by
  unfold blazePost
  repeat' ((with_reducible
      first
        | assumption | apply modHart_keeps | apply extFault_keeps
        | (intro cc; refine_lift have hcc : Ok F cc := ?_; ?_; subst cc; rotate_left; clear_value cc)
        | (intro cc; clear_value cc) | apply OkP_of | split | simp only [↓Ok_mk] | lift_lets | dsimp only))

theorem setPerformed_keeps (k : Nat) (c : Chip)  (hok_c : Ok F c) : Ok F (setPerformed k c) := by
  unfold setPerformed
  repeat' ((with_reducible
      first
        | assumption | apply setBlaze_keeps | apply refuseSet_keeps
        | (intro cc; refine_lift have hcc : Ok F cc := ?_; ?_; subst cc; rotate_left; clear_value cc)
        | (intro cc; clear_value cc) | apply OkP_of | split | simp only [↓Ok_mk] | lift_lets | dsimp only))

theorem blazeClear_keeps (t rd p index n : Nat) (c : Chip)  (hok_c : Ok F c) : Ok F (blazeClear t rd p index n c) := by
  unfold blazeClear
  repeat' ((with_reducible
      first
        | assumption | apply retire_keeps | apply clearBlaze_keeps | apply underflow_keeps | split | dsimp only))

theorem blazeWait_keeps (t rd n : Nat) (clears : Bool) (c : Chip)  (hok_c : Ok F c) : Ok F (blazeWait t rd n clears c) := by
  unfold blazeWait
  repeat' ((with_reducible
      first
        | assumption | apply modHart_keeps | apply retire_keeps | apply clearBlaze_keeps | apply OkP_of | split
        | simp only [↓Ok_mk] | dsimp only))

theorem stitchWait_keeps (t rd : Nat) (c : Chip)  (hok_c : Ok F c) : Ok F (stitchWait t rd c) := by
  unfold stitchWait
  repeat' ((with_reducible
      first
        | assumption | apply modHart_keeps | apply retire_keeps
        | (intro cc; refine_lift have hcc : Ok F cc := ?_; ?_; subst cc; rotate_left; clear_value cc)
        | (intro cc; clear_value cc) | apply OkP_of | simp only [↓Ok_mk] | lift_lets | dsimp only))

theorem samplingControl_keeps (t rd rs1 insn : Nat) (c : Chip)  (hok_c : Ok F c) : Ok F (samplingControl t rd rs1 insn c) := by
  unfold samplingControl
  repeat' ((with_reducible
      first
        | assumption | apply modHart_keeps | apply retire_keeps | apply extFault_keeps
        | (intro cc; refine_lift have hcc : Ok F cc := ?_; ?_; subst cc; rotate_left; clear_value cc)
        | (intro cc; clear_value cc) | apply OkP_of | split | simp only [↓Ok_mk] | lift_lets | dsimp only))

end Sys2Proof.Machine
end

