-- ==== Sys2Proof/Laws/KeepDictRead.lean ====
section
/-! SUPPORT. Every operation of Machine/DictRead.lean keeps `Ok`. -/
set_option linter.all false
namespace Sys2Proof.Machine
variable {F : Fuse}

theorem sideWaits_keeps (c : Chip) (hok_c : Ok F c) : Ok F (sideWaits c) := bump_keeps _ _ _ _ _ (drawFree_keeps _ hok_c)

theorem dictRead_keeps (who : Requester) (idx sub item : Nat) (c : Chip)  (hok_c : Ok F c) : Ok F (dictRead who idx sub item c).2 := by
  unfold dictRead
  repeat' ((with_reducible
      first
        | assumption | apply drawFree_keeps | apply advanceCtr_keeps | apply sideWaits_keeps
        | (intro cc; refine_lift have hcc : Ok F cc := ?_; ?_; subst cc; rotate_left; clear_value cc)
        | (intro cc; refine_lift have hcc : Ok F cc.2 := ?_; ?_; subst cc; rotate_left; clear_value cc)
        | (intro cc; clear_value cc) | apply OkP_of | split | (refine of_eq2 (by assumption) ?_) | simp only [↓Ok_mk]
        | lift_lets | dsimp only))

end Sys2Proof.Machine
end

