-- ==== Sys2Proof/Laws/KeepDictWrite.lean ====
section
/-! SUPPORT. Every operation of Machine/DictWrite.lean keeps `Ok`. -/
set_option linter.all false
namespace Sys2Proof.Machine
variable {F : Fuse}

theorem storePart_keeps (who : Requester) (idx sub item v : Nat) (c : Chip)  (hok_c : Ok F c) : Ok F (storePart who idx sub item v c) := by
  unfold storePart
  repeat' ((with_reducible
      first
        | assumption | apply setObj_keeps | apply modGrove_keeps | apply modQueue_keeps | apply setSel_keeps
        | apply OkP_of | split | simp only [↓Ok_mk] | dsimp only))

theorem applyPorts_keeps (c : Chip)  (hok_c : Ok F c) : Ok F (applyPorts c) := by
  unfold applyPorts
  repeat' (first
    | (with_reducible
      first
        | assumption | apply modPort_keeps | apply leaveUp_keeps | apply OkP_of | apply OkP_state
        | apply forSpan_keeps | split | intro _ | simp only [↓Ok_mk] | dsimp only)
    | (with_reducible show _ ≤ (9 : Nat); decide))

theorem pairModeSet_keeps (v : Nat) (c : Chip)  (hok_c : Ok F c) : Ok F (pairModeSet v c) := by
  unfold pairModeSet
  repeat' ((with_reducible
      first
        | assumption | apply clearClaim_keeps | apply enterUnpaired_keeps | split | dsimp only))

theorem storeEffect_keeps (idx sub item v : Nat) (c : Chip)  (hok_c : Ok F c) : Ok F (storeEffect idx sub item v c) := by
  unfold storeEffect
  repeat' ((with_reducible
      first
        | assumption | apply memWrite_keeps | apply recap_keeps | apply applyPorts_keeps | apply pairModeSet_keeps
        | apply OkP_of | split | simp only [↓Ok_mk] | dsimp only))

theorem armPair_keeps (c : Chip)  (hok_c : Ok F c) : Ok F (armPair c) := by
  unfold armPair
  repeat' ((with_reducible
      first
        | assumption | apply modPair_keeps | apply clearClaim_keeps | apply OkP_of | simp only [↓Ok_mk] | dsimp only))

theorem actPart_keeps (who : Requester) (svc : Nat) (m : FdpReq) (sd : Side) (idx sub item v : Nat) (c : Chip)  (hok_c : Ok F c) : Ok F (actPart who svc m sd idx sub item v c) := by
  unfold actPart
  repeat' ((with_reducible
      first
        | assumption | apply startReset_keeps | apply startDump_keeps | apply openSession_keeps | apply modPair_keeps
        | apply blobWrite_keeps | apply reportStart_keeps | apply fuseProgram_keeps | apply debugLock_keeps
        | apply eraseStart_keeps | apply chunkWrite_keeps | apply commitBank_keeps | apply confirmBank_keeps
        | apply restartFirmware_keeps | apply armPair_keeps | apply OkP_of | apply Ok_tput | apply Ok_found | split
        | (refine of_eq2 (by assumption) ?_) | simp only [↓Ok_mk] | dsimp only))

theorem enterMaintenance_keeps (c : Chip)  (hok_c : Ok F c) : Ok F (enterMaintenance c) := by
  unfold enterMaintenance
  repeat' (first
    | (with_reducible
      first
        | assumption | apply enterState_keeps | apply modPair_keeps | apply leavePair_keeps | apply endSessions_keeps
        | apply haltThreads_keeps | apply releaseAllParts_keeps
        | (intro cc; refine_lift have hcc : Ok F cc := ?_; ?_; subst cc; rotate_left; clear_value cc)
        | (intro cc; clear_value cc) | apply OkP_of | simp only [↓Ok_mk] | lift_lets | dsimp only)
    | (with_reducible show _ ≤ (9 : Nat); decide))

theorem afterResponse_keeps (parts : List (Nat × Nat)) (idx : Nat) (c : Chip)  (hok_c : Ok F c) : Ok F (afterResponse parts idx c) := by
  unfold afterResponse
  repeat' ((with_reducible
      first
        | assumption | apply endSession_keeps | apply enterMaintenance_keeps
        | (intro cc; refine_lift have hcc : Ok F cc := ?_; ?_; subst cc; rotate_left; clear_value cc)
        | (intro cc; clear_value cc) | apply OkP_of | apply foldl_keeps | split | intro _ | simp only [↓Ok_mk]
        | lift_lets | dsimp only))

theorem trial_keeps (who : Requester) (idx item : Nat) (parts : List (Nat × Nat)) (c : Chip)  (hok_c : Ok F c) : Ok F (trial who idx item parts c) := by
  unfold trial
  repeat' ((with_reducible
      first
        | assumption | apply storePart_keeps | apply foldl_keeps | split | intro _ | dsimp only))

theorem markLost_keeps (idx item : Nat) (c : Chip)  (hok_c : Ok F c) : Ok F (markLost idx item c) := by
  unfold markLost
  repeat' ((with_reducible
      first
        | assumption | apply modPair_keeps | apply OkP_of | apply Ok_tput | apply Ok_found | split
        | simp only [↓Ok_mk] | dsimp only))

theorem applyPart_keeps (who : Requester) (svc : Nat) (m : FdpReq) (sd : Side) (idx item : Nat) (c : Chip) (e : Nat × Nat)  (hok_c : Ok F c) : Ok F (applyPart who svc m sd idx item c e) := by
  unfold applyPart
  repeat' ((with_reducible
      first
        | assumption | apply storePart_keeps | apply storeEffect_keeps | apply actPart_keeps | apply markLost_keeps
        | split | dsimp only))

theorem refusedWrite_keeps (who : Requester) (idx item : Nat) (parts : List (Nat × Nat)) (st : Status) (c : Chip)  (hok_c : Ok F c) : Ok F (refusedWrite who idx item parts st c) := by
  unfold refusedWrite
  repeat' ((with_reducible
      first
        | assumption | apply emit_keeps | apply denied_keeps | apply commitRefused_keeps
        | (intro cc; refine_lift have hcc : Ok F cc := ?_; ?_; subst cc; rotate_left; clear_value cc)
        | (intro cc; clear_value cc) | apply OkP_of | split | simp only [↓Ok_mk] | lift_lets | dsimp only))

theorem writeParts_keeps (who : Requester) (svc : Nat) (m : FdpReq) (sd : Side) (idx : Nat) (parts : List (Nat × Nat)) (c : Chip)  (hok_c : Ok F c) : Ok F (writeParts who svc m sd idx parts c).2.2 := by
  unfold writeParts
  repeat' ((with_reducible
      first
        | assumption | apply trial_keeps | apply applyPart_keeps | apply refusedWrite_keeps
        | (intro cc; refine_lift have hcc : Ok F cc := ?_; ?_; subst cc; rotate_left; clear_value cc)
        | (intro cc; clear_value cc) | apply OkP_of | apply foldl_keeps | split | intro _ | simp only [↓Ok_mk]
        | lift_lets | dsimp only))

end Sys2Proof.Machine
end

