-- ==== Sys2Proof/Laws/KeepDict.lean ====
section
/-! SUPPORT. Every operation of Machine/Dict.lean keeps `Ok`. -/
set_option linter.all false
namespace Sys2Proof.Machine
variable {F : Fuse}

theorem readSpan_keeps (who : Requester) (idx item : Nat) (a0 : List Nat) (a1 : Chip) (hok_a1 : Ok F a1) : Ok F (readSpan who idx item a0 a1).2 := by
  induction a0 generalizing a1 with
  | nil =>
    unfold readSpan
    repeat' ((with_reducible
        first
          | assumption | apply dictRead_keeps | apply ih
          | (intro cc; refine_lift have hcc : Ok F cc := ?_; ?_; subst cc; rotate_left; clear_value cc)
          | (intro cc; refine_lift have hcc : Ok F cc.2 := ?_; ?_; subst cc; rotate_left; clear_value cc)
          | (intro cc; clear_value cc) | split | (refine of_eq2 (by assumption) ?_) | lift_lets | dsimp only))
  | cons y l ih =>
    unfold readSpan
    repeat' ((with_reducible
        first
          | assumption | apply dictRead_keeps | apply ih
          | (intro cc; refine_lift have hcc : Ok F cc := ?_; ?_; subst cc; rotate_left; clear_value cc)
          | (intro cc; refine_lift have hcc : Ok F cc.2 := ?_; ?_; subst cc; rotate_left; clear_value cc)
          | (intro cc; clear_value cc) | split | (refine of_eq2 (by assumption) ?_) | lift_lets | dsimp only))

theorem refusedRead_keeps (who : Requester) (st : Status) (c : Chip)  (hok_c : Ok F c) : Ok F (refusedRead who st c) := by
  unfold refusedRead
  repeat' ((with_reducible
      first
        | assumption | apply denied_keeps | split | dsimp only))

theorem serveRead_keeps (who : Requester) (m : FdpReq) (c : Chip)  (hok_c : Ok F c) : Ok F (serveRead who m c).2.2 := by
  unfold serveRead
  repeat' ((with_reducible
      first
        | assumption | apply readSpan_keeps | apply refusedRead_keeps
        | (intro cc; refine_lift have hcc : Ok F cc := ?_; ?_; subst cc; rotate_left; clear_value cc)
        | (intro cc; refine_lift have hcc : Ok F cc.2 := ?_; ?_; subst cc; rotate_left; clear_value cc)
        | (intro cc; clear_value cc) | split | (refine of_eq2 (by assumption) ?_) | (refine of_eq3 (by assumption) ?_)
        | lift_lets | dsimp only))

theorem serveWindowRead_keeps (who : Requester) (m : FdpReq) (c : Chip)  (hok_c : Ok F c) : Ok F (serveWindowRead who m c).2.2 := by
  unfold serveWindowRead
  repeat' ((with_reducible
      first
        | assumption | apply setSel_keeps | apply readSpan_keeps | apply refusedRead_keeps
        | (intro cc; refine_lift have hcc : Ok F cc := ?_; ?_; subst cc; rotate_left; clear_value cc)
        | (intro cc; refine_lift have hcc : Ok F cc.2 := ?_; ?_; subst cc; rotate_left; clear_value cc)
        | (intro cc; clear_value cc) | split | (refine of_eq2 (by assumption) ?_) | (refine of_eq3 (by assumption) ?_)
        | lift_lets | dsimp only))

theorem serveFetch_keeps (m : FdpReq) (c : Chip)  (hok_c : Ok F c) : Ok F (serveFetch m c).2.2 := by
  unfold serveFetch
  repeat' ((with_reducible
      first
        | assumption | (intro cc; refine_lift have hcc : Ok F cc := ?_; ?_; subst cc; rotate_left; clear_value cc)
        | (intro cc; clear_value cc) | split | lift_lets | dsimp only))

theorem serveDescribe_keeps (who : Requester) (m : FdpReq) (c : Chip)  (hok_c : Ok F c) : Ok F (serveDescribe who m c).2.2 := by
  unfold serveDescribe
  repeat' ((with_reducible
      first
        | assumption | apply refusedRead_keeps
        | (intro cc; refine_lift have hcc : Ok F cc := ?_; ?_; subst cc; rotate_left; clear_value cc)
        | (intro cc; clear_value cc) | apply OkP_of | split | simp only [↓Ok_mk] | lift_lets | dsimp only))

theorem serveWrite_keeps (who : Requester) (svc : Nat) (m : FdpReq) (sd : Side) (c : Chip)  (hok_c : Ok F c) : Ok F (serveWrite who svc m sd c).2.2.2 := by
  unfold serveWrite
  repeat' ((with_reducible
      first
        | assumption | apply refusedWrite_keeps | apply writeParts_keeps
        | (intro cc; refine_lift have hcc : Ok F cc := ?_; ?_; subst cc; rotate_left; clear_value cc)
        | (intro cc; refine_lift have hcc : Ok F cc.2.2 := ?_; ?_; subst cc; rotate_left; clear_value cc)
        | (intro cc; clear_value cc) | apply OkP_of | split | (refine of_eq3 (by assumption) ?_)
        | (refine of_eq4 (by assumption) ?_) | simp only [↓Ok_mk] | lift_lets | dsimp only))

theorem serveWindowWrite_keeps (who : Requester) (m : FdpReq) (sd : Side) (c : Chip)  (hok_c : Ok F c) : Ok F (serveWindowWrite who m sd c).2.2.2 := by
  unfold serveWindowWrite
  repeat' ((with_reducible
      first
        | assumption | apply refusedWrite_keeps | apply writeParts_keeps
        | (intro cc; refine_lift have hcc : Ok F cc := ?_; ?_; subst cc; rotate_left; clear_value cc)
        | (intro cc; refine_lift have hcc : Ok F cc.2.2 := ?_; ?_; subst cc; rotate_left; clear_value cc)
        | (intro cc; clear_value cc) | apply OkP_of | split | (refine of_eq3 (by assumption) ?_)
        | (refine of_eq4 (by assumption) ?_) | simp only [↓Ok_mk] | lift_lets | dsimp only))

theorem service_keeps (who : Requester) (m : DMsg) (sd : Side) (c : Chip)  (hok_c : Ok F c) : Ok F (service who m sd c).2.2.2 := by
  unfold service
  repeat' ((with_reducible
      first
        | assumption | apply serveRead_keeps | apply serveWindowRead_keeps | apply serveFetch_keeps
        | apply serveDescribe_keeps | apply serveWrite_keeps | apply serveWindowWrite_keeps
        | (intro cc; refine_lift have hcc : Ok F cc := ?_; ?_; subst cc; rotate_left; clear_value cc)
        | (intro cc; refine_lift have hcc : Ok F cc.2.2 := ?_; ?_; subst cc; rotate_left; clear_value cc)
        | (intro cc; refine_lift have hcc : Ok F cc.2.2.2 := ?_; ?_; subst cc; rotate_left; clear_value cc)
        | (intro cc; clear_value cc) | apply OkP_of | split | (refine of_eq3 (by assumption) ?_)
        | (refine of_eq4 (by assumption) ?_) | simp only [↓Ok_mk] | lift_lets | dsimp only))

theorem serve_keeps (who : Requester) (m : DMsg) (sd : Side) (c : Chip)  (hok_c : Ok F c) : Ok F (serve who m sd c) := by
  unfold serve
  repeat' ((with_reducible
      first
        | assumption | apply emit_keeps | apply respond_keeps | (refine beginReq_keeps _ _ _ _ (by assumption) ?_)
        | apply answerHeader_keeps | apply settle_keeps | apply afterResponse_keeps | apply service_keeps
        | (intro cc; refine_lift have hcc : Ok F cc := ?_; ?_; subst cc; rotate_left; clear_value cc)
        | (intro cc; refine_lift have hcc : Ok F cc.2.2.2 := ?_; ?_; subst cc; rotate_left; clear_value cc)
        | (intro cc; clear_value cc) | apply OkP_of | split | (refine of_eq4 (by assumption) ?_) | simp only [↓Ok_mk]
        | lift_lets | dsimp only))

theorem sideOf_keeps (env : WriteEnv) (m : FdpReq) (c : Chip)  (hok_c : Ok F c) : Ok F (sideOf env m c).2 := by
  unfold sideOf
  repeat' ((with_reducible
      first
        | assumption | apply drawFree_keeps
        | (intro cc; refine_lift have hcc : Ok F cc := ?_; ?_; subst cc; rotate_left; clear_value cc)
        | (intro cc; refine_lift have hcc : Ok F cc.2 := ?_; ?_; subst cc; rotate_left; clear_value cc)
        | (intro cc; clear_value cc) | split | (refine of_eq2 (by assumption) ?_) | lift_lets | dsimp only))

theorem serveGeneral_keeps (who : Requester) (svc : Nat) (m : FdpReq) (env : WriteEnv) (c : Chip)  (hok_c : Ok F c) : Ok F (serveGeneral who svc m env c) := by
  unfold serveGeneral
  repeat' ((with_reducible
      first
        | assumption | apply serve_keeps | apply sideOf_keeps
        | (intro cc; refine_lift have hcc : Ok F cc := ?_; ?_; subst cc; rotate_left; clear_value cc)
        | (intro cc; refine_lift have hcc : Ok F cc.2 := ?_; ?_; subst cc; rotate_left; clear_value cc)
        | (intro cc; clear_value cc) | split | (refine of_eq2 (by assumption) ?_) | lift_lets | dsimp only))

theorem serveOne_keeps (who : Requester) (m : DMsg) (env : WriteEnv) (c : Chip)  (hok_c : Ok F c) : Ok F (serveOne who m env c) := by
  unfold serveOne
  repeat' ((with_reducible
      first
        | assumption | apply serve_keeps | apply OkP_of | simp only [↓Ok_mk] | dsimp only))

end Sys2Proof.Machine
end

