-- ==== Sys2Proof/Laws/KeepBoundary.lean ====
section
/-! SUPPORT. Every operation of Machine/Boundary.lean keeps `Ok`. -/
set_option linter.all false
namespace Sys2Proof.Machine
variable {F : Fuse}

theorem overrunTrap_keeps (t : Nat) (c : Chip)  (hok_c : Ok F c) : Ok F (overrunTrap t c) := by
  unfold overrunTrap
  repeat' ((with_reducible
      first
        | assumption | apply modHart_keeps
        | (intro cc; refine_lift have hcc : Ok F cc := ?_; ?_; subst cc; rotate_left; clear_value cc)
        | (intro cc; clear_value cc) | apply OkP_of | split | simp only [↓Ok_mk] | lift_lets | dsimp only))

theorem overrunPart_keeps (n p : Nat) (c : Chip)  (hok_c : Ok F c) : Ok F (overrunPart n p c) := by
  unfold overrunPart
  repeat' ((with_reducible
      first
        | assumption | apply bump_keeps | apply emit_keeps | apply abortTags_keeps | apply rewindThread_keeps
        | apply discardHard_keeps | apply modPartFlt_keeps | apply overrunTrap_keeps
        | (intro cc; refine_lift have hcc : Ok F cc := ?_; ?_; subst cc; rotate_left; clear_value cc)
        | (intro cc; clear_value cc) | apply OkP_of | apply foldl_keeps | intro _ | simp only [↓Ok_mk] | lift_lets
        | dsimp only))

theorem closeStitch_keeps (n overs : Nat) (c : Chip)  (hok_c : Ok F c) : Ok F (closeStitch n overs c) := by
  unfold closeStitch
  repeat' ((with_reducible
      first
        | assumption | apply overrunPart_keeps | apply foldl_keeps | split | intro _ | dsimp only))

theorem pauseAll_keeps (on : Bool) (c : Chip)  (hok_c : Ok F c) : Ok F (pauseAll on c) := by
  unfold pauseAll
  repeat' ((with_reducible
      first
        | assumption | apply OkP_of | simp only [↓Ok_mk] | dsimp only))

theorem softStop_keeps (c : Chip)  (hok_c : Ok F c) : Ok F (softStop c) := by
  unfold softStop
  repeat' ((with_reducible
      first
        | assumption | apply pauseAll_keeps
        | (intro cc; refine_lift have hcc : Ok F cc := ?_; ?_; subst cc; rotate_left; clear_value cc)
        | (intro cc; clear_value cc) | apply OkP_of | split | simp only [↓Ok_mk] | lift_lets | dsimp only))

theorem softResume_keeps (c : Chip)  (hok_c : Ok F c) : Ok F (softResume c) := by
  unfold softResume
  repeat' ((with_reducible
      first
        | assumption | apply pauseAll_keeps
        | (intro cc; refine_lift have hcc : Ok F cc := ?_; ?_; subst cc; rotate_left; clear_value cc)
        | (intro cc; clear_value cc) | apply OkP_of | split | simp only [↓Ok_mk] | lift_lets | dsimp only))

theorem applyClocks_keeps (c : Chip)  (hok_c : Ok F c) : Ok F (applyClocks c) := by
  unfold applyClocks
  repeat' ((with_reducible
      first
        | assumption | apply floorRestore_keeps | apply OkP_of | apply foldl_keeps | apply forSpan_keeps | intro _
        | simp only [↓Ok_mk] | dsimp only))

theorem periodApply_keeps (n : Nat) (c : Chip)  (hok_c : Ok F c) : Ok F (periodApply n c) := by
  unfold periodApply
  repeat' ((with_reducible
      first
        | assumption | (intro cc; refine_lift have hcc : Ok F cc := ?_; ?_; subst cc; rotate_left; clear_value cc)
        | (intro cc; clear_value cc) | apply OkP_of | split | simp only [↓Ok_mk] | lift_lets | dsimp only))

theorem correctedReports_keeps (closed : Nat) (c : Chip)  (hok_c : Ok F c) : Ok F (correctedReports closed c) := by
  unfold correctedReports
  repeat' ((with_reducible
      first
        | assumption | apply emit_keeps | apply OkP_of | apply foldl_keeps | intro _ | simp only [↓Ok_mk] | dsimp only))

theorem blazeRequests_keeps (c : Chip)  (hok_c : Ok F c) : Ok F (blazeRequests c) := by
  unfold blazeRequests
  repeat' ((with_reducible
      first
        | assumption | apply takeImage_keeps | apply applyImage_keeps | apply restoredEvent_keeps
        | apply shrinkDone_keeps
        | (intro cc; refine_lift have hcc : Ok F cc := ?_; ?_; subst cc; rotate_left; clear_value cc)
        | (intro cc; clear_value cc) | apply OkP_of | apply foldl_keeps | intro _ | simp only [↓Ok_mk] | lift_lets
        | dsimp only))

theorem budgets_keeps (n : Nat) (c : Chip)  (hok_c : Ok F c) : Ok F (budgets n c) := by
  unfold budgets
  repeat' ((with_reducible
      first
        | assumption | apply stageApply_keeps | apply refill_keeps
        | (intro cc; refine_lift have hcc : Ok F cc := ?_; ?_; subst cc; rotate_left; clear_value cc)
        | (intro cc; clear_value cc) | apply OkP_of | split | simp only [↓Ok_mk] | lift_lets | dsimp only))

theorem wardenBoundary_keeps (c : Chip)  (hok_c : Ok F c) : Ok F (wardenBoundary c) := by
  unfold wardenBoundary
  repeat' ((with_reducible
      first
        | assumption | apply licTimeouts_keeps | apply resLapse_keeps | apply resGrant_keeps | apply poolCompute_keeps
        | dsimp only))

theorem dispatchWork_keeps (c : Chip)  (hok_c : Ok F c) : Ok F (dispatchWork c) := by
  unfold dispatchWork
  repeat' ((with_reducible
      first
        | assumption | apply wakeAllBlaze_keeps | apply softResume_keeps
        | (intro cc; refine_lift have hcc : Ok F cc := ?_; ?_; subst cc; rotate_left; clear_value cc)
        | (intro cc; clear_value cc) | apply OkP_of | split | simp only [↓Ok_mk] | lift_lets | dsimp only))

theorem newStitch_keeps (n : Nat) (c : Chip)  (hok_c : Ok F c) : Ok F (newStitch n c) := by
  unfold newStitch
  repeat' ((with_reducible
      first
        | assumption | apply OkP_of | simp only [↓Ok_mk] | dsimp only))

theorem boundaryClose_keeps (closed n at_ : Nat) (c : Chip)  (hok_c : Ok F c) : Ok F (boundaryClose closed n at_ c).2 := by
  unfold boundaryClose
  repeat' ((with_reducible
      first
        | assumption | apply emit_keeps | apply boundarySend_keeps | apply swapYield_keeps
        | apply suppressReports_keeps | apply closeStitch_keeps | apply softStop_keeps | apply correctedReports_keeps
        | apply newStitch_keeps
        | (intro cc; refine_lift have hcc : Ok F cc := ?_; ?_; subst cc; rotate_left; clear_value cc)
        | (intro cc; clear_value cc) | split | lift_lets | dsimp only))

theorem boundaryApply_keeps (n at_ : Nat) (c : Chip)  (hok_c : Ok F c) : Ok F (boundaryApply n at_ c) := by
  unfold boundaryApply
  repeat' ((with_reducible
      first
        | assumption | apply ckptImages_keeps | apply snapshotCounters_keeps | apply bandwidthStep_keeps
        | apply mapApply_keeps | apply applyClocks_keeps | apply periodApply_keeps | apply blazeRequests_keeps
        | apply budgets_keeps | apply wardenBoundary_keeps
        | (intro cc; refine_lift have hcc : Ok F cc := ?_; ?_; subst cc; rotate_left; clear_value cc)
        | (intro cc; clear_value cc) | split | lift_lets | dsimp only))

theorem boundaryDomain_keeps (n : Nat) (c : Chip)  (hok_c : Ok F c) : Ok F (boundaryDomain n c) := by
  unfold boundaryDomain
  repeat' ((with_reducible
      first
        | assumption | apply heldEpochs_keeps | apply formBoundary_keeps | apply wrapReport_keeps
        | apply restartsDue_keeps | apply rollbackDue_keeps | apply admission_keeps | apply shadowStep_keeps
        | dsimp only))

theorem boundarySeq_keeps (c : Chip)  (hok_c : Ok F c) : Ok F (boundarySeq c) := by
  unfold boundarySeq
  repeat' ((with_reducible
      first
        | assumption | apply ckptBegin_keeps | apply boundaryHooks_keeps | apply settle_keeps
        | apply dispatchWork_keeps | apply boundaryClose_keeps | apply boundaryApply_keeps
        | apply boundaryDomain_keeps
        | (intro cc; refine_lift have hcc : Ok F cc := ?_; ?_; subst cc; rotate_left; clear_value cc)
        | (intro cc; refine_lift have hcc : Ok F cc.2 := ?_; ?_; subst cc; rotate_left; clear_value cc)
        | (intro cc; clear_value cc) | split | (refine of_eq2 (by assumption) ?_) | lift_lets | dsimp only))

theorem stitchBoundary_keeps (c : Chip)  (hok_c : Ok F c) : Ok F (stitchBoundary c) := by
  unfold stitchBoundary
  repeat' ((with_reducible
      first
        | assumption | apply boundarySeq_keeps | apply OkP_of | split | simp only [↓Ok_mk] | dsimp only))

end Sys2Proof.Machine
end

