-- ==== Sys2Proof/Laws/KeepStartup.lean ====
section
/-! SUPPORT. Every operation of Machine/Startup.lean keeps `Ok`. -/
set_option linter.all false
namespace Sys2Proof.Machine
variable {F : Fuse}

theorem nextPhase_keeps (k : Nat) (c : Chip)  (hok_c : Ok F c) : Ok F (nextPhase k c) := by
  unfold nextPhase
  repeat' ((with_reducible
      first
        | assumption | apply OkP_of | simp only [↓Ok_mk] | dsimp only))

theorem clearUnits_keeps (c : Chip)  (hok_c : Ok F c) : Ok F (clearUnits c) := by
  unfold clearUnits
  repeat' ((with_reducible
      first
        | assumption | apply OkP_of | apply OkP_nil | simp only [↓Ok_mk] | dsimp only))

theorem powerOff_keeps (c : Chip)  (hok_c : Ok F c) : Ok F (powerOff c) := by
  unfold powerOff
  repeat' (first
    | (with_reducible
      first
        | assumption | apply enterState_keeps | apply clearUnits_keeps
        | (intro cc; refine_lift have hcc : Ok F cc := ?_; ?_; subst cc; rotate_left; clear_value cc)
        | (intro cc; clear_value cc) | apply OkP_of | apply OkP_state | split | simp only [↓Ok_mk] | lift_lets
        | dsimp only)
    | (with_reducible show _ ≤ (9 : Nat); decide))

theorem startRamp_keeps (c : Chip)  (hok_c : Ok F c) : Ok F (startRamp c) := by
  unfold startRamp
  repeat' (first
    | (with_reducible
      first
        | assumption | apply clearUnits_keeps
        | (intro cc; refine_lift have hcc : Ok F cc := ?_; ?_; subst cc; rotate_left; clear_value cc)
        | (intro cc; clear_value cc) | apply OkP_of | apply OkP_state | split | simp only [↓Ok_mk] | lift_lets
        | dsimp only)
    | (with_reducible show _ ≤ (9 : Nat); decide))

theorem drawNonce_keeps  (a0 : Nat) (a1 : Chip) (hok_a1 : Ok F a1) : Ok F (drawNonce a0 a1) := by
  induction a0 generalizing a1 with
  | zero =>
    unfold drawNonce
    repeat' ((with_reducible
        first
          | assumption | apply drawFree_keeps | apply setObj_keeps | apply ih
          | (intro cc; refine_lift have hcc : Ok F cc := ?_; ?_; subst cc; rotate_left; clear_value cc)
          | (intro cc; refine_lift have hcc : Ok F cc.2 := ?_; ?_; subst cc; rotate_left; clear_value cc)
          | (intro cc; clear_value cc) | apply OkP_of | split | (refine of_eq2 (by assumption) ?_)
          | simp only [↓Ok_mk] | lift_lets | dsimp only))
  | succ n ih =>
    unfold drawNonce
    repeat' ((with_reducible
        first
          | assumption | apply drawFree_keeps | apply setObj_keeps | apply ih
          | (intro cc; refine_lift have hcc : Ok F cc := ?_; ?_; subst cc; rotate_left; clear_value cc)
          | (intro cc; refine_lift have hcc : Ok F cc.2 := ?_; ?_; subst cc; rotate_left; clear_value cc)
          | (intro cc; clear_value cc) | apply OkP_of | split | (refine of_eq2 (by assumption) ?_)
          | simp only [↓Ok_mk] | lift_lets | dsimp only))

theorem bootRom_keeps (slot : Nat) (tie : Bool) (c : Chip)  (hok_c : Ok F c) : Ok F (bootRom slot tie c) := by
  unfold bootRom
  repeat' ((with_reducible
      first
        | assumption | apply setObj_keeps | apply bump_keeps | apply modPair_keeps | apply readFuses_keeps
        | apply drawNonce_keeps
        | (intro cc; refine_lift have hcc : Ok F cc := ?_; ?_; subst cc; rotate_left; clear_value cc)
        | (intro cc; clear_value cc) | apply OkP_of | simp only [↓Ok_mk] | lift_lets | dsimp only))

theorem powerOnBoot_keeps (slot : Nat) (tie : Bool) (c : Chip)  (hok_c : Ok F c) : Ok F (powerOnBoot slot tie c) := by
  unfold powerOnBoot
  repeat' ((with_reducible
      first
        | assumption | apply enterUnpaired_keeps | apply bootRom_keeps | dsimp only))

theorem enterBoot_keeps (c : Chip)  (hok_c : Ok F c) : Ok F (enterBoot c) := by
  unfold enterBoot
  repeat' (first
    | (with_reducible
      first
        | assumption | apply enterState_keeps | apply nextPhase_keeps | dsimp only)
    | (with_reducible show _ ≤ (9 : Nat); decide))

theorem railsRamped_keeps (slot : Nat) (tie : Bool) (c : Chip)  (hok_c : Ok F c) : Ok F (railsRamped slot tie c) := by
  unfold railsRamped
  repeat' (first
    | (with_reducible
      first
        | assumption | apply emit_keeps | apply powerOnBoot_keeps | apply enterBoot_keeps
        | (intro cc; refine_lift have hcc : Ok F cc := ?_; ?_; subst cc; rotate_left; clear_value cc)
        | (intro cc; clear_value cc) | apply OkP_of | apply OkP_state | split | simp only [↓Ok_mk] | lift_lets
        | dsimp only)
    | (with_reducible show _ ≤ (9 : Nat); decide))

theorem bankChoice_keeps (c : Chip)  (hok_c : Ok F c) : Ok F (bankChoice c).2 := by
  unfold bankChoice
  repeat' ((with_reducible
      first
        | assumption | apply setObj_keeps | apply emit_keeps
        | (intro cc; refine_lift have hcc : Ok F cc := ?_; ?_; subst cc; rotate_left; clear_value cc)
        | (intro cc; clear_value cc) | apply OkP_of | split | simp only [↓Ok_mk] | lift_lets | dsimp only))

theorem measure_keeps (c : Chip)  (hok_c : Ok F c) : Ok F (measure c) := by
  unfold measure
  repeat' ((with_reducible
      first
        | assumption | (intro cc; refine_lift have hcc : Ok F cc := ?_; ?_; subst cc; rotate_left; clear_value cc)
        | (intro cc; clear_value cc) | apply OkP_of | split | simp only [↓Ok_mk] | lift_lets | dsimp only))

theorem drawKwk_keeps (c : Chip)  (hok_c : Ok F c) : Ok F (drawKwk c) := by
  unfold drawKwk
  repeat' ((with_reducible
      first
        | assumption | apply drawBytes_keeps
        | (intro cc; refine_lift have hcc : Ok F cc := ?_; ?_; subst cc; rotate_left; clear_value cc)
        | (intro cc; refine_lift have hcc : Ok F cc.2 := ?_; ?_; subst cc; rotate_left; clear_value cc)
        | (intro cc; clear_value cc) | apply OkP_of | split | (refine of_eq2 (by assumption) ?_) | simp only [↓Ok_mk]
        | lift_lets | dsimp only))

theorem readConfig_keeps (c : Chip)  (hok_c : Ok F c) : Ok F (readConfig c) := by
  unfold readConfig
  repeat' ((with_reducible
      first
        | assumption | apply modGrove_keeps
        | (intro cc; refine_lift have hcc : Ok F cc := ?_; ?_; subst cc; rotate_left; clear_value cc)
        | (intro cc; clear_value cc) | apply OkP_of | apply forSpan_keeps | intro _ | simp only [↓Ok_mk] | lift_lets
        | dsimp only))

theorem l0Start_keeps (c : Chip)  (hok_c : Ok F c) : Ok F (l0Start c) := by
  unfold l0Start
  repeat' (first
    | (with_reducible
      first
        | assumption | apply enterState_keeps | apply emit_keeps | apply callHook_keeps | apply moduleFail_keeps
        | apply nextPhase_keeps | apply powerOnBoot_keeps | apply bankChoice_keeps | apply measure_keeps
        | apply drawKwk_keeps | apply readConfig_keeps
        | (intro cc; refine_lift have hcc : Ok F cc := ?_; ?_; subst cc; rotate_left; clear_value cc)
        | (intro cc; refine_lift have hcc : Ok F cc.2 := ?_; ?_; subst cc; rotate_left; clear_value cc)
        | (intro cc; clear_value cc) | apply OkP_of | apply OkP_state | split | (refine of_eq2 (by assumption) ?_)
        | simp only [↓Ok_mk] | lift_lets | dsimp only)
    | (with_reducible show _ ≤ (9 : Nat); decide))

theorem retireUnit_keeps (c : Chip) (u : BistUnit)  (hok_c : Ok F c) : Ok F (retireUnit c u) := by
  unfold retireUnit
  repeat' ((with_reducible
      first
        | assumption | apply setObj_keeps | apply modGrove_keeps | apply emit_keeps
        | (intro cc; refine_lift have hcc : Ok F cc := ?_; ?_; subst cc; rotate_left; clear_value cc)
        | (intro cc; clear_value cc) | apply OkP_of | apply Ok_tput | apply Ok_found | split | simp only [↓Ok_mk]
        | lift_lets | dsimp only))

theorem bistDone_keeps (failed : List BistUnit) (pIdle : Nat) (c : Chip)  (hok_c : Ok F c) : Ok F (bistDone failed pIdle c) := by
  unfold bistDone
  repeat' (first
    | (with_reducible
      first
        | assumption | apply enterState_keeps | apply emit_keeps | apply recap_keeps | apply moduleFail_keeps
        | apply nextPhase_keeps | apply retireUnit_keeps
        | (intro cc; refine_lift have hcc : Ok F cc := ?_; ?_; subst cc; rotate_left; clear_value cc)
        | (intro cc; clear_value cc) | apply OkP_of | apply OkP_state | apply foldl_keeps | split | intro _
        | simp only [↓Ok_mk] | lift_lets | dsimp only)
    | (with_reducible show _ ≤ (9 : Nat); decide))

theorem dramTrained_keeps (c : Chip)  (hok_c : Ok F c) : Ok F (dramTrained c) := by
  unfold dramTrained
  repeat' (first
    | (with_reducible
      first
        | assumption | apply nextPhase_keeps | apply OkP_of | apply OkP_state | split | simp only [↓Ok_mk]
        | dsimp only)
    | (with_reducible show _ ≤ (9 : Nat); decide))

theorem hbmScrubDone_keeps (c : Chip)  (hok_c : Ok F c) : Ok F (hbmScrubDone c) := by
  unfold hbmScrubDone
  repeat' (first
    | (with_reducible
      first
        | assumption | apply memClear_keeps | apply modPort_keeps | apply nextPhase_keeps
        | (intro cc; refine_lift have hcc : Ok F cc := ?_; ?_; subst cc; rotate_left; clear_value cc)
        | (intro cc; clear_value cc) | apply OkP_of | apply OkP_state | apply forSpan_keeps | split | intro _
        | simp only [↓Ok_mk] | lift_lets | dsimp only)
    | (with_reducible show _ ≤ (9 : Nat); decide))

theorem linkTrainingDone_keeps (c : Chip)  (hok_c : Ok F c) : Ok F (linkTrainingDone c) := by
  unfold linkTrainingDone
  repeat' (first
    | (with_reducible
      first
        | assumption | apply emit_keeps | apply nextPhase_keeps | apply OkP_state | apply forSpan_keeps | split
        | intro _ | dsimp only)
    | (with_reducible show _ ≤ (9 : Nat); decide))

theorem tryReady_keeps (c : Chip)  (hok_c : Ok F c) : Ok F (tryReady c) := by
  unfold tryReady
  repeat' (first
    | (with_reducible
      first
        | assumption | apply setObj_keeps | apply enterState_keeps
        | (intro cc; refine_lift have hcc : Ok F cc := ?_; ?_; subst cc; rotate_left; clear_value cc)
        | (intro cc; clear_value cc) | apply OkP_of | split | simp only [↓Ok_mk] | lift_lets | dsimp only)
    | (with_reducible show _ ≤ (9 : Nat); decide))

theorem timeNotLocked_keeps (c : Chip)  (hok_c : Ok F c) : Ok F (timeNotLocked c) := by
  unfold timeNotLocked
  repeat' ((with_reducible
      first
        | assumption | apply emit_keeps | apply nextPhase_keeps
        | (intro cc; refine_lift have hcc : Ok F cc := ?_; ?_; subst cc; rotate_left; clear_value cc)
        | (intro cc; clear_value cc) | split | lift_lets | dsimp only))

theorem lockedReady_keeps (c : Chip)  (hok_c : Ok F c) : Ok F (lockedReady c) := by
  unfold lockedReady
  repeat' ((with_reducible
      first
        | assumption | apply tryReady_keeps | split | dsimp only))

theorem runReset_keeps (kind : Nat) (c : Chip) (hok_c : Ok F c) : Ok F (runReset kind c) := by
  unfold runReset
  have h9 : c.life.mstate ≤ 9 := hok_c.2.2.2.1
  generalize c.life.mstate = old at h9 ⊢
  simp only []
  repeat' (first
    | with_reducible assumption | with_reducible apply enterUnpaired_keeps | with_reducible apply bootRom_keeps
    | with_reducible apply setObj_keeps | with_reducible apply enterState_keeps | with_reducible apply clearUnits_keeps
    | with_reducible apply clearClaim_keeps | with_reducible apply endSessions_keeps | with_reducible apply leavePair_keeps
    | with_reducible apply OkP_of | with_reducible apply OkP_state | with_reducible split | (simp only [↓Ok_mk])
    | (with_reducible show _ ≤ (9 : Nat); decide))

theorem moduleReset_keeps (c : Chip)  (hok_c : Ok F c) : Ok F (moduleReset c) := by
  unfold moduleReset
  repeat' (first
    | (with_reducible
      first
        | assumption | apply emit_keeps | apply runReset_keeps | apply OkP_of | apply OkP_state | split
        | simp only [↓Ok_mk] | dsimp only)
    | (with_reducible show _ ≤ (9 : Nat); decide))

theorem resetDue_keeps (c : Chip)  (hok_c : Ok F c) : Ok F (resetDue c) := by
  unfold resetDue
  repeat' ((with_reducible
      first
        | assumption | apply moduleReset_keeps | apply OkP_of | split | simp only [↓Ok_mk] | dsimp only))

theorem prsntLow_keeps (c : Chip)  (hok_c : Ok F c) : Ok F (prsntLow c) := by
  unfold prsntLow
  repeat' ((with_reducible
      first
        | assumption | apply OkP_of | split | simp only [↓Ok_mk] | dsimp only))

theorem prsntHeld_keeps (c : Chip)  (hok_c : Ok F c) : Ok F (prsntHeld c) := by
  unfold prsntHeld
  repeat' ((with_reducible
      first
        | assumption | apply startRamp_keeps | apply OkP_of | split | simp only [↓Ok_mk] | dsimp only))

theorem prsntHigh_keeps (c : Chip)  (hok_c : Ok F c) : Ok F (prsntHigh c) := by
  unfold prsntHigh
  repeat' ((with_reducible
      first
        | assumption | apply powerOff_keeps | apply OkP_of | simp only [↓Ok_mk] | dsimp only))

theorem inputIn_keeps (c : Chip)  (hok_c : Ok F c) : Ok F (inputIn c) := by
  unfold inputIn
  repeat' ((with_reducible
      first
        | assumption | apply startRamp_keeps | apply OkP_of | simp only [↓Ok_mk] | dsimp only))

theorem inputOut_keeps (c : Chip)  (hok_c : Ok F c) : Ok F (inputOut c) := by
  unfold inputOut
  repeat' ((with_reducible
      first
        | assumption | apply powerOff_keeps | apply OkP_of | simp only [↓Ok_mk] | dsimp only))

theorem hotswapTrip_keeps (c : Chip)  (hok_c : Ok F c) : Ok F (hotswapTrip c) := by
  unfold hotswapTrip
  repeat' (first
    | (with_reducible
      first
        | assumption | apply bump_keeps | apply powerOff_keeps
        | (intro cc; refine_lift have hcc : Ok F cc := ?_; ?_; subst cc; rotate_left; clear_value cc)
        | (intro cc; clear_value cc) | apply OkP_of | apply OkP_state | split | simp only [↓Ok_mk] | lift_lets
        | dsimp only)
    | (with_reducible show _ ≤ (9 : Nat); decide))

theorem hotswapRetry_keeps (c : Chip)  (hok_c : Ok F c) : Ok F (hotswapRetry c) := by
  unfold hotswapRetry
  repeat' ((with_reducible
      first
        | assumption | apply startRamp_keeps
        | (intro cc; refine_lift have hcc : Ok F cc := ?_; ?_; subst cc; rotate_left; clear_value cc)
        | (intro cc; clear_value cc) | apply OkP_of | split | simp only [↓Ok_mk] | lift_lets | dsimp only))

theorem latchLow_keeps (c : Chip)  (hok_c : Ok F c) : Ok F (latchLow c) := by
  unfold latchLow
  repeat' ((with_reducible
      first
        | assumption | apply OkP_of | simp only [↓Ok_mk] | dsimp only))

theorem latchWarning_keeps (c : Chip)  (hok_c : Ok F c) : Ok F (latchWarning c) := by
  unfold latchWarning
  repeat' (first
    | (with_reducible
      first
        | assumption | apply enterFenced_keeps | apply fencedToLatch_keeps | apply OkP_of | apply OkP_state | split
        | simp only [↓Ok_mk] | dsimp only)
    | (with_reducible show _ ≤ (9 : Nat); decide))

theorem latchHigh_keeps (c : Chip)  (hok_c : Ok F c) : Ok F (latchHigh c) := by
  unfold latchHigh
  repeat' ((with_reducible
      first
        | assumption | apply OkP_of | simp only [↓Ok_mk] | dsimp only))

theorem latchHeldHigh_keeps (c : Chip)  (hok_c : Ok F c) : Ok F (latchHeldHigh c) := by
  unfold latchHeldHigh
  repeat' ((with_reducible
      first
        | assumption | apply startRamp_keeps | apply OkP_of | split | simp only [↓Ok_mk] | dsimp only))

theorem inputRange_keeps (c : Chip)  (hok_c : Ok F c) : Ok F (inputRange c) := by
  unfold inputRange
  repeat' (first
    | (with_reducible
      first
        | assumption | apply emit_keeps
        | (intro cc; refine_lift have hcc : Ok F cc := ?_; ?_; subst cc; rotate_left; clear_value cc)
        | (intro cc; clear_value cc) | apply OkP_of | apply OkP_state | split | simp only [↓Ok_mk] | lift_lets
        | dsimp only)
    | (with_reducible show _ ≤ (9 : Nat); decide))

theorem inputDip_keeps (c : Chip)  (hok_c : Ok F c) : Ok F (inputDip c) := by
  unfold inputDip
  repeat' (first
    | (with_reducible
      first
        | assumption | apply bump_keeps | apply emit_keeps | apply OkP_state | split | dsimp only)
    | (with_reducible show _ ≤ (9 : Nat); decide))

theorem inletPeak_keeps (s : Nat) (had v : Option Int) (c : Chip)  (hok_c : Ok F c) : Ok F (inletPeak s had v c) := by
  unfold inletPeak
  repeat' ((with_reducible
      first
        | assumption | apply setObj_keeps
        | (intro cc; refine_lift have hcc : Ok F cc := ?_; ?_; subst cc; rotate_left; clear_value cc)
        | (intro cc; clear_value cc) | apply OkP_of | split | simp only [↓Ok_mk] | lift_lets | dsimp only))

theorem inletDiffer_keeps (c : Chip)  (hok_c : Ok F c) : Ok F (inletDiffer c) := by
  unfold inletDiffer
  repeat' ((with_reducible
      first
        | assumption | apply emit_keeps
        | (intro cc; refine_lift have hcc : Ok F cc := ?_; ?_; subst cc; rotate_left; clear_value cc)
        | (intro cc; clear_value cc) | apply OkP_of | split | simp only [↓Ok_mk] | lift_lets | dsimp only))

theorem inletReading_keeps (va vb : Option Int) (c : Chip)  (hok_c : Ok F c) : Ok F (inletReading va vb c) := by
  unfold inletReading
  repeat' ((with_reducible
      first
        | assumption | apply emit_keeps | apply setInlet_keeps | apply inletPeak_keeps | apply inletDiffer_keeps
        | (intro cc; refine_lift have hcc : Ok F cc := ?_; ?_; subst cc; rotate_left; clear_value cc)
        | (intro cc; clear_value cc) | apply OkP_of | split | simp only [↓Ok_mk] | lift_lets | dsimp only))

end Sys2Proof.Machine
end

