-- ==== Sys2Proof/Laws/KeepTime.lean ====
section
/-! SUPPORT. Every operation of Machine/Time.lean keeps `Ok`. -/
set_option linter.all false
namespace Sys2Proof.Machine
variable {F : Fuse}

theorem stepCounter_keeps (d : Int) (c : Chip)  (hok_c : Ok F c) : Ok F (stepCounter d c) := by
  unfold stepCounter
  repeat' ((with_reducible
      first
        | assumption | apply boundarySeq_keeps
        | (intro cc; refine_lift have hcc : Ok F cc := ?_; ?_; subst cc; rotate_left; clear_value cc)
        | (intro cc; clear_value cc) | apply OkP_of | split | simp only [↓Ok_mk] | lift_lets | dsimp only))

theorem slewCounter_keeps (offset : Int) (c : Chip)  (hok_c : Ok F c) : Ok F (slewCounter offset c) := by
  unfold slewCounter
  repeat' ((with_reducible
      first
        | assumption | apply OkP_of | simp only [↓Ok_mk] | dsimp only))

theorem correct_keeps (offset : Int) (changed : Bool) (c : Chip)  (hok_c : Ok F c) : Ok F (correct offset changed c) := by
  unfold correct
  repeat' ((with_reducible
      first
        | assumption | apply stepCounter_keeps | apply slewCounter_keeps | split | dsimp only))

theorem offsetRecord_keeps (offset : Int) (c : Chip)  (hok_c : Ok F c) : Ok F (offsetRecord offset c) := by
  unfold offsetRecord
  repeat' ((with_reducible
      first
        | assumption | apply emit_keeps
        | (intro cc; refine_lift have hcc : Ok F cc := ?_; ?_; subst cc; rotate_left; clear_value cc)
        | (intro cc; clear_value cc) | apply OkP_of | split | simp only [↓Ok_mk] | lift_lets | dsimp only))

theorem lockStep_keeps (offset : Int) (c : Chip)  (hok_c : Ok F c) : Ok F (lockStep offset c) := by
  unfold lockStep
  repeat' ((with_reducible
      first
        | assumption | apply lockedReady_keeps
        | (intro cc; refine_lift have hcc : Ok F cc := ?_; ?_; subst cc; rotate_left; clear_value cc)
        | (intro cc; clear_value cc) | apply OkP_of | split | simp only [↓Ok_mk] | lift_lets | dsimp only))

theorem gptpSync_keeps (p : Nat) (gm : Word) (rank : Nat) (offset : Int) (c : Chip)  (hok_c : Ok F c) : Ok F (gptpSync p gm rank offset c) := by
  unfold gptpSync
  repeat' (first
    | (with_reducible
      first
        | assumption | apply correct_keeps | apply offsetRecord_keeps | apply lockStep_keeps
        | (intro cc; refine_lift have hcc : Ok F cc := ?_; ?_; subst cc; rotate_left; clear_value cc)
        | (intro cc; clear_value cc) | apply OkP_of | apply OkP_state | split | simp only [↓Ok_mk] | lift_lets
        | dsimp only)
    | (with_reducible show _ ≤ (9 : Nat); decide))

theorem unheard_keeps (c : Chip)  (hok_c : Ok F c) : Ok F (unheard c) := by
  unfold unheard
  repeat' ((with_reducible
      first
        | assumption | apply OkP_of | simp only [↓Ok_mk] | dsimp only))

theorem timeHoldover_keeps (c : Chip)  (hok_c : Ok F c) : Ok F (timeHoldover c) := by
  unfold timeHoldover
  repeat' ((with_reducible
      first
        | assumption | apply emit_keeps | apply unheard_keeps
        | (intro cc; refine_lift have hcc : Ok F cc := ?_; ?_; subst cc; rotate_left; clear_value cc)
        | (intro cc; clear_value cc) | apply OkP_of | split | simp only [↓Ok_mk] | lift_lets | dsimp only))

theorem timeLost_keeps (c : Chip)  (hok_c : Ok F c) : Ok F (timeLost c) := by
  unfold timeLost
  repeat' ((with_reducible
      first
        | assumption | apply emit_keeps | apply OkP_of | split | simp only [↓Ok_mk] | dsimp only))

theorem counterSave_keeps (c : Chip)  (hok_c : Ok F c) : Ok F (counterSave c) := by
  unfold counterSave
  repeat' ((with_reducible
      first
        | assumption | apply saveTime_keeps | split | dsimp only))

theorem gptpAnnounce_keeps (p : Nat) (m : GptpMsg) (c : Chip)  (hok_c : Ok F c) : Ok F (gptpAnnounce p m c) := by
  unfold gptpAnnounce
  repeat' (first
    | (with_reducible
      first
        | assumption | apply OkP_of | apply OkP_state | split | simp only [↓Ok_mk] | dsimp only)
    | (with_reducible show _ ≤ (9 : Nat); decide))

end Sys2Proof.Machine
end

