-- ==== Sys2Proof/Laws/KeepFdpCommands.lean ====
section
/-! SUPPORT. Every operation of Machine/FdpCommands.lean keeps `Ok`. -/
set_option linter.all false
namespace Sys2Proof.Machine
variable {F : Fuse}

theorem dropDatagram_keeps (c : Chip)  (hok_c : Ok F c) : Ok F (dropDatagram c) := by
  unfold dropDatagram
  repeat' ((with_reducible
      first
        | assumption | apply bump_keeps | dsimp only))

theorem fdpDatagram_keeps (s : Nat) (dtls : Bool) (recSeq : Nat) (data : Bytes) (c : Chip)  (hok_c : Ok F c) : Ok F (fdpDatagram s dtls recSeq data c) := by
  unfold fdpDatagram
  repeat' ((with_reducible
      first
        | assumption | apply setFdp_keeps | apply respond_keeps | apply answerHeader_keeps | apply dropDatagram_keeps
        | (intro cc; refine_lift have hcc : Ok F cc := ?_; ?_; subst cc; rotate_left; clear_value cc)
        | (intro cc; clear_value cc) | apply OkP_of | split | simp only [↓Ok_mk] | lift_lets | dsimp only))

theorem frerFrame_keeps (seq : Nat) (c : Chip)  (hok_c : Ok F c) : Ok F (frerFrame seq c) := by
  unfold frerFrame
  repeat' ((with_reducible
      first
        | assumption | apply bump_keeps
        | (intro cc; refine_lift have hcc : Ok F cc := ?_; ?_; subst cc; rotate_left; clear_value cc)
        | (intro cc; clear_value cc) | apply OkP_of | split | simp only [↓Ok_mk] | lift_lets | dsimp only))

theorem frerReset_keeps (c : Chip)  (hok_c : Ok F c) : Ok F (frerReset c) := by
  unfold frerReset
  repeat' ((with_reducible
      first
        | assumption | apply OkP_of | simp only [↓Ok_mk] | dsimp only))

theorem portLatent_keeps (p : Nat) (c : Chip)  (hok_c : Ok F c) : Ok F (portLatent p c) := by
  unfold portLatent
  repeat' ((with_reducible
      first
        | assumption | apply emit_keeps | split | dsimp only))

theorem handshakeFail_keeps (ip : BitVec 128) (udp alert : Nat) (c : Chip)  (hok_c : Ok F c) : Ok F (handshakeFail ip udp alert c) := by
  unfold handshakeFail
  repeat' ((with_reducible
      first
        | assumption | apply send_keeps | apply bump_keeps | apply emit_keeps | apply frameSent_keeps
        | (intro cc; refine_lift have hcc : Ok F cc := ?_; ?_; subst cc; rotate_left; clear_value cc)
        | (intro cc; clear_value cc) | lift_lets | dsimp only))

theorem openFdp_keeps (n role part : Nat) (digest : BitVec 384) (ip : BitVec 128) (udp : BitVec 16) (c : Chip)  (hok_c : Ok F c) : Ok F (openFdp n role part digest ip udp c) := by
  unfold openFdp
  repeat' ((with_reducible
      first
        | assumption | apply setFdp_keeps | apply OkP_of | simp only [↓Ok_mk] | dsimp only))

theorem sessionsFull_keeps (ip : BitVec 128) (udp : BitVec 16) (c : Chip)  (hok_c : Ok F c) : Ok F (sessionsFull ip udp c) := by
  unfold sessionsFull
  repeat' ((with_reducible
      first
        | assumption | apply send_keeps | apply emit_keeps | apply frameSent_keeps
        | (intro cc; refine_lift have hcc : Ok F cc := ?_; ?_; subst cc; rotate_left; clear_value cc)
        | (intro cc; clear_value cc) | lift_lets | dsimp only))

theorem openRole_keeps (n : Nat) (ip : BitVec 128) (udp : BitVec 16) (d : BitVec 384) (role : Option (Nat × Nat)) (c : Chip)  (hok_c : Ok F c) : Ok F (openRole n ip udp d role c) := by
  unfold openRole
  repeat' ((with_reducible
      first
        | assumption | apply handshakeFail_keeps | apply openFdp_keeps | apply OkP_of | split | simp only [↓Ok_mk]
        | dsimp only))

theorem shakeDone_keeps (ip : BitVec 128) (udp : BitVec 16) (r : Shake) (free : Option Nat) (c : Chip)  (hok_c : Ok F c) : Ok F (shakeDone ip udp r free c) := by
  unfold shakeDone
  repeat' ((with_reducible
      first
        | assumption | apply handshakeFail_keeps | apply openFdp_keeps | apply sessionsFull_keeps
        | apply openRole_keeps | apply OkP_of | split | simp only [↓Ok_mk] | dsimp only))

theorem dtlsHandshake_keeps (ip : BitVec 128) (udp : BitVec 16) (r : Shake) (c : Chip)  (hok_c : Ok F c) : Ok F (dtlsHandshake ip udp r c) := by
  unfold dtlsHandshake
  repeat' ((with_reducible
      first
        | assumption | apply shakeDone_keeps | apply OkP_of | split | simp only [↓Ok_mk] | dsimp only))

theorem sessionIdle_keeps (s : Nat) (c : Chip)  (hok_c : Ok F c) : Ok F (sessionIdle s c) := by
  unfold sessionIdle
  repeat' ((with_reducible
      first
        | assumption | apply endSession_keeps | split | dsimp only))

theorem dtlsRetransmit_keeps (c : Chip)  (hok_c : Ok F c) : Ok F (dtlsRetransmit c) := by
  unfold dtlsRetransmit
  repeat' ((with_reducible
      first
        | assumption | apply send_keeps | apply frameSent_keeps
        | (intro cc; refine_lift have hcc : Ok F cc := ?_; ?_; subst cc; rotate_left; clear_value cc)
        | (intro cc; clear_value cc) | apply OkP_of | split | simp only [↓Ok_mk] | lift_lets | dsimp only))

theorem fieldLink_keeps (p : Nat) (up : Bool) (c : Chip)  (hok_c : Ok F c) : Ok F (fieldLink p up c) := by
  unfold fieldLink
  repeat' ((with_reducible
      first
        | assumption | (intro cc; refine_lift have hcc : Ok F cc := ?_; ?_; subst cc; rotate_left; clear_value cc)
        | (intro cc; clear_value cc) | apply OkP_of | split | simp only [↓Ok_mk] | lift_lets | dsimp only))

theorem neighbour_keeps (p : Nat) (target src : BitVec 128) (c : Chip)  (hok_c : Ok F c) : Ok F (neighbour p target src c) := by
  unfold neighbour
  repeat' ((with_reducible
      first
        | assumption | apply send_keeps
        | (intro cc; refine_lift have hcc : Ok F cc := ?_; ?_; subst cc; rotate_left; clear_value cc)
        | (intro cc; clear_value cc) | split | lift_lets | dsimp only))

theorem mbxDoorbell_keeps (c : Chip)  (hok_c : Ok F c) : Ok F (mbxDoorbell c) := by
  unfold mbxDoorbell
  repeat' ((with_reducible
      first
        | assumption | apply answer_keeps | apply answerHeader_keeps
        | (intro cc; refine_lift have hcc : Ok F cc := ?_; ?_; subst cc; rotate_left; clear_value cc)
        | (intro cc; clear_value cc) | apply OkP_of | split | simp only [↓Ok_mk] | lift_lets | dsimp only))

theorem mbxAbort_keeps (c : Chip)  (hok_c : Ok F c) : Ok F (mbxAbort c) := by
  unfold mbxAbort
  repeat' ((with_reducible
      first
        | assumption | apply OkP_of | split | simp only [↓Ok_mk] | dsimp only))

theorem mbxRespond_keeps (c : Chip)  (hok_c : Ok F c) : Ok F (mbxRespond c) := by
  unfold mbxRespond
  repeat' ((with_reducible
      first
        | assumption | apply send_keeps | apply answer_keeps
        | (intro cc; refine_lift have hcc : Ok F cc := ?_; ?_; subst cc; rotate_left; clear_value cc)
        | (intro cc; clear_value cc) | apply OkP_of | split | simp only [↓Ok_mk] | lift_lets | dsimp only))

end Sys2Proof.Machine
end

