-- ==== Sys2Proof/Laws/KeepHostPort.lean ====
section
/-! SUPPORT. Every operation of Machine/HostPort.lean keeps `Ok`. -/
set_option linter.all false
namespace Sys2Proof.Machine
variable {F : Fuse}

theorem windowFault_keeps (v w kind off : Nat) (c : Chip)  (hok_c : Ok F c) : Ok F (windowFault v w kind off c) := by
  unfold windowFault
  repeat' ((with_reducible
      first
        | assumption | apply emit_keeps
        | (intro cc; refine_lift have hcc : Ok F cc := ?_; ?_; subst cc; rotate_left; clear_value cc)
        | (intro cc; clear_value cc) | apply OkP_of | apply Ok_tput | apply Ok_found | simp only [↓Ok_mk] | lift_lets
        | dsimp only))

theorem vfDoorbell_keeps (v val : Nat) (c : Chip)  (hok_c : Ok F c) : Ok F (vfDoorbell v val c) := by
  unfold vfDoorbell
  repeat' ((with_reducible
      first
        | assumption | apply setBlaze_keeps | apply windowFault_keeps
        | (intro cc; refine_lift have hcc : Ok F cc := ?_; ?_; subst cc; rotate_left; clear_value cc)
        | (intro cc; clear_value cc) | apply OkP_of | split | simp only [↓Ok_mk] | lift_lets | dsimp only))

theorem hostRead_keeps (v off n : Nat) (ecc : Ecc) (c : Chip)  (hok_c : Ok F c) : Ok F (hostRead v off n ecc c) := by
  unfold hostRead
  repeat' ((with_reducible
      first
        | assumption | apply send_keeps | apply applyEcc_keeps | apply countViolation_keeps | apply windowFault_keeps
        | (intro cc; refine_lift have hcc : Ok F cc := ?_; ?_; subst cc; rotate_left; clear_value cc)
        | (intro cc; clear_value cc) | apply OkP_of | split | simp only [↓Ok_mk] | lift_lets | dsimp only))

theorem hostWrite_keeps (v off : Nat) (bs : Bytes) (ecc : Ecc) (c : Chip)  (hok_c : Ok F c) : Ok F (hostWrite v off bs ecc c) := by
  unfold hostWrite
  repeat' ((with_reducible
      first
        | assumption | apply memWrite_keeps | apply eccStore_keeps | apply countViolation_keeps
        | apply windowFault_keeps | apply OkP_of | split | simp only [↓Ok_mk] | dsimp only))

theorem pcieLink_keeps (link speed width : Nat) (c : Chip)  (hok_c : Ok F c) : Ok F (pcieLink link speed width c) := by
  unfold pcieLink
  repeat' ((with_reducible
      first
        | assumption | (intro cc; refine_lift have hcc : Ok F cc := ?_; ?_; subst cc; rotate_left; clear_value cc)
        | (intro cc; clear_value cc) | apply OkP_of | split | simp only [↓Ok_mk] | lift_lets | dsimp only))

theorem perst_keeps (link : Nat) (low : Bool) (c : Chip)  (hok_c : Ok F c) : Ok F (perst link low c) := by
  unfold perst
  repeat' ((with_reducible
      first
        | assumption | (intro cc; refine_lift have hcc : Ok F cc := ?_; ?_; subst cc; rotate_left; clear_value cc)
        | (intro cc; clear_value cc) | apply OkP_of | apply forSpan_keeps | split | intro _ | simp only [↓Ok_mk]
        | lift_lets | dsimp only))

theorem ideKeyed_keeps (stream : Nat) (c : Chip)  (hok_c : Ok F c) : Ok F (ideKeyed stream c) := by
  unfold ideKeyed
  repeat' ((with_reducible
      first
        | assumption | apply send_keeps | apply drawBytes_keeps
        | (intro cc; refine_lift have hcc : Ok F cc := ?_; ?_; subst cc; rotate_left; clear_value cc)
        | (intro cc; refine_lift have hcc : Ok F cc.2 := ?_; ?_; subst cc; rotate_left; clear_value cc)
        | (intro cc; clear_value cc) | apply OkP_of | split | (refine of_eq2 (by assumption) ?_) | simp only [↓Ok_mk]
        | lift_lets | dsimp only))

end Sys2Proof.Machine
end

