-- ==== Sys2Proof/Laws/KeepRegs.lean ====
section
/-! SUPPORT. Every operation of Machine/Regs.lean keeps `Ok`. -/
set_option linter.all false
namespace Sys2Proof.Machine
variable {F : Fuse}

theorem writeArith_keeps (g off v hw : Nat) (c : Chip)  (hok_c : Ok F c) : Ok F (writeArith g off v hw c) := by
  unfold writeArith
  repeat' ((with_reducible
      first
        | assumption | apply modGrove_keeps | apply OkP_of | split | simp only [↓Ok_mk] | dsimp only))

theorem writePair_keeps (off v hw : Nat) (c : Chip)  (hok_c : Ok F c) : Ok F (writePair off v hw c) := by
  unfold writePair
  repeat' ((with_reducible
      first
        | assumption | apply modPair_keeps | apply OkP_of | split | simp only [↓Ok_mk] | dsimp only))

theorem writeWarden_keeps (off v hw : Nat) (c : Chip)  (hok_c : Ok F c) : Ok F (writeWarden off v hw c) := by
  unfold writeWarden
  repeat' ((with_reducible
      first
        | assumption | apply OkP_of | split | simp only [↓Ok_mk] | dsimp only))

theorem writeCounter_keeps (n off v : Nat) (c : Chip)  (hok_c : Ok F c) : Ok F (writeCounter n off v c) := by
  unfold writeCounter
  repeat' ((with_reducible
      first
        | assumption | apply setObj_keeps | apply OkP_of | split | simp only [↓Ok_mk] | dsimp only))

theorem writeCounterStatus_keeps (v hw : Nat) (c : Chip)  (hok_c : Ok F c) : Ok F (writeCounterStatus v hw c) := by
  unfold writeCounterStatus
  repeat' ((with_reducible
      first
        | assumption | apply OkP_of | simp only [↓Ok_mk] | dsimp only))

theorem writeMailbox_keeps (off v hw : Nat) (c : Chip)  (hok_c : Ok F c) : Ok F (writeMailbox off v hw c) := by
  unfold writeMailbox
  repeat' ((with_reducible
      first
        | assumption | apply mbxDoorbell_keeps | apply mbxAbort_keeps
        | (intro cc; refine_lift have hcc : Ok F cc := ?_; ?_; subst cc; rotate_left; clear_value cc)
        | (intro cc; clear_value cc) | apply OkP_of | split | simp only [↓Ok_mk] | lift_lets | dsimp only))

theorem unmasked_keeps (v k : Nat) (c : Chip)  (hok_c : Ok F c) : Ok F (unmasked v k c) := by
  unfold unmasked
  repeat' ((with_reducible
      first
        | assumption | apply send_keeps | apply OkP_of | apply Ok_tput | apply Ok_found | split | simp only [↓Ok_mk]
        | dsimp only))

theorem writeVf_keeps (v off w hw : Nat) (c : Chip)  (hok_c : Ok F c) : Ok F (writeVf v off w hw c) := by
  unfold writeVf
  repeat' ((with_reducible
      first
        | assumption | apply vfDoorbell_keeps | apply unmasked_keeps
        | (intro cc; refine_lift have hcc : Ok F cc := ?_; ?_; subst cc; rotate_left; clear_value cc)
        | (intro cc; clear_value cc) | apply OkP_of | apply Ok_tput | apply Ok_found | split | simp only [↓Ok_mk]
        | lift_lets | dsimp only))

theorem regWrite_keeps (b : RegBlock) (off v hw : Nat) (c : Chip)  (hok_c : Ok F c) : Ok F (regWrite b off v hw c) := by
  unfold regWrite
  repeat' ((with_reducible
      first
        | assumption | apply writeArith_keeps | apply writePair_keeps | apply writeWarden_keeps
        | apply writeCounter_keeps | apply writeCounterStatus_keeps | apply writeMailbox_keeps | apply writeVf_keeps
        | apply warden_keeps | apply OkP_of | split | simp only [↓Ok_mk] | dsimp only))

theorem regLoad_keeps (a n : Nat) (c : Chip)  (hok_c : Ok F c) : Ok F (regLoad a n c).2 := by
  unfold regLoad
  repeat' ((with_reducible
      first
        | assumption | apply advanceCtr_keeps
        | (intro cc; refine_lift have hcc : Ok F cc := ?_; ?_; subst cc; rotate_left; clear_value cc)
        | (intro cc; clear_value cc) | apply OkP_of | split | simp only [↓Ok_mk] | lift_lets | dsimp only))

theorem putCounter_keeps (n a : Nat) (bs : Bytes) (at_ off old : Nat) (c : Chip)  (hok_c : Ok F c) : Ok F (putCounter n a bs at_ off old c) := by
  unfold putCounter
  repeat' ((with_reducible
      first
        | assumption | apply writeCounter_keeps | split | dsimp only))

theorem putReg_keeps (a : Nat) (bs : Bytes) (w : Nat) (at_ : Option (RegBlock × Nat)) (c : Chip)  (hok_c : Ok F c) : Ok F (putReg a bs w at_ c) := by
  unfold putReg
  repeat' ((with_reducible
      first
        | assumption | apply regWrite_keeps
        | (intro cc; refine_lift have hcc : Ok F cc := ?_; ?_; subst cc; rotate_left; clear_value cc)
        | (intro cc; clear_value cc) | apply OkP_of | split | simp only [↓Ok_mk] | lift_lets | dsimp only))

theorem storeAt_keeps (at_ : Option (RegBlock × Nat)) (a : Nat) (bs : Bytes) (c : Chip)  (hok_c : Ok F c) : Ok F (storeAt at_ a bs c) := by
  unfold storeAt
  repeat' ((with_reducible
      first
        | assumption | apply putCounter_keeps | apply putReg_keeps
        | (intro cc; refine_lift have hcc : Ok F cc := ?_; ?_; subst cc; rotate_left; clear_value cc)
        | (intro cc; clear_value cc) | apply OkP_of | apply foldl_keeps | split | intro _ | simp only [↓Ok_mk]
        | lift_lets | dsimp only))

theorem regStore_keeps (a : Nat) (bs : Bytes) (c : Chip)  (hok_c : Ok F c) : Ok F (regStore a bs c) := by
  unfold regStore
  repeat' ((with_reducible
      first
        | assumption | apply storeAt_keeps | dsimp only))

end Sys2Proof.Machine
end

