-- ==== Sys2Proof/Laws/KeepHart.lean ====
section
/-! SUPPORT. Every operation of Machine/Hart.lean keeps `Ok`. -/
set_option linter.all false
namespace Sys2Proof.Machine
variable {F : Fuse}

theorem misaligned_keeps (t : Nat) (k : Acc) (va : Nat) (c : Chip)  (hok_c : Ok F c) : Ok F (misaligned t k va c) := by
  unfold misaligned
  repeat' ((with_reducible
      first
        | assumption | apply takeTrap_keeps | apply OkP_of | split | simp only [↓Ok_mk] | dsimp only))

theorem illegal_keeps (t insn : Nat) (c : Chip)  (hok_c : Ok F c) : Ok F (illegal t insn c) := by
  unfold illegal
  repeat' ((with_reducible
      first
        | assumption | apply takeTrap_keeps | dsimp only))

theorem reach_keeps (t : Nat) (k : Acc) (va n : Nat) (c : Chip)  (hok_c : Ok F c) : Ok F (reach t k va n c).1 := by
  unfold reach
  repeat' ((with_reducible
      first
        | assumption | apply xlateRange_keeps
        | (intro cc; refine_lift have hcc : Ok F cc := ?_; ?_; subst cc; rotate_left; clear_value cc)
        | (intro cc; refine_lift have hcc : Ok F cc.1 := ?_; ?_; subst cc; rotate_left; clear_value cc)
        | (intro cc; clear_value cc) | apply OkP_of | split | (refine of_eq1 (by assumption) ?_) | simp only [↓Ok_mk]
        | lift_lets | dsimp only))

theorem readHere_keeps (t : Nat) (ss : List Seg) (n : Nat) (ecc : Ecc) (c : Chip)  (hok_c : Ok F c) : Ok F (readHere t ss n ecc c).1 := by
  unfold readHere
  repeat' ((with_reducible
      first
        | assumption | apply applyEcc_keeps | apply regLoad_keeps
        | (intro cc; refine_lift have hcc : Ok F cc := ?_; ?_; subst cc; rotate_left; clear_value cc)
        | (intro cc; refine_lift have hcc : Ok F cc.2 := ?_; ?_; subst cc; rotate_left; clear_value cc)
        | (intro cc; clear_value cc) | apply OkP_of | apply foldl_keeps | split | (refine of_eq1 (by assumption) ?_)
        | (refine of_eq2 (by assumption) ?_) | intro _ | simp only [↓Ok_mk] | lift_lets | dsimp only))

theorem threadReq_keeps (t op len addr : Nat) (kind : ReqKind) (body : Bytes) (before : Nat → Chip → Chip) (c : Chip)  (h_before : ∀ x0 x1, Ok F x1 → Ok F (before x0 x1)) (hok_c : Ok F c) : Ok F (threadReq t op len addr kind body before c) := by
  unfold threadReq
  repeat' ((with_reducible
      first
        | assumption | apply sendTo_keeps | apply h_before | apply OkP_of | split | (refine of_eq2 (by assumption) ?_)
        | intro _ | simp only [↓Ok_mk] | dsimp only))

theorem loadInsn_keeps (t rd va size : Nat) (uns fp : Bool) (len : Nat) (ecc : Ecc) (c : Chip)  (hok_c : Ok F c) : Ok F (loadInsn t rd va size uns fp len ecc c) := by
  unfold loadInsn
  repeat' (first
    | (with_reducible
      first
        | assumption | apply modHart_keeps | apply settleMem_keeps | apply memTrap_keeps | apply reach_keeps
        | apply readHere_keeps | apply threadReq_keeps
        | (intro cc; refine_lift have hcc : Ok F cc := ?_; ?_; subst cc; rotate_left; clear_value cc)
        | (intro cc; refine_lift have hcc : Ok F cc.2 := ?_; ?_; subst cc; rotate_left; clear_value cc)
        | (intro cc; refine_lift have hcc : Ok F cc.2.2 := ?_; ?_; subst cc; rotate_left; clear_value cc)
        | (intro cc; refine_lift have hcc : Ok F cc.2.2.2 := ?_; ?_; subst cc; rotate_left; clear_value cc)
        | (intro cc; refine_lift have hcc : Ok F cc.1 := ?_; ?_; subst cc; rotate_left; clear_value cc)
        | (intro cc; clear_value cc) | apply OkP_of | apply OkP_state | apply Ok_tput | apply Ok_found
        | apply foldl_keeps | apply foldl_keeps1 | apply foldl_keeps2 | apply forSpan_keeps | split
        | (refine of_eq1 (by assumption) ?_) | (refine of_eq2 (by assumption) ?_) | (refine of_eq3 (by assumption) ?_)
        | (refine of_eq4 (by assumption) ?_) | intro _ | simp only [↓Ok_mk] | lift_lets | dsimp only)
    | (with_reducible show _ ≤ (9 : Nat); decide))

theorem storeInsn_keeps (t va size : Nat) (v : Word) (len : Nat) (ecc : Ecc) (c : Chip)  (hok_c : Ok F c) : Ok F (storeInsn t va size v len ecc c) := by
  unfold storeInsn
  repeat' ((with_reducible
      first
        | assumption | apply modHart_keeps | apply eccStore_keeps | apply writeSegs_keeps | apply settleMem_keeps
        | apply settle_keeps | apply memTrap_keeps | apply regStore_keeps | apply reach_keeps | apply threadReq_keeps
        | (intro cc; refine_lift have hcc : Ok F cc := ?_; ?_; subst cc; rotate_left; clear_value cc)
        | (intro cc; refine_lift have hcc : Ok F cc.1 := ?_; ?_; subst cc; rotate_left; clear_value cc)
        | (intro cc; clear_value cc) | apply OkP_of | apply foldl_keeps | split | (refine of_eq1 (by assumption) ?_)
        | intro _ | simp only [↓Ok_mk] | lift_lets | dsimp only))

theorem amoInsn_keeps (t rd rs1 rs2 f5 : Nat) (dbl : Bool) (ecc : Ecc) (c : Chip)  (hok_c : Ok F c) : Ok F (amoInsn t rd rs1 rs2 f5 dbl ecc c) := by
  unfold amoInsn
  repeat' (first
    | (with_reducible
      first
        | assumption | apply modHart_keeps | apply writeSegs_keeps | apply settleMem_keeps | apply settle_keeps
        | apply memTrap_keeps | apply regStore_keeps | apply misaligned_keeps | apply illegal_keeps
        | apply reach_keeps | apply readHere_keeps | apply threadReq_keeps
        | (intro cc; refine_lift have hcc : Ok F cc := ?_; ?_; subst cc; rotate_left; clear_value cc)
        | (intro cc; refine_lift have hcc : Ok F cc.2 := ?_; ?_; subst cc; rotate_left; clear_value cc)
        | (intro cc; refine_lift have hcc : Ok F cc.2.2 := ?_; ?_; subst cc; rotate_left; clear_value cc)
        | (intro cc; refine_lift have hcc : Ok F cc.2.2.2 := ?_; ?_; subst cc; rotate_left; clear_value cc)
        | (intro cc; refine_lift have hcc : Ok F cc.1 := ?_; ?_; subst cc; rotate_left; clear_value cc)
        | (intro cc; clear_value cc) | apply OkP_of | apply OkP_state | apply Ok_tput | apply Ok_found
        | apply foldl_keeps | apply foldl_keeps1 | apply foldl_keeps2 | apply forSpan_keeps | split
        | (refine of_eq1 (by assumption) ?_) | (refine of_eq2 (by assumption) ?_) | (refine of_eq3 (by assumption) ?_)
        | (refine of_eq4 (by assumption) ?_) | intro _ | simp only [↓Ok_mk] | lift_lets | dsimp only)
    | (with_reducible show _ ≤ (9 : Nat); decide))

theorem lrScInsn_keeps (t rd rs1 rs2 : Nat) (sc dbl : Bool) (ecc : Ecc) (c : Chip)  (hok_c : Ok F c) : Ok F (lrScInsn t rd rs1 rs2 sc dbl ecc c) := by
  unfold lrScInsn
  repeat' ((with_reducible
      first
        | assumption | apply modHart_keeps | apply eccStore_keeps | apply writeSegs_keeps | apply settleMem_keeps
        | apply memTrap_keeps | apply misaligned_keeps | apply reach_keeps | apply readHere_keeps
        | (intro cc; refine_lift have hcc : Ok F cc := ?_; ?_; subst cc; rotate_left; clear_value cc)
        | (intro cc; refine_lift have hcc : Ok F cc.1 := ?_; ?_; subst cc; rotate_left; clear_value cc)
        | (intro cc; clear_value cc) | apply OkP_of | split | (refine of_eq1 (by assumption) ?_) | simp only [↓Ok_mk]
        | lift_lets | dsimp only))

theorem fenceInsn_keeps (t pred : Nat) (c : Chip)  (hok_c : Ok F c) : Ok F (fenceInsn t pred c) := by
  unfold fenceInsn
  repeat' ((with_reducible
      first
        | assumption | apply modHart_keeps | apply OkP_of | split | simp only [↓Ok_mk] | dsimp only))

theorem sfenceInsn_keeps (t rs1 rs2 insn : Nat) (c : Chip)  (hok_c : Ok F c) : Ok F (sfenceInsn t rs1 rs2 insn c) := by
  unfold sfenceInsn
  repeat' ((with_reducible
      first
        | assumption | apply modHart_keeps | apply modGrove_keeps | apply illegal_keeps
        | (intro cc; refine_lift have hcc : Ok F cc := ?_; ?_; subst cc; rotate_left; clear_value cc)
        | (intro cc; clear_value cc) | apply OkP_of | split | simp only [↓Ok_mk] | lift_lets | dsimp only))

theorem fetchInsn_keeps (t n : Nat) (ecc : Ecc) (c : Chip)  (hok_c : Ok F c) : Ok F (fetchInsn t n ecc c) := by
  unfold fetchInsn
  repeat' (first
    | (with_reducible
      first
        | assumption | apply modHart_keeps | apply settleMem_keeps | apply memTrap_keeps | apply reach_keeps
        | apply readHere_keeps | apply threadReq_keeps
        | (intro cc; refine_lift have hcc : Ok F cc := ?_; ?_; subst cc; rotate_left; clear_value cc)
        | (intro cc; refine_lift have hcc : Ok F cc.2 := ?_; ?_; subst cc; rotate_left; clear_value cc)
        | (intro cc; refine_lift have hcc : Ok F cc.2.2 := ?_; ?_; subst cc; rotate_left; clear_value cc)
        | (intro cc; refine_lift have hcc : Ok F cc.2.2.2 := ?_; ?_; subst cc; rotate_left; clear_value cc)
        | (intro cc; refine_lift have hcc : Ok F cc.1 := ?_; ?_; subst cc; rotate_left; clear_value cc)
        | (intro cc; clear_value cc) | apply OkP_of | apply OkP_state | apply Ok_tput | apply Ok_found
        | apply foldl_keeps | apply foldl_keeps1 | apply foldl_keeps2 | apply forSpan_keeps | split
        | (refine of_eq1 (by assumption) ?_) | (refine of_eq2 (by assumption) ?_) | (refine of_eq3 (by assumption) ?_)
        | (refine of_eq4 (by assumption) ?_) | intro _ | simp only [↓Ok_mk] | lift_lets | dsimp only)
    | (with_reducible show _ ≤ (9 : Nat); decide))

theorem csrInsn_keeps (t csr : Nat) (op : CsrOp) (rd src insn : Nat) (c : Chip)  (hok_c : Ok F c) : Ok F (csrInsn t csr op rd src insn c) := by
  unfold csrInsn
  repeat' ((with_reducible
      first
        | assumption | apply modHart_keeps | apply illegal_keeps
        | (intro cc; refine_lift have hcc : Ok F cc := ?_; ?_; subst cc; rotate_left; clear_value cc)
        | (intro cc; clear_value cc) | apply OkP_of | split | simp only [↓Ok_mk] | lift_lets | dsimp only))

end Sys2Proof.Machine
end

