-- ==== Sys2Proof/Laws/KeepLinkCmd.lean ====
section
/-! SUPPORT. Every operation of Machine/LinkCmd.lean keeps `Ok`. -/
set_option linter.all false
namespace Sys2Proof.Machine
variable {F : Fuse}

theorem loseLock_keeps (p : Nat) (c : Chip)  (hok_c : Ok F c) : Ok F (loseLock p c) := by
  unfold loseLock
  repeat' ((with_reducible
      first
        | assumption | apply modPort_keeps | apply leaveUp_keeps | apply OkP_of | simp only [↓Ok_mk] | dsimp only))

theorem seekLock_keeps (p : Nat) (cand ok : Bool) (c : Chip)  (hok_c : Ok F c) : Ok F (seekLock p cand ok c) := by
  unfold seekLock
  repeat' ((with_reducible
      first
        | assumption | apply bump_keeps | apply setPort_keeps
        | (intro cc; refine_lift have hcc : Ok F cc := ?_; ?_; subst cc; rotate_left; clear_value cc)
        | (intro cc; clear_value cc) | apply OkP_of | split | simp only [↓Ok_mk] | lift_lets | dsimp only))

theorem holdLock_keeps (p : Nat) (cand ok : Bool) (c : Chip)  (hok_c : Ok F c) : Ok F (holdLock p cand ok c) := by
  unfold holdLock
  repeat' ((with_reducible
      first
        | assumption | apply setPort_keeps | apply loseLock_keeps
        | (intro cc; refine_lift have hcc : Ok F cc := ?_; ?_; subst cc; rotate_left; clear_value cc)
        | (intro cc; clear_value cc) | apply OkP_of | split | simp only [↓Ok_mk] | lift_lets | dsimp only))

theorem takeBlocks_keeps (p : Nat) (a0 : List (Bool × BitVec 256)) (a1 : Chip) (hok_a1 : Ok F a1) : Ok F (takeBlocks p a0 a1) := by
  induction a0 generalizing a1 with
  | nil =>
    unfold takeBlocks
    repeat' ((with_reducible
        first
          | assumption | apply setPort_keeps | apply discardFlit_keeps | apply ih
          | (intro cc; refine_lift have hcc : Ok F cc := ?_; ?_; subst cc; rotate_left; clear_value cc)
          | (intro cc; clear_value cc) | apply OkP_of | split | simp only [↓Ok_mk] | lift_lets | dsimp only))
  | cons y l ih =>
    unfold takeBlocks
    repeat' ((with_reducible
        first
          | assumption | apply setPort_keeps | apply discardFlit_keeps | apply ih
          | (intro cc; refine_lift have hcc : Ok F cc := ?_; ?_; subst cc; rotate_left; clear_value cc)
          | (intro cc; clear_value cc) | apply OkP_of | split | simp only [↓Ok_mk] | lift_lets | dsimp only))

theorem codewordIn_keeps (p : Nat) (bs : List Block) (symErrors : Nat) (c : Chip)  (hok_c : Ok F c) : Ok F (codewordIn p bs symErrors c) := by
  unfold codewordIn
  repeat' (first
    | (with_reducible
      first
        | assumption | apply bump_keeps | apply seekLock_keeps | apply holdLock_keeps | apply takeBlocks_keeps
        | (intro cc; refine_lift have hcc : Ok F cc := ?_; ?_; subst cc; rotate_left; clear_value cc)
        | (intro cc; refine_lift have hcc : Ok F cc.2 := ?_; ?_; subst cc; rotate_left; clear_value cc)
        | (intro cc; refine_lift have hcc : Ok F cc.2.2 := ?_; ?_; subst cc; rotate_left; clear_value cc)
        | (intro cc; refine_lift have hcc : Ok F cc.2.2.2 := ?_; ?_; subst cc; rotate_left; clear_value cc)
        | (intro cc; refine_lift have hcc : Ok F cc.1 := ?_; ?_; subst cc; rotate_left; clear_value cc)
        | (intro cc; clear_value cc) | apply OkP_of | apply OkP_state | apply Ok_tput | apply Ok_found
        | apply foldl_keeps | apply foldl_keeps1 | apply foldl_keeps2 | apply forSpan_keeps | split
        | (refine of_eq1 (by assumption) ?_) | (refine of_eq2 (by assumption) ?_) | (refine of_eq3 (by assumption) ?_)
        | (refine of_eq4 (by assumption) ?_) | intro _ | simp only [↓Ok_mk] | lift_lets | dsimp only)
    | (with_reducible show _ ≤ (9 : Nat); decide))

theorem flitIn_keeps (p kind : Nat) (f : BitVec 2048) (g : Chip → Chip) (c : Chip)  (h_g : ∀ x0, Ok F x0 → Ok F (g x0)) (hok_c : Ok F c) : Ok F (flitIn p kind f g c) := by
  unfold flitIn
  repeat' (first
    | (with_reducible
      first
        | assumption | apply flitAck_keeps | apply takeFlit_keeps | apply discardFlit_keeps | apply h_g
        | (intro cc; refine_lift have hcc : Ok F cc := ?_; ?_; subst cc; rotate_left; clear_value cc)
        | (intro cc; refine_lift have hcc : Ok F cc.2 := ?_; ?_; subst cc; rotate_left; clear_value cc)
        | (intro cc; refine_lift have hcc : Ok F cc.2.2 := ?_; ?_; subst cc; rotate_left; clear_value cc)
        | (intro cc; refine_lift have hcc : Ok F cc.2.2.2 := ?_; ?_; subst cc; rotate_left; clear_value cc)
        | (intro cc; refine_lift have hcc : Ok F cc.1 := ?_; ?_; subst cc; rotate_left; clear_value cc)
        | (intro cc; clear_value cc) | apply OkP_of | apply OkP_state | apply Ok_tput | apply Ok_found
        | apply foldl_keeps | apply foldl_keeps1 | apply foldl_keeps2 | apply forSpan_keeps | split
        | (refine of_eq1 (by assumption) ?_) | (refine of_eq2 (by assumption) ?_) | (refine of_eq3 (by assumption) ?_)
        | (refine of_eq4 (by assumption) ?_) | intro _ | simp only [↓Ok_mk] | lift_lets | dsimp only)
    | (with_reducible show _ ≤ (9 : Nat); decide))

theorem dataFlit_keeps (p : Nat) (f : BitVec 2048) (c : Chip)  (hok_c : Ok F c) : Ok F (dataFlit p f c) := by
  unfold dataFlit
  repeat' ((with_reducible
      first
        | assumption | apply setPort_keeps | apply sendPlain_keeps | apply countFlits_keeps | apply askReplay_keeps
        | (intro cc; refine_lift have hcc : Ok F cc := ?_; ?_; subst cc; rotate_left; clear_value cc)
        | (intro cc; clear_value cc) | apply OkP_of | split | simp only [↓Ok_mk] | lift_lets | dsimp only))

theorem creditFlit_keeps (p : Nat) (f : BitVec 2048) (c : Chip)  (hok_c : Ok F c) : Ok F (creditFlit p f c) := by
  unfold creditFlit
  repeat' ((with_reducible
      first
        | assumption | apply modPort_keeps
        | (intro cc; refine_lift have hcc : Ok F cc := ?_; ?_; subst cc; rotate_left; clear_value cc)
        | (intro cc; clear_value cc) | apply OkP_of | apply forSpan_keeps | intro _ | simp only [↓Ok_mk] | lift_lets
        | dsimp only))

theorem sendTrain_keeps (p : Nat) (c : Chip)  (hok_c : Ok F c) : Ok F (sendTrain p c) := by
  unfold sendTrain
  repeat' ((with_reducible
      first
        | assumption | apply sendPlain_keeps | dsimp only))

theorem endSess_keeps (peer : Nat) (inc : Word) (c : Chip)  (hok_c : Ok F c) : Ok F (endSess peer inc c) := by
  unfold endSess
  repeat' ((with_reducible
      first
        | assumption | apply setSess_keeps | apply OkP_of | split | simp only [↓Ok_mk] | dsimp only))

theorem enterUp_keeps (p : Nat) (b : Bytes) (c : Chip)  (hok_c : Ok F c) : Ok F (enterUp p b c) := by
  unfold enterUp
  repeat' ((with_reducible
      first
        | assumption | apply emit_keeps | apply setPort_keeps | apply flushAll_keeps | apply endSess_keeps
        | (intro cc; refine_lift have hcc : Ok F cc := ?_; ?_; subst cc; rotate_left; clear_value cc)
        | (intro cc; clear_value cc) | apply OkP_of | split | simp only [↓Ok_mk] | lift_lets | dsimp only))

theorem trainFlit_keeps (p : Nat) (f : BitVec 2048) (c : Chip)  (hok_c : Ok F c) : Ok F (trainFlit p f c) := by
  unfold trainFlit
  repeat' ((with_reducible
      first
        | assumption | apply setPort_keeps | apply takeFlit_keeps | apply discardFlit_keeps | apply sendTrain_keeps
        | apply enterUp_keeps
        | (intro cc; refine_lift have hcc : Ok F cc := ?_; ?_; subst cc; rotate_left; clear_value cc)
        | (intro cc; clear_value cc) | apply OkP_of | split | simp only [↓Ok_mk] | lift_lets | dsimp only))

theorem remoteId_keeps (m : Msg) (c : Chip)  (hok_c : Ok F c) : Ok F (remoteId m c).2 := by
  unfold remoteId
  repeat' ((with_reducible
      first
        | assumption | apply drawFree_keeps
        | (intro cc; refine_lift have hcc : Ok F cc := ?_; ?_; subst cc; rotate_left; clear_value cc)
        | (intro cc; refine_lift have hcc : Ok F cc.2 := ?_; ?_; subst cc; rotate_left; clear_value cc)
        | (intro cc; clear_value cc) | split | (refine of_eq2 (by assumption) ?_) | lift_lets | dsimp only))

theorem performSet_keeps (m : Msg) (c : Chip)  (hok_c : Ok F c) : Ok F (performSet m c) := by
  unfold performSet
  repeat' ((with_reducible
      first
        | assumption | apply bump_keeps | apply setBlaze_keeps | apply refuseSet_keeps | apply answer_keeps
        | apply remoteId_keeps
        | (intro cc; refine_lift have hcc : Ok F cc := ?_; ?_; subst cc; rotate_left; clear_value cc)
        | (intro cc; refine_lift have hcc : Ok F cc.2 := ?_; ?_; subst cc; rotate_left; clear_value cc)
        | (intro cc; clear_value cc) | split | (refine of_eq2 (by assumption) ?_) | lift_lets | dsimp only))

theorem applyHeld_keeps (c : Chip)  (hok_c : Ok F c) : Ok F (applyHeld c) := by
  unfold applyHeld
  repeat' ((with_reducible
      first
        | assumption | apply performSet_keeps
        | (intro cc; refine_lift have hcc : Ok F cc := ?_; ?_; subst cc; rotate_left; clear_value cc)
        | (intro cc; clear_value cc) | apply OkP_of | apply foldl_keeps | intro _ | simp only [↓Ok_mk] | lift_lets
        | dsimp only))

theorem setIn_keeps (p : Nat) (m : Msg) (c : Chip)  (hok_c : Ok F c) : Ok F (setIn p m c) := by
  unfold setIn
  repeat' ((with_reducible
      first
        | assumption | apply answer_keeps | apply takeMsg_keeps | apply noteCtr_keeps | apply checks123_keeps
        | apply check4_keeps | apply performSet_keeps
        | (intro cc; refine_lift have hcc : Ok F cc := ?_; ?_; subst cc; rotate_left; clear_value cc)
        | (intro cc; refine_lift have hcc : Ok F cc.2 := ?_; ?_; subst cc; rotate_left; clear_value cc)
        | (intro cc; clear_value cc) | apply OkP_of | split | (refine of_eq2 (by assumption) ?_) | simp only [↓Ok_mk]
        | lift_lets | dsimp only))

theorem setLost_keeps (k : Nat) (c : Chip)  (hok_c : Ok F c) : Ok F (setLost k c) := by
  unfold setLost
  repeat' ((with_reducible
      first
        | assumption | apply emit_keeps | apply answer_keeps
        | (intro cc; refine_lift have hcc : Ok F cc := ?_; ?_; subst cc; rotate_left; clear_value cc)
        | (intro cc; clear_value cc) | apply OkP_of | split | simp only [↓Ok_mk] | lift_lets | dsimp only))

theorem writeIn_keeps (p : Nat) (m : Msg) (ecc : Ecc) (c : Chip)  (hok_c : Ok F c) : Ok F (writeIn p m ecc c) := by
  unfold writeIn
  repeat' (first
    | (with_reducible
      first
        | assumption | apply eccStore_keeps | apply answer_keeps | apply arriveMem_keeps | apply writePoison_keeps
        | apply applyHeld_keeps
        | (intro cc; refine_lift have hcc : Ok F cc := ?_; ?_; subst cc; rotate_left; clear_value cc)
        | (intro cc; refine_lift have hcc : Ok F cc.2 := ?_; ?_; subst cc; rotate_left; clear_value cc)
        | (intro cc; refine_lift have hcc : Ok F cc.2.2 := ?_; ?_; subst cc; rotate_left; clear_value cc)
        | (intro cc; refine_lift have hcc : Ok F cc.2.2.2 := ?_; ?_; subst cc; rotate_left; clear_value cc)
        | (intro cc; refine_lift have hcc : Ok F cc.1 := ?_; ?_; subst cc; rotate_left; clear_value cc)
        | (intro cc; clear_value cc) | apply OkP_of | apply OkP_state | apply Ok_tput | apply Ok_found
        | apply foldl_keeps | apply foldl_keeps1 | apply foldl_keeps2 | apply forSpan_keeps | split
        | (refine of_eq1 (by assumption) ?_) | (refine of_eq2 (by assumption) ?_) | (refine of_eq3 (by assumption) ?_)
        | (refine of_eq4 (by assumption) ?_) | intro _ | simp only [↓Ok_mk] | lift_lets | dsimp only)
    | (with_reducible show _ ≤ (9 : Nat); decide))

theorem readIn_keeps (p : Nat) (m : Msg) (ecc : Ecc) (c : Chip)  (hok_c : Ok F c) : Ok F (readIn p m ecc c) := by
  unfold readIn
  repeat' (first
    | (with_reducible
      first
        | assumption | apply applyEcc_keeps | apply answer_keeps | apply arriveMem_keeps | apply applyHeld_keeps
        | (intro cc; refine_lift have hcc : Ok F cc := ?_; ?_; subst cc; rotate_left; clear_value cc)
        | (intro cc; refine_lift have hcc : Ok F cc.2 := ?_; ?_; subst cc; rotate_left; clear_value cc)
        | (intro cc; refine_lift have hcc : Ok F cc.2.2 := ?_; ?_; subst cc; rotate_left; clear_value cc)
        | (intro cc; refine_lift have hcc : Ok F cc.2.2.2 := ?_; ?_; subst cc; rotate_left; clear_value cc)
        | (intro cc; refine_lift have hcc : Ok F cc.1 := ?_; ?_; subst cc; rotate_left; clear_value cc)
        | (intro cc; clear_value cc) | apply OkP_of | apply OkP_state | apply Ok_tput | apply Ok_found
        | apply foldl_keeps | apply foldl_keeps1 | apply foldl_keeps2 | apply forSpan_keeps | split
        | (refine of_eq1 (by assumption) ?_) | (refine of_eq2 (by assumption) ?_) | (refine of_eq3 (by assumption) ?_)
        | (refine of_eq4 (by assumption) ?_) | intro _ | simp only [↓Ok_mk] | lift_lets | dsimp only)
    | (with_reducible show _ ≤ (9 : Nat); decide))

theorem atomicIn_keeps (p : Nat) (m : Msg) (ecc : Ecc) (c : Chip)  (hok_c : Ok F c) : Ok F (atomicIn p m ecc c) := by
  unfold atomicIn
  repeat' (first
    | (with_reducible
      first
        | assumption | apply memWrite_keeps | apply applyEcc_keeps | apply answer_keeps | apply arriveMem_keeps
        | apply applyHeld_keeps
        | (intro cc; refine_lift have hcc : Ok F cc := ?_; ?_; subst cc; rotate_left; clear_value cc)
        | (intro cc; refine_lift have hcc : Ok F cc.2 := ?_; ?_; subst cc; rotate_left; clear_value cc)
        | (intro cc; refine_lift have hcc : Ok F cc.2.2 := ?_; ?_; subst cc; rotate_left; clear_value cc)
        | (intro cc; refine_lift have hcc : Ok F cc.2.2.2 := ?_; ?_; subst cc; rotate_left; clear_value cc)
        | (intro cc; refine_lift have hcc : Ok F cc.1 := ?_; ?_; subst cc; rotate_left; clear_value cc)
        | (intro cc; clear_value cc) | apply OkP_of | apply OkP_state | apply Ok_tput | apply Ok_found
        | apply foldl_keeps | apply foldl_keeps1 | apply foldl_keeps2 | apply forSpan_keeps | split
        | (refine of_eq1 (by assumption) ?_) | (refine of_eq2 (by assumption) ?_) | (refine of_eq3 (by assumption) ?_)
        | (refine of_eq4 (by assumption) ?_) | intro _ | simp only [↓Ok_mk] | lift_lets | dsimp only)
    | (with_reducible show _ ≤ (9 : Nat); decide))

theorem setSegs_keeps (p src n : Nat) (c : Chip)  (hok_c : Ok F c) : Ok F (setSegs p src n c) := by
  unfold setSegs
  repeat' ((with_reducible
      first
        | assumption | (intro cc; refine_lift have hcc : Ok F cc := ?_; ?_; subst cc; rotate_left; clear_value cc)
        | (intro cc; clear_value cc) | apply OkP_of | split | simp only [↓Ok_mk] | lift_lets | dsimp only))

theorem breakPkt_keeps (p src : Nat) (o : OpenPkt) (c : Chip)  (hok_c : Ok F c) : Ok F (breakPkt p src o c) := by
  unfold breakPkt
  repeat' ((with_reducible
      first
        | assumption | apply emit_keeps | apply rewind_keeps | apply setSegs_keeps
        | (intro cc; refine_lift have hcc : Ok F cc := ?_; ?_; subst cc; rotate_left; clear_value cc)
        | (intro cc; clear_value cc) | lift_lets | dsimp only))

theorem portCommit_keeps (o : OpenPkt) (sent : Nat) (ws : List (Word × Bool)) (c : Chip)  (hok_c : Ok F c) : Ok F (portCommit o sent ws c) := by
  unfold portCommit
  repeat' ((with_reducible
      first
        | assumption | apply dropOpen_keeps | apply rewind_keeps | apply commitPkt_keeps | apply modPair_keeps
        | apply sendDigest_keeps | apply weltCommit_keeps
        | (intro cc; refine_lift have hcc : Ok F cc := ?_; ?_; subst cc; rotate_left; clear_value cc)
        | (intro cc; clear_value cc) | apply OkP_of | split | simp only [↓Ok_mk] | lift_lets | dsimp only))

theorem putSegment_keeps (p src q : Nat) (m : Msg) (ws : List (Word × Bool)) (c : Chip)  (hok_c : Ok F c) : Ok F (putSegment p src q m ws c) := by
  unfold putSegment
  repeat' ((with_reducible
      first
        | assumption | apply pushWord_keeps | apply setSegs_keeps | apply portCommit_keeps
        | (intro cc; refine_lift have hcc : Ok F cc := ?_; ?_; subst cc; rotate_left; clear_value cc)
        | (intro cc; clear_value cc) | apply OkP_of | apply foldl_keeps | split | intro _ | simp only [↓Ok_mk]
        | lift_lets | dsimp only))

theorem dropRefused_keeps (p src : Nat) (c : Chip)  (hok_c : Ok F c) : Ok F (dropRefused p src c) := by
  unfold dropRefused
  repeat' ((with_reducible
      first
        | assumption | apply OkP_of | simp only [↓Ok_mk] | dsimp only))

theorem firstSegment_keeps (p src q : Nat) (m : Msg) (c : Chip)  (hok_c : Ok F c) : Ok F (firstSegment p src q m c).2 := by
  unfold firstSegment
  repeat' ((with_reducible
      first
        | assumption | apply countRefusal_keeps | apply openPkt_keeps | apply setSegs_keeps | apply breakPkt_keeps
        | apply putSegment_keeps | apply dropRefused_keeps
        | (intro cc; refine_lift have hcc : Ok F cc := ?_; ?_; subst cc; rotate_left; clear_value cc)
        | (intro cc; clear_value cc) | apply OkP_of | split | simp only [↓Ok_mk] | lift_lets | dsimp only))

theorem segmentIn_keeps (p src q : Nat) (m : Msg) (c : Chip)  (hok_c : Ok F c) : Ok F (segmentIn p src q m c).2 := by
  unfold segmentIn
  repeat' ((with_reducible
      first
        | assumption | apply breakPkt_keeps | apply putSegment_keeps | apply dropRefused_keeps
        | apply firstSegment_keeps
        | (intro cc; refine_lift have hcc : Ok F cc := ?_; ?_; subst cc; rotate_left; clear_value cc)
        | (intro cc; refine_lift have hcc : Ok F cc.2 := ?_; ?_; subst cc; rotate_left; clear_value cc)
        | (intro cc; clear_value cc) | apply OkP_of | split | (refine of_eq2 (by assumption) ?_) | simp only [↓Ok_mk]
        | lift_lets | dsimp only))

theorem qpktIn_keeps (p : Nat) (m : Msg) (c : Chip)  (hok_c : Ok F c) : Ok F (qpktIn p m c) := by
  unfold qpktIn
  repeat' (first
    | (with_reducible
      first
        | assumption | apply answer_keeps | apply arriveReq_keeps | apply applyHeld_keeps | apply segmentIn_keeps
        | (intro cc; refine_lift have hcc : Ok F cc := ?_; ?_; subst cc; rotate_left; clear_value cc)
        | (intro cc; refine_lift have hcc : Ok F cc.2 := ?_; ?_; subst cc; rotate_left; clear_value cc)
        | (intro cc; refine_lift have hcc : Ok F cc.2.2 := ?_; ?_; subst cc; rotate_left; clear_value cc)
        | (intro cc; refine_lift have hcc : Ok F cc.2.2.2 := ?_; ?_; subst cc; rotate_left; clear_value cc)
        | (intro cc; refine_lift have hcc : Ok F cc.1 := ?_; ?_; subst cc; rotate_left; clear_value cc)
        | (intro cc; clear_value cc) | apply OkP_of | apply OkP_state | apply Ok_tput | apply Ok_found
        | apply foldl_keeps | apply foldl_keeps1 | apply foldl_keeps2 | apply forSpan_keeps | split
        | (refine of_eq1 (by assumption) ?_) | (refine of_eq2 (by assumption) ?_) | (refine of_eq3 (by assumption) ?_)
        | (refine of_eq4 (by assumption) ?_) | intro _ | simp only [↓Ok_mk] | lift_lets | dsimp only)
    | (with_reducible show _ ≤ (9 : Nat); decide))

theorem pktBroken_keeps (p k : Nat) (c : Chip)  (hok_c : Ok F c) : Ok F (pktBroken p k c) := by
  unfold pktBroken
  repeat' ((with_reducible
      first
        | assumption | apply breakPkt_keeps | apply OkP_of | split | simp only [↓Ok_mk] | dsimp only))

theorem answerIn_keeps (p : Nat) (m : Msg) (is : ReqKind → Bool) (f : ReqKind → Chip → Chip) (c : Chip)  (h_f : ∀ x0 x1, Ok F x1 → Ok F (f x0 x1)) (hok_c : Ok F c) : Ok F (answerIn p m is f c) := by
  unfold answerIn
  repeat' ((with_reducible
      first
        | assumption | apply bump_keeps | apply releaseReq_keeps | apply normWaits_keeps | apply arriveAnswer_keeps
        | apply refusedAnswer_keeps | apply h_f | apply OkP_of | split | (refine of_eq2 (by assumption) ?_) | intro _
        | simp only [↓Ok_mk] | dsimp only))

theorem writeAckIn_keeps (p : Nat) (m : Msg) (c : Chip)  (hok_c : Ok F c) : Ok F (writeAckIn p m c) := by
  unfold writeAckIn
  repeat' (first
    | (with_reducible
      first
        | assumption | apply moverAcked_keeps | apply answerIn_keeps
        | (intro cc; refine_lift have hcc : Ok F cc := ?_; ?_; subst cc; rotate_left; clear_value cc)
        | (intro cc; refine_lift have hcc : Ok F cc.2 := ?_; ?_; subst cc; rotate_left; clear_value cc)
        | (intro cc; refine_lift have hcc : Ok F cc.2.2 := ?_; ?_; subst cc; rotate_left; clear_value cc)
        | (intro cc; refine_lift have hcc : Ok F cc.2.2.2 := ?_; ?_; subst cc; rotate_left; clear_value cc)
        | (intro cc; refine_lift have hcc : Ok F cc.1 := ?_; ?_; subst cc; rotate_left; clear_value cc)
        | (intro cc; clear_value cc) | apply OkP_of | apply OkP_state | apply Ok_tput | apply Ok_found
        | apply foldl_keeps | apply foldl_keeps1 | apply foldl_keeps2 | apply forSpan_keeps | split
        | (refine of_eq1 (by assumption) ?_) | (refine of_eq2 (by assumption) ?_) | (refine of_eq3 (by assumption) ?_)
        | (refine of_eq4 (by assumption) ?_) | intro _ | simp only [↓Ok_mk] | lift_lets | dsimp only)
    | (with_reducible show _ ≤ (9 : Nat); decide))

theorem loadAnswer_keeps (t rd size : Nat) (uns fp : Bool) (pa : Nat) (m : Msg) (c : Chip)  (hok_c : Ok F c) : Ok F (loadAnswer t rd size uns fp pa m c) := by
  unfold loadAnswer
  repeat' ((with_reducible
      first
        | assumption | apply modHart_keeps | apply takeTrap_keeps | apply OkP_of | split | simp only [↓Ok_mk]
        | dsimp only))

theorem readRespIn_keeps (p : Nat) (m : Msg) (c : Chip)  (hok_c : Ok F c) : Ok F (readRespIn p m c) := by
  unfold readRespIn
  repeat' (first
    | (with_reducible
      first
        | assumption | apply moverData_keeps | apply answerIn_keeps | apply loadAnswer_keeps
        | (intro cc; refine_lift have hcc : Ok F cc := ?_; ?_; subst cc; rotate_left; clear_value cc)
        | (intro cc; refine_lift have hcc : Ok F cc.2 := ?_; ?_; subst cc; rotate_left; clear_value cc)
        | (intro cc; refine_lift have hcc : Ok F cc.2.2 := ?_; ?_; subst cc; rotate_left; clear_value cc)
        | (intro cc; refine_lift have hcc : Ok F cc.2.2.2 := ?_; ?_; subst cc; rotate_left; clear_value cc)
        | (intro cc; refine_lift have hcc : Ok F cc.1 := ?_; ?_; subst cc; rotate_left; clear_value cc)
        | (intro cc; clear_value cc) | apply OkP_of | apply OkP_state | apply Ok_tput | apply Ok_found
        | apply foldl_keeps | apply foldl_keeps1 | apply foldl_keeps2 | apply forSpan_keeps | split
        | (refine of_eq1 (by assumption) ?_) | (refine of_eq2 (by assumption) ?_) | (refine of_eq3 (by assumption) ?_)
        | (refine of_eq4 (by assumption) ?_) | intro _ | simp only [↓Ok_mk] | lift_lets | dsimp only)
    | (with_reducible show _ ≤ (9 : Nat); decide))

theorem atomicRespIn_keeps (p : Nat) (m : Msg) (c : Chip)  (hok_c : Ok F c) : Ok F (atomicRespIn p m c) := by
  unfold atomicRespIn
  repeat' (first
    | (with_reducible
      first
        | assumption | apply answerIn_keeps | apply loadAnswer_keeps
        | (intro cc; refine_lift have hcc : Ok F cc := ?_; ?_; subst cc; rotate_left; clear_value cc)
        | (intro cc; refine_lift have hcc : Ok F cc.2 := ?_; ?_; subst cc; rotate_left; clear_value cc)
        | (intro cc; refine_lift have hcc : Ok F cc.2.2 := ?_; ?_; subst cc; rotate_left; clear_value cc)
        | (intro cc; refine_lift have hcc : Ok F cc.2.2.2 := ?_; ?_; subst cc; rotate_left; clear_value cc)
        | (intro cc; refine_lift have hcc : Ok F cc.1 := ?_; ?_; subst cc; rotate_left; clear_value cc)
        | (intro cc; clear_value cc) | apply OkP_of | apply OkP_state | apply Ok_tput | apply Ok_found
        | apply foldl_keeps | apply foldl_keeps1 | apply foldl_keeps2 | apply forSpan_keeps | split
        | (refine of_eq1 (by assumption) ?_) | (refine of_eq2 (by assumption) ?_) | (refine of_eq3 (by assumption) ?_)
        | (refine of_eq4 (by assumption) ?_) | intro _ | simp only [↓Ok_mk] | lift_lets | dsimp only)
    | (with_reducible show _ ≤ (9 : Nat); decide))

theorem qpktAckIn_keeps (p : Nat) (m : Msg) (c : Chip)  (hok_c : Ok F c) : Ok F (qpktAckIn p m c) := by
  unfold qpktAckIn
  repeat' ((with_reducible
      first
        | assumption | apply bump_keeps | apply releaseReq_keeps | apply normWaits_keeps | apply arriveAnswer_keeps
        | apply egAnswer_keeps
        | (intro cc; refine_lift have hcc : Ok F cc := ?_; ?_; subst cc; rotate_left; clear_value cc)
        | (intro cc; refine_lift have hcc : Ok F cc.2 := ?_; ?_; subst cc; rotate_left; clear_value cc)
        | (intro cc; clear_value cc) | apply OkP_of | split | (refine of_eq2 (by assumption) ?_) | simp only [↓Ok_mk]
        | lift_lets | dsimp only))

theorem blazeAckIn_keeps (p : Nat) (m : Msg) (c : Chip)  (hok_c : Ok F c) : Ok F (blazeAckIn p m c) := by
  unfold blazeAckIn
  repeat' (first
    | (with_reducible
      first
        | assumption | apply answerIn_keeps
        | (intro cc; refine_lift have hcc : Ok F cc := ?_; ?_; subst cc; rotate_left; clear_value cc)
        | (intro cc; refine_lift have hcc : Ok F cc.2 := ?_; ?_; subst cc; rotate_left; clear_value cc)
        | (intro cc; refine_lift have hcc : Ok F cc.2.2 := ?_; ?_; subst cc; rotate_left; clear_value cc)
        | (intro cc; refine_lift have hcc : Ok F cc.2.2.2 := ?_; ?_; subst cc; rotate_left; clear_value cc)
        | (intro cc; refine_lift have hcc : Ok F cc.1 := ?_; ?_; subst cc; rotate_left; clear_value cc)
        | (intro cc; clear_value cc) | apply OkP_of | apply OkP_state | apply Ok_tput | apply Ok_found
        | apply foldl_keeps | apply foldl_keeps1 | apply foldl_keeps2 | apply forSpan_keeps | split
        | (refine of_eq1 (by assumption) ?_) | (refine of_eq2 (by assumption) ?_) | (refine of_eq3 (by assumption) ?_)
        | (refine of_eq4 (by assumption) ?_) | intro _ | simp only [↓Ok_mk] | lift_lets | dsimp only)
    | (with_reducible show _ ≤ (9 : Nat); decide))

theorem respTimeout_keeps (r : Nat) (c : Chip)  (hok_c : Ok F c) : Ok F (respTimeout r c) := by
  unfold respTimeout
  repeat' ((with_reducible
      first
        | assumption | apply unreachable_keeps | apply OkP_of | split | simp only [↓Ok_mk] | dsimp only))

theorem failWaiting_keeps (peer : Nat) (c : Chip)  (hok_c : Ok F c) : Ok F (failWaiting peer c) := by
  unfold failWaiting
  repeat' ((with_reducible
      first
        | assumption | apply setWaits_keeps | apply unreachable_keeps
        | (intro cc; refine_lift have hcc : Ok F cc := ?_; ?_; subst cc; rotate_left; clear_value cc)
        | (intro cc; clear_value cc) | apply OkP_of | apply foldl_keeps | split | intro _ | simp only [↓Ok_mk]
        | lift_lets | dsimp only))

theorem sessFail_keeps (p peer stage : Nat) (c : Chip)  (hok_c : Ok F c) : Ok F (sessFail p peer stage c) := by
  unfold sessFail
  repeat' ((with_reducible
      first
        | assumption | apply emit_keeps | apply setSess_keeps | apply failEgress_keeps | apply failWaiting_keeps
        | (intro cc; refine_lift have hcc : Ok F cc := ?_; ?_; subst cc; rotate_left; clear_value cc)
        | (intro cc; clear_value cc) | apply OkP_of | split | simp only [↓Ok_mk] | lift_lets | dsimp only))

theorem sessionKeys_keeps (peer : Nat) (inc : Word) (c : Chip)  (hok_c : Ok F c) : Ok F (sessionKeys peer inc c).2 := by
  unfold sessionKeys
  repeat' ((with_reducible
      first
        | assumption | apply drawBytes_keeps
        | (intro cc; refine_lift have hcc : Ok F cc := ?_; ?_; subst cc; rotate_left; clear_value cc)
        | (intro cc; refine_lift have hcc : Ok F cc.2 := ?_; ?_; subst cc; rotate_left; clear_value cc)
        | (intro cc; clear_value cc) | split | (refine of_eq2 (by assumption) ?_) | lift_lets | dsimp only))

theorem sessOpen_keeps (peer : Nat) (c : Chip)  (hok_c : Ok F c) : Ok F (sessOpen peer c) := by
  unfold sessOpen
  repeat' ((with_reducible
      first
        | assumption | apply setSess_keeps | apply flushTo_keeps | apply sendHb_keeps | apply sessionKeys_keeps
        | (intro cc; refine_lift have hcc : Ok F cc := ?_; ?_; subst cc; rotate_left; clear_value cc)
        | (intro cc; refine_lift have hcc : Ok F cc.2 := ?_; ?_; subst cc; rotate_left; clear_value cc)
        | (intro cc; clear_value cc) | apply OkP_of | split | (refine of_eq2 (by assumption) ?_) | simp only [↓Ok_mk]
        | lift_lets | dsimp only))

theorem helloIn_keeps (p : Nat) (h : Hand) (c : Chip)  (hok_c : Ok F c) : Ok F (helloIn p h c) := by
  unfold helloIn
  repeat' ((with_reducible
      first
        | assumption | apply setSess_keeps | apply sendHand_keeps | apply sessFail_keeps
        | (intro cc; refine_lift have hcc : Ok F cc := ?_; ?_; subst cc; rotate_left; clear_value cc)
        | (intro cc; clear_value cc) | apply OkP_of | split | simp only [↓Ok_mk] | lift_lets | dsimp only))

theorem replyIn_keeps (p : Nat) (h : Hand) (c : Chip)  (hok_c : Ok F c) : Ok F (replyIn p h c) := by
  unfold replyIn
  repeat' ((with_reducible
      first
        | assumption | apply setSess_keeps | apply sendHand_keeps | apply sessFail_keeps | apply sessOpen_keeps
        | (intro cc; refine_lift have hcc : Ok F cc := ?_; ?_; subst cc; rotate_left; clear_value cc)
        | (intro cc; clear_value cc) | apply OkP_of | split | simp only [↓Ok_mk] | lift_lets | dsimp only))

theorem finishedIn_keeps (p : Nat) (h : Hand) (c : Chip)  (hok_c : Ok F c) : Ok F (finishedIn p h c) := by
  unfold finishedIn
  repeat' ((with_reducible
      first
        | assumption | apply setSess_keeps | apply sessFail_keeps | apply sessOpen_keeps
        | (intro cc; refine_lift have hcc : Ok F cc := ?_; ?_; subst cc; rotate_left; clear_value cc)
        | (intro cc; clear_value cc) | apply OkP_of | split | simp only [↓Ok_mk] | lift_lets | dsimp only))

theorem noAnswer_keeps (peer : Nat) (c : Chip)  (hok_c : Ok F c) : Ok F (noAnswer peer c) := by
  unfold noAnswer
  repeat' ((with_reducible
      first
        | assumption | apply sessFail_keeps | split | dsimp only))

theorem portRelease_keeps (p : Nat) (c : Chip)  (hok_c : Ok F c) : Ok F (portRelease p c) := by
  unfold portRelease
  repeat' ((with_reducible
      first
        | assumption | apply setPort_keeps | apply dropGrant_keeps
        | (intro cc; refine_lift have hcc : Ok F cc := ?_; ?_; subst cc; rotate_left; clear_value cc)
        | (intro cc; clear_value cc) | apply OkP_of | split | simp only [↓Ok_mk] | lift_lets | dsimp only))

end Sys2Proof.Machine
end

