-- ==== Sys2Proof/Laws/KeepPairCmd.lean ====
section
/-! SUPPORT. Every operation of Machine/PairCmd.lean keeps `Ok`. -/
set_option linter.all false
namespace Sys2Proof.Machine
variable {F : Fuse}

theorem formTimeout_keeps (c : Chip)  (hok_c : Ok F c) : Ok F (formTimeout c) := by
  unfold formTimeout
  repeat' ((with_reducible
      first
        | assumption | apply failForm_keeps | split | dsimp only))

theorem laceInChange_keeps (high : Bool) (c : Chip)  (hok_c : Ok F c) : Ok F (laceInChange high c) := by
  unfold laceInChange
  repeat' ((with_reducible
      first
        | assumption | apply modPair_keeps | apply sendHb_keeps | apply raiseClaim_keeps
        | (intro cc; refine_lift have hcc : Ok F cc := ?_; ?_; subst cc; rotate_left; clear_value cc)
        | (intro cc; clear_value cc) | apply OkP_of | split | simp only [↓Ok_mk] | lift_lets | dsimp only))

theorem tieResolved_keeps (c : Chip)  (hok_c : Ok F c) : Ok F (tieResolved c) := by
  unfold tieResolved
  repeat' ((with_reducible
      first
        | assumption | apply emit_keeps | apply modPair_keeps | apply clearClaim_keeps | apply OkP_of | split
        | simp only [↓Ok_mk] | dsimp only))

theorem laceFault_keeps (c : Chip)  (hok_c : Ok F c) : Ok F (laceFault c) := by
  unfold laceFault
  repeat' ((with_reducible
      first
        | assumption | apply emit_keeps | apply modPair_keeps | apply yieldPair_keeps | apply leaveSync_keeps
        | (intro cc; refine_lift have hcc : Ok F cc := ?_; ?_; subst cc; rotate_left; clear_value cc)
        | (intro cc; clear_value cc) | apply OkP_of | split | simp only [↓Ok_mk] | lift_lets | dsimp only))

theorem mateQuiet_keeps (c : Chip)  (hok_c : Ok F c) : Ok F (mateQuiet c) := by
  unfold mateQuiet
  repeat' ((with_reducible
      first
        | assumption | apply mateSilent_keeps | split | dsimp only))

theorem boundaryLate_keeps (c : Chip)  (hok_c : Ok F c) : Ok F (boundaryLate c) := by
  unfold boundaryLate
  repeat' ((with_reducible
      first
        | assumption | apply modPair_keeps | apply settleInputs_keeps | apply mateSilent_keeps
        | (intro cc; refine_lift have hcc : Ok F cc := ?_; ?_; subst cc; rotate_left; clear_value cc)
        | (intro cc; clear_value cc) | apply OkP_of | split | simp only [↓Ok_mk] | lift_lets | dsimp only))

theorem mateIn_keeps (op : Nat) (m : Msg) (f : Bytes → Chip → Chip) (c : Chip)  (h_f : ∀ x0 x1, Ok F x1 → Ok F (f x0 x1)) (hok_c : Ok F c) : Ok F (mateIn op m f c) := by
  unfold mateIn
  repeat' ((with_reducible
      first
        | assumption | apply takeMsg_keeps | apply acceptCtr_keeps | apply checks123_keeps | apply modPair_keeps
        | apply h_f | (intro cc; refine_lift have hcc : Ok F cc := ?_; ?_; subst cc; rotate_left; clear_value cc)
        | (intro cc; refine_lift have hcc : Ok F cc.2 := ?_; ?_; subst cc; rotate_left; clear_value cc)
        | (intro cc; clear_value cc) | apply OkP_of | split | (refine of_eq2 (by assumption) ?_) | intro _
        | simp only [↓Ok_mk] | lift_lets | dsimp only))

theorem hbIn_keeps (b : Bytes) (c : Chip)  (hok_c : Ok F c) : Ok F (hbIn b c) := by
  unfold hbIn
  repeat' ((with_reducible
      first
        | assumption | apply setObj_keeps | apply emit_keeps | apply modPair_keeps | apply failForm_keeps
        | apply formHb_keeps
        | (intro cc; refine_lift have hcc : Ok F cc := ?_; ?_; subst cc; rotate_left; clear_value cc)
        | (intro cc; clear_value cc) | apply OkP_of | split | simp only [↓Ok_mk] | lift_lets | dsimp only))

theorem digestIn_keeps (b : Bytes) (c : Chip)  (hok_c : Ok F c) : Ok F (digestIn b c) := by
  unfold digestIn
  repeat' ((with_reducible
      first
        | assumption | apply modPair_keeps | apply compareEg_keeps
        | (intro cc; refine_lift have hcc : Ok F cc := ?_; ?_; subst cc; rotate_left; clear_value cc)
        | (intro cc; clear_value cc) | apply OkP_of | split | simp only [↓Ok_mk] | lift_lets | dsimp only))

theorem confirmIn_keeps (b : Bytes) (c : Chip)  (hok_c : Ok F c) : Ok F (confirmIn b c) := by
  unfold confirmIn
  repeat' ((with_reducible
      first
        | assumption | apply modPair_keeps | apply confirmEg_keeps
        | (intro cc; refine_lift have hcc : Ok F cc := ?_; ?_; subst cc; rotate_left; clear_value cc)
        | (intro cc; clear_value cc) | apply OkP_of | split | simp only [↓Ok_mk] | lift_lets | dsimp only))

theorem boundaryIn_keeps (b : Bytes) (c : Chip)  (hok_c : Ok F c) : Ok F (boundaryIn b c) := by
  unfold boundaryIn
  repeat' ((with_reducible
      first
        | assumption | apply modPair_keeps | apply mateBoundary_keeps
        | (intro cc; refine_lift have hcc : Ok F cc := ?_; ?_; subst cc; rotate_left; clear_value cc)
        | (intro cc; clear_value cc) | apply OkP_of | split | simp only [↓Ok_mk] | lift_lets | dsimp only))

theorem yieldIn_keeps (b : Bytes) (c : Chip)  (hok_c : Ok F c) : Ok F (yieldIn b c) := by
  unfold yieldIn
  repeat' ((with_reducible
      first
        | assumption | apply modPair_keeps | apply OkP_of | split | simp only [↓Ok_mk] | dsimp only))

end Sys2Proof.Machine
end

