-- ==== Sys2Proof/Laws/KeepFaultCmd.lean ====
section
/-! SUPPORT. Every operation of Machine/FaultCmd.lean keeps `Ok`. -/
set_option linter.all false
namespace Sys2Proof.Machine
variable {F : Fuse}

theorem fenceDown_keeps (c : Chip)  (hok_c : Ok F c) : Ok F (fenceDown c) := by
  unfold fenceDown
  repeat' ((with_reducible
      first
        | assumption | apply modPair_keeps | apply clearClaim_keeps
        | (intro cc; refine_lift have hcc : Ok F cc := ?_; ?_; subst cc; rotate_left; clear_value cc)
        | (intro cc; clear_value cc) | apply OkP_of | split | simp only [↓Ok_mk] | lift_lets | dsimp only))

theorem fenceHeld_keeps (c : Chip)  (hok_c : Ok F c) : Ok F (fenceHeld c) := by
  unfold fenceHeld
  repeat' ((with_reducible
      first
        | assumption | apply enterFenced_keeps | split | dsimp only))

theorem fenceUp_keeps (c : Chip)  (hok_c : Ok F c) : Ok F (fenceUp c) := by
  unfold fenceUp
  repeat' (first
    | (with_reducible
      first
        | assumption | apply emit_keeps | apply modPair_keeps | apply raiseClaim_keeps | apply moduleReset_keeps
        | (intro cc; refine_lift have hcc : Ok F cc := ?_; ?_; subst cc; rotate_left; clear_value cc)
        | (intro cc; clear_value cc) | apply OkP_of | apply OkP_state | split | simp only [↓Ok_mk] | lift_lets
        | dsimp only)
    | (with_reducible show _ ≤ (9 : Nat); decide))

theorem bundleEnd_keeps (c : Chip)  (hok_c : Ok F c) : Ok F (bundleEnd c) := by
  unfold bundleEnd
  repeat' ((with_reducible
      first
        | assumption | apply bundleDone_keeps | apply resetDue_keeps | split | dsimp only))

theorem freeBytes_keeps (n : Nat) (c : Chip)  (hok_c : Ok F c) : Ok F (freeBytes n c).2 := by
  unfold freeBytes
  repeat' ((with_reducible
      first
        | assumption | apply drawBytes_keeps | apply OkP_of | split | (refine of_eq2 (by assumption) ?_)
        | simp only [↓Ok_mk] | dsimp only))

theorem bypass_keeps (bits : Bytes) (c : Chip)  (hok_c : Ok F c) : Ok F (bypass bits c) := by
  unfold bypass
  repeat' ((with_reducible
      first
        | assumption | apply send_keeps | dsimp only))

theorem scan_keeps (allowed : Bool) (bits : Bytes) (c : Chip)  (hok_c : Ok F c) : Ok F (scan allowed bits c) := by
  unfold scan
  repeat' ((with_reducible
      first
        | assumption | apply send_keeps | apply freeBytes_keeps | apply bypass_keeps | apply OkP_of | split
        | (refine of_eq2 (by assumption) ?_) | simp only [↓Ok_mk] | dsimp only))

theorem debugTap_keeps (op : TapOp) (c : Chip) (hok_c : Ok F c) : Ok F (debugTap op c) := by
  have hr : Ok F { c with life := { c.life with resetAt := some (now c), resetKind := 2 } } := hok_c
  unfold debugTap
  split
  · exact hok_c
  cases op <;> with_reducible (try dsimp only)
  · with_reducible exact hok_c
  · with_reducible exact send_keeps _ _ hok_c
  · with_reducible exact scan_keeps _ _ _ hok_c
  · with_reducible exact scan_keeps _ _ _ hok_c
  · with_reducible exact scan_keeps _ _ _ hok_c
  · split
    · exact moduleReset_keeps _ hr
    · exact hok_c

end Sys2Proof.Machine
end

