-- ==== Sys2Proof/Laws/KeepPowerCmd.lean ====
section
/-! SUPPORT. Every operation of Machine/PowerCmd.lean keeps `Ok`. -/
set_option linter.all false
namespace Sys2Proof.Machine
variable {F : Fuse}

theorem currentLimit_keeps (d : Nat) (c : Chip)  (hok_c : Ok F c) : Ok F (currentLimit d c) := by
  unfold currentLimit
  repeat' ((with_reducible
      first
        | assumption | apply emit_keeps | apply floorActed_keeps
        | (intro cc; refine_lift have hcc : Ok F cc := ?_; ?_; subst cc; rotate_left; clear_value cc)
        | (intro cc; clear_value cc) | apply OkP_of | apply Ok_tput | apply Ok_found | split | simp only [↓Ok_mk]
        | lift_lets | dsimp only))

theorem tjTrip_keeps (s : Nat) (c : Chip)  (hok_c : Ok F c) : Ok F (tjTrip s c) := by
  unfold tjTrip
  repeat' ((with_reducible
      first
        | assumption | apply tripDie_keeps | split | dsimp only))

theorem windowClose_keeps (c : Chip)  (hok_c : Ok F c) : Ok F (windowClose c) := by
  unfold windowClose
  repeat' ((with_reducible
      first
        | assumption | apply OkP_of | split | simp only [↓Ok_mk] | dsimp only))

theorem recoveryEnd_keeps (c : Chip)  (hok_c : Ok F c) : Ok F (recoveryEnd c) := by
  unfold recoveryEnd
  repeat' ((with_reducible
      first
        | assumption | apply OkP_of | split | simp only [↓Ok_mk] | dsimp only))

theorem burstLimit_keeps (c : Chip)  (hok_c : Ok F c) : Ok F (burstLimit c) := by
  unfold burstLimit
  repeat' ((with_reducible
      first
        | assumption | apply emit_keeps | apply floorActed_keeps | apply OkP_of | split | simp only [↓Ok_mk]
        | dsimp only))

theorem warden_keeps (f : Chip → Chip) (c : Chip)  (h_f : ∀ x0, Ok F x0 → Ok F (f x0)) (hok_c : Ok F c) : Ok F (warden f c) := by
  unfold warden
  repeat' ((with_reducible
      first
        | assumption | apply h_f | split | intro _ | dsimp only))

end Sys2Proof.Machine
end

