-- ==== Sys2Proof/Laws/KeepShim.lean ====
section
/-! SUPPORT. Every operation of Machine/Shim.lean keeps `Ok`. -/
set_option linter.all false
namespace Sys2Proof.Machine
variable {F : Fuse}

theorem sbiRet_keeps (t : Nat) (err : Int) (v : Nat) (c : Chip)  (hok_c : Ok F c) : Ok F (sbiRet t err v c) := by
  unfold sbiRet
  repeat' ((with_reducible
      first
        | assumption | apply modHart_keeps | split | dsimp only))

theorem ecall_keeps (t : Nat) (f : Chip → Chip) (c : Chip)  (h_f : ∀ x0, Ok F x0 → Ok F (f x0)) (hok_c : Ok F c) : Ok F (ecall t f c) := by
  unfold ecall
  repeat' ((with_reducible
      first
        | assumption | apply takeTrap_keeps | apply h_f
        | (intro cc; refine_lift have hcc : Ok F cc := ?_; ?_; subst cc; rotate_left; clear_value cc)
        | (intro cc; clear_value cc) | split | intro _ | lift_lets | dsimp only))

theorem forPart_keeps (t : Nat) (f : Nat → Chip → Chip) (c : Chip)  (h_f : ∀ x0 x1, Ok F x1 → Ok F (f x0 x1)) (hok_c : Ok F c) : Ok F (forPart t f c) := by
  unfold forPart
  repeat' ((with_reducible
      first
        | assumption | apply sbiRet_keeps | apply h_f | apply OkP_of | split | intro _ | simp only [↓Ok_mk]
        | dsimp only))

theorem onThread_keeps (t : Nat) (f : Nat → Nat → Chip → Chip) (c : Chip)  (h_f : ∀ x0 x1 x2, Ok F x2 → Ok F (f x0 x1 x2)) (hok_c : Ok F c) : Ok F (onThread t f c) := by
  unfold onThread
  repeat' ((with_reducible
      first
        | assumption | apply sbiRet_keeps | apply forPart_keeps | apply h_f
        | (intro cc; refine_lift have hcc : Ok F cc := ?_; ?_; subst cc; rotate_left; clear_value cc)
        | (intro cc; clear_value cc) | split | intro _ | lift_lets | dsimp only))

theorem partInfo_keeps (t : Nat) (c : Chip)  (hok_c : Ok F c) : Ok F (partInfo t c) := by
  unfold partInfo
  repeat' (first
    | (with_reducible
      first
        | assumption | apply sbiRet_keeps | apply forPart_keeps
        | (intro cc; refine_lift have hcc : Ok F cc := ?_; ?_; subst cc; rotate_left; clear_value cc)
        | (intro cc; refine_lift have hcc : Ok F cc.2 := ?_; ?_; subst cc; rotate_left; clear_value cc)
        | (intro cc; refine_lift have hcc : Ok F cc.2.2 := ?_; ?_; subst cc; rotate_left; clear_value cc)
        | (intro cc; refine_lift have hcc : Ok F cc.2.2.2 := ?_; ?_; subst cc; rotate_left; clear_value cc)
        | (intro cc; refine_lift have hcc : Ok F cc.1 := ?_; ?_; subst cc; rotate_left; clear_value cc)
        | (intro cc; clear_value cc) | apply OkP_of | apply OkP_state | apply Ok_tput | apply Ok_found
        | apply foldl_keeps | apply foldl_keeps1 | apply foldl_keeps2 | apply forSpan_keeps | split
        | (refine of_eq1 (by assumption) ?_) | (refine of_eq2 (by assumption) ?_) | (refine of_eq3 (by assumption) ?_)
        | (refine of_eq4 (by assumption) ?_) | intro _ | simp only [↓Ok_mk] | lift_lets | dsimp only)
    | (with_reducible show _ ≤ (9 : Nat); decide))

theorem threadStart_keeps (t : Nat) (c : Chip)  (hok_c : Ok F c) : Ok F (threadStart t c) := by
  unfold threadStart
  repeat' (first
    | (with_reducible
      first
        | assumption | apply setHart_keeps | apply sbiRet_keeps | apply onThread_keeps
        | (intro cc; refine_lift have hcc : Ok F cc := ?_; ?_; subst cc; rotate_left; clear_value cc)
        | (intro cc; refine_lift have hcc : Ok F cc.2 := ?_; ?_; subst cc; rotate_left; clear_value cc)
        | (intro cc; refine_lift have hcc : Ok F cc.2.2 := ?_; ?_; subst cc; rotate_left; clear_value cc)
        | (intro cc; refine_lift have hcc : Ok F cc.2.2.2 := ?_; ?_; subst cc; rotate_left; clear_value cc)
        | (intro cc; refine_lift have hcc : Ok F cc.1 := ?_; ?_; subst cc; rotate_left; clear_value cc)
        | (intro cc; clear_value cc) | apply OkP_of | apply OkP_state | apply Ok_tput | apply Ok_found
        | apply foldl_keeps | apply foldl_keeps1 | apply foldl_keeps2 | apply forSpan_keeps | split
        | (refine of_eq1 (by assumption) ?_) | (refine of_eq2 (by assumption) ?_) | (refine of_eq3 (by assumption) ?_)
        | (refine of_eq4 (by assumption) ?_) | intro _ | simp only [↓Ok_mk] | lift_lets | dsimp only)
    | (with_reducible show _ ≤ (9 : Nat); decide))

theorem threadStop_keeps (t : Nat) (c : Chip)  (hok_c : Ok F c) : Ok F (threadStop t c) := by
  unfold threadStop
  repeat' (first
    | (with_reducible
      first
        | assumption | apply stopThread_keeps | apply sbiRet_keeps | apply onThread_keeps
        | (intro cc; refine_lift have hcc : Ok F cc := ?_; ?_; subst cc; rotate_left; clear_value cc)
        | (intro cc; refine_lift have hcc : Ok F cc.2 := ?_; ?_; subst cc; rotate_left; clear_value cc)
        | (intro cc; refine_lift have hcc : Ok F cc.2.2 := ?_; ?_; subst cc; rotate_left; clear_value cc)
        | (intro cc; refine_lift have hcc : Ok F cc.2.2.2 := ?_; ?_; subst cc; rotate_left; clear_value cc)
        | (intro cc; refine_lift have hcc : Ok F cc.1 := ?_; ?_; subst cc; rotate_left; clear_value cc)
        | (intro cc; clear_value cc) | apply OkP_of | apply OkP_state | apply Ok_tput | apply Ok_found
        | apply foldl_keeps | apply foldl_keeps1 | apply foldl_keeps2 | apply forSpan_keeps | split
        | (refine of_eq1 (by assumption) ?_) | (refine of_eq2 (by assumption) ?_) | (refine of_eq3 (by assumption) ?_)
        | (refine of_eq4 (by assumption) ?_) | intro _ | simp only [↓Ok_mk] | lift_lets | dsimp only)
    | (with_reducible show _ ≤ (9 : Nat); decide))

theorem threadClass_keeps (t : Nat) (c : Chip)  (hok_c : Ok F c) : Ok F (threadClass t c) := by
  unfold threadClass
  repeat' (first
    | (with_reducible
      first
        | assumption | apply modHart_keeps | apply sbiRet_keeps | apply onThread_keeps
        | (intro cc; refine_lift have hcc : Ok F cc := ?_; ?_; subst cc; rotate_left; clear_value cc)
        | (intro cc; refine_lift have hcc : Ok F cc.2 := ?_; ?_; subst cc; rotate_left; clear_value cc)
        | (intro cc; refine_lift have hcc : Ok F cc.2.2 := ?_; ?_; subst cc; rotate_left; clear_value cc)
        | (intro cc; refine_lift have hcc : Ok F cc.2.2.2 := ?_; ?_; subst cc; rotate_left; clear_value cc)
        | (intro cc; refine_lift have hcc : Ok F cc.1 := ?_; ?_; subst cc; rotate_left; clear_value cc)
        | (intro cc; clear_value cc) | apply OkP_of | apply OkP_state | apply Ok_tput | apply Ok_found
        | apply foldl_keeps | apply foldl_keeps1 | apply foldl_keeps2 | apply forSpan_keeps | split
        | (refine of_eq1 (by assumption) ?_) | (refine of_eq2 (by assumption) ?_) | (refine of_eq3 (by assumption) ?_)
        | (refine of_eq4 (by assumption) ?_) | intro _ | simp only [↓Ok_mk] | lift_lets | dsimp only)
    | (with_reducible show _ ≤ (9 : Nat); decide))

theorem tagQuota_keeps (t : Nat) (c : Chip)  (hok_c : Ok F c) : Ok F (tagQuota t c) := by
  unfold tagQuota
  repeat' (first
    | (with_reducible
      first
        | assumption | apply modHart_keeps | apply sbiRet_keeps | apply onThread_keeps
        | (intro cc; refine_lift have hcc : Ok F cc := ?_; ?_; subst cc; rotate_left; clear_value cc)
        | (intro cc; refine_lift have hcc : Ok F cc.2 := ?_; ?_; subst cc; rotate_left; clear_value cc)
        | (intro cc; refine_lift have hcc : Ok F cc.2.2 := ?_; ?_; subst cc; rotate_left; clear_value cc)
        | (intro cc; refine_lift have hcc : Ok F cc.2.2.2 := ?_; ?_; subst cc; rotate_left; clear_value cc)
        | (intro cc; refine_lift have hcc : Ok F cc.1 := ?_; ?_; subst cc; rotate_left; clear_value cc)
        | (intro cc; clear_value cc) | apply OkP_of | apply OkP_state | apply Ok_tput | apply Ok_found
        | apply foldl_keeps | apply foldl_keeps1 | apply foldl_keeps2 | apply forSpan_keeps | split
        | (refine of_eq1 (by assumption) ?_) | (refine of_eq2 (by assumption) ?_) | (refine of_eq3 (by assumption) ?_)
        | (refine of_eq4 (by assumption) ?_) | intro _ | simp only [↓Ok_mk] | lift_lets | dsimp only)
    | (with_reducible show _ ≤ (9 : Nat); decide))

theorem tlbFlush_keeps (t : Nat) (c : Chip)  (hok_c : Ok F c) : Ok F (tlbFlush t c) := by
  unfold tlbFlush
  repeat' ((with_reducible
      first
        | assumption | apply modHart_keeps | apply modGrove_keeps | apply forPart_keeps
        | (intro cc; refine_lift have hcc : Ok F cc := ?_; ?_; subst cc; rotate_left; clear_value cc)
        | (intro cc; clear_value cc) | apply OkP_of | apply foldl_keeps | intro _ | simp only [↓Ok_mk] | lift_lets
        | dsimp only))

theorem tlbFlushEnd_keeps (t : Nat) (c : Chip)  (hok_c : Ok F c) : Ok F (tlbFlushEnd t c) := by
  unfold tlbFlushEnd
  repeat' ((with_reducible
      first
        | assumption | apply setHart_keeps
        | (intro cc; refine_lift have hcc : Ok F cc := ?_; ?_; subst cc; rotate_left; clear_value cc)
        | (intro cc; clear_value cc) | split | lift_lets | dsimp only))

theorem queueResetCall_keeps (t : Nat) (c : Chip)  (hok_c : Ok F c) : Ok F (queueResetCall t c) := by
  unfold queueResetCall
  repeat' (first
    | (with_reducible
      first
        | assumption | apply startReset_keeps | apply sbiRet_keeps | apply forPart_keeps
        | (intro cc; refine_lift have hcc : Ok F cc := ?_; ?_; subst cc; rotate_left; clear_value cc)
        | (intro cc; refine_lift have hcc : Ok F cc.2 := ?_; ?_; subst cc; rotate_left; clear_value cc)
        | (intro cc; refine_lift have hcc : Ok F cc.2.2 := ?_; ?_; subst cc; rotate_left; clear_value cc)
        | (intro cc; refine_lift have hcc : Ok F cc.2.2.2 := ?_; ?_; subst cc; rotate_left; clear_value cc)
        | (intro cc; refine_lift have hcc : Ok F cc.1 := ?_; ?_; subst cc; rotate_left; clear_value cc)
        | (intro cc; clear_value cc) | apply OkP_of | apply OkP_state | apply Ok_tput | apply Ok_found
        | apply foldl_keeps | apply foldl_keeps1 | apply foldl_keeps2 | apply forSpan_keeps | split
        | (refine of_eq1 (by assumption) ?_) | (refine of_eq2 (by assumption) ?_) | (refine of_eq3 (by assumption) ?_)
        | (refine of_eq4 (by assumption) ?_) | intro _ | simp only [↓Ok_mk] | lift_lets | dsimp only)
    | (with_reducible show _ ≤ (9 : Nat); decide))

theorem ckptCommit_keeps (t : Nat) (c : Chip)  (hok_c : Ok F c) : Ok F (ckptCommit t c) := by
  unfold ckptCommit
  repeat' (first
    | (with_reducible
      first
        | assumption | apply emit_keeps | apply memWrite_keeps | apply countViolation_keeps | apply commitSave_keeps
        | apply sbiRet_keeps | apply forPart_keeps
        | (intro cc; refine_lift have hcc : Ok F cc := ?_; ?_; subst cc; rotate_left; clear_value cc)
        | (intro cc; refine_lift have hcc : Ok F cc.2 := ?_; ?_; subst cc; rotate_left; clear_value cc)
        | (intro cc; refine_lift have hcc : Ok F cc.2.2 := ?_; ?_; subst cc; rotate_left; clear_value cc)
        | (intro cc; refine_lift have hcc : Ok F cc.2.2.2 := ?_; ?_; subst cc; rotate_left; clear_value cc)
        | (intro cc; refine_lift have hcc : Ok F cc.1 := ?_; ?_; subst cc; rotate_left; clear_value cc)
        | (intro cc; clear_value cc) | apply OkP_of | apply OkP_state | apply Ok_tput | apply Ok_found
        | apply foldl_keeps | apply foldl_keeps1 | apply foldl_keeps2 | apply forSpan_keeps | split
        | (refine of_eq1 (by assumption) ?_) | (refine of_eq2 (by assumption) ?_) | (refine of_eq3 (by assumption) ?_)
        | (refine of_eq4 (by assumption) ?_) | intro _ | simp only [↓Ok_mk] | lift_lets | dsimp only)
    | (with_reducible show _ ≤ (9 : Nat); decide))

theorem recoveryInfo_keeps (t : Nat) (c : Chip)  (hok_c : Ok F c) : Ok F (recoveryInfo t c) := by
  unfold recoveryInfo
  repeat' (first
    | (with_reducible
      first
        | assumption | apply sbiRet_keeps | apply forPart_keeps
        | (intro cc; refine_lift have hcc : Ok F cc := ?_; ?_; subst cc; rotate_left; clear_value cc)
        | (intro cc; refine_lift have hcc : Ok F cc.2 := ?_; ?_; subst cc; rotate_left; clear_value cc)
        | (intro cc; refine_lift have hcc : Ok F cc.2.2 := ?_; ?_; subst cc; rotate_left; clear_value cc)
        | (intro cc; refine_lift have hcc : Ok F cc.2.2.2 := ?_; ?_; subst cc; rotate_left; clear_value cc)
        | (intro cc; refine_lift have hcc : Ok F cc.1 := ?_; ?_; subst cc; rotate_left; clear_value cc)
        | (intro cc; clear_value cc) | apply OkP_of | apply OkP_state | apply Ok_tput | apply Ok_found
        | apply foldl_keeps | apply foldl_keeps1 | apply foldl_keeps2 | apply forSpan_keeps | split
        | (refine of_eq1 (by assumption) ?_) | (refine of_eq2 (by assumption) ?_) | (refine of_eq3 (by assumption) ?_)
        | (refine of_eq4 (by assumption) ?_) | intro _ | simp only [↓Ok_mk] | lift_lets | dsimp only)
    | (with_reducible show _ ≤ (9 : Nat); decide))

theorem rotHint_keeps (t : Nat) (c : Chip)  (hok_c : Ok F c) : Ok F (rotHint t c) := by
  unfold rotHint
  repeat' (first
    | (with_reducible
      first
        | assumption | apply sbiRet_keeps | apply forPart_keeps
        | (intro cc; refine_lift have hcc : Ok F cc := ?_; ?_; subst cc; rotate_left; clear_value cc)
        | (intro cc; refine_lift have hcc : Ok F cc.2 := ?_; ?_; subst cc; rotate_left; clear_value cc)
        | (intro cc; refine_lift have hcc : Ok F cc.2.2 := ?_; ?_; subst cc; rotate_left; clear_value cc)
        | (intro cc; refine_lift have hcc : Ok F cc.2.2.2 := ?_; ?_; subst cc; rotate_left; clear_value cc)
        | (intro cc; refine_lift have hcc : Ok F cc.1 := ?_; ?_; subst cc; rotate_left; clear_value cc)
        | (intro cc; clear_value cc) | apply OkP_of | apply OkP_state | apply Ok_tput | apply Ok_found
        | apply foldl_keeps | apply foldl_keeps1 | apply foldl_keeps2 | apply forSpan_keeps | split
        | (refine of_eq1 (by assumption) ?_) | (refine of_eq2 (by assumption) ?_) | (refine of_eq3 (by assumption) ?_)
        | (refine of_eq4 (by assumption) ?_) | intro _ | simp only [↓Ok_mk] | lift_lets | dsimp only)
    | (with_reducible show _ ≤ (9 : Nat); decide))

theorem baseCall_keeps (t : Nat) (c : Chip)  (hok_c : Ok F c) : Ok F (baseCall t c) := by
  unfold baseCall
  repeat' ((with_reducible
      first
        | assumption | apply sbiRet_keeps
        | (intro cc; refine_lift have hcc : Ok F cc := ?_; ?_; subst cc; rotate_left; clear_value cc)
        | (intro cc; clear_value cc) | split | lift_lets | dsimp only))

theorem otherCall_keeps (t : Nat) (c : Chip)  (hok_c : Ok F c) : Ok F (otherCall t c) := by
  unfold otherCall
  repeat' ((with_reducible
      first
        | assumption | apply sbiRet_keeps | apply baseCall_keeps | split | dsimp only))

theorem endSleep_keeps (t : Nat) (c : Chip)  (hok_c : Ok F c) : Ok F (endSleep t c) := by
  unfold endSleep
  repeat' ((with_reducible
      first
        | assumption | apply wakeBlaze_keeps | apply OkP_of | split | simp only [↓Ok_mk] | dsimp only))

theorem contextSave_keeps (t : Nat) (c : Chip)  (hok_c : Ok F c) : Ok F (contextSave t c) := by
  unfold contextSave
  repeat' ((with_reducible
      first
        | assumption | apply setHart_keeps | apply releaseAll_keeps | apply endSleep_keeps
        | (intro cc; refine_lift have hcc : Ok F cc := ?_; ?_; subst cc; rotate_left; clear_value cc)
        | (intro cc; clear_value cc) | apply OkP_of | split | simp only [↓Ok_mk] | lift_lets | dsimp only))

theorem contextRestore_keeps (src dst : Nat) (c : Chip)  (hok_c : Ok F c) : Ok F (contextRestore src dst c) := by
  unfold contextRestore
  repeat' ((with_reducible
      first
        | assumption | apply setHart_keeps
        | (intro cc; refine_lift have hcc : Ok F cc := ?_; ?_; subst cc; rotate_left; clear_value cc)
        | (intro cc; clear_value cc) | apply OkP_of | split | simp only [↓Ok_mk] | lift_lets | dsimp only))

end Sys2Proof.Machine
end

