-- ==== Sys2Proof/Laws/KeepVector.lean ====
section
/-! SUPPORT. Every operation of Machine/Vector.lean keeps `Ok`. -/
set_option linter.all false
namespace Sys2Proof.Machine
variable {F : Fuse}

theorem vectorReduce_keeps (t vd vs2 vs1 : Nat) (op : RedOp) (masked : Bool) (insn : Nat) (c : Chip)  (hok_c : Ok F c) : Ok F (vectorReduce t vd vs2 vs1 op masked insn c) := by
  unfold vectorReduce
  repeat' ((with_reducible
      first
        | assumption | apply modHart_keeps | apply illegal_keeps
        | (intro cc; refine_lift have hcc : Ok F cc := ?_; ?_; subst cc; rotate_left; clear_value cc)
        | (intro cc; clear_value cc) | apply OkP_of | split | simp only [↓Ok_mk] | lift_lets | dsimp only))

end Sys2Proof.Machine
end

