-- ==== Sys2Proof/Laws/KeepMemCommands.lean ====
section
/-! SUPPORT. Every operation of Machine/MemCommands.lean keeps `Ok`. -/
set_option linter.all false
namespace Sys2Proof.Machine
variable {F : Fuse}

theorem sramPatrol_keeps (a : Nat) (e : Ecc) (c : Chip)  (hok_c : Ok F c) : Ok F (sramPatrol a e c) := by
  unfold sramPatrol
  repeat' ((with_reducible
      first
        | assumption | apply applyEcc_keeps | apply OkP_of | split | simp only [↓Ok_mk] | dsimp only))

theorem dramPatrol_keeps (a : Nat) (e : Ecc) (c : Chip)  (hok_c : Ok F c) : Ok F (dramPatrol a e c) := by
  unfold dramPatrol
  repeat' ((with_reducible
      first
        | assumption | apply setObj_keeps | apply applyEcc_keeps | apply dropGrant_keeps
        | (intro cc; refine_lift have hcc : Ok F cc := ?_; ?_; subst cc; rotate_left; clear_value cc)
        | (intro cc; clear_value cc) | apply OkP_of | split | simp only [↓Ok_mk] | lift_lets | dsimp only))

theorem patrolLag_keeps (us : Bool) (ctrl unread : Nat) (c : Chip)  (hok_c : Ok F c) : Ok F (patrolLag us ctrl unread c) := by
  unfold patrolLag
  repeat' ((with_reducible
      first
        | assumption | apply emit_keeps | split | dsimp only))

theorem usRegionDone_keeps (c : Chip)  (hok_c : Ok F c) : Ok F (usRegionDone c) := by
  unfold usRegionDone
  repeat' ((with_reducible
      first
        | assumption | apply emit_keeps | apply memClear_keeps
        | (intro cc; refine_lift have hcc : Ok F cc := ?_; ?_; subst cc; rotate_left; clear_value cc)
        | (intro cc; clear_value cc) | apply OkP_of | split | simp only [↓Ok_mk] | lift_lets | dsimp only))

theorem clearDone_keeps (c : Chip)  (hok_c : Ok F c) : Ok F (clearDone c) := by
  unfold clearDone
  repeat' ((with_reducible
      first
        | assumption | apply emit_keeps | apply memClear_keeps
        | (intro cc; refine_lift have hcc : Ok F cc := ?_; ?_; subst cc; rotate_left; clear_value cc)
        | (intro cc; clear_value cc) | apply OkP_of | split | simp only [↓Ok_mk] | lift_lets | dsimp only))

end Sys2Proof.Machine
end

