-- ==== Sys2Proof/Laws/KeepTick.lean ====
section
/-! SUPPORT. Every operation of Machine/Tick.lean keeps `Ok`. -/
set_option linter.all false
namespace Sys2Proof.Machine
variable {F : Fuse}

theorem tick_keeps (c : Chip)  (hok_c : Ok F c) : Ok F (tick c) := by
  unfold tick
  repeat' ((with_reducible
      first
        | assumption | apply sendHb_keeps
        | (intro cc; refine_lift have hcc : Ok F cc := ?_; ?_; subst cc; rotate_left; clear_value cc)
        | (intro cc; clear_value cc) | apply OkP_of | split | simp only [↓Ok_mk] | lift_lets | dsimp only))

end Sys2Proof.Machine
end

