-- ==== Sys2Proof/Laws/KeepExec.lean ====
section
/-! SUPPORT. Every command keeps `Ok`: one lemma per meaning. -/
set_option linter.all false
namespace Sys2Proof.Machine
variable {F : Fuse}

/-- A command whose effect keeps `Ok` keeps it. -/
theorem act_keeps {s t : State} {f : Chip → Chip} (h : act s f = .next t) (hf : Ok F (f s.m)) : Ok F t.m := by
  have h' : Host.Outcome.next { s with m := f s.m } = (Host.Outcome.next t : Out) := h
  injection h' with h'; subst h'; exact hf

/-- An instruction whose effect keeps `Ok` keeps it. -/
theorem insnAct_keeps {t : Thread} {insn : Nat} {va : Option (Acc × Nat)} {s s' : State} {f : Chip → Chip}
    (h : insnAct t insn va f s = .next s') (hok : Ok F s.m) (hf : ∀ c, Ok F c → Ok F (f c)) : Ok F s'.m :=
  act_keeps h (runInsn_keeps _ _ _ _ _ hf hok)

/-- A shim call whose effect keeps `Ok` keeps it. -/
theorem callAct_keeps {t : Thread} {s s' : State} {f : Nat → Chip → Chip}
    (h : callAct t f s = .next s') (hok : Ok F s.m) (hf : ∀ c, Ok F c → Ok F (f t.toNat c)) : Ok F s'.m :=
  act_keeps h (settle_keeps _ (runInsn_keeps _ _ _ _ _ (fun _ hc => ecall_keeps _ _ _ hf hc) hok))

theorem execStitchBoundary_keeps  (s s' : State) (hok : Ok F s.m) (h : execStitchBoundary s = .next s') : Ok F s'.m := by
  refine act_keeps h ?_
  repeat' (with_reducible first | assumption | apply act_keeps | apply stitchBoundary_keeps | apply OkP_of | split | simp only [↓Ok_mk] | dsimp only [id] | (intro x; intros))

theorem execGptpSync_keeps (port : BitVec 1) (gm : Word) (rank : Nat) (offset : Int) (s s' : State) (hok : Ok F s.m) (h : execGptpSync port gm rank offset s = .next s') : Ok F s'.m := by
  refine act_keeps h ?_
  repeat' (with_reducible first | assumption | apply act_keeps | apply settle_keeps | apply gptpSync_keeps | apply OkP_of | split | simp only [↓Ok_mk] | dsimp only [id] | (intro x; intros))

theorem execTimeHoldover_keeps  (s s' : State) (hok : Ok F s.m) (h : execTimeHoldover s = .next s') : Ok F s'.m := by
  refine act_keeps h ?_
  repeat' (with_reducible first | assumption | apply act_keeps | apply timeHoldover_keeps | apply OkP_of | split | simp only [↓Ok_mk] | dsimp only [id] | (intro x; intros))

theorem execTimeLost_keeps  (s s' : State) (hok : Ok F s.m) (h : execTimeLost s = .next s') : Ok F s'.m := by
  refine act_keeps h ?_
  repeat' (with_reducible first | assumption | apply act_keeps | apply timeLost_keeps | apply OkP_of | split | simp only [↓Ok_mk] | dsimp only [id] | (intro x; intros))

theorem execCounterSave_keeps  (s s' : State) (hok : Ok F s.m) (h : execCounterSave s = .next s') : Ok F s'.m := by
  refine act_keeps h ?_
  repeat' (with_reducible first | assumption | apply act_keeps | apply counterSave_keeps | apply OkP_of | split | simp only [↓Ok_mk] | dsimp only [id] | (intro x; intros))

theorem execGptpAnnounce_keeps (port : BitVec 1) (m : GptpMsg) (s s' : State) (hok : Ok F s.m) (h : execGptpAnnounce port m s = .next s') : Ok F s'.m := by
  refine act_keeps h ?_
  repeat' (with_reducible first | assumption | apply act_keeps | apply gptpAnnounce_keeps | apply OkP_of | split | simp only [↓Ok_mk] | dsimp only [id] | (intro x; intros))

theorem execRegisterWrite_keeps (b : RegBlock) (off : BitVec 16) (v hw : Word) (s s' : State) (hok : Ok F s.m) (h : execRegisterWrite b off v hw s = .next s') : Ok F s'.m := by
  refine act_keeps h ?_
  repeat' (with_reducible first | assumption | apply act_keeps | apply settle_keeps | apply regWrite_keeps | apply OkP_of | split | simp only [↓Ok_mk] | dsimp only [id] | (intro x; intros))

theorem execPkgPowerSample_keeps (pkg input : Nat) (s s' : State) (hok : Ok F s.m) (h : execPkgPowerSample pkg input s = .next s') : Ok F s'.m := by
  refine act_keeps h ?_
  repeat' (with_reducible first | assumption | apply act_keeps | apply warden_keeps | apply pkgSample_keeps | apply OkP_of | split | simp only [↓Ok_mk] | dsimp only [id] | (intro x; intros))

theorem execPwrCurrentLimit_keeps (die : BitVec 1) (s s' : State) (hok : Ok F s.m) (h : execPwrCurrentLimit die s = .next s') : Ok F s'.m := by
  refine act_keeps h ?_
  repeat' (with_reducible first | assumption | apply act_keeps | apply warden_keeps | apply currentLimit_keeps | apply OkP_of | split | simp only [↓Ok_mk] | dsimp only [id] | (intro x; intros))

theorem execPwrTjTrip_keeps (sensor : BitVec 9) (s s' : State) (hok : Ok F s.m) (h : execPwrTjTrip sensor s = .next s') : Ok F s'.m := by
  refine act_keeps h ?_
  repeat' (with_reducible first | assumption | apply act_keeps | apply warden_keeps | apply tjTrip_keeps | apply OkP_of | split | simp only [↓Ok_mk] | dsimp only [id] | (intro x; intros))

theorem execFloorLift_keeps (which : BitVec 3) (s s' : State) (hok : Ok F s.m) (h : execFloorLift which s = .next s') : Ok F s'.m := by
  refine act_keeps h ?_
  repeat' (with_reducible first | assumption | apply act_keeps | apply warden_keeps | apply OkP_of | split | simp only [↓Ok_mk] | dsimp only [id] | (intro x; intros))

theorem execSensorReading_keeps (sensor : BitVec 9) (v : Option Int) (s s' : State) (hok : Ok F s.m) (h : execSensorReading sensor v s = .next s') : Ok F s'.m := by
  refine act_keeps h ?_
  repeat' (with_reducible first | assumption | apply act_keeps | apply warden_keeps | apply readSensor_keeps | apply OkP_of | split | simp only [↓Ok_mk] | dsimp only [id] | (intro x; intros))

theorem execRthWindow_keeps (meanPower : Nat) (meanTj meanInlet : Int) (s s' : State) (hok : Ok F s.m) (h : execRthWindow meanPower meanTj meanInlet s = .next s') : Ok F s'.m := by
  refine act_keeps h ?_
  repeat' (with_reducible first | assumption | apply act_keeps | apply warden_keeps | apply rthEnd_keeps | apply OkP_of | split | simp only [↓Ok_mk] | dsimp only [id] | (intro x; intros))

theorem execBurstWindowClose_keeps  (s s' : State) (hok : Ok F s.m) (h : execBurstWindowClose s = .next s') : Ok F s'.m := by
  refine act_keeps h ?_
  repeat' (with_reducible first | assumption | apply act_keeps | apply warden_keeps | apply windowClose_keeps | apply OkP_of | split | simp only [↓Ok_mk] | dsimp only [id] | (intro x; intros))

theorem execBurstRecoveryEnd_keeps  (s s' : State) (hok : Ok F s.m) (h : execBurstRecoveryEnd s = .next s') : Ok F s'.m := by
  refine act_keeps h ?_
  repeat' (with_reducible first | assumption | apply act_keeps | apply warden_keeps | apply recoveryEnd_keeps | apply OkP_of | split | simp only [↓Ok_mk] | dsimp only [id] | (intro x; intros))

theorem execPwrBurstLimit_keeps  (s s' : State) (hok : Ok F s.m) (h : execPwrBurstLimit s = .next s') : Ok F s'.m := by
  refine act_keeps h ?_
  repeat' (with_reducible first | assumption | apply act_keeps | apply warden_keeps | apply burstLimit_keeps | apply OkP_of | split | simp only [↓Ok_mk] | dsimp only [id] | (intro x; intros))

theorem execPrVfDoorbell_keeps (v : BitVec 5) (val : BitVec 32) (s s' : State) (hok : Ok F s.m) (h : execPrVfDoorbell v val s = .next s') : Ok F s'.m := by
  refine act_keeps h ?_
  repeat' (with_reducible first | assumption | apply act_keeps | apply settle_keeps | apply vfDoorbell_keeps | apply OkP_of | split | simp only [↓Ok_mk] | dsimp only [id] | (intro x; intros))

theorem execHostWindowRead_keeps (v : BitVec 5) (off : BitVec 36) (len : BitVec 13) (ecc : Ecc) (s s' : State) (hok : Ok F s.m) (h : execHostWindowRead v off len ecc s = .next s') : Ok F s'.m := by
  refine act_keeps h ?_
  repeat' (with_reducible first | assumption | apply act_keeps | apply settleMem_keeps | apply hostRead_keeps | apply OkP_of | split | simp only [↓Ok_mk] | dsimp only [id] | (intro x; intros))

theorem execHostWindowWrite_keeps (v : BitVec 5) (off : BitVec 36) (data : Bytes) (ecc : Ecc) (s s' : State) (hok : Ok F s.m) (h : execHostWindowWrite v off data ecc s = .next s') : Ok F s'.m := by
  refine act_keeps h ?_
  repeat' (with_reducible first | assumption | apply act_keeps | apply settleMem_keeps | apply hostWrite_keeps | apply OkP_of | split | simp only [↓Ok_mk] | dsimp only [id] | (intro x; intros))

theorem execPerstN_keeps (link : BitVec 1) (low : Bool) (s s' : State) (hok : Ok F s.m) (h : execPerstN link low s = .next s') : Ok F s'.m := by
  refine act_keeps h ?_
  repeat' (with_reducible first | assumption | apply act_keeps | apply perst_keeps | apply OkP_of | split | simp only [↓Ok_mk] | dsimp only [id] | (intro x; intros))

theorem execPcieLinkChange_keeps (link : BitVec 1) (speed : BitVec 4) (width : BitVec 6) (s s' : State) (hok : Ok F s.m) (h : execPcieLinkChange link speed width s = .next s') : Ok F s'.m := by
  refine act_keeps h ?_
  repeat' (with_reducible first | assumption | apply act_keeps | apply pcieLink_keeps | apply OkP_of | split | simp only [↓Ok_mk] | dsimp only [id] | (intro x; intros))

theorem execIdeKm_keeps (stream : BitVec 5) (s s' : State) (hok : Ok F s.m) (h : execIdeKm stream s = .next s') : Ok F s'.m := by
  refine act_keeps h ?_
  repeat' (with_reducible first | assumption | apply act_keeps | apply ideKeyed_keeps | apply OkP_of | split | simp only [↓Ok_mk] | dsimp only [id] | (intro x; intros))

theorem execPartInfo_keeps (t : Thread) (s s' : State) (hok : Ok F s.m) (h : execPartInfo t s = .next s') : Ok F s'.m := by
  refine callAct_keeps h hok fun c hc => ?_
  repeat' (with_reducible first | assumption | apply callAct_keeps | apply partInfo_keeps | apply OkP_of | split | simp only [↓Ok_mk] | dsimp only [id] | (intro x; intros))

theorem execThreadStart_keeps (t : Thread) (s s' : State) (hok : Ok F s.m) (h : execThreadStart t s = .next s') : Ok F s'.m := by
  refine callAct_keeps h hok fun c hc => ?_
  repeat' (with_reducible first | assumption | apply callAct_keeps | apply threadStart_keeps | apply OkP_of | split | simp only [↓Ok_mk] | dsimp only [id] | (intro x; intros))

theorem execThreadStop_keeps (t : Thread) (s s' : State) (hok : Ok F s.m) (h : execThreadStop t s = .next s') : Ok F s'.m := by
  refine callAct_keeps h hok fun c hc => ?_
  repeat' (with_reducible first | assumption | apply callAct_keeps | apply threadStop_keeps | apply OkP_of | split | simp only [↓Ok_mk] | dsimp only [id] | (intro x; intros))

theorem execThreadClass_keeps (t : Thread) (s s' : State) (hok : Ok F s.m) (h : execThreadClass t s = .next s') : Ok F s'.m := by
  refine callAct_keeps h hok fun c hc => ?_
  repeat' (with_reducible first | assumption | apply callAct_keeps | apply threadClass_keeps | apply OkP_of | split | simp only [↓Ok_mk] | dsimp only [id] | (intro x; intros))

theorem execTagQuota_keeps (t : Thread) (s s' : State) (hok : Ok F s.m) (h : execTagQuota t s = .next s') : Ok F s'.m := by
  refine callAct_keeps h hok fun c hc => ?_
  repeat' (with_reducible first | assumption | apply callAct_keeps | apply tagQuota_keeps | apply OkP_of | split | simp only [↓Ok_mk] | dsimp only [id] | (intro x; intros))

theorem execTlbFlush_keeps (t : Thread) (s s' : State) (hok : Ok F s.m) (h : execTlbFlush t s = .next s') : Ok F s'.m := by
  refine callAct_keeps h hok fun c hc => ?_
  repeat' (with_reducible first | assumption | apply callAct_keeps | apply tlbFlush_keeps | apply OkP_of | split | simp only [↓Ok_mk] | dsimp only [id] | (intro x; intros))

theorem execTlbFlushDone_keeps (t : Thread) (s s' : State) (hok : Ok F s.m) (h : execTlbFlushDone t s = .next s') : Ok F s'.m := by
  refine act_keeps h ?_
  repeat' (with_reducible first | assumption | apply act_keeps | apply tlbFlushEnd_keeps | apply OkP_of | split | simp only [↓Ok_mk] | dsimp only [id] | (intro x; intros))

theorem execQueueReset_keeps (t : Thread) (s s' : State) (hok : Ok F s.m) (h : execQueueReset t s = .next s') : Ok F s'.m := by
  refine callAct_keeps h hok fun c hc => ?_
  repeat' (with_reducible first | assumption | apply callAct_keeps | apply queueResetCall_keeps | apply OkP_of | split | simp only [↓Ok_mk] | dsimp only [id] | (intro x; intros))

theorem execCkptCommit_keeps (t : Thread) (s s' : State) (hok : Ok F s.m) (h : execCkptCommit t s = .next s') : Ok F s'.m := by
  refine callAct_keeps h hok fun c hc => ?_
  repeat' (with_reducible first | assumption | apply callAct_keeps | apply ckptCommit_keeps | apply OkP_of | split | simp only [↓Ok_mk] | dsimp only [id] | (intro x; intros))

theorem execRecoveryInfo_keeps (t : Thread) (s s' : State) (hok : Ok F s.m) (h : execRecoveryInfo t s = .next s') : Ok F s'.m := by
  refine callAct_keeps h hok fun c hc => ?_
  repeat' (with_reducible first | assumption | apply callAct_keeps | apply recoveryInfo_keeps | apply OkP_of | split | simp only [↓Ok_mk] | dsimp only [id] | (intro x; intros))

theorem execRotHint_keeps (t : Thread) (s s' : State) (hok : Ok F s.m) (h : execRotHint t s = .next s') : Ok F s'.m := by
  refine callAct_keeps h hok fun c hc => ?_
  repeat' (with_reducible first | assumption | apply callAct_keeps | apply rotHint_keeps | apply OkP_of | split | simp only [↓Ok_mk] | dsimp only [id] | (intro x; intros))

theorem execSbiUnsupported_keeps (t : Thread) (s s' : State) (hok : Ok F s.m) (h : execSbiUnsupported t s = .next s') : Ok F s'.m := by
  refine callAct_keeps h hok fun c hc => ?_
  repeat' (with_reducible first | assumption | apply callAct_keeps | apply otherCall_keeps | apply OkP_of | split | simp only [↓Ok_mk] | dsimp only [id] | (intro x; intros))

theorem execContextSave_keeps (t : Thread) (s s' : State) (hok : Ok F s.m) (h : execContextSave t s = .next s') : Ok F s'.m := by
  refine act_keeps h ?_
  repeat' (with_reducible first | assumption | apply act_keeps | apply settle_keeps | apply contextSave_keeps | apply OkP_of | split | simp only [↓Ok_mk] | dsimp only [id] | (intro x; intros))

theorem execContextRestore_keeps (src dst : Thread) (s s' : State) (hok : Ok F s.m) (h : execContextRestore src dst s = .next s') : Ok F s'.m := by
  refine act_keeps h ?_
  repeat' (with_reducible first | assumption | apply act_keeps | apply contextRestore_keeps | apply OkP_of | split | simp only [↓Ok_mk] | dsimp only [id] | (intro x; intros))

theorem execSramPatrol_keeps (addr : BitVec 44) (ecc : Ecc) (s s' : State) (hok : Ok F s.m) (h : execSramPatrol addr ecc s = .next s') : Ok F s'.m := by
  refine act_keeps h ?_
  repeat' (with_reducible first | assumption | apply act_keeps | apply settleMem_keeps | apply sramPatrol_keeps | apply OkP_of | split | simp only [↓Ok_mk] | dsimp only [id] | (intro x; intros))

theorem execDramPatrolLine_keeps (addr : BitVec 44) (ecc : Ecc) (s s' : State) (hok : Ok F s.m) (h : execDramPatrolLine addr ecc s = .next s') : Ok F s'.m := by
  refine act_keeps h ?_
  repeat' (with_reducible first | assumption | apply act_keeps | apply settleMem_keeps | apply dramPatrol_keeps | apply OkP_of | split | simp only [↓Ok_mk] | dsimp only [id] | (intro x; intros))

theorem execMemPatrolLag_keeps (us : Bool) (ctrl : BitVec 8) (unread : Nat) (s s' : State) (hok : Ok F s.m) (h : execMemPatrolLag us ctrl unread s = .next s') : Ok F s'.m := by
  refine act_keeps h ?_
  repeat' (with_reducible first | assumption | apply act_keeps | apply patrolLag_keeps | apply OkP_of | split | simp only [↓Ok_mk] | dsimp only [id] | (intro x; intros))

theorem execUsScrubRegionDone_keeps  (s s' : State) (hok : Ok F s.m) (h : execUsScrubRegionDone s = .next s') : Ok F s'.m := by
  refine act_keeps h ?_
  repeat' (with_reducible first | assumption | apply act_keeps | apply usRegionDone_keeps | apply OkP_of | split | simp only [↓Ok_mk] | dsimp only [id] | (intro x; intros))

theorem execMemClearDone_keeps  (s s' : State) (hok : Ok F s.m) (h : execMemClearDone s = .next s') : Ok F s'.m := by
  refine act_keeps h ?_
  repeat' (with_reducible first | assumption | apply act_keeps | apply clearDone_keeps | apply OkP_of | split | simp only [↓Ok_mk] | dsimp only [id] | (intro x; intros))

theorem execEnginePacket_keeps (src : Source) (q : QNum) (ws : List (Word × Bool)) (bad : Bool) (s s' : State) (hok : Ok F s.m) (h : execEnginePacket src q ws bad s = .next s') : Ok F s'.m := by
  refine act_keeps h ?_
  repeat' (with_reducible first | assumption | apply act_keeps | apply settle_keeps | apply putPacket_keeps | apply OkP_of | split | simp only [↓Ok_mk] | dsimp only [id] | (intro x; intros))

theorem execQResetDone_keeps (q : QNum) (s s' : State) (hok : Ok F s.m) (h : execQResetDone q s = .next s') : Ok F s'.m := by
  refine act_keeps h ?_
  repeat' (with_reducible first | assumption | apply act_keeps | apply finishReset_keeps | apply OkP_of | split | simp only [↓Ok_mk] | dsimp only [id] | (intro x; intros))

theorem execBzDumpDone_keeps  (s s' : State) (hok : Ok F s.m) (h : execBzDumpDone s = .next s') : Ok F s'.m := by
  refine act_keeps h ?_
  repeat' (with_reducible first | assumption | apply act_keeps | apply finishDump_keeps | apply OkP_of | split | simp only [↓Ok_mk] | dsimp only [id] | (intro x; intros))

theorem execKvpOpen_keeps (p : Part) (hook : Option (List Word)) (s s' : State) (hok : Ok F s.m) (h : execKvpOpen p hook s = .next s') : Ok F s'.m := by
  refine act_keeps h ?_
  repeat' (with_reducible first | assumption | apply act_keeps | apply settle_keeps | apply kvRead_keeps | apply OkP_of | split | simp only [↓Ok_mk] | dsimp only [id] | (intro x; intros))

theorem execKvpAppend_keeps (p : Part) (hook : Option (List Word)) (s s' : State) (hok : Ok F s.m) (h : execKvpAppend p hook s = .next s') : Ok F s'.m := by
  refine act_keeps h ?_
  repeat' (with_reducible first | assumption | apply act_keeps | apply settle_keeps | apply kvRead_keeps | apply OkP_of | split | simp only [↓Ok_mk] | dsimp only [id] | (intro x; intros))

theorem execKvpMap_keeps (p : Part) (hook : Option (List Word)) (s s' : State) (hok : Ok F s.m) (h : execKvpMap p hook s = .next s') : Ok F s'.m := by
  refine act_keeps h ?_
  repeat' (with_reducible first | assumption | apply act_keeps | apply settle_keeps | apply kvRead_keeps | apply OkP_of | split | simp only [↓Ok_mk] | dsimp only [id] | (intro x; intros))

theorem execKvpUnpin_keeps (p : Part) (hook : Option (List Word)) (s s' : State) (hok : Ok F s.m) (h : execKvpUnpin p hook s = .next s') : Ok F s'.m := by
  refine act_keeps h ?_
  repeat' (with_reducible first | assumption | apply act_keeps | apply settle_keeps | apply kvRead_keeps | apply OkP_of | split | simp only [↓Ok_mk] | dsimp only [id] | (intro x; intros))

theorem execKvpPrefetch_keeps (p : Part) (hook : Option (List Word)) (s s' : State) (hok : Ok F s.m) (h : execKvpPrefetch p hook s = .next s') : Ok F s'.m := by
  refine act_keeps h ?_
  repeat' (with_reducible first | assumption | apply act_keeps | apply settle_keeps | apply kvRead_keeps | apply OkP_of | split | simp only [↓Ok_mk] | dsimp only [id] | (intro x; intros))

theorem execKvpSpill_keeps (p : Part) (hook : Option (List Word)) (s s' : State) (hok : Ok F s.m) (h : execKvpSpill p hook s = .next s') : Ok F s'.m := by
  refine act_keeps h ?_
  repeat' (with_reducible first | assumption | apply act_keeps | apply settle_keeps | apply kvRead_keeps | apply OkP_of | split | simp only [↓Ok_mk] | dsimp only [id] | (intro x; intros))

theorem execKvpClose_keeps (p : Part) (hook : Option (List Word)) (s s' : State) (hok : Ok F s.m) (h : execKvpClose p hook s = .next s') : Ok F s'.m := by
  refine act_keeps h ?_
  repeat' (with_reducible first | assumption | apply act_keeps | apply settle_keeps | apply kvRead_keeps | apply OkP_of | split | simp only [↓Ok_mk] | dsimp only [id] | (intro x; intros))

theorem execKvpBucket_keeps (p : Part) (hook : Option (List Word)) (s s' : State) (hok : Ok F s.m) (h : execKvpBucket p hook s = .next s') : Ok F s'.m := by
  refine act_keeps h ?_
  repeat' (with_reducible first | assumption | apply act_keeps | apply settle_keeps | apply kvRead_keeps | apply OkP_of | split | simp only [↓Ok_mk] | dsimp only [id] | (intro x; intros))

theorem execKvPageMoveDone_keeps (k : Nat) (ecc : Ecc) (s s' : State) (hok : Ok F s.m) (h : execKvPageMoveDone k ecc s = .next s') : Ok F s'.m := by
  refine act_keeps h ?_
  repeat' (with_reducible first | assumption | apply act_keeps | apply settleMem_keeps | apply kvMoveDone_keeps | apply OkP_of | split | simp only [↓Ok_mk] | dsimp only [id] | (intro x; intros))

theorem execKvRspBlocked_keeps (p : Part) (s s' : State) (hok : Ok F s.m) (h : execKvRspBlocked p s = .next s') : Ok F s'.m := by
  refine act_keeps h ?_
  repeat' (with_reducible first | assumption | apply act_keeps | apply settle_keeps | apply kvRetry_keeps | apply OkP_of | split | simp only [↓Ok_mk] | dsimp only [id] | (intro x; intros))

theorem execSeqOpen_keeps (p : Part) (s s' : State) (hok : Ok F s.m) (h : execSeqOpen p s = .next s') : Ok F s'.m := by
  refine act_keeps h ?_
  repeat' (with_reducible first | assumption | apply act_keeps | apply settle_keeps | apply srvRead_keeps | apply OkP_of | split | simp only [↓Ok_mk] | dsimp only [id] | (intro x; intros))

theorem execSeqClose_keeps (p : Part) (hook : Option (List Word)) (s s' : State) (hok : Ok F s.m) (h : execSeqClose p hook s = .next s') : Ok F s'.m := by
  refine act_keeps h ?_
  repeat' (with_reducible first | assumption | apply act_keeps | apply settle_keeps | apply srvRead_keeps | apply OkP_of | split | simp only [↓Ok_mk] | dsimp only [id] | (intro x; intros))

theorem execPfxLookup_keeps (p : Part) (s s' : State) (hok : Ok F s.m) (h : execPfxLookup p s = .next s') : Ok F s'.m := by
  refine act_keeps h ?_
  repeat' (with_reducible first | assumption | apply act_keeps | apply settle_keeps | apply srvRead_keeps | apply OkP_of | split | simp only [↓Ok_mk] | dsimp only [id] | (intro x; intros))

theorem execPfxInsert_keeps (p : Part) (s s' : State) (hok : Ok F s.m) (h : execPfxInsert p s = .next s') : Ok F s'.m := by
  refine act_keeps h ?_
  repeat' (with_reducible first | assumption | apply act_keeps | apply settle_keeps | apply srvRead_keeps | apply OkP_of | split | simp only [↓Ok_mk] | dsimp only [id] | (intro x; intros))

theorem execPfxRemove_keeps (p : Part) (s s' : State) (hok : Ok F s.m) (h : execPfxRemove p s = .next s') : Ok F s'.m := by
  refine act_keeps h ?_
  repeat' (with_reducible first | assumption | apply act_keeps | apply settle_keeps | apply srvRead_keeps | apply OkP_of | split | simp only [↓Ok_mk] | dsimp only [id] | (intro x; intros))

theorem execAdmit_keeps (p : Part) (s s' : State) (hok : Ok F s.m) (h : execAdmit p s = .next s') : Ok F s'.m := by
  refine act_keeps h ?_
  repeat' (with_reducible first | assumption | apply act_keeps | apply settle_keeps | apply srvRead_keeps | apply OkP_of | split | simp only [↓Ok_mk] | dsimp only [id] | (intro x; intros))

theorem execStepDone_keeps (p : Part) (s s' : State) (hok : Ok F s.m) (h : execStepDone p s = .next s') : Ok F s'.m := by
  refine act_keeps h ?_
  repeat' (with_reducible first | assumption | apply act_keeps | apply settle_keeps | apply srvRead_keeps | apply OkP_of | split | simp only [↓Ok_mk] | dsimp only [id] | (intro x; intros))

theorem execSrvRspBlocked_keeps (p : Part) (s s' : State) (hok : Ok F s.m) (h : execSrvRspBlocked p s = .next s') : Ok F s'.m := by
  refine act_keeps h ?_
  repeat' (with_reducible first | assumption | apply act_keeps | apply settle_keeps | apply srvRetry_keeps | apply OkP_of | split | simp only [↓Ok_mk] | dsimp only [id] | (intro x; intros))

theorem execVidOpen_keeps (p : Part) (s s' : State) (hok : Ok F s.m) (h : execVidOpen p s = .next s') : Ok F s'.m := by
  refine act_keeps h ?_
  repeat' (with_reducible first | assumption | apply act_keeps | apply vidRead_keeps | apply OkP_of | split | simp only [↓Ok_mk] | dsimp only [id] | (intro x; intros))

theorem execVidDecode_keeps (p : Part) (pics : List DecPic) (s s' : State) (hok : Ok F s.m) (h : execVidDecode p pics s = .next s') : Ok F s'.m := by
  refine act_keeps h ?_
  repeat' (with_reducible first | assumption | apply act_keeps | apply vidRead_keeps | apply OkP_of | split | simp only [↓Ok_mk] | dsimp only [id] | (intro x; intros))

theorem execVidEncode_keeps (p : Part) (s s' : State) (hok : Ok F s.m) (h : execVidEncode p s = .next s') : Ok F s'.m := by
  refine act_keeps h ?_
  repeat' (with_reducible first | assumption | apply act_keeps | apply vidRead_keeps | apply OkP_of | split | simp only [↓Ok_mk] | dsimp only [id] | (intro x; intros))

theorem execVidRelease_keeps (p : Part) (s s' : State) (hok : Ok F s.m) (h : execVidRelease p s = .next s') : Ok F s'.m := by
  refine act_keeps h ?_
  repeat' (with_reducible first | assumption | apply act_keeps | apply vidRead_keeps | apply OkP_of | split | simp only [↓Ok_mk] | dsimp only [id] | (intro x; intros))

theorem execVidEnd_keeps (p : Part) (s s' : State) (hok : Ok F s.m) (h : execVidEnd p s = .next s') : Ok F s'.m := by
  refine act_keeps h ?_
  repeat' (with_reducible first | assumption | apply act_keeps | apply vidRead_keeps | apply OkP_of | split | simp only [↓Ok_mk] | dsimp only [id] | (intro x; intros))

theorem execVidBsFree_keeps (p : Part) (s s' : State) (hok : Ok F s.m) (h : execVidBsFree p s = .next s') : Ok F s'.m := by
  refine act_keeps h ?_
  repeat' (with_reducible first | assumption | apply act_keeps | apply vidRead_keeps | apply OkP_of | split | simp only [↓Ok_mk] | dsimp only [id] | (intro x; intros))

theorem execVidClose_keeps (p : Part) (s s' : State) (hok : Ok F s.m) (h : execVidClose p s = .next s') : Ok F s'.m := by
  refine act_keeps h ?_
  repeat' (with_reducible first | assumption | apply act_keeps | apply vidRead_keeps | apply OkP_of | split | simp only [↓Ok_mk] | dsimp only [id] | (intro x; intros))

theorem execVideoPieceDone_keeps (core : BitVec 3) (e : PieceEnd) (s s' : State) (hok : Ok F s.m) (h : execVideoPieceDone core e s = .next s') : Ok F s'.m := by
  refine act_keeps h ?_
  repeat' (with_reducible first | assumption | apply act_keeps | apply pieceDone_keeps | apply OkP_of | split | simp only [↓Ok_mk] | dsimp only [id] | (intro x; intros))

theorem execVideoPreempt_keeps (core : BitVec 3) (s s' : State) (hok : Ok F s.m) (h : execVideoPreempt core s = .next s') : Ok F s'.m := by
  refine act_keeps h ?_
  repeat' (with_reducible first | assumption | apply act_keeps | apply vidPreemptNow_keeps | apply OkP_of | split | simp only [↓Ok_mk] | dsimp only [id] | (intro x; intros))

theorem execMotionLevel1Done_keeps (pic : Nat) (intra inter : Word) (s s' : State) (hok : Ok F s.m) (h : execMotionLevel1Done pic intra inter s = .next s') : Ok F s'.m := by
  refine act_keeps h ?_
  repeat' (with_reducible first | assumption | apply act_keeps | apply motionDone_keeps | apply OkP_of | split | simp only [↓Ok_mk] | dsimp only [id] | (intro x; intros))

theorem execVidRcLate_keeps (pic : Nat) (s s' : State) (hok : Ok F s.m) (h : execVidRcLate pic s = .next s') : Ok F s'.m := by
  refine act_keeps h ?_
  repeat' (with_reducible first | assumption | apply act_keeps | apply rateLate_keeps | apply OkP_of | split | simp only [↓Ok_mk] | dsimp only [id] | (intro x; intros))

theorem execVidWatchdog_keeps (core : BitVec 3) (unfinished : Nat) (s s' : State) (hok : Ok F s.m) (h : execVidWatchdog core unfinished s = .next s') : Ok F s'.m := by
  refine act_keeps h ?_
  repeat' (with_reducible first | assumption | apply act_keeps | apply watchdog_keeps | apply OkP_of | split | simp only [↓Ok_mk] | dsimp only [id] | (intro x; intros))

theorem execVidOutBlocked_keeps (ses : BitVec 6) (s s' : State) (hok : Ok F s.m) (h : execVidOutBlocked ses s = .next s') : Ok F s'.m := by
  refine act_keeps h ?_
  repeat' (with_reducible first | assumption | apply act_keeps | apply vidOutRetry_keeps | apply OkP_of | split | simp only [↓Ok_mk] | dsimp only [id] | (intro x; intros))

theorem execVidRspBlocked_keeps (p : Part) (s s' : State) (hok : Ok F s.m) (h : execVidRspBlocked p s = .next s') : Ok F s'.m := by
  refine act_keeps h ?_
  repeat' (with_reducible first | assumption | apply act_keeps | apply vidRetry_keeps | apply OkP_of | split | simp only [↓Ok_mk] | dsimp only [id] | (intro x; intros))

theorem execRead_keeps (who : Requester) (r : FdpReq) (s s' : State) (hok : Ok F s.m) (h : execRead who r s = .next s') : Ok F s'.m := by
  refine act_keeps h ?_
  repeat' (with_reducible first | assumption | apply act_keeps | apply serve_keeps | apply OkP_of | split | simp only [↓Ok_mk] | dsimp only [id] | (intro x; intros))

theorem execWrite_keeps (who : Requester) (r : FdpReq) (env : WriteEnv) (s s' : State) (hok : Ok F s.m) (h : execWrite who r env s = .next s') : Ok F s'.m := by
  refine act_keeps h ?_
  repeat' (with_reducible first | assumption | apply act_keeps | apply serveGeneral_keeps | apply OkP_of | split | simp only [↓Ok_mk] | dsimp only [id] | (intro x; intros))

theorem execReadList_keeps (who : Requester) (r : FdpReq) (s s' : State) (hok : Ok F s.m) (h : execReadList who r s = .next s') : Ok F s'.m := by
  refine act_keeps h ?_
  repeat' (with_reducible first | assumption | apply act_keeps | apply serve_keeps | apply OkP_of | split | simp only [↓Ok_mk] | dsimp only [id] | (intro x; intros))

theorem execWriteList_keeps (who : Requester) (r : FdpReq) (env : WriteEnv) (s s' : State) (hok : Ok F s.m) (h : execWriteList who r env s = .next s') : Ok F s'.m := by
  refine act_keeps h ?_
  repeat' (with_reducible first | assumption | apply act_keeps | apply serveGeneral_keeps | apply OkP_of | split | simp only [↓Ok_mk] | dsimp only [id] | (intro x; intros))

theorem execWindowRead_keeps (who : Requester) (r : FdpReq) (s s' : State) (hok : Ok F s.m) (h : execWindowRead who r s = .next s') : Ok F s'.m := by
  refine act_keeps h ?_
  repeat' (with_reducible first | assumption | apply act_keeps | apply serve_keeps | apply OkP_of | split | simp only [↓Ok_mk] | dsimp only [id] | (intro x; intros))

theorem execWindowWrite_keeps (who : Requester) (r : FdpReq) (env : WriteEnv) (s s' : State) (hok : Ok F s.m) (h : execWindowWrite who r env s = .next s') : Ok F s'.m := by
  refine act_keeps h ?_
  repeat' (with_reducible first | assumption | apply act_keeps | apply serveGeneral_keeps | apply OkP_of | split | simp only [↓Ok_mk] | dsimp only [id] | (intro x; intros))

theorem execRecordFetch_keeps (who : Requester) (r : FdpReq) (s s' : State) (hok : Ok F s.m) (h : execRecordFetch who r s = .next s') : Ok F s'.m := by
  refine act_keeps h ?_
  repeat' (with_reducible first | assumption | apply act_keeps | apply serve_keeps | apply OkP_of | split | simp only [↓Ok_mk] | dsimp only [id] | (intro x; intros))

theorem execIdentify_keeps (who : Requester) (r : FdpReq) (s s' : State) (hok : Ok F s.m) (h : execIdentify who r s = .next s') : Ok F s'.m := by
  refine act_keeps h ?_
  repeat' (with_reducible first | assumption | apply act_keeps | apply serve_keeps | apply OkP_of | split | simp only [↓Ok_mk] | dsimp only [id] | (intro x; intros))

theorem execDescribe_keeps (who : Requester) (r : FdpReq) (s s' : State) (hok : Ok F s.m) (h : execDescribe who r s = .next s') : Ok F s'.m := by
  refine act_keeps h ?_
  repeat' (with_reducible first | assumption | apply act_keeps | apply serve_keeps | apply OkP_of | split | simp only [↓Ok_mk] | dsimp only [id] | (intro x; intros))

theorem execHoldoverMaxS_keeps (who : Requester) (h : ReqHdr) (v : BitVec 16) (env : WriteEnv) (s s' : State) (hok : Ok F s.m) (h : execHoldoverMaxS who h v env s = .next s') : Ok F s'.m := by
  refine act_keeps h ?_
  repeat' (with_reducible first | assumption | apply act_keeps | apply serveOne_keeps | apply OkP_of | split | simp only [↓Ok_mk] | dsimp only [id] | (intro x; intros))

theorem execPendArm_keeps (who : Requester) (h : ReqHdr) (v : BitVec 8) (s s' : State) (hok : Ok F s.m) (h : execPendArm who h v s = .next s') : Ok F s'.m := by
  refine act_keeps h ?_
  repeat' (with_reducible first | assumption | apply act_keeps | apply serveOne_keeps | apply OkP_of | split | simp only [↓Ok_mk] | dsimp only [id] | (intro x; intros))

theorem execSessionClose_keeps (who : Requester) (h : ReqHdr) (v : BitVec 8) (s s' : State) (hok : Ok F s.m) (h : execSessionClose who h v s = .next s') : Ok F s'.m := by
  refine act_keeps h ?_
  repeat' (with_reducible first | assumption | apply act_keeps | apply serveOne_keeps | apply OkP_of | split | simp only [↓Ok_mk] | dsimp only [id] | (intro x; intros))

theorem execQResetReq_keeps (who : Requester) (h : ReqHdr) (q : BitVec 32) (v : BitVec 8) (s s' : State) (hok : Ok F s.m) (h : execQResetReq who h q v s = .next s') : Ok F s'.m := by
  refine act_keeps h ?_
  repeat' (with_reducible first | assumption | apply act_keeps | apply serveOne_keeps | apply OkP_of | split | simp only [↓Ok_mk] | dsimp only [id] | (intro x; intros))

theorem execBzSnapReq_keeps (who : Requester) (h : ReqHdr) (v : BitVec 8) (s s' : State) (hok : Ok F s.m) (h : execBzSnapReq who h v s = .next s') : Ok F s'.m := by
  refine act_keeps h ?_
  repeat' (with_reducible first | assumption | apply act_keeps | apply serveOne_keeps | apply OkP_of | split | simp only [↓Ok_mk] | dsimp only [id] | (intro x; intros))

theorem execBzRestoreReq_keeps (who : Requester) (h : ReqHdr) (v : BitVec 8) (s s' : State) (hok : Ok F s.m) (h : execBzRestoreReq who h v s = .next s') : Ok F s'.m := by
  refine act_keeps h ?_
  repeat' (with_reducible first | assumption | apply act_keeps | apply serveOne_keeps | apply OkP_of | split | simp only [↓Ok_mk] | dsimp only [id] | (intro x; intros))

theorem execDumpReq_keeps (who : Requester) (h : ReqHdr) (v : BitVec 8) (s s' : State) (hok : Ok F s.m) (h : execDumpReq who h v s = .next s') : Ok F s'.m := by
  refine act_keeps h ?_
  repeat' (with_reducible first | assumption | apply act_keeps | apply serveOne_keeps | apply OkP_of | split | simp only [↓Ok_mk] | dsimp only [id] | (intro x; intros))

theorem execRefillArm_keeps (who : Requester) (h : ReqHdr) (v : BitVec 8) (s s' : State) (hok : Ok F s.m) (h : execRefillArm who h v s = .next s') : Ok F s'.m := by
  refine act_keeps h ?_
  repeat' (with_reducible first | assumption | apply act_keeps | apply serveOne_keeps | apply OkP_of | split | simp only [↓Ok_mk] | dsimp only [id] | (intro x; intros))

theorem execStageArm_keeps (who : Requester) (h : ReqHdr) (v : BitVec 8) (s s' : State) (hok : Ok F s.m) (h : execStageArm who h v s = .next s') : Ok F s'.m := by
  refine act_keeps h ?_
  repeat' (with_reducible first | assumption | apply act_keeps | apply serveOne_keeps | apply OkP_of | split | simp only [↓Ok_mk] | dsimp only [id] | (intro x; intros))

theorem execSesOpen_keeps (who : Requester) (h : ReqHdr) (peer : BitVec 16) (v : BitVec 8) (s s' : State) (hok : Ok F s.m) (h : execSesOpen who h peer v s = .next s') : Ok F s'.m := by
  refine act_keeps h ?_
  repeat' (with_reducible first | assumption | apply act_keeps | apply serveOne_keeps | apply OkP_of | split | simp only [↓Ok_mk] | dsimp only [id] | (intro x; intros))

theorem execPairArm_keeps (who : Requester) (h : ReqHdr) (v : BitVec 8) (s s' : State) (hok : Ok F s.m) (h : execPairArm who h v s = .next s') : Ok F s'.m := by
  refine act_keeps h ?_
  repeat' (with_reducible first | assumption | apply act_keeps | apply serveOne_keeps | apply OkP_of | split | simp only [↓Ok_mk] | dsimp only [id] | (intro x; intros))

theorem execPairSwap_keeps (who : Requester) (h : ReqHdr) (v : BitVec 8) (s s' : State) (hok : Ok F s.m) (h : execPairSwap who h v s = .next s') : Ok F s'.m := by
  refine act_keeps h ?_
  repeat' (with_reducible first | assumption | apply act_keeps | apply serveOne_keeps | apply OkP_of | split | simp only [↓Ok_mk] | dsimp only [id] | (intro x; intros))

theorem execPairMode_keeps (who : Requester) (h : ReqHdr) (v : BitVec 8) (env : WriteEnv) (s s' : State) (hok : Ok F s.m) (h : execPairMode who h v env s = .next s') : Ok F s'.m := by
  refine act_keeps h ?_
  repeat' (with_reducible first | assumption | apply act_keeps | apply serveOne_keeps | apply OkP_of | split | simp only [↓Ok_mk] | dsimp only [id] | (intro x; intros))

theorem execPrtRestart_keeps (who : Requester) (h : ReqHdr) (p : BitVec 8) (v : BitVec 8) (s s' : State) (hok : Ok F s.m) (h : execPrtRestart who h p v s = .next s') : Ok F s'.m := by
  refine act_keeps h ?_
  repeat' (with_reducible first | assumption | apply act_keeps | apply serveOne_keeps | apply OkP_of | split | simp only [↓Ok_mk] | dsimp only [id] | (intro x; intros))

theorem execRollArm_keeps (who : Requester) (h : ReqHdr) (v : BitVec 8) (s s' : State) (hok : Ok F s.m) (h : execRollArm who h v s = .next s') : Ok F s'.m := by
  refine act_keeps h ?_
  repeat' (with_reducible first | assumption | apply act_keeps | apply serveOne_keeps | apply OkP_of | split | simp only [↓Ok_mk] | dsimp only [id] | (intro x; intros))

theorem execAdmitAt_keeps (who : Requester) (h : ReqHdr) (v : Word) (env : WriteEnv) (s s' : State) (hok : Ok F s.m) (h : execAdmitAt who h v env s = .next s') : Ok F s'.m := by
  refine act_keeps h ?_
  repeat' (with_reducible first | assumption | apply act_keeps | apply serveOne_keeps | apply OkP_of | split | simp only [↓Ok_mk] | dsimp only [id] | (intro x; intros))

theorem execPmClear_keeps (who : Requester) (h : ReqHdr) (v : BitVec 8) (s s' : State) (hok : Ok F s.m) (h : execPmClear who h v s = .next s') : Ok F s'.m := by
  refine act_keeps h ?_
  repeat' (with_reducible first | assumption | apply act_keeps | apply serveOne_keeps | apply OkP_of | split | simp only [↓Ok_mk] | dsimp only [id] | (intro x; intros))

theorem execPolicyCap_keeps (who : Requester) (h : ReqHdr) (v : BitVec 16) (env : WriteEnv) (s s' : State) (hok : Ok F s.m) (h : execPolicyCap who h v env s = .next s') : Ok F s'.m := by
  refine act_keeps h ?_
  repeat' (with_reducible first | assumption | apply act_keeps | apply serveOne_keeps | apply OkP_of | split | simp only [↓Ok_mk] | dsimp only [id] | (intro x; intros))

theorem execMapArm_keeps (who : Requester) (h : ReqHdr) (v : BitVec 8) (s s' : State) (hok : Ok F s.m) (h : execMapArm who h v s = .next s') : Ok F s'.m := by
  refine act_keeps h ?_
  repeat' (with_reducible first | assumption | apply act_keeps | apply serveOne_keeps | apply OkP_of | split | simp only [↓Ok_mk] | dsimp only [id] | (intro x; intros))

theorem execKeyBlob_keeps (who : Requester) (h : ReqHdr) (sel : BitVec 8) (blob : Bytes) (plain : Option Bytes) (s s' : State) (hok : Ok F s.m) (h : execKeyBlob who h sel blob plain s = .next s') : Ok F s'.m := by
  refine act_keeps h ?_
  repeat' (with_reducible first | assumption | apply act_keeps | apply serve_keeps | apply OkP_of | split | simp only [↓Ok_mk] | dsimp only [id] | (intro x; intros))

theorem execAttGen_keeps (who : Requester) (h : ReqHdr) (sel : BitVec 8) (v : BitVec 8) (s s' : State) (hok : Ok F s.m) (h : execAttGen who h sel v s = .next s') : Ok F s'.m := by
  refine act_keeps h ?_
  repeat' (with_reducible first | assumption | apply act_keeps | apply serveOne_keeps | apply OkP_of | split | simp only [↓Ok_mk] | dsimp only [id] | (intro x; intros))

theorem execDebugLock_keeps (who : Requester) (h : ReqHdr) (v : BitVec 8) (s s' : State) (hok : Ok F s.m) (h : execDebugLock who h v s = .next s') : Ok F s'.m := by
  refine act_keeps h ?_
  repeat' (with_reducible first | assumption | apply act_keeps | apply serveOne_keeps | apply OkP_of | split | simp only [↓Ok_mk] | dsimp only [id] | (intro x; intros))

theorem execFuseProg_keeps (who : Requester) (h : ReqHdr) (v : BitVec 8) (tookLow tookHigh copyLow copyHigh : BitVec 32) (s s' : State) (hok : Ok F s.m) (h : execFuseProg who h v tookLow tookHigh copyLow copyHigh s = .next s') : Ok F s'.m := by
  refine act_keeps h ?_
  repeat' (with_reducible first | assumption | apply act_keeps | apply serve_keeps | apply OkP_of | split | simp only [↓Ok_mk] | dsimp only [id] | (intro x; intros))

theorem execFwErase_keeps (who : Requester) (h : ReqHdr) (v : BitVec 8) (s s' : State) (hok : Ok F s.m) (h : execFwErase who h v s = .next s') : Ok F s'.m := by
  refine act_keeps h ?_
  repeat' (with_reducible first | assumption | apply act_keeps | apply serveOne_keeps | apply OkP_of | split | simp only [↓Ok_mk] | dsimp only [id] | (intro x; intros))

theorem execFwChunk_keeps (who : Requester) (h : ReqHdr) (sel : BitVec 16) (data : Bytes) (s s' : State) (hok : Ok F s.m) (h : execFwChunk who h sel data s = .next s') : Ok F s'.m := by
  refine act_keeps h ?_
  repeat' (with_reducible first | assumption | apply act_keeps | apply serveOne_keeps | apply OkP_of | split | simp only [↓Ok_mk] | dsimp only [id] | (intro x; intros))

theorem execFwCommit_keeps (who : Requester) (h : ReqHdr) (v : BitVec 8) (s s' : State) (hok : Ok F s.m) (h : execFwCommit who h v s = .next s') : Ok F s'.m := by
  refine act_keeps h ?_
  repeat' (with_reducible first | assumption | apply act_keeps | apply serveOne_keeps | apply OkP_of | split | simp only [↓Ok_mk] | dsimp only [id] | (intro x; intros))

theorem execFwTrial_keeps (who : Requester) (h : ReqHdr) (v : BitVec 8) (env : WriteEnv) (s s' : State) (hok : Ok F s.m) (h : execFwTrial who h v env s = .next s') : Ok F s'.m := by
  refine act_keeps h ?_
  repeat' (with_reducible first | assumption | apply act_keeps | apply serveOne_keeps | apply OkP_of | split | simp only [↓Ok_mk] | dsimp only [id] | (intro x; intros))

theorem execFwConfirm_keeps (who : Requester) (h : ReqHdr) (v : BitVec 8) (s s' : State) (hok : Ok F s.m) (h : execFwConfirm who h v s = .next s') : Ok F s'.m := by
  refine act_keeps h ?_
  repeat' (with_reducible first | assumption | apply act_keeps | apply serveOne_keeps | apply OkP_of | split | simp only [↓Ok_mk] | dsimp only [id] | (intro x; intros))

theorem execFwRestart_keeps (who : Requester) (h : ReqHdr) (v : BitVec 8) (s s' : State) (hok : Ok F s.m) (h : execFwRestart who h v s = .next s') : Ok F s'.m := by
  refine act_keeps h ?_
  repeat' (with_reducible first | assumption | apply act_keeps | apply serveOne_keeps | apply OkP_of | split | simp only [↓Ok_mk] | dsimp only [id] | (intro x; intros))

theorem execModuleResetReq_keeps (who : Requester) (h : ReqHdr) (v : BitVec 8) (s s' : State) (hok : Ok F s.m) (h : execModuleResetReq who h v s = .next s') : Ok F s'.m := by
  refine act_keeps h ?_
  repeat' (with_reducible first | assumption | apply act_keeps | apply serveOne_keeps | apply OkP_of | split | simp only [↓Ok_mk] | dsimp only [id] | (intro x; intros))

theorem execMaintenanceReq_keeps (who : Requester) (h : ReqHdr) (v : BitVec 8) (s s' : State) (hok : Ok F s.m) (h : execMaintenanceReq who h v s = .next s') : Ok F s'.m := by
  refine act_keeps h ?_
  repeat' (with_reducible first | assumption | apply act_keeps | apply serveOne_keeps | apply OkP_of | split | simp only [↓Ok_mk] | dsimp only [id] | (intro x; intros))

theorem execPrsntNLow_keeps  (s s' : State) (hok : Ok F s.m) (h : execPrsntNLow s = .next s') : Ok F s'.m := by
  refine act_keeps h ?_
  repeat' (with_reducible first | assumption | apply act_keeps | apply prsntLow_keeps | apply OkP_of | split | simp only [↓Ok_mk] | dsimp only [id] | (intro x; intros))

theorem execPrsntDebounceEnd_keeps  (s s' : State) (hok : Ok F s.m) (h : execPrsntDebounceEnd s = .next s') : Ok F s'.m := by
  refine act_keeps h ?_
  repeat' (with_reducible first | assumption | apply act_keeps | apply prsntHeld_keeps | apply OkP_of | split | simp only [↓Ok_mk] | dsimp only [id] | (intro x; intros))

theorem execPowerInputInRange_keeps  (s s' : State) (hok : Ok F s.m) (h : execPowerInputInRange s = .next s') : Ok F s'.m := by
  refine act_keeps h ?_
  repeat' (with_reducible first | assumption | apply act_keeps | apply inputIn_keeps | apply OkP_of | split | simp only [↓Ok_mk] | dsimp only [id] | (intro x; intros))

theorem execRailsRamped_keeps (slotId : BitVec 6) (laceTie : Bool) (s s' : State) (hok : Ok F s.m) (h : execRailsRamped slotId laceTie s = .next s') : Ok F s'.m := by
  refine act_keeps h ?_
  repeat' (with_reducible first | assumption | apply act_keeps | apply settle_keeps | apply railsRamped_keeps | apply OkP_of | split | simp only [↓Ok_mk] | dsimp only [id] | (intro x; intros))

theorem execL0Start_keeps  (s s' : State) (hok : Ok F s.m) (h : execL0Start s = .next s') : Ok F s'.m := by
  refine act_keeps h ?_
  repeat' (with_reducible first | assumption | apply act_keeps | apply settle_keeps | apply l0Start_keeps | apply OkP_of | split | simp only [↓Ok_mk] | dsimp only [id] | (intro x; intros))

theorem execBistDone_keeps (failed _repaired : List BistUnit) (pIdle : Nat) (s s' : State) (hok : Ok F s.m) (h : execBistDone failed _repaired pIdle s = .next s') : Ok F s'.m := by
  refine act_keeps h ?_
  repeat' (with_reducible first | assumption | apply act_keeps | apply bistDone_keeps | apply OkP_of | split | simp only [↓Ok_mk] | dsimp only [id] | (intro x; intros))

theorem execDramTrained_keeps  (s s' : State) (hok : Ok F s.m) (h : execDramTrained s = .next s') : Ok F s'.m := by
  refine act_keeps h ?_
  repeat' (with_reducible first | assumption | apply act_keeps | apply dramTrained_keeps | apply OkP_of | split | simp only [↓Ok_mk] | dsimp only [id] | (intro x; intros))

theorem execHbmScrubDone_keeps  (s s' : State) (hok : Ok F s.m) (h : execHbmScrubDone s = .next s') : Ok F s'.m := by
  refine act_keeps h ?_
  repeat' (with_reducible first | assumption | apply act_keeps | apply hbmScrubDone_keeps | apply OkP_of | split | simp only [↓Ok_mk] | dsimp only [id] | (intro x; intros))

theorem execLinkTrainingDone_keeps  (s s' : State) (hok : Ok F s.m) (h : execLinkTrainingDone s = .next s') : Ok F s'.m := by
  refine act_keeps h ?_
  repeat' (with_reducible first | assumption | apply act_keeps | apply linkTrainingDone_keeps | apply OkP_of | split | simp only [↓Ok_mk] | dsimp only [id] | (intro x; intros))

theorem execEnterReady_keeps  (s s' : State) (hok : Ok F s.m) (h : execEnterReady s = .next s') : Ok F s'.m := by
  refine act_keeps h ?_
  repeat' (with_reducible first | assumption | apply act_keeps | apply tryReady_keeps | apply OkP_of | split | simp only [↓Ok_mk] | dsimp only [id] | (intro x; intros))

theorem execTimeNotLocked_keeps  (s s' : State) (hok : Ok F s.m) (h : execTimeNotLocked s = .next s') : Ok F s'.m := by
  refine act_keeps h ?_
  repeat' (with_reducible first | assumption | apply act_keeps | apply timeNotLocked_keeps | apply OkP_of | split | simp only [↓Ok_mk] | dsimp only [id] | (intro x; intros))

theorem execModuleReset_keeps  (s s' : State) (hok : Ok F s.m) (h : execModuleReset s = .next s') : Ok F s'.m := by
  refine act_keeps h ?_
  repeat' (with_reducible first | assumption | apply act_keeps | apply moduleReset_keeps | apply OkP_of | split | simp only [↓Ok_mk] | dsimp only [id] | (intro x; intros))

theorem execLatchNLow_keeps  (s s' : State) (hok : Ok F s.m) (h : execLatchNLow s = .next s') : Ok F s'.m := by
  refine act_keeps h ?_
  repeat' (with_reducible first | assumption | apply act_keeps | apply latchLow_keeps | apply OkP_of | split | simp only [↓Ok_mk] | dsimp only [id] | (intro x; intros))

theorem execStartLatch_keeps  (s s' : State) (hok : Ok F s.m) (h : execStartLatch s = .next s') : Ok F s'.m := by
  refine act_keeps h ?_
  repeat' (with_reducible first | assumption | apply act_keeps | apply settle_keeps | apply latchWarning_keeps | apply OkP_of | split | simp only [↓Ok_mk] | dsimp only [id] | (intro x; intros))

theorem execPrsntNHigh_keeps  (s s' : State) (hok : Ok F s.m) (h : execPrsntNHigh s = .next s') : Ok F s'.m := by
  refine act_keeps h ?_
  repeat' (with_reducible first | assumption | apply act_keeps | apply prsntHigh_keeps | apply OkP_of | split | simp only [↓Ok_mk] | dsimp only [id] | (intro x; intros))

theorem execPowerInputOutOfRange_keeps  (s s' : State) (hok : Ok F s.m) (h : execPowerInputOutOfRange s = .next s') : Ok F s'.m := by
  refine act_keeps h ?_
  repeat' (with_reducible first | assumption | apply act_keeps | apply inputOut_keeps | apply OkP_of | split | simp only [↓Ok_mk] | dsimp only [id] | (intro x; intros))

theorem execBrdInputDip_keeps  (s s' : State) (hok : Ok F s.m) (h : execBrdInputDip s = .next s') : Ok F s'.m := by
  refine act_keeps h ?_
  repeat' (with_reducible first | assumption | apply act_keeps | apply inputDip_keeps | apply OkP_of | split | simp only [↓Ok_mk] | dsimp only [id] | (intro x; intros))

theorem execBrdInputRange_keeps  (s s' : State) (hok : Ok F s.m) (h : execBrdInputRange s = .next s') : Ok F s'.m := by
  refine act_keeps h ?_
  repeat' (with_reducible first | assumption | apply act_keeps | apply inputRange_keeps | apply OkP_of | split | simp only [↓Ok_mk] | dsimp only [id] | (intro x; intros))

theorem execBrdHotswapTrip_keeps  (s s' : State) (hok : Ok F s.m) (h : execBrdHotswapTrip s = .next s') : Ok F s'.m := by
  refine act_keeps h ?_
  repeat' (with_reducible first | assumption | apply act_keeps | apply hotswapTrip_keeps | apply OkP_of | split | simp only [↓Ok_mk] | dsimp only [id] | (intro x; intros))

theorem execHotswapRetry_keeps  (s s' : State) (hok : Ok F s.m) (h : execHotswapRetry s = .next s') : Ok F s'.m := by
  refine act_keeps h ?_
  repeat' (with_reducible first | assumption | apply act_keeps | apply hotswapRetry_keeps | apply OkP_of | split | simp only [↓Ok_mk] | dsimp only [id] | (intro x; intros))

theorem execInletReading_keeps (a b : Option Int) (s s' : State) (hok : Ok F s.m) (h : execInletReading a b s = .next s') : Ok F s'.m := by
  refine act_keeps h ?_
  repeat' (with_reducible first | assumption | apply act_keeps | apply inletReading_keeps | apply OkP_of | split | simp only [↓Ok_mk] | dsimp only [id] | (intro x; intros))

theorem execLatchNHigh_keeps  (s s' : State) (hok : Ok F s.m) (h : execLatchNHigh s = .next s') : Ok F s'.m := by
  refine act_keeps h ?_
  repeat' (with_reducible first | assumption | apply act_keeps | apply latchHigh_keeps | apply OkP_of | split | simp only [↓Ok_mk] | dsimp only [id] | (intro x; intros))

theorem execLatchNHighDebounceEnd_keeps  (s s' : State) (hok : Ok F s.m) (h : execLatchNHighDebounceEnd s = .next s') : Ok F s'.m := by
  refine act_keeps h ?_
  repeat' (with_reducible first | assumption | apply act_keeps | apply latchHeldHigh_keeps | apply OkP_of | split | simp only [↓Ok_mk] | dsimp only [id] | (intro x; intros))

theorem execFwEraseDone_keeps  (s s' : State) (hok : Ok F s.m) (h : execFwEraseDone s = .next s') : Ok F s'.m := by
  refine act_keeps h ?_
  repeat' (with_reducible first | assumption | apply act_keeps | apply eraseDone_keeps | apply OkP_of | split | simp only [↓Ok_mk] | dsimp only [id] | (intro x; intros))

theorem execFwLockstep_keeps (pair : BitVec 1) (s s' : State) (hok : Ok F s.m) (h : execFwLockstep pair s = .next s') : Ok F s'.m := by
  refine act_keeps h ?_
  repeat' (with_reducible first | assumption | apply act_keeps | apply lockstep_keeps | apply OkP_of | split | simp only [↓Ok_mk] | dsimp only [id] | (intro x; intros))

theorem execHookReturn_keeps (pair : BitVec 1) (a0 : Word) (s s' : State) (hok : Ok F s.m) (h : execHookReturn pair a0 s = .next s') : Ok F s'.m := by
  refine act_keeps h ?_
  repeat' (with_reducible first | assumption | apply act_keeps | apply hookReturn_keeps | apply OkP_of | split | simp only [↓Ok_mk] | dsimp only [id] | (intro x; intros))

theorem execFwHookLate_keeps (pair : BitVec 1) (s s' : State) (hok : Ok F s.m) (h : execFwHookLate pair s = .next s') : Ok F s'.m := by
  refine act_keeps h ?_
  repeat' (with_reducible first | assumption | apply act_keeps | apply hookLate_keeps | apply OkP_of | split | simp only [↓Ok_mk] | dsimp only [id] | (intro x; intros))

theorem execHookNotReturned_keeps (pair : BitVec 1) (s s' : State) (hok : Ok F s.m) (h : execHookNotReturned pair s = .next s') : Ok F s'.m := by
  refine act_keeps h ?_
  repeat' (with_reducible first | assumption | apply act_keeps | apply hookLost_keeps | apply OkP_of | split | simp only [↓Ok_mk] | dsimp only [id] | (intro x; intros))

theorem execL1Trap_keeps (pair : BitVec 1) (s s' : State) (hok : Ok F s.m) (h : execL1Trap pair s = .next s') : Ok F s'.m := by
  refine act_keeps h ?_
  repeat' (with_reducible first | assumption | apply act_keeps | apply haltFirmware_keeps | apply OkP_of | split | simp only [↓Ok_mk] | dsimp only [id] | (intro x; intros))

theorem execExtIllegal_keeps (t : Thread) (insn : BitVec 32) (s s' : State) (hok : Ok F s.m) (h : execExtIllegal t insn s = .next s') : Ok F s'.m := by
  refine insnAct_keeps h hok fun c hc => ?_
  repeat' (with_reducible first | assumption | apply insnAct_keeps | apply takeTrap_keeps | apply OkP_of | split | simp only [↓Ok_mk] | dsimp only [id] | (intro x; intros))

theorem execTensor_keeps (t : Thread) (rd rs1 rs2 : RegNo) (s s' : State) (hok : Ok F s.m) (h : execTensor t rd rs1 rs2 s = .next s') : Ok F s'.m := by
  refine insnAct_keeps h hok fun c hc => ?_
  repeat' (with_reducible first | assumption | apply insnAct_keeps | apply settleMem_keeps | apply tensorIssue_keeps | apply OkP_of | split | simp only [↓Ok_mk] | dsimp only [id] | (intro x; intros))

theorem execTensorTileEnd_keeps (tag : BitVec 16) (tile : Nat) (arr : BitVec 3) (fail : Option (BitVec 5)) (s s' : State) (hok : Ok F s.m) (h : execTensorTileEnd tag tile arr fail s = .next s') : Ok F s'.m := by
  refine act_keeps h ?_
  repeat' (with_reducible first | assumption | apply act_keeps | apply settle_keeps | apply tileEnd_keeps | apply OkP_of | split | simp only [↓Ok_mk] | dsimp only [id] | (intro x; intros))

theorem execTensorComplete_keeps (tag : BitVec 16) (ecc : Ecc) (s s' : State) (hok : Ok F s.m) (h : execTensorComplete tag ecc s = .next s') : Ok F s'.m := by
  refine act_keeps h ?_
  repeat' (with_reducible first | assumption | apply act_keeps | apply settle_keeps | apply tensorDone_keeps | apply OkP_of | split | simp only [↓Ok_mk] | dsimp only [id] | (intro x; intros))

theorem execSamplingComplete_keeps (tag : BitVec 16) (retried retiredToo : Bool) (s s' : State) (hok : Ok F s.m) (h : execSamplingComplete tag retried retiredToo s = .next s') : Ok F s'.m := by
  refine act_keeps h ?_
  repeat' (with_reducible first | assumption | apply act_keeps | apply settle_keeps | apply samplingDone_keeps | apply OkP_of | split | simp only [↓Ok_mk] | dsimp only [id] | (intro x; intros))

theorem execMove_keeps (t : Thread) (rd rs1 rs2 : RegNo) (s s' : State) (hok : Ok F s.m) (h : execMove t rd rs1 rs2 s = .next s') : Ok F s'.m := by
  refine insnAct_keeps h hok fun c hc => ?_
  repeat' (with_reducible first | assumption | apply insnAct_keeps | apply settleMem_keeps | apply moveIssue_keeps | apply OkP_of | split | simp only [↓Ok_mk] | dsimp only [id] | (intro x; intros))

theorem execMoverChunk_keeps (tag : BitVec 16) (ecc : Ecc) (s s' : State) (hok : Ok F s.m) (h : execMoverChunk tag ecc s = .next s') : Ok F s'.m := by
  refine act_keeps h ?_
  repeat' (with_reducible first | assumption | apply act_keeps | apply settle_keeps | apply moverChunk_keeps | apply OkP_of | split | simp only [↓Ok_mk] | dsimp only [id] | (intro x; intros))

theorem execLreq_keeps (t : Thread) (rd rs1 : RegNo) (s s' : State) (hok : Ok F s.m) (h : execLreq t rd rs1 s = .next s') : Ok F s'.m := by
  refine insnAct_keeps h hok fun c hc => ?_
  repeat' (with_reducible first | assumption | apply insnAct_keeps | apply lreqIssue_keeps | apply OkP_of | split | simp only [↓Ok_mk] | dsimp only [id] | (intro x; intros))

theorem execLrel_keeps (t : Thread) (rs1 : RegNo) (s s' : State) (hok : Ok F s.m) (h : execLrel t rs1 s = .next s') : Ok F s'.m := by
  refine insnAct_keeps h hok fun c hc => ?_
  repeat' (with_reducible first | assumption | apply insnAct_keeps | apply licRelease_keeps | apply OkP_of | split | simp only [↓Ok_mk] | dsimp only [id] | (intro x; intros))

theorem execLicenceGrant_keeps  (s s' : State) (hok : Ok F s.m) (h : execLicenceGrant s = .next s') : Ok F s'.m := by
  refine act_keeps h ?_
  repeat' (with_reducible first | assumption | apply act_keeps | apply settle_keeps | apply keepWarm_keeps | apply wardenCycle_keeps | apply OkP_of | split | simp only [↓Ok_mk] | dsimp only [id] | (intro x; intros))

theorem execQpush_keeps (t : Thread) (rd rs1 rs2 : RegNo) (s s' : State) (hok : Ok F s.m) (h : execQpush t rd rs1 rs2 s = .next s') : Ok F s'.m := by
  refine insnAct_keeps h hok fun c hc => ?_
  repeat' (with_reducible first | assumption | apply insnAct_keeps | apply queueInsn_keeps | apply retireStatus_keeps | apply pushStatus_keeps | apply OkP_of | split | simp only [↓Ok_mk] | dsimp only [id] | (intro x; intros))

theorem execQcommit_keeps (t : Thread) (rd rs1 : RegNo) (s s' : State) (hok : Ok F s.m) (h : execQcommit t rd rs1 s = .next s') : Ok F s'.m := by
  refine insnAct_keeps h hok fun c hc => ?_
  repeat' (with_reducible first | assumption | apply insnAct_keeps | apply queueInsn_keeps | apply commitInsn_keeps | apply OkP_of | split | simp only [↓Ok_mk] | dsimp only [id] | (intro x; intros))

theorem execQabort_keeps (t : Thread) (rd rs1 : RegNo) (s s' : State) (hok : Ok F s.m) (h : execQabort t rd rs1 s = .next s') : Ok F s'.m := by
  refine insnAct_keeps h hok fun c hc => ?_
  repeat' (with_reducible first | assumption | apply insnAct_keeps | apply queueInsn_keeps | apply retireStatus_keeps | apply abortStatus_keeps | apply OkP_of | split | simp only [↓Ok_mk] | dsimp only [id] | (intro x; intros))

theorem execQpop_keeps (t : Thread) (rd rs1 : RegNo) (parityBad : Bool) (ecc : Ecc) (s s' : State) (hok : Ok F s.m) (h : execQpop t rd rs1 parityBad ecc s = .next s') : Ok F s'.m := by
  refine insnAct_keeps h hok fun c hc => ?_
  repeat' (with_reducible first | assumption | apply insnAct_keeps | apply queueInsn_keeps | apply settleMem_keeps | apply popInsn_keeps | apply OkP_of | split | simp only [↓Ok_mk] | dsimp only [id] | (intro x; intros))

theorem execQcnt_keeps (t : Thread) (rd rs1 : RegNo) (s s' : State) (hok : Ok F s.m) (h : execQcnt t rd rs1 s = .next s') : Ok F s'.m := by
  refine insnAct_keeps h hok fun c hc => ?_
  repeat' (with_reducible first | assumption | apply insnAct_keeps | apply queueInsn_keeps | apply retire_keeps | apply OkP_of | split | simp only [↓Ok_mk] | dsimp only [id] | (intro x; intros))

theorem execBset_keeps (t : Thread) (rs1 : RegNo) (s s' : State) (hok : Ok F s.m) (h : execBset t rs1 s = .next s') : Ok F s'.m := by
  refine insnAct_keeps h hok fun c hc => ?_
  repeat' (with_reducible first | assumption | apply insnAct_keeps | apply flushSets_keeps | apply blazePost_keeps | apply OkP_of | split | simp only [↓Ok_mk] | dsimp only [id] | (intro x; intros))

theorem execBlazeSetPerformed_keeps (k : Nat) (s s' : State) (hok : Ok F s.m) (h : execBlazeSetPerformed k s = .next s') : Ok F s'.m := by
  refine act_keeps h ?_
  repeat' (with_reducible first | assumption | apply act_keeps | apply settle_keeps | apply setPerformed_keeps | apply OkP_of | split | simp only [↓Ok_mk] | dsimp only [id] | (intro x; intros))

theorem execBclr_keeps (t : Thread) (rd rs1 : RegNo) (s s' : State) (hok : Ok F s.m) (h : execBclr t rd rs1 s = .next s') : Ok F s'.m := by
  refine insnAct_keeps h hok fun c hc => ?_
  repeat' (with_reducible first | assumption | apply insnAct_keeps | apply blazeInsn_keeps | apply blazeClear_keeps | apply OkP_of | split | simp only [↓Ok_mk] | dsimp only [id] | (intro x; intros))

theorem execBtest_keeps (t : Thread) (rd rs1 : RegNo) (s s' : State) (hok : Ok F s.m) (h : execBtest t rd rs1 s = .next s') : Ok F s'.m := by
  refine insnAct_keeps h hok fun c hc => ?_
  repeat' (with_reducible first | assumption | apply insnAct_keeps | apply blazeInsn_keeps | apply retire_keeps | apply OkP_of | split | simp only [↓Ok_mk] | dsimp only [id] | (intro x; intros))

theorem execBwait_keeps (t : Thread) (rd rs1 : RegNo) (s s' : State) (hok : Ok F s.m) (h : execBwait t rd rs1 s = .next s') : Ok F s'.m := by
  refine insnAct_keeps h hok fun c hc => ?_
  repeat' (with_reducible first | assumption | apply insnAct_keeps | apply blazeInsn_keeps | apply blazeWait_keeps | apply OkP_of | split | simp only [↓Ok_mk] | dsimp only [id] | (intro x; intros))

theorem execBwaitc_keeps (t : Thread) (rd rs1 : RegNo) (s s' : State) (hok : Ok F s.m) (h : execBwaitc t rd rs1 s = .next s') : Ok F s'.m := by
  refine insnAct_keeps h hok fun c hc => ?_
  repeat' (with_reducible first | assumption | apply insnAct_keeps | apply blazeInsn_keeps | apply blazeWait_keeps | apply OkP_of | split | simp only [↓Ok_mk] | dsimp only [id] | (intro x; intros))

theorem execTwait_keeps (t : Thread) (rd rs1 : RegNo) (s s' : State) (hok : Ok F s.m) (h : execTwait t rd rs1 s = .next s') : Ok F s'.m := by
  refine insnAct_keeps h hok fun c hc => ?_
  repeat' (with_reducible first | assumption | apply insnAct_keeps | apply tagWait_keeps | apply OkP_of | split | simp only [↓Ok_mk] | dsimp only [id] | (intro x; intros))

theorem execTwaitr_keeps (t : Thread) (rd rs1 : RegNo) (s s' : State) (hok : Ok F s.m) (h : execTwaitr t rd rs1 s = .next s') : Ok F s'.m := by
  refine insnAct_keeps h hok fun c hc => ?_
  repeat' (with_reducible first | assumption | apply insnAct_keeps | apply tagWait_keeps | apply OkP_of | split | simp only [↓Ok_mk] | dsimp only [id] | (intro x; intros))

theorem execTtest_keeps (t : Thread) (rd rs1 : RegNo) (s s' : State) (hok : Ok F s.m) (h : execTtest t rd rs1 s = .next s') : Ok F s'.m := by
  refine insnAct_keeps h hok fun c hc => ?_
  repeat' (with_reducible first | assumption | apply insnAct_keeps | apply tagTest_keeps | apply OkP_of | split | simp only [↓Ok_mk] | dsimp only [id] | (intro x; intros))

theorem execTreap_keeps (t : Thread) (rd rs1 : RegNo) (s s' : State) (hok : Ok F s.m) (h : execTreap t rd rs1 s = .next s') : Ok F s'.m := by
  refine insnAct_keeps h hok fun c hc => ?_
  repeat' (with_reducible first | assumption | apply insnAct_keeps | apply tagReap_keeps | apply OkP_of | split | simp only [↓Ok_mk] | dsimp only [id] | (intro x; intros))

theorem execSwait_keeps (t : Thread) (rd : RegNo) (s s' : State) (hok : Ok F s.m) (h : execSwait t rd s = .next s') : Ok F s'.m := by
  refine insnAct_keeps h hok fun c hc => ?_
  repeat' (with_reducible first | assumption | apply insnAct_keeps | apply weltPoppable_keeps | apply noteHard_keeps | apply stitchWait_keeps | apply OkP_of | split | simp only [↓Ok_mk] | dsimp only [id] | (intro x; intros))

theorem execSreadC_keeps (t : Thread) (rd : RegNo) (s s' : State) (hok : Ok F s.m) (h : execSreadC t rd s = .next s') : Ok F s'.m := by
  refine insnAct_keeps h hok fun c hc => ?_
  repeat' (with_reducible first | assumption | apply insnAct_keeps | apply retire_keeps | apply OkP_of | split | simp only [↓Ok_mk] | dsimp only [id] | (intro x; intros))

theorem execSreadB_keeps (t : Thread) (rd : RegNo) (s s' : State) (hok : Ok F s.m) (h : execSreadB t rd s = .next s') : Ok F s'.m := by
  refine insnAct_keeps h hok fun c hc => ?_
  repeat' (with_reducible first | assumption | apply insnAct_keeps | apply retire_keeps | apply OkP_of | split | simp only [↓Ok_mk] | dsimp only [id] | (intro x; intros))

theorem execSreadR_keeps (t : Thread) (rd : RegNo) (s s' : State) (hok : Ok F s.m) (h : execSreadR t rd s = .next s') : Ok F s'.m := by
  refine insnAct_keeps h hok fun c hc => ?_
  repeat' (with_reducible first | assumption | apply insnAct_keeps | apply retire_keeps | apply OkP_of | split | simp only [↓Ok_mk] | dsimp only [id] | (intro x; intros))

theorem execSmplctl_keeps (t : Thread) (rd rs1 : RegNo) (s s' : State) (hok : Ok F s.m) (h : execSmplctl t rd rs1 s = .next s') : Ok F s'.m := by
  refine insnAct_keeps h hok fun c hc => ?_
  repeat' (with_reducible first | assumption | apply insnAct_keeps | apply samplingControl_keeps | apply OkP_of | split | simp only [↓Ok_mk] | dsimp only [id] | (intro x; intros))

theorem execFenceNLow_keeps  (s s' : State) (hok : Ok F s.m) (h : execFenceNLow s = .next s') : Ok F s'.m := by
  refine act_keeps h ?_
  repeat' (with_reducible first | assumption | apply act_keeps | apply fenceDown_keeps | apply OkP_of | split | simp only [↓Ok_mk] | dsimp only [id] | (intro x; intros))

theorem execFltFenced_keeps  (s s' : State) (hok : Ok F s.m) (h : execFltFenced s = .next s') : Ok F s'.m := by
  refine act_keeps h ?_
  repeat' (with_reducible first | assumption | apply act_keeps | apply settle_keeps | apply fenceHeld_keeps | apply OkP_of | split | simp only [↓Ok_mk] | dsimp only [id] | (intro x; intros))

theorem execFenceNHigh_keeps  (s s' : State) (hok : Ok F s.m) (h : execFenceNHigh s = .next s') : Ok F s'.m := by
  refine act_keeps h ?_
  repeat' (with_reducible first | assumption | apply act_keeps | apply fenceUp_keeps | apply OkP_of | split | simp only [↓Ok_mk] | dsimp only [id] | (intro x; intros))

theorem execFltLogAdmit_keeps  (s s' : State) (hok : Ok F s.m) (h : execFltLogAdmit s = .next s') : Ok F s'.m := by
  refine act_keeps h ?_
  repeat' (with_reducible first | assumption | apply act_keeps | apply logAdmit_keeps | apply OkP_of | split | simp only [↓Ok_mk] | dsimp only [id] | (intro x; intros))

theorem execFltPmDone_keeps  (s s' : State) (hok : Ok F s.m) (h : execFltPmDone s = .next s') : Ok F s'.m := by
  refine act_keeps h ?_
  repeat' (with_reducible first | assumption | apply act_keeps | apply bundleEnd_keeps | apply OkP_of | split | simp only [↓Ok_mk] | dsimp only [id] | (intro x; intros))

theorem execDebugTap_keeps (op : TapOp) (s s' : State) (hok : Ok F s.m) (h : execDebugTap op s = .next s') : Ok F s'.m := by
  refine act_keeps h ?_
  repeat' (with_reducible first | assumption | apply act_keeps | apply debugTap_keeps | apply OkP_of | split | simp only [↓Ok_mk] | dsimp only [id] | (intro x; intros))

theorem execVectorReduction_keeps (t : Thread) (vd vs2 vs1 : RegNo) (op : RedOp) (masked : Bool) (s s' : State) (hok : Ok F s.m) (h : execVectorReduction t vd vs2 vs1 op masked s = .next s') : Ok F s'.m := by
  refine insnAct_keeps h hok fun c hc => ?_
  repeat' (with_reducible first | assumption | apply insnAct_keeps | apply vectorReduce_keeps | apply OkP_of | split | simp only [↓Ok_mk] | dsimp only [id] | (intro x; intros))

theorem execSecKeyInstalled_keeps (p : Part) (s s' : State) (hok : Ok F s.m) (h : execSecKeyInstalled p s = .next s') : Ok F s'.m := by
  refine act_keeps h ?_
  repeat' (with_reducible first | assumption | apply act_keeps | apply keyInstalled_keeps | apply OkP_of | split | simp only [↓Ok_mk] | dsimp only [id] | (intro x; intros))

theorem execAttReady_keeps (who : Requester) (s s' : State) (hok : Ok F s.m) (h : execAttReady who s = .next s') : Ok F s'.m := by
  refine act_keeps h ?_
  repeat' (with_reducible first | assumption | apply act_keeps | apply reportReady_keeps | apply OkP_of | split | simp only [↓Ok_mk] | dsimp only [id] | (intro x; intros))

theorem execLoad_keeps (t : Thread) (rd rs1 : RegNo) (imm : BitVec 12) (size : BitVec 2) (uns fp comp : Bool) (ecc : Ecc) (s s' : State) (hok : Ok F s.m) (h : execLoad t rd rs1 imm size uns fp comp ecc s = .next s') : Ok F s'.m := by
  refine insnAct_keeps h hok fun c hc => ?_
  repeat' (with_reducible first | assumption | apply insnAct_keeps | apply loadInsn_keeps | apply OkP_of | split | simp only [↓Ok_mk] | dsimp only [id] | (intro x; intros))

theorem execStore_keeps (t : Thread) (rs1 rs2 : RegNo) (imm : BitVec 12) (size : BitVec 2) (fp comp : Bool) (ecc : Ecc) (s s' : State) (hok : Ok F s.m) (h : execStore t rs1 rs2 imm size fp comp ecc s = .next s') : Ok F s'.m := by
  refine insnAct_keeps h hok fun c hc => ?_
  repeat' (with_reducible first | assumption | apply insnAct_keeps | apply storeInsn_keeps | apply OkP_of | split | simp only [↓Ok_mk] | dsimp only [id] | (intro x; intros))

theorem execAmo_keeps (t : Thread) (rd rs1 rs2 : RegNo) (funct5 : BitVec 5) (dbl : Bool) (ecc : Ecc) (s s' : State) (hok : Ok F s.m) (h : execAmo t rd rs1 rs2 funct5 dbl ecc s = .next s') : Ok F s'.m := by
  refine insnAct_keeps h hok fun c hc => ?_
  repeat' (with_reducible first | assumption | apply insnAct_keeps | apply amoInsn_keeps | apply OkP_of | split | simp only [↓Ok_mk] | dsimp only [id] | (intro x; intros))

theorem execLrSc_keeps (t : Thread) (rd rs1 rs2 : RegNo) (sc dbl : Bool) (ecc : Ecc) (s s' : State) (hok : Ok F s.m) (h : execLrSc t rd rs1 rs2 sc dbl ecc s = .next s') : Ok F s'.m := by
  refine insnAct_keeps h hok fun c hc => ?_
  repeat' (with_reducible first | assumption | apply insnAct_keeps | apply lrScInsn_keeps | apply OkP_of | split | simp only [↓Ok_mk] | dsimp only [id] | (intro x; intros))

theorem execFence_keeps (t : Thread) (pred succ : BitVec 4) (s s' : State) (hok : Ok F s.m) (h : execFence t pred succ s = .next s') : Ok F s'.m := by
  refine insnAct_keeps h hok fun c hc => ?_
  repeat' (with_reducible first | assumption | apply insnAct_keeps | apply fenceInsn_keeps | apply OkP_of | split | simp only [↓Ok_mk] | dsimp only [id] | (intro x; intros))

theorem execSfenceVma_keeps (t : Thread) (rs1 rs2 : RegNo) (s s' : State) (hok : Ok F s.m) (h : execSfenceVma t rs1 rs2 s = .next s') : Ok F s'.m := by
  refine insnAct_keeps h hok fun c hc => ?_
  repeat' (with_reducible first | assumption | apply insnAct_keeps | apply sfenceInsn_keeps | apply OkP_of | split | simp only [↓Ok_mk] | dsimp only [id] | (intro x; intros))

theorem execSatpWrite_keeps (t : Thread) (rd rs1 : RegNo) (s s' : State) (hok : Ok F s.m) (h : execSatpWrite t rd rs1 s = .next s') : Ok F s'.m := by
  refine insnAct_keeps h hok fun c hc => ?_
  repeat' (with_reducible first | assumption | apply insnAct_keeps | apply csrInsn_keeps | apply OkP_of | split | simp only [↓Ok_mk] | dsimp only [id] | (intro x; intros))

theorem execInstructionFetch_keeps (t : Thread) (four : Bool) (ecc : Ecc) (s s' : State) (hok : Ok F s.m) (h : execInstructionFetch t four ecc s = .next s') : Ok F s'.m := by
  refine act_keeps h ?_
  repeat' (with_reducible first | assumption | apply act_keeps | apply hartDo_keeps | apply fetchInsn_keeps | apply OkP_of | split | simp only [↓Ok_mk] | dsimp only [id] | (intro x; intros))

theorem execCsrWrite_keeps (t : Thread) (csr : BitVec 12) (op : CsrOp) (rd src : RegNo) (s s' : State) (hok : Ok F s.m) (h : execCsrWrite t csr op rd src s = .next s') : Ok F s'.m := by
  refine insnAct_keeps h hok fun c hc => ?_
  repeat' (with_reducible first | assumption | apply insnAct_keeps | apply csrInsn_keeps | apply OkP_of | split | simp only [↓Ok_mk] | dsimp only [id] | (intro x; intros))

theorem execPrFormFail_keeps  (s s' : State) (hok : Ok F s.m) (h : execPrFormFail s = .next s') : Ok F s'.m := by
  refine act_keeps h ?_
  repeat' (with_reducible first | assumption | apply act_keeps | apply formTimeout_keeps | apply OkP_of | split | simp only [↓Ok_mk] | dsimp only [id] | (intro x; intros))

theorem execLaceTestEnd_keeps  (s s' : State) (hok : Ok F s.m) (h : execLaceTestEnd s = .next s') : Ok F s'.m := by
  refine act_keeps h ?_
  repeat' (with_reducible first | assumption | apply act_keeps | apply laceTestEnd_keeps | apply OkP_of | split | simp only [↓Ok_mk] | dsimp only [id] | (intro x; intros))

theorem execLaceInChange_keeps (high : Bool) (s s' : State) (hok : Ok F s.m) (h : execLaceInChange high s = .next s') : Ok F s'.m := by
  refine act_keeps h ?_
  repeat' (with_reducible first | assumption | apply act_keeps | apply laceInChange_keeps | apply OkP_of | split | simp only [↓Ok_mk] | dsimp only [id] | (intro x; intros))

theorem execGateOpen_keeps  (s s' : State) (hok : Ok F s.m) (h : execGateOpen s = .next s') : Ok F s'.m := by
  refine act_keeps h ?_
  repeat' (with_reducible first | assumption | apply act_keeps | apply settle_keeps | apply gateOpen_keeps | apply OkP_of | split | simp only [↓Ok_mk] | dsimp only [id] | (intro x; intros))

theorem execPrTieResolved_keeps  (s s' : State) (hok : Ok F s.m) (h : execPrTieResolved s = .next s') : Ok F s'.m := by
  refine act_keeps h ?_
  repeat' (with_reducible first | assumption | apply act_keeps | apply tieResolved_keeps | apply OkP_of | split | simp only [↓Ok_mk] | dsimp only [id] | (intro x; intros))

theorem execPrLaceFault_keeps  (s s' : State) (hok : Ok F s.m) (h : execPrLaceFault s = .next s') : Ok F s'.m := by
  refine act_keeps h ?_
  repeat' (with_reducible first | assumption | apply act_keeps | apply laceFault_keeps | apply OkP_of | split | simp only [↓Ok_mk] | dsimp only [id] | (intro x; intros))

theorem execMateSilent_keeps  (s s' : State) (hok : Ok F s.m) (h : execMateSilent s = .next s') : Ok F s'.m := by
  refine act_keeps h ?_
  repeat' (with_reducible first | assumption | apply act_keeps | apply mateQuiet_keeps | apply OkP_of | split | simp only [↓Ok_mk] | dsimp only [id] | (intro x; intros))

theorem execMateHb_keeps (m : Msg) (s s' : State) (hok : Ok F s.m) (h : execMateHb m s = .next s') : Ok F s'.m := by
  refine act_keeps h ?_
  repeat' (with_reducible first | assumption | apply act_keeps | apply settle_keeps | apply mateIn_keeps | apply hbIn_keeps | apply OkP_of | split | simp only [↓Ok_mk] | dsimp only [id] | (intro x; intros))

theorem execDigest_keeps (m : Msg) (s s' : State) (hok : Ok F s.m) (h : execDigest m s = .next s') : Ok F s'.m := by
  refine act_keeps h ?_
  repeat' (with_reducible first | assumption | apply act_keeps | apply settle_keeps | apply mateIn_keeps | apply digestIn_keeps | apply OkP_of | split | simp only [↓Ok_mk] | dsimp only [id] | (intro x; intros))

theorem execConfirm_keeps (m : Msg) (s s' : State) (hok : Ok F s.m) (h : execConfirm m s = .next s') : Ok F s'.m := by
  refine act_keeps h ?_
  repeat' (with_reducible first | assumption | apply act_keeps | apply settle_keeps | apply mateIn_keeps | apply confirmIn_keeps | apply OkP_of | split | simp only [↓Ok_mk] | dsimp only [id] | (intro x; intros))

theorem execBoundary_keeps (m : Msg) (s s' : State) (hok : Ok F s.m) (h : execBoundary m s = .next s') : Ok F s'.m := by
  refine act_keeps h ?_
  repeat' (with_reducible first | assumption | apply act_keeps | apply settle_keeps | apply mateIn_keeps | apply boundaryIn_keeps | apply OkP_of | split | simp only [↓Ok_mk] | dsimp only [id] | (intro x; intros))

theorem execBoundaryTimeout_keeps  (s s' : State) (hok : Ok F s.m) (h : execBoundaryTimeout s = .next s') : Ok F s'.m := by
  refine act_keeps h ?_
  repeat' (with_reducible first | assumption | apply act_keeps | apply settle_keeps | apply boundaryLate_keeps | apply OkP_of | split | simp only [↓Ok_mk] | dsimp only [id] | (intro x; intros))

theorem execYield_keeps (m : Msg) (s s' : State) (hok : Ok F s.m) (h : execYield m s = .next s') : Ok F s'.m := by
  refine act_keeps h ?_
  repeat' (with_reducible first | assumption | apply act_keeps | apply settle_keeps | apply mateIn_keeps | apply yieldIn_keeps | apply OkP_of | split | simp only [↓Ok_mk] | dsimp only [id] | (intro x; intros))

theorem execPrTakeover_keeps  (s s' : State) (hok : Ok F s.m) (h : execPrTakeover s = .next s') : Ok F s'.m := by
  refine act_keeps h ?_
  repeat' (with_reducible first | assumption | apply act_keeps | apply takeover_keeps | apply OkP_of | split | simp only [↓Ok_mk] | dsimp only [id] | (intro x; intros))

theorem execWeltSend_keeps (q : QNum) (s s' : State) (hok : Ok F s.m) (h : execWeltSend q s = .next s') : Ok F s'.m := by
  refine act_keeps h ?_
  repeat' (with_reducible first | assumption | apply act_keeps | apply settle_keeps | apply sendEg_keeps | apply OkP_of | split | simp only [↓Ok_mk] | dsimp only [id] | (intro x; intros))

theorem execWeltRetry_keeps (q : QNum) (s s' : State) (hok : Ok F s.m) (h : execWeltRetry q s = .next s') : Ok F s'.m := by
  refine act_keeps h ?_
  repeat' (with_reducible first | assumption | apply act_keeps | apply settle_keeps | apply sendEg_keeps | apply OkP_of | split | simp only [↓Ok_mk] | dsimp only [id] | (intro x; intros))

theorem execFdpDatagram_keeps (ses : BitVec 4) (dtls : Bool) (recSeq : Nat) (data : Bytes) (s s' : State) (hok : Ok F s.m) (h : execFdpDatagram ses dtls recSeq data s = .next s') : Ok F s'.m := by
  refine act_keeps h ?_
  repeat' (with_reducible first | assumption | apply act_keeps | apply fdpDatagram_keeps | apply OkP_of | split | simp only [↓Ok_mk] | dsimp only [id] | (intro x; intros))

theorem execFrerFrame_keeps (_port : BitVec 1) (seq : BitVec 16) (s s' : State) (hok : Ok F s.m) (h : execFrerFrame _port seq s = .next s') : Ok F s'.m := by
  refine act_keeps h ?_
  repeat' (with_reducible first | assumption | apply act_keeps | apply frerFrame_keeps | apply OkP_of | split | simp only [↓Ok_mk] | dsimp only [id] | (intro x; intros))

theorem execFrerResetTimeout_keeps  (s s' : State) (hok : Ok F s.m) (h : execFrerResetTimeout s = .next s') : Ok F s'.m := by
  refine act_keeps h ?_
  repeat' (with_reducible first | assumption | apply act_keeps | apply frerReset_keeps | apply OkP_of | split | simp only [↓Ok_mk] | dsimp only [id] | (intro x; intros))

theorem execFdpPortLatent_keeps (port : BitVec 1) (s s' : State) (hok : Ok F s.m) (h : execFdpPortLatent port s = .next s') : Ok F s'.m := by
  refine act_keeps h ?_
  repeat' (with_reducible first | assumption | apply act_keeps | apply portLatent_keeps | apply OkP_of | split | simp only [↓Ok_mk] | dsimp only [id] | (intro x; intros))

theorem execDtlsHandshake_keeps (ip : BitVec 128) (udp : BitVec 16) (r : Shake) (s s' : State) (hok : Ok F s.m) (h : execDtlsHandshake ip udp r s = .next s') : Ok F s'.m := by
  refine act_keeps h ?_
  repeat' (with_reducible first | assumption | apply act_keeps | apply dtlsHandshake_keeps | apply OkP_of | split | simp only [↓Ok_mk] | dsimp only [id] | (intro x; intros))

theorem execSessionIdleTimeout_keeps (n : BitVec 4) (s s' : State) (hok : Ok F s.m) (h : execSessionIdleTimeout n s = .next s') : Ok F s'.m := by
  refine act_keeps h ?_
  repeat' (with_reducible first | assumption | apply act_keeps | apply sessionIdle_keeps | apply OkP_of | split | simp only [↓Ok_mk] | dsimp only [id] | (intro x; intros))

theorem execCbMbxDoorbell_keeps  (s s' : State) (hok : Ok F s.m) (h : execCbMbxDoorbell s = .next s') : Ok F s'.m := by
  refine act_keeps h ?_
  repeat' (with_reducible first | assumption | apply act_keeps | apply mbxDoorbell_keeps | apply OkP_of | split | simp only [↓Ok_mk] | dsimp only [id] | (intro x; intros))

theorem execCbMbxAbort_keeps  (s s' : State) (hok : Ok F s.m) (h : execCbMbxAbort s = .next s') : Ok F s'.m := by
  refine act_keeps h ?_
  repeat' (with_reducible first | assumption | apply act_keeps | apply mbxAbort_keeps | apply OkP_of | split | simp only [↓Ok_mk] | dsimp only [id] | (intro x; intros))

theorem execMbxBufferWrite_keeps (off : BitVec 12) (data : Bytes) (s s' : State) (hok : Ok F s.m) (h : execMbxBufferWrite off data s = .next s') : Ok F s'.m := by
  refine act_keeps h ?_
  repeat' (with_reducible first | assumption | apply act_keeps | apply OkP_of | split | simp only [↓Ok_mk] | dsimp only [id] | (intro x; intros))

theorem execMbxResponse_keeps  (s s' : State) (hok : Ok F s.m) (h : execMbxResponse s = .next s') : Ok F s'.m := by
  refine act_keeps h ?_
  repeat' (with_reducible first | assumption | apply act_keeps | apply mbxRespond_keeps | apply OkP_of | split | simp only [↓Ok_mk] | dsimp only [id] | (intro x; intros))

theorem execNeighbourSolicitation_keeps (port : BitVec 1) (target src : BitVec 128) (s s' : State) (hok : Ok F s.m) (h : execNeighbourSolicitation port target src s = .next s') : Ok F s'.m := by
  refine act_keeps h ?_
  repeat' (with_reducible first | assumption | apply act_keeps | apply neighbour_keeps | apply OkP_of | split | simp only [↓Ok_mk] | dsimp only [id] | (intro x; intros))

theorem execDtlsRetransmit_keeps  (s s' : State) (hok : Ok F s.m) (h : execDtlsRetransmit s = .next s') : Ok F s'.m := by
  refine act_keeps h ?_
  repeat' (with_reducible first | assumption | apply act_keeps | apply dtlsRetransmit_keeps | apply OkP_of | split | simp only [↓Ok_mk] | dsimp only [id] | (intro x; intros))

theorem execFieldPortLinkChange_keeps (port : BitVec 1) (up : Bool) (s s' : State) (hok : Ok F s.m) (h : execFieldPortLinkChange port up s = .next s') : Ok F s'.m := by
  refine act_keeps h ?_
  repeat' (with_reducible first | assumption | apply act_keeps | apply fieldLink_keeps | apply OkP_of | split | simp only [↓Ok_mk] | dsimp only [id] | (intro x; intros))

theorem execCodeword_keeps (p : Port) (blocks : List Block) (symErrors : Nat) (s s' : State) (hok : Ok F s.m) (h : execCodeword p blocks symErrors s = .next s') : Ok F s'.m := by
  refine act_keeps h ?_
  repeat' (with_reducible first | assumption | apply act_keeps | apply codewordIn_keeps | apply OkP_of | split | simp only [↓Ok_mk] | dsimp only [id] | (intro x; intros))

theorem execFlitData_keeps (p : Port) (flit : BitVec 2048) (s s' : State) (hok : Ok F s.m) (h : execFlitData p flit s = .next s') : Ok F s'.m := by
  refine act_keeps h ?_
  repeat' (with_reducible first | assumption | apply act_keeps | apply flitIn_keeps | apply dataFlit_keeps | apply OkP_of | split | simp only [↓Ok_mk] | dsimp only [id] | (intro x; intros))

theorem execFlitCredit_keeps (p : Port) (flit : BitVec 2048) (s s' : State) (hok : Ok F s.m) (h : execFlitCredit p flit s = .next s') : Ok F s'.m := by
  refine act_keeps h ?_
  repeat' (with_reducible first | assumption | apply act_keeps | apply flitIn_keeps | apply creditFlit_keeps | apply OkP_of | split | simp only [↓Ok_mk] | dsimp only [id] | (intro x; intros))

theorem execFlitIdle_keeps (p : Port) (flit : BitVec 2048) (s s' : State) (hok : Ok F s.m) (h : execFlitIdle p flit s = .next s') : Ok F s'.m := by
  refine act_keeps h ?_
  repeat' (with_reducible first | assumption | apply act_keeps | apply flitIn_keeps | apply OkP_of | split | simp only [↓Ok_mk] | dsimp only [id] | (intro x; intros))

theorem execFlitTrain_keeps (p : Port) (flit : BitVec 2048) (s s' : State) (hok : Ok F s.m) (h : execFlitTrain p flit s = .next s') : Ok F s'.m := by
  refine act_keeps h ?_
  repeat' (with_reducible first | assumption | apply act_keeps | apply settle_keeps | apply trainFlit_keeps | apply OkP_of | split | simp only [↓Ok_mk] | dsimp only [id] | (intro x; intros))

theorem execReplayTimeout_keeps (p : Port) (s s' : State) (hok : Ok F s.m) (h : execReplayTimeout p s = .next s') : Ok F s'.m := by
  refine act_keeps h ?_
  repeat' (with_reducible first | assumption | apply act_keeps | apply startReplay_keeps | apply OkP_of | split | simp only [↓Ok_mk] | dsimp only [id] | (intro x; intros))

theorem execMsgWrite_keeps (p : Port) (m : Msg) (ecc : Ecc) (s s' : State) (hok : Ok F s.m) (h : execMsgWrite p m ecc s = .next s') : Ok F s'.m := by
  refine act_keeps h ?_
  repeat' (with_reducible first | assumption | apply act_keeps | apply settle_keeps | apply writeIn_keeps | apply OkP_of | split | simp only [↓Ok_mk] | dsimp only [id] | (intro x; intros))

theorem execMsgRead_keeps (p : Port) (m : Msg) (ecc : Ecc) (s s' : State) (hok : Ok F s.m) (h : execMsgRead p m ecc s = .next s') : Ok F s'.m := by
  refine act_keeps h ?_
  repeat' (with_reducible first | assumption | apply act_keeps | apply settle_keeps | apply readIn_keeps | apply OkP_of | split | simp only [↓Ok_mk] | dsimp only [id] | (intro x; intros))

theorem execAtomic_keeps (p : Port) (m : Msg) (ecc : Ecc) (s s' : State) (hok : Ok F s.m) (h : execAtomic p m ecc s = .next s') : Ok F s'.m := by
  refine act_keeps h ?_
  repeat' (with_reducible first | assumption | apply act_keeps | apply settle_keeps | apply atomicIn_keeps | apply OkP_of | split | simp only [↓Ok_mk] | dsimp only [id] | (intro x; intros))

theorem execQpkt_keeps (p : Port) (m : Msg) (s s' : State) (hok : Ok F s.m) (h : execQpkt p m s = .next s') : Ok F s'.m := by
  refine act_keeps h ?_
  repeat' (with_reducible first | assumption | apply act_keeps | apply settle_keeps | apply qpktIn_keeps | apply OkP_of | split | simp only [↓Ok_mk] | dsimp only [id] | (intro x; intros))

theorem execWriteAck_keeps (p : Port) (m : Msg) (s s' : State) (hok : Ok F s.m) (h : execWriteAck p m s = .next s') : Ok F s'.m := by
  refine act_keeps h ?_
  repeat' (with_reducible first | assumption | apply act_keeps | apply settle_keeps | apply writeAckIn_keeps | apply OkP_of | split | simp only [↓Ok_mk] | dsimp only [id] | (intro x; intros))

theorem execReadResp_keeps (p : Port) (m : Msg) (s s' : State) (hok : Ok F s.m) (h : execReadResp p m s = .next s') : Ok F s'.m := by
  refine act_keeps h ?_
  repeat' (with_reducible first | assumption | apply act_keeps | apply settle_keeps | apply readRespIn_keeps | apply OkP_of | split | simp only [↓Ok_mk] | dsimp only [id] | (intro x; intros))

theorem execAtomicResp_keeps (p : Port) (m : Msg) (s s' : State) (hok : Ok F s.m) (h : execAtomicResp p m s = .next s') : Ok F s'.m := by
  refine act_keeps h ?_
  repeat' (with_reducible first | assumption | apply act_keeps | apply settle_keeps | apply atomicRespIn_keeps | apply OkP_of | split | simp only [↓Ok_mk] | dsimp only [id] | (intro x; intros))

theorem execQpktAck_keeps (p : Port) (m : Msg) (s s' : State) (hok : Ok F s.m) (h : execQpktAck p m s = .next s') : Ok F s'.m := by
  refine act_keeps h ?_
  repeat' (with_reducible first | assumption | apply act_keeps | apply settle_keeps | apply qpktAckIn_keeps | apply OkP_of | split | simp only [↓Ok_mk] | dsimp only [id] | (intro x; intros))

theorem execBlazeAck_keeps (p : Port) (m : Msg) (s s' : State) (hok : Ok F s.m) (h : execBlazeAck p m s = .next s') : Ok F s'.m := by
  refine act_keeps h ?_
  repeat' (with_reducible first | assumption | apply act_keeps | apply settle_keeps | apply blazeAckIn_keeps | apply OkP_of | split | simp only [↓Ok_mk] | dsimp only [id] | (intro x; intros))

theorem execBlazeSet_keeps (p : Port) (m : Msg) (s s' : State) (hok : Ok F s.m) (h : execBlazeSet p m s = .next s') : Ok F s'.m := by
  refine act_keeps h ?_
  repeat' (with_reducible first | assumption | apply act_keeps | apply settle_keeps | apply setIn_keeps | apply OkP_of | split | simp only [↓Ok_mk] | dsimp only [id] | (intro x; intros))

theorem execLnAnnounceLost_keeps (k : Nat) (s s' : State) (hok : Ok F s.m) (h : execLnAnnounceLost k s = .next s') : Ok F s'.m := by
  refine act_keeps h ?_
  repeat' (with_reducible first | assumption | apply act_keeps | apply setLost_keeps | apply OkP_of | split | simp only [↓Ok_mk] | dsimp only [id] | (intro x; intros))

theorem execRespTimeout_keeps (r : BitVec 16) (s s' : State) (hok : Ok F s.m) (h : execRespTimeout r s = .next s') : Ok F s'.m := by
  refine act_keeps h ?_
  repeat' (with_reducible first | assumption | apply act_keeps | apply settle_keeps | apply respTimeout_keeps | apply OkP_of | split | simp only [↓Ok_mk] | dsimp only [id] | (intro x; intros))

theorem execLnPktBroken_keeps (p : Port) (k : Nat) (s s' : State) (hok : Ok F s.m) (h : execLnPktBroken p k s = .next s') : Ok F s'.m := by
  refine act_keeps h ?_
  repeat' (with_reducible first | assumption | apply act_keeps | apply pktBroken_keeps | apply OkP_of | split | simp only [↓Ok_mk] | dsimp only [id] | (intro x; intros))

theorem execHello_keeps (p : Port) (h : Hand) (s s' : State) (hok : Ok F s.m) (h : execHello p h s = .next s') : Ok F s'.m := by
  refine act_keeps h ?_
  repeat' (with_reducible first | assumption | apply act_keeps | apply settle_keeps | apply helloIn_keeps | apply OkP_of | split | simp only [↓Ok_mk] | dsimp only [id] | (intro x; intros))

theorem execHelloReply_keeps (p : Port) (h : Hand) (s s' : State) (hok : Ok F s.m) (h : execHelloReply p h s = .next s') : Ok F s'.m := by
  refine act_keeps h ?_
  repeat' (with_reducible first | assumption | apply act_keeps | apply settle_keeps | apply replyIn_keeps | apply OkP_of | split | simp only [↓Ok_mk] | dsimp only [id] | (intro x; intros))

theorem execFinished_keeps (p : Port) (h : Hand) (s s' : State) (hok : Ok F s.m) (h : execFinished p h s = .next s') : Ok F s'.m := by
  refine act_keeps h ?_
  repeat' (with_reducible first | assumption | apply act_keeps | apply settle_keeps | apply finishedIn_keeps | apply OkP_of | split | simp only [↓Ok_mk] | dsimp only [id] | (intro x; intros))

theorem execPortLicenceRelease_keeps (p : Port) (s s' : State) (hok : Ok F s.m) (h : execPortLicenceRelease p s = .next s') : Ok F s'.m := by
  refine act_keeps h ?_
  repeat' (with_reducible first | assumption | apply act_keeps | apply portRelease_keeps | apply OkP_of | split | simp only [↓Ok_mk] | dsimp only [id] | (intro x; intros))

theorem execLnSessionFail_keeps (peer : ModId) (s s' : State) (hok : Ok F s.m) (h : execLnSessionFail peer s = .next s') : Ok F s'.m := by
  refine act_keeps h ?_
  repeat' (with_reducible first | assumption | apply act_keeps | apply settle_keeps | apply noAnswer_keeps | apply OkP_of | split | simp only [↓Ok_mk] | dsimp only [id] | (intro x; intros))

end Sys2Proof.Machine
end

