-- ==== Sys2Proof/Laws/Memory.lean ====
section
/-! SUPPORT. What the shared memory operations can do, said once: the bytes after a run of writes, the canonical form that every
memory operation keeps, translation (which touches the TLB alone), and a settled module. -/
namespace Sys2Proof.Machine

/-- A byte of memory after a run of bytes was written. -/
theorem tget_putBytes {m : List Host.Cell} {a : Nat} {bs : Bytes} {j : Nat} (h : twf (0 : Byte) m = true) :
    tget (0 : Byte) (putBytes m a bs) j = if a ≤ j ∧ j < a + bs.length then nth 0 bs (j - a) else tget 0 m j := by
  induction bs generalizing m a with
  | nil => rw [if_neg (by simp only [List.length_nil]; omega)]; rfl
  | cons b bs ih =>
    rw [putBytes, ih (tset_wf h), tget_tset h]
    by_cases h1 : a + 1 ≤ j ∧ j < a + 1 + bs.length
    · have h2 : a ≤ j ∧ j < a + (b :: bs).length := by simp; omega
      rw [if_pos h1, if_pos h2]
      obtain ⟨k, hk⟩ : ∃ k, j - a = k + 1 := ⟨j - a - 1, by omega⟩
      have hk2 : j - (a + 1) = k := by omega
      simp [hk, hk2, nth]
    · rw [if_neg h1]
      by_cases h3 : j = a
      · subst h3
        simp [nth]
      · have h2 : ¬ (a ≤ j ∧ j < a + (b :: bs).length) := by simp; omega
        rw [if_neg h2, if_neg h3]

/-- A canonical table holds nothing below its first key. -/
theorem tget_below {α : Type} [DecidableEq α] {d : α} {t : Tbl α} {j : Nat} (hl : ∀ e ∈ t, j < e.1) : tget d t j = d := by
  cases t with
  | nil => rfl
  | cons b r =>
    obtain ⟨k, v⟩ := b
    have := hl (k, v) List.mem_cons_self
    simp only [tget]
    simp only at this
    rw [if_neg (by omega), if_pos (by omega)]

/-- A table after a range of keys was dropped. -/
theorem tget_tdrop {α : Type} [DecidableEq α] {d : α} {t : Tbl α} {lo hi j : Nat} (h : twf d t = true) :
    tget d (tdrop t lo hi) j = if lo ≤ j ∧ j < hi then d else tget d t j := by
  induction t with
  | nil => simp [tdrop, tget]
  | cons b r ih =>
    obtain ⟨k, v⟩ := b
    obtain ⟨h1, h2, h3⟩ := twf_cons.mp h
    have ih' := ih h2
    have e : tdrop ((k, v) :: r) lo hi = if lo ≤ k ∧ k < hi then tdrop r lo hi else (k, v) :: tdrop r lo hi := by
      by_cases hk : lo ≤ k ∧ k < hi
      · rw [if_pos hk]
        simp only [tdrop]
        rw [List.filter_cons_of_neg]
        simpa using hk
      · rw [if_neg hk]
        simp only [tdrop]
        rw [List.filter_cons_of_pos]
        exact decide_eq_true hk
    rw [e]
    by_cases hk : lo ≤ k ∧ k < hi
    · rw [if_pos hk, ih']
      by_cases hj : lo ≤ j ∧ j < hi
      · rw [if_pos hj, if_pos hj]
      · rw [if_neg hj, if_neg hj]
        have hne : j ≠ k := fun hc => hj (hc ▸ hk)
        simp only [tget, if_neg hne]
        split
        · exact tget_below fun e he => Nat.lt_trans (by assumption) (h3 e he)
        · rfl
    · rw [if_neg hk]
      simp only [tget]
      by_cases hjk : j = k
      · rw [if_pos hjk, if_pos hjk, if_neg (hjk ▸ hk)]
      · rw [if_neg hjk, if_neg hjk]
        by_cases hlt : j < k
        · rw [if_pos hlt, if_pos hlt]
          split <;> rfl
        · rw [if_neg hlt, if_neg hlt, ih']

/-- Writing keeps the memory's canonical form. -/
theorem memWrite_wf {a : Nat} {bs : Bytes} {p : Bool} {c : Chip} (h : c.mem.wf = true) : (memWrite a bs p c).mem.wf = true := by
  simp only [Mem.wf, Bool.and_eq_true] at h ⊢
  exact ⟨⟨putBytes_wf h.1.1, putPoison_wf h.1.2⟩, putLines_wf h.2⟩

/-- Clearing a range keeps the memory's canonical form. -/
theorem memClear_wf {a n : Nat} {c : Chip} (h : c.mem.wf = true) : (memClear a n c).mem.wf = true := by
  simp only [Mem.wf, Bool.and_eq_true] at h ⊢
  exact ⟨⟨tdrop_wf h.1.1, tdrop_wf h.1.2⟩, tdrop_wf h.2⟩

/-- Writing the segments of an access keeps the memory's canonical form. -/
theorem writeSegs_wf {g : Nat} {ss : List Seg} {bs : Bytes} {p : Bool} {c : Chip} (h : c.mem.wf = true) :
    (writeSegs g ss bs p c).mem.wf = true := by
  induction ss generalizing bs c with
  | nil => exact h
  | cons s r ih => exact ih (memWrite_wf h)

/-- A translation changes the groves (their TLBs) and nothing else. -/
theorem xlate_groves {t : Nat} {k : Acc} {va : Nat} {c c1 : Chip} {r : Except Trap Nat} (h : xlate t k va c = (c1, r)) :
    ∃ gs, c1 = { c with groves := gs } := by
  unfold xlate at h
  simp only [] at h
  split at h
  · cases h; exact ⟨c.groves, rfl⟩
  · split at h
    · cases h; exact ⟨c.groves, rfl⟩
    · split at h
      · cases h; exact ⟨c.groves, rfl⟩
      · split at h
        · cases h; exact ⟨c.groves, rfl⟩
        · cases h; exact ⟨_, rfl⟩

/-- The translation of a range changes the groves and nothing else. -/
theorem xlateRange_groves {t : Nat} {k : Acc} {f va n : Nat} {c c1 : Chip} {r : Except Trap (List Seg)}
    (h : xlateRange t k f va n c = (c1, r)) : ∃ gs, c1 = { c with groves := gs } := by
  induction f generalizing va n c c1 r with
  | zero => cases h; exact ⟨c.groves, rfl⟩
  | succ f ih =>
    unfold xlateRange at h
    split at h
    · cases h; exact ⟨c.groves, rfl⟩
    · split at h
      · rename_i hx
        cases h
        exact xlate_groves hx
      · rename_i hx
        obtain ⟨gs, rfl⟩ := xlate_groves hx
        dsimp only at h
        split at h
        · rename_i hr
          cases h
          obtain ⟨g2, rfl⟩ := ih hr
          exact ⟨g2, rfl⟩
        · rename_i hr
          cases h
          obtain ⟨g2, rfl⟩ := ih hr
          exact ⟨g2, rfl⟩

/-- Reaching an address changes the groves and nothing else. -/
theorem reach_groves {t : Nat} {k : Acc} {va n : Nat} {c c1 : Chip} {r : Reach} (h : reach t k va n c = (c1, r)) :
    ∃ gs, c1 = { c with groves := gs } := by
  unfold reach at h
  split at h
  · rename_i hx
    cases h
    exact xlateRange_groves hx
  · rename_i hx
    obtain ⟨gs, rfl⟩ := xlateRange_groves hx
    refine ⟨gs, ?_⟩
    simp only [] at h
    repeat' split at h
    all_goals exact (Prod.mk.inj h).1.symm

/-- The choice of R667 changes the groves alone where it tags nothing. -/
theorem issues_groves {t : Thread} {c c1 : Chip} (h : issues t c c1) : ∃ gs, c1 = { c with groves := gs } := by
  obtain ⟨_, _, h3⟩ := h
  unfold tagChoice at h3
  simp only [Prod.mk.injEq] at h3
  obtain ⟨hf, rfl⟩ := h3
  simp only [Bool.or_eq_false_iff] at hf
  rw [hf.1]
  simp only [Bool.false_eq_true, if_false]
  split
  · exact ⟨_, rfl⟩
  · exact ⟨c.groves, rfl⟩

/-- A module that met no poison and no vital error is settled. -/
theorem settleMem_quiet {c : Chip} (h1 : c.pair.poisonTaken = false) (h2 : c.flt.fatal = none) : settleMem c = c := by
  simp only [settleMem, pairPoison, h1, Bool.false_eq_true, if_false, settleFatal, h2]

/-- A read whose check bits found nothing leaves the module as it is. -/
theorem foldEcc_nil (g : Nat) : ∀ (l : List Seg) (c : Chip), l.foldl (fun c x => applyEcc (unalias g (x.pa % 2 ^ 44)) x.len [] c) c = c := by
    intro l
    induction l with
    | nil => intro c; rfl
    | cons x l ih => intro c; exact ih c

/-- A local read outside the register space that finds no error and no poison answers the bytes and changes nothing. -/
theorem readHere_noEcc (t : Nat) (ss : List Seg) (n : Nat) (c : Chip) (hreg : inRegs ss = false) (hpo : firstPoison c t ss = none) :
   readHere t ss n [] c = (c, .ok (readSegs c (groveOf t) ss)) := by
    unfold readHere
    rw [hreg, if_neg Bool.false_ne_true]
    have h : ∀ d : Chip, d = c → (match firstPoison d t ss with
      | some a => (d, (.error ⟨25, a, some St.poisonConsumed, false⟩ : Except Trap Bytes))
      | none => (d, .ok (readSegs d (groveOf t) ss))) = (c, .ok (readSegs c (groveOf t) ss)) := by
      intro d hd
      rw [hd, hpo]
    exact h _ (foldEcc_nil (groveOf t) ss c)

/-- The TLBs do not change what memory holds. -/
theorem memRead_groves (c : Chip) (g2) : ∀ n a, memRead { c with groves := g2 } a n = memRead c a n := by
  intro n
  induction n with
  | zero => intro a; rfl
  | succ n ih => intro a; simp only [memRead, ih]; rfl

/-- The TLBs do not change what a span reads as. -/
theorem readSegs_groves (c : Chip) (g2) (g ss) : readSegs { c with groves := g2 } g ss = readSegs c g ss := by
  simp only [readSegs, memRead_groves]

/-- Completing a load leaves the thread's state. -/
theorem takeLoad_state (rd size uns fp n bs h) : (takeLoad rd size uns fp n bs h).state = h.state := by
      unfold takeLoad
      cases fp
      · show (writeX rd _ h).state = _
        unfold writeX
        split <;> rfl
      · rfl

/-- The threads after one of them was updated. -/
theorem hart_modHart (c : Chip) (t : Nat) (f : Hart → Hart) (hst : (f (hart c t)).state ≠ .empty) (u : Nat) : hart (modHart t f c) u = if u = t then f (hart c t) else hart c u := by
    show tget {} (tset {} c.harts t (f (hart c t))) u = _
    unfold tset
    rw [if_neg, tget_tins]
    · rfl
    intro hc
    rw [hc] at hst
    exact hst rfl

/-- The TLBs are no part of a thread. -/
theorem hart_groves (c : Chip) (g2) (u : Nat) : hart { c with groves := g2 } u = hart c u := rfl

end Sys2Proof.Machine
end

