-- ==== Sys2Proof/Laws/State.lean ====
section
/-! SUPPORT. One lemma for each part of the module and each basic update of another part: the update leaves it as it is. -/
namespace Sys2Proof.Machine

/-! `setHart` changes `harts` alone. -/

@[simp] theorem setHart_time (t : Nat) (h : Hart) (c : Chip) : (setHart t h c).time = c.time := rfl
@[simp] theorem setHart_dict (t : Nat) (h : Hart) (c : Chip) : (setHart t h c).dict = c.dict := rfl
@[simp] theorem setHart_fdp (t : Nat) (h : Hart) (c : Chip) : (setHart t h c).fdp = c.fdp := rfl
@[simp] theorem setHart_mbx (t : Nat) (h : Hart) (c : Chip) : (setHart t h c).mbx = c.mbx := rfl
@[simp] theorem setHart_saves (t : Nat) (h : Hart) (c : Chip) : (setHart t h c).saves = c.saves := rfl
@[simp] theorem setHart_groves (t : Nat) (h : Hart) (c : Chip) : (setHart t h c).groves = c.groves := rfl
@[simp] theorem setHart_host (t : Nat) (h : Hart) (c : Chip) : (setHart t h c).host = c.host := rfl
@[simp] theorem setHart_mem (t : Nat) (h : Hart) (c : Chip) : (setHart t h c).mem = c.mem := rfl
@[simp] theorem setHart_queues (t : Nat) (h : Hart) (c : Chip) : (setHart t h c).queues = c.queues := rfl
@[simp] theorem setHart_pool (t : Nat) (h : Hart) (c : Chip) : (setHart t h c).pool = c.pool := rfl
@[simp] theorem setHart_opens (t : Nat) (h : Hart) (c : Chip) : (setHart t h c).opens = c.opens := rfl
@[simp] theorem setHart_blz (t : Nat) (h : Hart) (c : Chip) : (setHart t h c).blz = c.blz := rfl
@[simp] theorem setHart_lnk (t : Nat) (h : Hart) (c : Chip) : (setHart t h c).lnk = c.lnk := rfl
@[simp] theorem setHart_pair (t : Nat) (h : Hart) (c : Chip) : (setHart t h c).pair = c.pair := rfl
@[simp] theorem setHart_kv (t : Nat) (h : Hart) (c : Chip) : (setHart t h c).kv = c.kv := rfl
@[simp] theorem setHart_srv (t : Nat) (h : Hart) (c : Chip) : (setHart t h c).srv = c.srv := rfl
@[simp] theorem setHart_vid (t : Nat) (h : Hart) (c : Chip) : (setHart t h c).vid = c.vid := rfl
@[simp] theorem setHart_fw (t : Nat) (h : Hart) (c : Chip) : (setHart t h c).fw = c.fw := rfl
@[simp] theorem setHart_flt (t : Nat) (h : Hart) (c : Chip) : (setHart t h c).flt = c.flt := rfl
@[simp] theorem setHart_pwr (t : Nat) (h : Hart) (c : Chip) : (setHart t h c).pwr = c.pwr := rfl
@[simp] theorem setHart_map (t : Nat) (h : Hart) (c : Chip) : (setHart t h c).map = c.map := rfl
@[simp] theorem setHart_keys (t : Nat) (h : Hart) (c : Chip) : (setHart t h c).keys = c.keys := rfl
@[simp] theorem setHart_sec (t : Nat) (h : Hart) (c : Chip) : (setHart t h c).sec = c.sec := rfl
@[simp] theorem setHart_fuse (t : Nat) (h : Hart) (c : Chip) : (setHart t h c).fuse = c.fuse := rfl
@[simp] theorem setHart_dice (t : Nat) (h : Hart) (c : Chip) : (setHart t h c).dice = c.dice := rfl
@[simp] theorem setHart_ctr (t : Nat) (h : Hart) (c : Chip) : (setHart t h c).ctr = c.ctr := rfl
@[simp] theorem setHart_board (t : Nat) (h : Hart) (c : Chip) : (setHart t h c).board = c.board := rfl
@[simp] theorem setHart_life (t : Nat) (h : Hart) (c : Chip) : (setHart t h c).life = c.life := rfl
@[simp] theorem setHart_moduleId (t : Nat) (h : Hart) (c : Chip) : (setHart t h c).moduleId = c.moduleId := rfl
@[simp] theorem setHart_outbox (t : Nat) (h : Hart) (c : Chip) : (setHart t h c).outbox = c.outbox := rfl
@[simp] theorem setHart_serial (t : Nat) (h : Hart) (c : Chip) : (setHart t h c).serial = c.serial := rfl
@[simp] theorem setHart_freeCtr (t : Nat) (h : Hart) (c : Chip) : (setHart t h c).freeCtr = c.freeCtr := rfl

/-! `modHart` changes `harts` alone. -/

@[simp] theorem modHart_time (t : Nat) (f : Hart → Hart) (c : Chip) : (modHart t f c).time = c.time := rfl
@[simp] theorem modHart_dict (t : Nat) (f : Hart → Hart) (c : Chip) : (modHart t f c).dict = c.dict := rfl
@[simp] theorem modHart_fdp (t : Nat) (f : Hart → Hart) (c : Chip) : (modHart t f c).fdp = c.fdp := rfl
@[simp] theorem modHart_mbx (t : Nat) (f : Hart → Hart) (c : Chip) : (modHart t f c).mbx = c.mbx := rfl
@[simp] theorem modHart_saves (t : Nat) (f : Hart → Hart) (c : Chip) : (modHart t f c).saves = c.saves := rfl
@[simp] theorem modHart_groves (t : Nat) (f : Hart → Hart) (c : Chip) : (modHart t f c).groves = c.groves := rfl
@[simp] theorem modHart_host (t : Nat) (f : Hart → Hart) (c : Chip) : (modHart t f c).host = c.host := rfl
@[simp] theorem modHart_mem (t : Nat) (f : Hart → Hart) (c : Chip) : (modHart t f c).mem = c.mem := rfl
@[simp] theorem modHart_queues (t : Nat) (f : Hart → Hart) (c : Chip) : (modHart t f c).queues = c.queues := rfl
@[simp] theorem modHart_pool (t : Nat) (f : Hart → Hart) (c : Chip) : (modHart t f c).pool = c.pool := rfl
@[simp] theorem modHart_opens (t : Nat) (f : Hart → Hart) (c : Chip) : (modHart t f c).opens = c.opens := rfl
@[simp] theorem modHart_blz (t : Nat) (f : Hart → Hart) (c : Chip) : (modHart t f c).blz = c.blz := rfl
@[simp] theorem modHart_lnk (t : Nat) (f : Hart → Hart) (c : Chip) : (modHart t f c).lnk = c.lnk := rfl
@[simp] theorem modHart_pair (t : Nat) (f : Hart → Hart) (c : Chip) : (modHart t f c).pair = c.pair := rfl
@[simp] theorem modHart_kv (t : Nat) (f : Hart → Hart) (c : Chip) : (modHart t f c).kv = c.kv := rfl
@[simp] theorem modHart_srv (t : Nat) (f : Hart → Hart) (c : Chip) : (modHart t f c).srv = c.srv := rfl
@[simp] theorem modHart_vid (t : Nat) (f : Hart → Hart) (c : Chip) : (modHart t f c).vid = c.vid := rfl
@[simp] theorem modHart_fw (t : Nat) (f : Hart → Hart) (c : Chip) : (modHart t f c).fw = c.fw := rfl
@[simp] theorem modHart_flt (t : Nat) (f : Hart → Hart) (c : Chip) : (modHart t f c).flt = c.flt := rfl
@[simp] theorem modHart_pwr (t : Nat) (f : Hart → Hart) (c : Chip) : (modHart t f c).pwr = c.pwr := rfl
@[simp] theorem modHart_map (t : Nat) (f : Hart → Hart) (c : Chip) : (modHart t f c).map = c.map := rfl
@[simp] theorem modHart_keys (t : Nat) (f : Hart → Hart) (c : Chip) : (modHart t f c).keys = c.keys := rfl
@[simp] theorem modHart_sec (t : Nat) (f : Hart → Hart) (c : Chip) : (modHart t f c).sec = c.sec := rfl
@[simp] theorem modHart_fuse (t : Nat) (f : Hart → Hart) (c : Chip) : (modHart t f c).fuse = c.fuse := rfl
@[simp] theorem modHart_dice (t : Nat) (f : Hart → Hart) (c : Chip) : (modHart t f c).dice = c.dice := rfl
@[simp] theorem modHart_ctr (t : Nat) (f : Hart → Hart) (c : Chip) : (modHart t f c).ctr = c.ctr := rfl
@[simp] theorem modHart_board (t : Nat) (f : Hart → Hart) (c : Chip) : (modHart t f c).board = c.board := rfl
@[simp] theorem modHart_life (t : Nat) (f : Hart → Hart) (c : Chip) : (modHart t f c).life = c.life := rfl
@[simp] theorem modHart_moduleId (t : Nat) (f : Hart → Hart) (c : Chip) : (modHart t f c).moduleId = c.moduleId := rfl
@[simp] theorem modHart_outbox (t : Nat) (f : Hart → Hart) (c : Chip) : (modHart t f c).outbox = c.outbox := rfl
@[simp] theorem modHart_serial (t : Nat) (f : Hart → Hart) (c : Chip) : (modHart t f c).serial = c.serial := rfl
@[simp] theorem modHart_freeCtr (t : Nat) (f : Hart → Hart) (c : Chip) : (modHart t f c).freeCtr = c.freeCtr := rfl

/-! `retire` changes `harts` alone. -/

@[simp] theorem retire_time (t rd : Nat) (v : Word) (c : Chip) : (retire t rd v c).time = c.time := rfl
@[simp] theorem retire_dict (t rd : Nat) (v : Word) (c : Chip) : (retire t rd v c).dict = c.dict := rfl
@[simp] theorem retire_fdp (t rd : Nat) (v : Word) (c : Chip) : (retire t rd v c).fdp = c.fdp := rfl
@[simp] theorem retire_mbx (t rd : Nat) (v : Word) (c : Chip) : (retire t rd v c).mbx = c.mbx := rfl
@[simp] theorem retire_saves (t rd : Nat) (v : Word) (c : Chip) : (retire t rd v c).saves = c.saves := rfl
@[simp] theorem retire_groves (t rd : Nat) (v : Word) (c : Chip) : (retire t rd v c).groves = c.groves := rfl
@[simp] theorem retire_host (t rd : Nat) (v : Word) (c : Chip) : (retire t rd v c).host = c.host := rfl
@[simp] theorem retire_mem (t rd : Nat) (v : Word) (c : Chip) : (retire t rd v c).mem = c.mem := rfl
@[simp] theorem retire_queues (t rd : Nat) (v : Word) (c : Chip) : (retire t rd v c).queues = c.queues := rfl
@[simp] theorem retire_pool (t rd : Nat) (v : Word) (c : Chip) : (retire t rd v c).pool = c.pool := rfl
@[simp] theorem retire_opens (t rd : Nat) (v : Word) (c : Chip) : (retire t rd v c).opens = c.opens := rfl
@[simp] theorem retire_blz (t rd : Nat) (v : Word) (c : Chip) : (retire t rd v c).blz = c.blz := rfl
@[simp] theorem retire_lnk (t rd : Nat) (v : Word) (c : Chip) : (retire t rd v c).lnk = c.lnk := rfl
@[simp] theorem retire_pair (t rd : Nat) (v : Word) (c : Chip) : (retire t rd v c).pair = c.pair := rfl
@[simp] theorem retire_kv (t rd : Nat) (v : Word) (c : Chip) : (retire t rd v c).kv = c.kv := rfl
@[simp] theorem retire_srv (t rd : Nat) (v : Word) (c : Chip) : (retire t rd v c).srv = c.srv := rfl
@[simp] theorem retire_vid (t rd : Nat) (v : Word) (c : Chip) : (retire t rd v c).vid = c.vid := rfl
@[simp] theorem retire_fw (t rd : Nat) (v : Word) (c : Chip) : (retire t rd v c).fw = c.fw := rfl
@[simp] theorem retire_flt (t rd : Nat) (v : Word) (c : Chip) : (retire t rd v c).flt = c.flt := rfl
@[simp] theorem retire_pwr (t rd : Nat) (v : Word) (c : Chip) : (retire t rd v c).pwr = c.pwr := rfl
@[simp] theorem retire_map (t rd : Nat) (v : Word) (c : Chip) : (retire t rd v c).map = c.map := rfl
@[simp] theorem retire_keys (t rd : Nat) (v : Word) (c : Chip) : (retire t rd v c).keys = c.keys := rfl
@[simp] theorem retire_sec (t rd : Nat) (v : Word) (c : Chip) : (retire t rd v c).sec = c.sec := rfl
@[simp] theorem retire_fuse (t rd : Nat) (v : Word) (c : Chip) : (retire t rd v c).fuse = c.fuse := rfl
@[simp] theorem retire_dice (t rd : Nat) (v : Word) (c : Chip) : (retire t rd v c).dice = c.dice := rfl
@[simp] theorem retire_ctr (t rd : Nat) (v : Word) (c : Chip) : (retire t rd v c).ctr = c.ctr := rfl
@[simp] theorem retire_board (t rd : Nat) (v : Word) (c : Chip) : (retire t rd v c).board = c.board := rfl
@[simp] theorem retire_life (t rd : Nat) (v : Word) (c : Chip) : (retire t rd v c).life = c.life := rfl
@[simp] theorem retire_moduleId (t rd : Nat) (v : Word) (c : Chip) : (retire t rd v c).moduleId = c.moduleId := rfl
@[simp] theorem retire_outbox (t rd : Nat) (v : Word) (c : Chip) : (retire t rd v c).outbox = c.outbox := rfl
@[simp] theorem retire_serial (t rd : Nat) (v : Word) (c : Chip) : (retire t rd v c).serial = c.serial := rfl
@[simp] theorem retire_freeCtr (t rd : Nat) (v : Word) (c : Chip) : (retire t rd v c).freeCtr = c.freeCtr := rfl

/-! `setGrove` changes `groves` alone. -/

@[simp] theorem setGrove_time (g : Nat) (v : Grove) (c : Chip) : (setGrove g v c).time = c.time := rfl
@[simp] theorem setGrove_dict (g : Nat) (v : Grove) (c : Chip) : (setGrove g v c).dict = c.dict := rfl
@[simp] theorem setGrove_fdp (g : Nat) (v : Grove) (c : Chip) : (setGrove g v c).fdp = c.fdp := rfl
@[simp] theorem setGrove_mbx (g : Nat) (v : Grove) (c : Chip) : (setGrove g v c).mbx = c.mbx := rfl
@[simp] theorem setGrove_harts (g : Nat) (v : Grove) (c : Chip) : (setGrove g v c).harts = c.harts := rfl
@[simp] theorem setGrove_saves (g : Nat) (v : Grove) (c : Chip) : (setGrove g v c).saves = c.saves := rfl
@[simp] theorem setGrove_host (g : Nat) (v : Grove) (c : Chip) : (setGrove g v c).host = c.host := rfl
@[simp] theorem setGrove_mem (g : Nat) (v : Grove) (c : Chip) : (setGrove g v c).mem = c.mem := rfl
@[simp] theorem setGrove_queues (g : Nat) (v : Grove) (c : Chip) : (setGrove g v c).queues = c.queues := rfl
@[simp] theorem setGrove_pool (g : Nat) (v : Grove) (c : Chip) : (setGrove g v c).pool = c.pool := rfl
@[simp] theorem setGrove_opens (g : Nat) (v : Grove) (c : Chip) : (setGrove g v c).opens = c.opens := rfl
@[simp] theorem setGrove_blz (g : Nat) (v : Grove) (c : Chip) : (setGrove g v c).blz = c.blz := rfl
@[simp] theorem setGrove_lnk (g : Nat) (v : Grove) (c : Chip) : (setGrove g v c).lnk = c.lnk := rfl
@[simp] theorem setGrove_pair (g : Nat) (v : Grove) (c : Chip) : (setGrove g v c).pair = c.pair := rfl
@[simp] theorem setGrove_kv (g : Nat) (v : Grove) (c : Chip) : (setGrove g v c).kv = c.kv := rfl
@[simp] theorem setGrove_srv (g : Nat) (v : Grove) (c : Chip) : (setGrove g v c).srv = c.srv := rfl
@[simp] theorem setGrove_vid (g : Nat) (v : Grove) (c : Chip) : (setGrove g v c).vid = c.vid := rfl
@[simp] theorem setGrove_fw (g : Nat) (v : Grove) (c : Chip) : (setGrove g v c).fw = c.fw := rfl
@[simp] theorem setGrove_flt (g : Nat) (v : Grove) (c : Chip) : (setGrove g v c).flt = c.flt := rfl
@[simp] theorem setGrove_pwr (g : Nat) (v : Grove) (c : Chip) : (setGrove g v c).pwr = c.pwr := rfl
@[simp] theorem setGrove_map (g : Nat) (v : Grove) (c : Chip) : (setGrove g v c).map = c.map := rfl
@[simp] theorem setGrove_keys (g : Nat) (v : Grove) (c : Chip) : (setGrove g v c).keys = c.keys := rfl
@[simp] theorem setGrove_sec (g : Nat) (v : Grove) (c : Chip) : (setGrove g v c).sec = c.sec := rfl
@[simp] theorem setGrove_fuse (g : Nat) (v : Grove) (c : Chip) : (setGrove g v c).fuse = c.fuse := rfl
@[simp] theorem setGrove_dice (g : Nat) (v : Grove) (c : Chip) : (setGrove g v c).dice = c.dice := rfl
@[simp] theorem setGrove_ctr (g : Nat) (v : Grove) (c : Chip) : (setGrove g v c).ctr = c.ctr := rfl
@[simp] theorem setGrove_board (g : Nat) (v : Grove) (c : Chip) : (setGrove g v c).board = c.board := rfl
@[simp] theorem setGrove_life (g : Nat) (v : Grove) (c : Chip) : (setGrove g v c).life = c.life := rfl
@[simp] theorem setGrove_moduleId (g : Nat) (v : Grove) (c : Chip) : (setGrove g v c).moduleId = c.moduleId := rfl
@[simp] theorem setGrove_outbox (g : Nat) (v : Grove) (c : Chip) : (setGrove g v c).outbox = c.outbox := rfl
@[simp] theorem setGrove_serial (g : Nat) (v : Grove) (c : Chip) : (setGrove g v c).serial = c.serial := rfl
@[simp] theorem setGrove_freeCtr (g : Nat) (v : Grove) (c : Chip) : (setGrove g v c).freeCtr = c.freeCtr := rfl

/-! `setTag` changes `groves` alone. -/

@[simp] theorem setTag_time (n : Nat) (v : Tag) (c : Chip) : (setTag n v c).time = c.time := rfl
@[simp] theorem setTag_dict (n : Nat) (v : Tag) (c : Chip) : (setTag n v c).dict = c.dict := rfl
@[simp] theorem setTag_fdp (n : Nat) (v : Tag) (c : Chip) : (setTag n v c).fdp = c.fdp := rfl
@[simp] theorem setTag_mbx (n : Nat) (v : Tag) (c : Chip) : (setTag n v c).mbx = c.mbx := rfl
@[simp] theorem setTag_harts (n : Nat) (v : Tag) (c : Chip) : (setTag n v c).harts = c.harts := rfl
@[simp] theorem setTag_saves (n : Nat) (v : Tag) (c : Chip) : (setTag n v c).saves = c.saves := rfl
@[simp] theorem setTag_host (n : Nat) (v : Tag) (c : Chip) : (setTag n v c).host = c.host := rfl
@[simp] theorem setTag_mem (n : Nat) (v : Tag) (c : Chip) : (setTag n v c).mem = c.mem := rfl
@[simp] theorem setTag_queues (n : Nat) (v : Tag) (c : Chip) : (setTag n v c).queues = c.queues := rfl
@[simp] theorem setTag_pool (n : Nat) (v : Tag) (c : Chip) : (setTag n v c).pool = c.pool := rfl
@[simp] theorem setTag_opens (n : Nat) (v : Tag) (c : Chip) : (setTag n v c).opens = c.opens := rfl
@[simp] theorem setTag_blz (n : Nat) (v : Tag) (c : Chip) : (setTag n v c).blz = c.blz := rfl
@[simp] theorem setTag_lnk (n : Nat) (v : Tag) (c : Chip) : (setTag n v c).lnk = c.lnk := rfl
@[simp] theorem setTag_pair (n : Nat) (v : Tag) (c : Chip) : (setTag n v c).pair = c.pair := rfl
@[simp] theorem setTag_kv (n : Nat) (v : Tag) (c : Chip) : (setTag n v c).kv = c.kv := rfl
@[simp] theorem setTag_srv (n : Nat) (v : Tag) (c : Chip) : (setTag n v c).srv = c.srv := rfl
@[simp] theorem setTag_vid (n : Nat) (v : Tag) (c : Chip) : (setTag n v c).vid = c.vid := rfl
@[simp] theorem setTag_fw (n : Nat) (v : Tag) (c : Chip) : (setTag n v c).fw = c.fw := rfl
@[simp] theorem setTag_flt (n : Nat) (v : Tag) (c : Chip) : (setTag n v c).flt = c.flt := rfl
@[simp] theorem setTag_pwr (n : Nat) (v : Tag) (c : Chip) : (setTag n v c).pwr = c.pwr := rfl
@[simp] theorem setTag_map (n : Nat) (v : Tag) (c : Chip) : (setTag n v c).map = c.map := rfl
@[simp] theorem setTag_keys (n : Nat) (v : Tag) (c : Chip) : (setTag n v c).keys = c.keys := rfl
@[simp] theorem setTag_sec (n : Nat) (v : Tag) (c : Chip) : (setTag n v c).sec = c.sec := rfl
@[simp] theorem setTag_fuse (n : Nat) (v : Tag) (c : Chip) : (setTag n v c).fuse = c.fuse := rfl
@[simp] theorem setTag_dice (n : Nat) (v : Tag) (c : Chip) : (setTag n v c).dice = c.dice := rfl
@[simp] theorem setTag_ctr (n : Nat) (v : Tag) (c : Chip) : (setTag n v c).ctr = c.ctr := rfl
@[simp] theorem setTag_board (n : Nat) (v : Tag) (c : Chip) : (setTag n v c).board = c.board := rfl
@[simp] theorem setTag_life (n : Nat) (v : Tag) (c : Chip) : (setTag n v c).life = c.life := rfl
@[simp] theorem setTag_moduleId (n : Nat) (v : Tag) (c : Chip) : (setTag n v c).moduleId = c.moduleId := rfl
@[simp] theorem setTag_outbox (n : Nat) (v : Tag) (c : Chip) : (setTag n v c).outbox = c.outbox := rfl
@[simp] theorem setTag_serial (n : Nat) (v : Tag) (c : Chip) : (setTag n v c).serial = c.serial := rfl
@[simp] theorem setTag_freeCtr (n : Nat) (v : Tag) (c : Chip) : (setTag n v c).freeCtr = c.freeCtr := rfl

/-! `setQueue` changes `queues` alone. -/

@[simp] theorem setQueue_time (q : Nat) (v : Queue) (c : Chip) : (setQueue q v c).time = c.time := rfl
@[simp] theorem setQueue_dict (q : Nat) (v : Queue) (c : Chip) : (setQueue q v c).dict = c.dict := rfl
@[simp] theorem setQueue_fdp (q : Nat) (v : Queue) (c : Chip) : (setQueue q v c).fdp = c.fdp := rfl
@[simp] theorem setQueue_mbx (q : Nat) (v : Queue) (c : Chip) : (setQueue q v c).mbx = c.mbx := rfl
@[simp] theorem setQueue_harts (q : Nat) (v : Queue) (c : Chip) : (setQueue q v c).harts = c.harts := rfl
@[simp] theorem setQueue_saves (q : Nat) (v : Queue) (c : Chip) : (setQueue q v c).saves = c.saves := rfl
@[simp] theorem setQueue_groves (q : Nat) (v : Queue) (c : Chip) : (setQueue q v c).groves = c.groves := rfl
@[simp] theorem setQueue_host (q : Nat) (v : Queue) (c : Chip) : (setQueue q v c).host = c.host := rfl
@[simp] theorem setQueue_mem (q : Nat) (v : Queue) (c : Chip) : (setQueue q v c).mem = c.mem := rfl
@[simp] theorem setQueue_pool (q : Nat) (v : Queue) (c : Chip) : (setQueue q v c).pool = c.pool := rfl
@[simp] theorem setQueue_opens (q : Nat) (v : Queue) (c : Chip) : (setQueue q v c).opens = c.opens := rfl
@[simp] theorem setQueue_blz (q : Nat) (v : Queue) (c : Chip) : (setQueue q v c).blz = c.blz := rfl
@[simp] theorem setQueue_lnk (q : Nat) (v : Queue) (c : Chip) : (setQueue q v c).lnk = c.lnk := rfl
@[simp] theorem setQueue_pair (q : Nat) (v : Queue) (c : Chip) : (setQueue q v c).pair = c.pair := rfl
@[simp] theorem setQueue_kv (q : Nat) (v : Queue) (c : Chip) : (setQueue q v c).kv = c.kv := rfl
@[simp] theorem setQueue_srv (q : Nat) (v : Queue) (c : Chip) : (setQueue q v c).srv = c.srv := rfl
@[simp] theorem setQueue_vid (q : Nat) (v : Queue) (c : Chip) : (setQueue q v c).vid = c.vid := rfl
@[simp] theorem setQueue_fw (q : Nat) (v : Queue) (c : Chip) : (setQueue q v c).fw = c.fw := rfl
@[simp] theorem setQueue_flt (q : Nat) (v : Queue) (c : Chip) : (setQueue q v c).flt = c.flt := rfl
@[simp] theorem setQueue_pwr (q : Nat) (v : Queue) (c : Chip) : (setQueue q v c).pwr = c.pwr := rfl
@[simp] theorem setQueue_map (q : Nat) (v : Queue) (c : Chip) : (setQueue q v c).map = c.map := rfl
@[simp] theorem setQueue_keys (q : Nat) (v : Queue) (c : Chip) : (setQueue q v c).keys = c.keys := rfl
@[simp] theorem setQueue_sec (q : Nat) (v : Queue) (c : Chip) : (setQueue q v c).sec = c.sec := rfl
@[simp] theorem setQueue_fuse (q : Nat) (v : Queue) (c : Chip) : (setQueue q v c).fuse = c.fuse := rfl
@[simp] theorem setQueue_dice (q : Nat) (v : Queue) (c : Chip) : (setQueue q v c).dice = c.dice := rfl
@[simp] theorem setQueue_ctr (q : Nat) (v : Queue) (c : Chip) : (setQueue q v c).ctr = c.ctr := rfl
@[simp] theorem setQueue_board (q : Nat) (v : Queue) (c : Chip) : (setQueue q v c).board = c.board := rfl
@[simp] theorem setQueue_life (q : Nat) (v : Queue) (c : Chip) : (setQueue q v c).life = c.life := rfl
@[simp] theorem setQueue_moduleId (q : Nat) (v : Queue) (c : Chip) : (setQueue q v c).moduleId = c.moduleId := rfl
@[simp] theorem setQueue_outbox (q : Nat) (v : Queue) (c : Chip) : (setQueue q v c).outbox = c.outbox := rfl
@[simp] theorem setQueue_serial (q : Nat) (v : Queue) (c : Chip) : (setQueue q v c).serial = c.serial := rfl
@[simp] theorem setQueue_freeCtr (q : Nat) (v : Queue) (c : Chip) : (setQueue q v c).freeCtr = c.freeCtr := rfl

/-! `setBlazeEnt` changes `blz` alone. -/

@[simp] theorem setBlazeEnt_time (n : Nat) (b : Blaze) (c : Chip) : (setBlazeEnt n b c).time = c.time := rfl
@[simp] theorem setBlazeEnt_dict (n : Nat) (b : Blaze) (c : Chip) : (setBlazeEnt n b c).dict = c.dict := rfl
@[simp] theorem setBlazeEnt_fdp (n : Nat) (b : Blaze) (c : Chip) : (setBlazeEnt n b c).fdp = c.fdp := rfl
@[simp] theorem setBlazeEnt_mbx (n : Nat) (b : Blaze) (c : Chip) : (setBlazeEnt n b c).mbx = c.mbx := rfl
@[simp] theorem setBlazeEnt_harts (n : Nat) (b : Blaze) (c : Chip) : (setBlazeEnt n b c).harts = c.harts := rfl
@[simp] theorem setBlazeEnt_saves (n : Nat) (b : Blaze) (c : Chip) : (setBlazeEnt n b c).saves = c.saves := rfl
@[simp] theorem setBlazeEnt_groves (n : Nat) (b : Blaze) (c : Chip) : (setBlazeEnt n b c).groves = c.groves := rfl
@[simp] theorem setBlazeEnt_host (n : Nat) (b : Blaze) (c : Chip) : (setBlazeEnt n b c).host = c.host := rfl
@[simp] theorem setBlazeEnt_mem (n : Nat) (b : Blaze) (c : Chip) : (setBlazeEnt n b c).mem = c.mem := rfl
@[simp] theorem setBlazeEnt_queues (n : Nat) (b : Blaze) (c : Chip) : (setBlazeEnt n b c).queues = c.queues := rfl
@[simp] theorem setBlazeEnt_pool (n : Nat) (b : Blaze) (c : Chip) : (setBlazeEnt n b c).pool = c.pool := rfl
@[simp] theorem setBlazeEnt_opens (n : Nat) (b : Blaze) (c : Chip) : (setBlazeEnt n b c).opens = c.opens := rfl
@[simp] theorem setBlazeEnt_lnk (n : Nat) (b : Blaze) (c : Chip) : (setBlazeEnt n b c).lnk = c.lnk := rfl
@[simp] theorem setBlazeEnt_pair (n : Nat) (b : Blaze) (c : Chip) : (setBlazeEnt n b c).pair = c.pair := rfl
@[simp] theorem setBlazeEnt_kv (n : Nat) (b : Blaze) (c : Chip) : (setBlazeEnt n b c).kv = c.kv := rfl
@[simp] theorem setBlazeEnt_srv (n : Nat) (b : Blaze) (c : Chip) : (setBlazeEnt n b c).srv = c.srv := rfl
@[simp] theorem setBlazeEnt_vid (n : Nat) (b : Blaze) (c : Chip) : (setBlazeEnt n b c).vid = c.vid := rfl
@[simp] theorem setBlazeEnt_fw (n : Nat) (b : Blaze) (c : Chip) : (setBlazeEnt n b c).fw = c.fw := rfl
@[simp] theorem setBlazeEnt_flt (n : Nat) (b : Blaze) (c : Chip) : (setBlazeEnt n b c).flt = c.flt := rfl
@[simp] theorem setBlazeEnt_pwr (n : Nat) (b : Blaze) (c : Chip) : (setBlazeEnt n b c).pwr = c.pwr := rfl
@[simp] theorem setBlazeEnt_map (n : Nat) (b : Blaze) (c : Chip) : (setBlazeEnt n b c).map = c.map := rfl
@[simp] theorem setBlazeEnt_keys (n : Nat) (b : Blaze) (c : Chip) : (setBlazeEnt n b c).keys = c.keys := rfl
@[simp] theorem setBlazeEnt_sec (n : Nat) (b : Blaze) (c : Chip) : (setBlazeEnt n b c).sec = c.sec := rfl
@[simp] theorem setBlazeEnt_fuse (n : Nat) (b : Blaze) (c : Chip) : (setBlazeEnt n b c).fuse = c.fuse := rfl
@[simp] theorem setBlazeEnt_dice (n : Nat) (b : Blaze) (c : Chip) : (setBlazeEnt n b c).dice = c.dice := rfl
@[simp] theorem setBlazeEnt_ctr (n : Nat) (b : Blaze) (c : Chip) : (setBlazeEnt n b c).ctr = c.ctr := rfl
@[simp] theorem setBlazeEnt_board (n : Nat) (b : Blaze) (c : Chip) : (setBlazeEnt n b c).board = c.board := rfl
@[simp] theorem setBlazeEnt_life (n : Nat) (b : Blaze) (c : Chip) : (setBlazeEnt n b c).life = c.life := rfl
@[simp] theorem setBlazeEnt_moduleId (n : Nat) (b : Blaze) (c : Chip) : (setBlazeEnt n b c).moduleId = c.moduleId := rfl
@[simp] theorem setBlazeEnt_outbox (n : Nat) (b : Blaze) (c : Chip) : (setBlazeEnt n b c).outbox = c.outbox := rfl
@[simp] theorem setBlazeEnt_serial (n : Nat) (b : Blaze) (c : Chip) : (setBlazeEnt n b c).serial = c.serial := rfl
@[simp] theorem setBlazeEnt_freeCtr (n : Nat) (b : Blaze) (c : Chip) : (setBlazeEnt n b c).freeCtr = c.freeCtr := rfl

/-! `setObj` changes `dict` alone. -/

@[simp] theorem setObj_time (i s t v : Nat) (c : Chip) : (setObj i s t v c).time = c.time := rfl
@[simp] theorem setObj_fdp (i s t v : Nat) (c : Chip) : (setObj i s t v c).fdp = c.fdp := rfl
@[simp] theorem setObj_mbx (i s t v : Nat) (c : Chip) : (setObj i s t v c).mbx = c.mbx := rfl
@[simp] theorem setObj_harts (i s t v : Nat) (c : Chip) : (setObj i s t v c).harts = c.harts := rfl
@[simp] theorem setObj_saves (i s t v : Nat) (c : Chip) : (setObj i s t v c).saves = c.saves := rfl
@[simp] theorem setObj_groves (i s t v : Nat) (c : Chip) : (setObj i s t v c).groves = c.groves := rfl
@[simp] theorem setObj_host (i s t v : Nat) (c : Chip) : (setObj i s t v c).host = c.host := rfl
@[simp] theorem setObj_mem (i s t v : Nat) (c : Chip) : (setObj i s t v c).mem = c.mem := rfl
@[simp] theorem setObj_queues (i s t v : Nat) (c : Chip) : (setObj i s t v c).queues = c.queues := rfl
@[simp] theorem setObj_pool (i s t v : Nat) (c : Chip) : (setObj i s t v c).pool = c.pool := rfl
@[simp] theorem setObj_opens (i s t v : Nat) (c : Chip) : (setObj i s t v c).opens = c.opens := rfl
@[simp] theorem setObj_blz (i s t v : Nat) (c : Chip) : (setObj i s t v c).blz = c.blz := rfl
@[simp] theorem setObj_lnk (i s t v : Nat) (c : Chip) : (setObj i s t v c).lnk = c.lnk := rfl
@[simp] theorem setObj_pair (i s t v : Nat) (c : Chip) : (setObj i s t v c).pair = c.pair := rfl
@[simp] theorem setObj_kv (i s t v : Nat) (c : Chip) : (setObj i s t v c).kv = c.kv := rfl
@[simp] theorem setObj_srv (i s t v : Nat) (c : Chip) : (setObj i s t v c).srv = c.srv := rfl
@[simp] theorem setObj_vid (i s t v : Nat) (c : Chip) : (setObj i s t v c).vid = c.vid := rfl
@[simp] theorem setObj_fw (i s t v : Nat) (c : Chip) : (setObj i s t v c).fw = c.fw := rfl
@[simp] theorem setObj_flt (i s t v : Nat) (c : Chip) : (setObj i s t v c).flt = c.flt := rfl
@[simp] theorem setObj_pwr (i s t v : Nat) (c : Chip) : (setObj i s t v c).pwr = c.pwr := rfl
@[simp] theorem setObj_map (i s t v : Nat) (c : Chip) : (setObj i s t v c).map = c.map := rfl
@[simp] theorem setObj_keys (i s t v : Nat) (c : Chip) : (setObj i s t v c).keys = c.keys := rfl
@[simp] theorem setObj_sec (i s t v : Nat) (c : Chip) : (setObj i s t v c).sec = c.sec := rfl
@[simp] theorem setObj_fuse (i s t v : Nat) (c : Chip) : (setObj i s t v c).fuse = c.fuse := rfl
@[simp] theorem setObj_dice (i s t v : Nat) (c : Chip) : (setObj i s t v c).dice = c.dice := rfl
@[simp] theorem setObj_ctr (i s t v : Nat) (c : Chip) : (setObj i s t v c).ctr = c.ctr := rfl
@[simp] theorem setObj_board (i s t v : Nat) (c : Chip) : (setObj i s t v c).board = c.board := rfl
@[simp] theorem setObj_life (i s t v : Nat) (c : Chip) : (setObj i s t v c).life = c.life := rfl
@[simp] theorem setObj_moduleId (i s t v : Nat) (c : Chip) : (setObj i s t v c).moduleId = c.moduleId := rfl
@[simp] theorem setObj_outbox (i s t v : Nat) (c : Chip) : (setObj i s t v c).outbox = c.outbox := rfl
@[simp] theorem setObj_serial (i s t v : Nat) (c : Chip) : (setObj i s t v c).serial = c.serial := rfl
@[simp] theorem setObj_freeCtr (i s t v : Nat) (c : Chip) : (setObj i s t v c).freeCtr = c.freeCtr := rfl

/-! `bump` changes `dict` alone. -/

@[simp] theorem bump_time (i s t n : Nat) (c : Chip) : (bump i s t n c).time = c.time := rfl
@[simp] theorem bump_fdp (i s t n : Nat) (c : Chip) : (bump i s t n c).fdp = c.fdp := rfl
@[simp] theorem bump_mbx (i s t n : Nat) (c : Chip) : (bump i s t n c).mbx = c.mbx := rfl
@[simp] theorem bump_harts (i s t n : Nat) (c : Chip) : (bump i s t n c).harts = c.harts := rfl
@[simp] theorem bump_saves (i s t n : Nat) (c : Chip) : (bump i s t n c).saves = c.saves := rfl
@[simp] theorem bump_groves (i s t n : Nat) (c : Chip) : (bump i s t n c).groves = c.groves := rfl
@[simp] theorem bump_host (i s t n : Nat) (c : Chip) : (bump i s t n c).host = c.host := rfl
@[simp] theorem bump_mem (i s t n : Nat) (c : Chip) : (bump i s t n c).mem = c.mem := rfl
@[simp] theorem bump_queues (i s t n : Nat) (c : Chip) : (bump i s t n c).queues = c.queues := rfl
@[simp] theorem bump_pool (i s t n : Nat) (c : Chip) : (bump i s t n c).pool = c.pool := rfl
@[simp] theorem bump_opens (i s t n : Nat) (c : Chip) : (bump i s t n c).opens = c.opens := rfl
@[simp] theorem bump_blz (i s t n : Nat) (c : Chip) : (bump i s t n c).blz = c.blz := rfl
@[simp] theorem bump_lnk (i s t n : Nat) (c : Chip) : (bump i s t n c).lnk = c.lnk := rfl
@[simp] theorem bump_pair (i s t n : Nat) (c : Chip) : (bump i s t n c).pair = c.pair := rfl
@[simp] theorem bump_kv (i s t n : Nat) (c : Chip) : (bump i s t n c).kv = c.kv := rfl
@[simp] theorem bump_srv (i s t n : Nat) (c : Chip) : (bump i s t n c).srv = c.srv := rfl
@[simp] theorem bump_vid (i s t n : Nat) (c : Chip) : (bump i s t n c).vid = c.vid := rfl
@[simp] theorem bump_fw (i s t n : Nat) (c : Chip) : (bump i s t n c).fw = c.fw := rfl
@[simp] theorem bump_flt (i s t n : Nat) (c : Chip) : (bump i s t n c).flt = c.flt := rfl
@[simp] theorem bump_pwr (i s t n : Nat) (c : Chip) : (bump i s t n c).pwr = c.pwr := rfl
@[simp] theorem bump_map (i s t n : Nat) (c : Chip) : (bump i s t n c).map = c.map := rfl
@[simp] theorem bump_keys (i s t n : Nat) (c : Chip) : (bump i s t n c).keys = c.keys := rfl
@[simp] theorem bump_sec (i s t n : Nat) (c : Chip) : (bump i s t n c).sec = c.sec := rfl
@[simp] theorem bump_fuse (i s t n : Nat) (c : Chip) : (bump i s t n c).fuse = c.fuse := rfl
@[simp] theorem bump_dice (i s t n : Nat) (c : Chip) : (bump i s t n c).dice = c.dice := rfl
@[simp] theorem bump_ctr (i s t n : Nat) (c : Chip) : (bump i s t n c).ctr = c.ctr := rfl
@[simp] theorem bump_board (i s t n : Nat) (c : Chip) : (bump i s t n c).board = c.board := rfl
@[simp] theorem bump_life (i s t n : Nat) (c : Chip) : (bump i s t n c).life = c.life := rfl
@[simp] theorem bump_moduleId (i s t n : Nat) (c : Chip) : (bump i s t n c).moduleId = c.moduleId := rfl
@[simp] theorem bump_outbox (i s t n : Nat) (c : Chip) : (bump i s t n c).outbox = c.outbox := rfl
@[simp] theorem bump_serial (i s t n : Nat) (c : Chip) : (bump i s t n c).serial = c.serial := rfl
@[simp] theorem bump_freeCtr (i s t n : Nat) (c : Chip) : (bump i s t n c).freeCtr = c.freeCtr := rfl

/-! `modPair` changes `pair` alone. -/

@[simp] theorem modPair_time (f : Pair → Pair) (c : Chip) : (modPair f c).time = c.time := rfl
@[simp] theorem modPair_dict (f : Pair → Pair) (c : Chip) : (modPair f c).dict = c.dict := rfl
@[simp] theorem modPair_fdp (f : Pair → Pair) (c : Chip) : (modPair f c).fdp = c.fdp := rfl
@[simp] theorem modPair_mbx (f : Pair → Pair) (c : Chip) : (modPair f c).mbx = c.mbx := rfl
@[simp] theorem modPair_harts (f : Pair → Pair) (c : Chip) : (modPair f c).harts = c.harts := rfl
@[simp] theorem modPair_saves (f : Pair → Pair) (c : Chip) : (modPair f c).saves = c.saves := rfl
@[simp] theorem modPair_groves (f : Pair → Pair) (c : Chip) : (modPair f c).groves = c.groves := rfl
@[simp] theorem modPair_host (f : Pair → Pair) (c : Chip) : (modPair f c).host = c.host := rfl
@[simp] theorem modPair_mem (f : Pair → Pair) (c : Chip) : (modPair f c).mem = c.mem := rfl
@[simp] theorem modPair_queues (f : Pair → Pair) (c : Chip) : (modPair f c).queues = c.queues := rfl
@[simp] theorem modPair_pool (f : Pair → Pair) (c : Chip) : (modPair f c).pool = c.pool := rfl
@[simp] theorem modPair_opens (f : Pair → Pair) (c : Chip) : (modPair f c).opens = c.opens := rfl
@[simp] theorem modPair_blz (f : Pair → Pair) (c : Chip) : (modPair f c).blz = c.blz := rfl
@[simp] theorem modPair_lnk (f : Pair → Pair) (c : Chip) : (modPair f c).lnk = c.lnk := rfl
@[simp] theorem modPair_kv (f : Pair → Pair) (c : Chip) : (modPair f c).kv = c.kv := rfl
@[simp] theorem modPair_srv (f : Pair → Pair) (c : Chip) : (modPair f c).srv = c.srv := rfl
@[simp] theorem modPair_vid (f : Pair → Pair) (c : Chip) : (modPair f c).vid = c.vid := rfl
@[simp] theorem modPair_fw (f : Pair → Pair) (c : Chip) : (modPair f c).fw = c.fw := rfl
@[simp] theorem modPair_flt (f : Pair → Pair) (c : Chip) : (modPair f c).flt = c.flt := rfl
@[simp] theorem modPair_pwr (f : Pair → Pair) (c : Chip) : (modPair f c).pwr = c.pwr := rfl
@[simp] theorem modPair_map (f : Pair → Pair) (c : Chip) : (modPair f c).map = c.map := rfl
@[simp] theorem modPair_keys (f : Pair → Pair) (c : Chip) : (modPair f c).keys = c.keys := rfl
@[simp] theorem modPair_sec (f : Pair → Pair) (c : Chip) : (modPair f c).sec = c.sec := rfl
@[simp] theorem modPair_fuse (f : Pair → Pair) (c : Chip) : (modPair f c).fuse = c.fuse := rfl
@[simp] theorem modPair_dice (f : Pair → Pair) (c : Chip) : (modPair f c).dice = c.dice := rfl
@[simp] theorem modPair_ctr (f : Pair → Pair) (c : Chip) : (modPair f c).ctr = c.ctr := rfl
@[simp] theorem modPair_board (f : Pair → Pair) (c : Chip) : (modPair f c).board = c.board := rfl
@[simp] theorem modPair_life (f : Pair → Pair) (c : Chip) : (modPair f c).life = c.life := rfl
@[simp] theorem modPair_moduleId (f : Pair → Pair) (c : Chip) : (modPair f c).moduleId = c.moduleId := rfl
@[simp] theorem modPair_outbox (f : Pair → Pair) (c : Chip) : (modPair f c).outbox = c.outbox := rfl
@[simp] theorem modPair_serial (f : Pair → Pair) (c : Chip) : (modPair f c).serial = c.serial := rfl
@[simp] theorem modPair_freeCtr (f : Pair → Pair) (c : Chip) : (modPair f c).freeCtr = c.freeCtr := rfl

/-! `setPort` changes `lnk` alone. -/

@[simp] theorem setPort_time (p : Nat) (v : LinkPort) (c : Chip) : (setPort p v c).time = c.time := rfl
@[simp] theorem setPort_dict (p : Nat) (v : LinkPort) (c : Chip) : (setPort p v c).dict = c.dict := rfl
@[simp] theorem setPort_fdp (p : Nat) (v : LinkPort) (c : Chip) : (setPort p v c).fdp = c.fdp := rfl
@[simp] theorem setPort_mbx (p : Nat) (v : LinkPort) (c : Chip) : (setPort p v c).mbx = c.mbx := rfl
@[simp] theorem setPort_harts (p : Nat) (v : LinkPort) (c : Chip) : (setPort p v c).harts = c.harts := rfl
@[simp] theorem setPort_saves (p : Nat) (v : LinkPort) (c : Chip) : (setPort p v c).saves = c.saves := rfl
@[simp] theorem setPort_groves (p : Nat) (v : LinkPort) (c : Chip) : (setPort p v c).groves = c.groves := rfl
@[simp] theorem setPort_host (p : Nat) (v : LinkPort) (c : Chip) : (setPort p v c).host = c.host := rfl
@[simp] theorem setPort_mem (p : Nat) (v : LinkPort) (c : Chip) : (setPort p v c).mem = c.mem := rfl
@[simp] theorem setPort_queues (p : Nat) (v : LinkPort) (c : Chip) : (setPort p v c).queues = c.queues := rfl
@[simp] theorem setPort_pool (p : Nat) (v : LinkPort) (c : Chip) : (setPort p v c).pool = c.pool := rfl
@[simp] theorem setPort_opens (p : Nat) (v : LinkPort) (c : Chip) : (setPort p v c).opens = c.opens := rfl
@[simp] theorem setPort_blz (p : Nat) (v : LinkPort) (c : Chip) : (setPort p v c).blz = c.blz := rfl
@[simp] theorem setPort_pair (p : Nat) (v : LinkPort) (c : Chip) : (setPort p v c).pair = c.pair := rfl
@[simp] theorem setPort_kv (p : Nat) (v : LinkPort) (c : Chip) : (setPort p v c).kv = c.kv := rfl
@[simp] theorem setPort_srv (p : Nat) (v : LinkPort) (c : Chip) : (setPort p v c).srv = c.srv := rfl
@[simp] theorem setPort_vid (p : Nat) (v : LinkPort) (c : Chip) : (setPort p v c).vid = c.vid := rfl
@[simp] theorem setPort_fw (p : Nat) (v : LinkPort) (c : Chip) : (setPort p v c).fw = c.fw := rfl
@[simp] theorem setPort_flt (p : Nat) (v : LinkPort) (c : Chip) : (setPort p v c).flt = c.flt := rfl
@[simp] theorem setPort_pwr (p : Nat) (v : LinkPort) (c : Chip) : (setPort p v c).pwr = c.pwr := rfl
@[simp] theorem setPort_map (p : Nat) (v : LinkPort) (c : Chip) : (setPort p v c).map = c.map := rfl
@[simp] theorem setPort_keys (p : Nat) (v : LinkPort) (c : Chip) : (setPort p v c).keys = c.keys := rfl
@[simp] theorem setPort_sec (p : Nat) (v : LinkPort) (c : Chip) : (setPort p v c).sec = c.sec := rfl
@[simp] theorem setPort_fuse (p : Nat) (v : LinkPort) (c : Chip) : (setPort p v c).fuse = c.fuse := rfl
@[simp] theorem setPort_dice (p : Nat) (v : LinkPort) (c : Chip) : (setPort p v c).dice = c.dice := rfl
@[simp] theorem setPort_ctr (p : Nat) (v : LinkPort) (c : Chip) : (setPort p v c).ctr = c.ctr := rfl
@[simp] theorem setPort_board (p : Nat) (v : LinkPort) (c : Chip) : (setPort p v c).board = c.board := rfl
@[simp] theorem setPort_life (p : Nat) (v : LinkPort) (c : Chip) : (setPort p v c).life = c.life := rfl
@[simp] theorem setPort_moduleId (p : Nat) (v : LinkPort) (c : Chip) : (setPort p v c).moduleId = c.moduleId := rfl
@[simp] theorem setPort_outbox (p : Nat) (v : LinkPort) (c : Chip) : (setPort p v c).outbox = c.outbox := rfl
@[simp] theorem setPort_serial (p : Nat) (v : LinkPort) (c : Chip) : (setPort p v c).serial = c.serial := rfl
@[simp] theorem setPort_freeCtr (p : Nat) (v : LinkPort) (c : Chip) : (setPort p v c).freeCtr = c.freeCtr := rfl

/-! `setMap` changes `map` alone. -/

@[simp] theorem setMap_time (p : Nat) (e : MapEntry) (c : Chip) : (setMap p e c).time = c.time := rfl
@[simp] theorem setMap_dict (p : Nat) (e : MapEntry) (c : Chip) : (setMap p e c).dict = c.dict := rfl
@[simp] theorem setMap_fdp (p : Nat) (e : MapEntry) (c : Chip) : (setMap p e c).fdp = c.fdp := rfl
@[simp] theorem setMap_mbx (p : Nat) (e : MapEntry) (c : Chip) : (setMap p e c).mbx = c.mbx := rfl
@[simp] theorem setMap_harts (p : Nat) (e : MapEntry) (c : Chip) : (setMap p e c).harts = c.harts := rfl
@[simp] theorem setMap_saves (p : Nat) (e : MapEntry) (c : Chip) : (setMap p e c).saves = c.saves := rfl
@[simp] theorem setMap_groves (p : Nat) (e : MapEntry) (c : Chip) : (setMap p e c).groves = c.groves := rfl
@[simp] theorem setMap_host (p : Nat) (e : MapEntry) (c : Chip) : (setMap p e c).host = c.host := rfl
@[simp] theorem setMap_mem (p : Nat) (e : MapEntry) (c : Chip) : (setMap p e c).mem = c.mem := rfl
@[simp] theorem setMap_queues (p : Nat) (e : MapEntry) (c : Chip) : (setMap p e c).queues = c.queues := rfl
@[simp] theorem setMap_pool (p : Nat) (e : MapEntry) (c : Chip) : (setMap p e c).pool = c.pool := rfl
@[simp] theorem setMap_opens (p : Nat) (e : MapEntry) (c : Chip) : (setMap p e c).opens = c.opens := rfl
@[simp] theorem setMap_blz (p : Nat) (e : MapEntry) (c : Chip) : (setMap p e c).blz = c.blz := rfl
@[simp] theorem setMap_lnk (p : Nat) (e : MapEntry) (c : Chip) : (setMap p e c).lnk = c.lnk := rfl
@[simp] theorem setMap_pair (p : Nat) (e : MapEntry) (c : Chip) : (setMap p e c).pair = c.pair := rfl
@[simp] theorem setMap_kv (p : Nat) (e : MapEntry) (c : Chip) : (setMap p e c).kv = c.kv := rfl
@[simp] theorem setMap_srv (p : Nat) (e : MapEntry) (c : Chip) : (setMap p e c).srv = c.srv := rfl
@[simp] theorem setMap_vid (p : Nat) (e : MapEntry) (c : Chip) : (setMap p e c).vid = c.vid := rfl
@[simp] theorem setMap_fw (p : Nat) (e : MapEntry) (c : Chip) : (setMap p e c).fw = c.fw := rfl
@[simp] theorem setMap_flt (p : Nat) (e : MapEntry) (c : Chip) : (setMap p e c).flt = c.flt := rfl
@[simp] theorem setMap_pwr (p : Nat) (e : MapEntry) (c : Chip) : (setMap p e c).pwr = c.pwr := rfl
@[simp] theorem setMap_keys (p : Nat) (e : MapEntry) (c : Chip) : (setMap p e c).keys = c.keys := rfl
@[simp] theorem setMap_sec (p : Nat) (e : MapEntry) (c : Chip) : (setMap p e c).sec = c.sec := rfl
@[simp] theorem setMap_fuse (p : Nat) (e : MapEntry) (c : Chip) : (setMap p e c).fuse = c.fuse := rfl
@[simp] theorem setMap_dice (p : Nat) (e : MapEntry) (c : Chip) : (setMap p e c).dice = c.dice := rfl
@[simp] theorem setMap_ctr (p : Nat) (e : MapEntry) (c : Chip) : (setMap p e c).ctr = c.ctr := rfl
@[simp] theorem setMap_board (p : Nat) (e : MapEntry) (c : Chip) : (setMap p e c).board = c.board := rfl
@[simp] theorem setMap_life (p : Nat) (e : MapEntry) (c : Chip) : (setMap p e c).life = c.life := rfl
@[simp] theorem setMap_moduleId (p : Nat) (e : MapEntry) (c : Chip) : (setMap p e c).moduleId = c.moduleId := rfl
@[simp] theorem setMap_outbox (p : Nat) (e : MapEntry) (c : Chip) : (setMap p e c).outbox = c.outbox := rfl
@[simp] theorem setMap_serial (p : Nat) (e : MapEntry) (c : Chip) : (setMap p e c).serial = c.serial := rfl
@[simp] theorem setMap_freeCtr (p : Nat) (e : MapEntry) (c : Chip) : (setMap p e c).freeCtr = c.freeCtr := rfl

end Sys2Proof.Machine
end

