-- ==== Sys2Proof/WellFormed.lean ====
section
/-! DEFINITION. Which operands the rules allow a command's sender to give. A command outside these bounds is one that no
encoding of an instruction, no register file, no bus and no message of the spec can carry; its meaning stays total. -/
namespace Sys2Proof

/-- A load or store form that RV64GC has: size 0 to 3; a floating-point form has a word or a doubleword; a compressed form
has no sign choice, and its floating-point form is a doubleword (R117). -/
def wfAccess (size : BitVec 2) (uns fp comp : Bool) : Bool :=
  !(uns && size == 3) && !(uns && (fp || comp)) && (!fp || size.toNat ≥ 2) && (!comp || (size.toNat ≥ 2 && (!fp || size == 3)))

/-- A host window access carries 1 to 4,096 bytes inside the window of 64 GiB (Table 04-11). -/
def wfWindow (off len : Nat) : Bool := 1 ≤ len && len ≤ 4096 && off + len ≤ 2 ^ 36

/-- A virtual function of a host link: 1 to 16 (R243). -/
def wfVf (v : BitVec 5) : Bool := 1 ≤ v.toNat && v.toNat ≤ 16

/-- A local DRAM address: the HBM window or the understory's, below base memory (Table 04-6). -/
def wfDram (a : BitVec 44) : Bool := a.toNat < 2 ^ 40

/-- A flit of a kind: KIND is bits 31:28 of its header (R493). -/
def wfFlit (kind : Nat) (f : BitVec 2048) : Bool := bitsOf f.toNat 31 28 == kind

/-- A message with OP `op`, its LEN field telling its body's length (Table 15-3). -/
def wfMsg (op : Nat) (m : Msg) : Bool := m.op.toNat == op && m.len.toNat == m.body.length && m.body.length ≤ 4096

/-- A request's payload of at most 1,176 bytes (R96). -/
def wfReq (r : FdpReq) : Bool := r.payload.length ≤ 1176

/-- The operands of a command are ones that the spec lets it carry. -/
def wellFormed : Instr → Bool
  | .stitchBoundary | .timeHoldover | .timeLost | .counterSave => true
  | .gptpSync _ _ _ _ => true
  | .holdoverMaxS _ _ _ _ | .pendArm _ _ _ => true
  | .fdpDatagram _ _ _ data => data.length ≤ 1200
  | .frerFrame _ _ | .frerResetTimeout | .fdpPortLatent _ | .dtlsHandshake _ _ _ | .sessionIdleTimeout _ => true
  | .read _ r | .readList _ r | .windowRead _ r | .recordFetch _ r | .identify _ r | .describe _ r => wfReq r
  | .write _ r _ | .writeList _ r _ | .windowWrite _ r _ => wfReq r
  | .sessionClose _ _ _ | .cbMbxDoorbell | .cbMbxAbort | .mbxResponse | .registerWrite _ _ _ _ => true
  | .mbxBufferWrite off data => data.length ≥ 1 && off.toNat + data.length ≤ 2048
  | .load _ _ _ _ size uns fp comp _ => wfAccess size uns fp comp
  | .store _ _ _ _ size fp comp _ => wfAccess size false fp comp
  | .amo _ _ _ _ f _ _ => ([0, 1, 4, 8, 12, 16, 20, 24, 28] : List Nat).any (· == f.toNat)
  | .lrSc _ _ _ rs2 sc _ _ => sc || rs2 == 0
  | .fence _ _ _ | .sfenceVma _ _ _ | .satpWrite _ _ _ => true
  | .partInfo _ | .threadStart _ | .threadStop _ | .threadClass _ | .tagQuota _ | .tlbFlush _ | .tlbFlushDone _ => true
  | .queueReset _ | .ckptCommit _ | .recoveryInfo _ | .rotHint _ | .sbiUnsupported _ | .contextSave _ => true
  | .contextRestore _ _ => true
  | .prVfDoorbell v _ => wfVf v
  | .hostWindowRead v off len _ => wfVf v && wfWindow off.toNat len.toNat
  | .hostWindowWrite v off data _ => wfVf v && wfWindow off.toNat data.length
  | .perstN _ _ => true
  | .extIllegal _ insn => insn.toNat % 4 == 3
  | .tensor _ _ _ _ => true
  | .tensorTileEnd _ _ arr _ => arr.toNat < 6
  | .tensorComplete _ _ | .samplingComplete _ _ _ | .move _ _ _ _ | .moverChunk _ _ | .lreq _ _ _ | .lrel _ _ => true
  | .licenceGrant | .qpush _ _ _ _ | .qcommit _ _ _ | .qabort _ _ _ | .qpop _ _ _ _ _ | .qcnt _ _ _ => true
  | .enginePacket _ _ ws _ => ws.length ≥ 1 && ws.length ≤ 8192
  | .qResetReq _ _ _ _ | .qResetDone _ | .bset _ _ | .blazeSetPerformed _ | .bclr _ _ _ | .btest _ _ _ => true
  | .bwait _ _ _ | .bwaitc _ _ _ | .twait _ _ _ | .twaitr _ _ _ | .ttest _ _ _ | .treap _ _ _ => true
  | .swait _ _ | .sreadC _ _ | .sreadB _ _ | .sreadR _ _ | .smplctl _ _ _ => true
  | .sramPatrol addr _ => !wfDram addr
  | .dramPatrolLine addr _ => wfDram addr
  | .memPatrolLag _ _ _ | .usScrubRegionDone | .memClearDone => true
  | .bzSnapReq _ _ _ | .bzRestoreReq _ _ _ | .dumpReq _ _ _ | .bzDumpDone => true
  | .kvpOpen _ _ | .kvpAppend _ _ | .kvpMap _ _ | .kvpUnpin _ _ | .kvpPrefetch _ _ | .kvpSpill _ _ => true
  | .kvpClose _ _ | .kvpBucket _ _ | .kvPageMoveDone _ _ | .kvRspBlocked _ => true
  | .seqOpen _ | .seqClose _ _ | .pfxLookup _ | .pfxInsert _ | .pfxRemove _ | .admitReq _ | .stepDone _ => true
  | .refillArm _ _ _ | .stageArm _ _ _ | .srvRspBlocked _ => true
  | .vidOpen _ | .vidDecode _ _ | .vidEncode _ | .vidRelease _ | .vidEnd _ | .vidBsFree _ | .vidClose _ => true
  | .videoPieceDone _ _ | .videoPreempt _ | .motionLevel1Done _ _ _ | .vidRcLate _ | .vidWatchdog _ _ => true
  | .vidOutBlocked _ | .vidRspBlocked _ => true
  | .codeword _ blocks _ => blocks.length == 20
  | .flitData _ f => wfFlit 1 f
  | .flitCredit _ f => wfFlit 2 f
  | .flitIdle _ f => wfFlit 0 f
  | .flitTrain _ f => wfFlit 3 f
  | .replayTimeout _ => true
  | .msgWrite _ m _ => wfMsg 0x01 m
  | .msgRead _ m _ => m.op == 0x02 && m.body.isEmpty && 1 ≤ m.len.toNat && m.len.toNat ≤ 4096
  | .atomic _ m _ => wfMsg 0x03 m
  | .qpkt _ m => wfMsg 0x04 m
  | .writeAck _ m => wfMsg 0x11 m
  | .readResp _ m => wfMsg 0x12 m
  | .atomicResp _ m => wfMsg 0x13 m
  | .qpktAck _ m => wfMsg 0x14 m
  | .blazeAck _ m => wfMsg 0x15 m
  | .blazeSet _ m => wfMsg 0x20 m
  | .lnAnnounceLost _ | .respTimeout _ | .lnPktBroken _ _ | .hello _ _ | .helloReply _ _ | .finished _ _ => true
  | .sesOpen _ _ _ _ | .portLicenceRelease _ => true
  | .pairArm _ _ _ | .prFormFail | .laceTestEnd | .laceInChange _ | .gateOpen | .prTieResolved | .prLaceFault => true
  | .mateSilent => true
  | .mateHb m => wfMsg 0x40 m
  | .digest m => wfMsg 0x41 m
  | .confirm m => wfMsg 0x42 m
  | .boundary m => wfMsg 0x43 m
  | .boundaryTimeout => true
  | .yield m => wfMsg 0x44 m
  | .prTakeover | .weltSend _ | .weltRetry _ | .pairSwap _ _ _ | .pairMode _ _ _ _ => true
  | .fenceNLow | .fltFenced | .fenceNHigh | .fltLogAdmit | .prtRestart _ _ _ _ | .rollArm _ _ _ => true
  | .admitAt _ _ _ _ | .fltPmDone | .pmClear _ _ _ => true
  | .pkgPowerSample _ _ | .pwrCurrentLimit _ | .pwrTjTrip _ | .floorLift _ => true
  | .sensorReading _ _ | .rthWindow _ _ _ | .policyCap _ _ _ _ | .burstWindowClose | .burstRecoveryEnd => true
  | .pwrBurstLimit | .mapArm _ _ _ | .keyBlob _ _ _ _ _ | .secKeyInstalled _ | .attGen _ _ _ _ | .attReady _ => true
  | .debugLock _ _ _ | .fuseProg _ _ _ _ _ _ _ => true
  | .fwErase _ _ _ | .fwEraseDone => true
  | .fwChunk _ _ _ data => data.length + 2 ≤ 1176
  | .fwCommit _ _ _ | .fwTrial _ _ _ _ | .fwConfirm _ _ _ | .fwRestart _ _ _ | .fwLockstep _ => true
  | .hookReturn _ _ | .fwHookLate _ | .prsntNLow | .prsntDebounceEnd | .powerInputInRange => true
  | .railsRamped _ _ | .l0Start | .bistDone _ _ _ | .dramTrained | .hbmScrubDone | .linkTrainingDone | .enterReady => true
  | .timeNotLocked | .moduleResetReq _ _ _ | .moduleReset | .maintenanceReq _ _ _ | .latchNLow | .startLatch => true
  | .prsntNHigh | .powerInputOutOfRange | .brdInputDip | .brdInputRange | .brdHotswapTrip | .hotswapRetry => true
  | .inletReading _ _ => true
  | .gptpAnnounce _ m => match m with
    | .announce _ _ | .pdelay _ | .signalling _ => true
  | .neighbourSolicitation _ _ _ | .dtlsRetransmit | .fieldPortLinkChange _ _ => true
  | .pcieLinkChange _ _ _ | .ideKm _ | .lnSessionFail _ | .latchNHigh | .latchNHighDebounceEnd => true
  | .hookNotReturned _ | .l1Trap _ => true
  | .instructionFetch _ _ _ => true
  | .vectorReduction _ _ _ _ _ _ => true
  | .csrWrite _ _ _ _ _ => true
  | .debugTap _ => true

end Sys2Proof
end

