-- ==== Sys2Proof/Tests/Slice0.lean ====
section
/-! SUPPORT. The model's own tests. Ill-formed operands that WellFormed refuses; small checks against the spec's own numbers; and for
each statement of Certificates/Slice0/Obligations.lean a theorem `test_meets_…` that shows concrete states and operands that meet
the premises of its clauses (a name `next_…` stands for premises that only name a result). -/
namespace Sys2Proof.Tests
open Sys2Proof Sys2Proof.Machine
set_option Elab.async false

/-! ### Well-formedness: one ill-formed term for each check -/

def msg0 : Msg :=
  { op := 1, flags := 0, len := 0, dst := 0, src := 1, epoch := 0, reqRef := 0, job := 0, ctr := 1, sendTime := 0, addr := 0, arg := 0,
    body := [], poisonMap := [], auth := true }
def req0 : FdpReq := { reqId := 1, inc := 0, index := 0x1000, sub := 1, count := 1, payload := [] }
def hdr0 : ReqHdr := ⟨1, 0⟩

theorem test_wf_access : [Instr.load 0 1 2 0 3 true false false [], .load 0 1 2 0 0 true false true [], .load 0 1 2 0 1 false true false [],
    .load 0 1 2 0 2 false true true [], .store 0 1 2 0 1 false true []].all (fun i => !wellFormed i) = true := by decide +kernel
theorem test_wf_access_good : [Instr.load 0 1 2 0 2 true false false [], .load 0 1 2 0 3 false true true [], .store 0 1 2 0 0 false false []].all
    wellFormed = true := by decide +kernel
theorem test_wf_mailbox_buffer : wellFormed (.mbxBufferWrite 2047 [0, 0]) = false ∧ wellFormed (.mbxBufferWrite 0 []) = false ∧
    wellFormed (.mbxBufferWrite 2047 [0]) = true := by decide +kernel
theorem test_wf_datagram : wellFormed (.fdpDatagram 0 true 0 (List.replicate 1201 0)) = false ∧
    wellFormed (.fdpDatagram 0 true 0 (List.replicate 1200 0)) = true := by decide +kernel
theorem test_wf_payload : wellFormed (.read .mailbox { req0 with payload := List.replicate 1177 0 }) = false ∧
    wellFormed (.read .mailbox { req0 with payload := List.replicate 1176 0 }) = true := by decide +kernel
theorem test_wf_amo : wellFormed (.amo 0 1 2 3 2 false []) = false ∧ wellFormed (.amo 0 1 2 3 28 false []) = true := by decide +kernel
theorem test_wf_lr : wellFormed (.lrSc 0 1 2 3 false false []) = false ∧ wellFormed (.lrSc 0 1 2 3 true false []) = true := by decide +kernel
theorem test_wf_vf : wellFormed (.prVfDoorbell 0 0) = false ∧ wellFormed (.prVfDoorbell 17 0) = false ∧
    wellFormed (.prVfDoorbell 16 0) = true := by decide +kernel
theorem test_wf_window : wellFormed (.hostWindowRead 1 0 0 []) = false ∧ wellFormed (.hostWindowRead 1 0xFFFFFFFFF 2 []) = false ∧
    wellFormed (.hostWindowRead 1 0 4097 []) = false ∧ wellFormed (.hostWindowWrite 1 0xFFFFFFFFF [0] []) = true := by decide +kernel
theorem test_wf_undefined_instruction : wellFormed (.extIllegal 0 0x7E) = false ∧ wellFormed (.extIllegal 0 0x7F) = true := by decide +kernel
theorem test_wf_array : wellFormed (.tensorTileEnd 0 0 6 none) = false ∧ wellFormed (.tensorTileEnd 0 0 5 none) = true := by decide +kernel
theorem test_wf_engine_packet : wellFormed (.enginePacket 0 0 [] false) = false ∧ wellFormed (.enginePacket 0 0 [(0, false)] false) = true := by
  decide +kernel
theorem test_wf_patrol : wellFormed (.sramPatrol 0xFFFFFFFFFF []) = false ∧ wellFormed (.sramPatrol 0x10000000000 []) = true ∧
    wellFormed (.dramPatrolLine 0x10000000000 []) = false ∧ wellFormed (.dramPatrolLine 0xFFFFFFFFC0 []) = true := by decide +kernel
theorem test_wf_codeword : wellFormed (.codeword 0 (List.replicate 19 ⟨true, 0⟩) 0) = false ∧
    wellFormed (.codeword 0 (List.replicate 20 ⟨true, 0⟩) 0) = true := by decide +kernel
theorem test_wf_flits : wellFormed (.flitData 0 0x20000000) = false ∧ wellFormed (.flitCredit 0 0x10000000) = false ∧
    wellFormed (.flitIdle 0 0x10000000) = false ∧ wellFormed (.flitTrain 0 0) = false ∧ wellFormed (.flitTrain 0 0x30000000) = true := by decide +kernel
theorem test_wf_messages : wellFormed (.msgWrite 0 { msg0 with op := 2 } []) = false ∧ wellFormed (.msgWrite 0 { msg0 with len := 1 } []) = false ∧
    wellFormed (.msgRead 0 { msg0 with op := 2 } []) = false ∧ wellFormed (.atomic 0 msg0 []) = false ∧ wellFormed (.qpkt 0 msg0) = false ∧
    wellFormed (.writeAck 0 msg0) = false ∧ wellFormed (.mateHb msg0) = false ∧ wellFormed (.msgWrite 0 msg0 []) = true := by decide +kernel
theorem test_wf_firmware_chunk : wellFormed (.fwChunk .policy hdr0 0 (List.replicate 1175 0)) = false ∧
    wellFormed (.fwChunk .policy hdr0 0 (List.replicate 1024 0)) = true := by decide +kernel

/-! ### Helpers: a powered module in SERVICE, and premises as a computation -/

def svc : Chip := { life := { mstate := MState.service, phase := 0 } }
def st (c : Chip) : State := { m := c, pending := [] }
/-- A mailbox user of a role: 0 observer, 1 tenant, 2 cabinet manager, 3 maintainer. -/
def asRole (r : Nat) (c : Chip) : Chip := { c with mbx := { c.mbx with role := 16 * r } }

def acceptedB (who : Requester) (m : DMsg) (c : Chip) (q : Chip → Bool) : Bool :=
  match beginReq who m c with
  | some c1 => dictServed c && countsOk m.svc m.req.count.toNat m.req.payload.length &&
      ((keptOf c1 who).find? fun k => k.msg.req.reqId == m.req.reqId).isNone && m.req.inc == c1.life.incarnation && q c1
  | none => false

theorem accepted_of {who : Requester} {m : DMsg} {c : Chip} {q : Chip → Bool} (h : acceptedB who m c q = true) :
    ∃ c1, accepted who m c c1 ∧ q c1 = true := by
  unfold acceptedB at h
  cases hb : beginReq who m c with
  | none => rw [hb] at h; cases h
  | some c1 =>
    rw [hb] at h
    simp only [Bool.and_eq_true, beq_iff_eq, Option.isNone_iff_eq_none] at h
    exact ⟨c1, ⟨h.1.1.1.1, hb, h.1.1.1.2, h.1.1.2, h.1.2⟩, h.2⟩

/-- An accepted write of one object whose checks pass, with at most 8 stored writes in the last second. -/
theorem door_of {who : Requester} {h : ReqHdr} {c : Chip} (idx sub n v : Nat)
    (hb : acceptedB who (oneWrite h idx sub n v) c (fun c1 => decide (firstFail c1 (trial who idx 0 [(sub, v)] c1) who idx 0 none [(sub, v)] = St.ok) &&
      decide ((recentWrites c1).length + 1 ≤ 8)) = true) :
    ∃ c1, accepted who (oneWrite h idx sub n v) c c1 ∧ writePasses who idx sub 0 v none c1 ∧ (recentWrites c1).length + 1 ≤ 8 := by
  obtain ⟨c1, h1, h2⟩ := accepted_of hb
  simp only [Bool.and_eq_true, decide_eq_true_eq] at h2
  exact ⟨c1, h1, h2.1, h2.2⟩

/-- An accepted window write of one object with its selector whose checks pass. -/
theorem window_of {who : Requester} {h : ReqHdr} {c : Chip} (idx sub sn sel : Nat) (bs : Bytes) (v : Nat) (plain : Option Bytes)
    (hb : acceptedB who (windowWrite h idx sub sn sel bs) c (fun c1 =>
      decide (firstFail c1 (trial who idx sel [(1, sel), (sub, v)] c1) who idx sel plain [(1, sel), (sub, v)] = St.ok)) = true) :
    ∃ c1, accepted who (windowWrite h idx sub sn sel bs) c c1 ∧ windowPasses who idx sub sel v plain c1 := by
  obtain ⟨c1, h1, h2⟩ := accepted_of hb
  simp only [decide_eq_true_eq] at h2
  exact ⟨c1, h1, h2⟩

/-! ### The dictionary's statements -/

def mgr : Chip := asRole 2 svc
def mnt : Chip := asRole 3 svc

theorem test_meets_time_and_session_doorbells :
    (∃ c1, accepted .mailbox (oneWrite hdr0 0x1100 7 2 3600) mgr c1 ∧ writePasses .mailbox 0x1100 7 0 3600 none c1 ∧ (recentWrites c1).length + 1 ≤ 8) ∧
    (∃ s c1, s = setObj 0x1100 15 0 2 (setObj 0x1100 14 0 125 mgr) ∧
      accepted .mailbox (oneWrite hdr0 0x1100 16 1 1) s c1 ∧ writePasses .mailbox 0x1100 16 0 1 none c1 ∧ (recentWrites c1).length + 1 ≤ 8) ∧
    (∃ c1, accepted .mailbox (oneWrite hdr0 0x1200 17 1 15) mgr c1 ∧ writePasses .mailbox 0x1200 17 0 15 none c1 ∧ (recentWrites c1).length + 1 ≤ 8) :=
  ⟨door_of _ _ _ _ (by decide +kernel), let ⟨c1, h⟩ := door_of _ _ _ _ (by decide +kernel); ⟨_, c1, rfl, h⟩, door_of _ _ _ _ (by decide +kernel)⟩

theorem test_meets_queue_and_blaze_doorbells :
    (∃ c1, accepted .mailbox (windowWrite hdr0 0x54C0 15 4 0xFFFFF [1]) mgr c1 ∧ windowPasses .mailbox 0x54C0 15 0xFFFFF 1 none c1) ∧
    (∃ c1, accepted .mailbox (oneWrite hdr0 0x2400 9 1 15) mgr c1 ∧ writePasses .mailbox 0x2400 9 0 15 none c1 ∧ (recentWrites c1).length + 1 ≤ 8) ∧
    (∃ c1, accepted .mailbox (oneWrite hdr0 0x2400 10 1 15) mgr c1 ∧ writePasses .mailbox 0x2400 10 0 15 none c1 ∧ (recentWrites c1).length + 1 ≤ 8) ∧
    (∃ c1, accepted .mailbox (oneWrite hdr0 0x2400 6 1 1) mgr c1 ∧ writePasses .mailbox 0x2400 6 0 1 none c1 ∧ (recentWrites c1).length + 1 ≤ 8) :=
  ⟨window_of _ _ _ _ _ _ _ (by decide +kernel), door_of _ _ _ _ (by decide +kernel), door_of _ _ _ _ (by decide +kernel), door_of _ _ _ _ (by decide +kernel)⟩

theorem test_meets_serving_and_link_doorbells :
    (∃ c1, accepted .policy (oneWrite hdr0 0x2700 5 1 1) svc c1 ∧ writePasses .policy 0x2700 5 0 1 none c1 ∧ (recentWrites c1).length + 1 ≤ 8) ∧
    (∃ c1, accepted .mailbox (oneWrite hdr0 0x2700 7 1 1) (setObj 0x2700 6 0 2 mgr) c1 ∧ writePasses .mailbox 0x2700 7 0 1 none c1 ∧ (recentWrites c1).length + 1 ≤ 8) ∧
    (∃ c1, accepted .mailbox (windowWrite hdr0 0x5803 4 2 4095 [1]) mgr c1 ∧ windowPasses .mailbox 0x5803 4 4095 1 none c1) :=
  ⟨door_of _ _ _ _ (by decide +kernel), door_of _ _ _ _ (by decide +kernel), window_of _ _ _ _ _ _ _ (by decide +kernel)⟩

def hb0 : Hb := { state := PSt.standby, claim := false, laceIn := false, tie := false, role := false, id := 0, count := 0, raw := 0 }
theorem test_meets_pair_doorbells :
    (∃ c1, accepted .mailbox (oneWrite hdr0 0x3100 6 1 1) (setObj 0x3100 5 0 2 mgr) c1 ∧ writePasses .mailbox 0x3100 6 0 1 none c1 ∧ (recentWrites c1).length + 1 ≤ 8) ∧
    (∃ c1, accepted .mailbox (oneWrite hdr0 0x3100 8 1 1) { mgr with pair := { state := PSt.active, hb := some hb0 } } c1 ∧
      writePasses .mailbox 0x3100 8 0 1 none c1 ∧ (recentWrites c1).length + 1 ≤ 8) ∧
    (∃ c1, accepted .mailbox (oneWrite hdr0 0x3100 1 1 1) mgr c1 ∧ writePasses .mailbox 0x3100 1 0 1 none c1 ∧ (recentWrites c1).length + 1 ≤ 8) :=
  ⟨door_of _ _ _ _ (by decide +kernel), door_of _ _ _ _ (by decide +kernel), door_of _ _ _ _ (by decide +kernel)⟩

theorem test_meets_fault_doorbells :
    (∃ c1, accepted .mailbox (windowWrite hdr0 0x5880 6 1 15 [1]) mgr c1 ∧ windowPasses .mailbox 0x5880 6 15 1 none c1) ∧
    (∃ c1, accepted .mailbox (oneWrite hdr0 0x3200 9 1 1) (setObj 0x3200 8 0 2 mgr) c1 ∧ writePasses .mailbox 0x3200 9 0 1 none c1 ∧ (recentWrites c1).length + 1 ≤ 8) ∧
    (∃ c1, accepted .mailbox (oneWrite hdr0 0x3200 6 8 2) { mgr with life := { mstate := MState.ready } } c1 ∧
      writePasses .mailbox 0x3200 6 0 2 none c1 ∧ (recentWrites c1).length + 1 ≤ 8) ∧
    (∃ c1, accepted .mailbox (oneWrite hdr0 0x3200 14 1 1) mnt c1 ∧ writePasses .mailbox 0x3200 14 0 1 none c1 ∧ (recentWrites c1).length + 1 ≤ 8) :=
  ⟨window_of _ _ _ _ _ _ _ (by decide +kernel), door_of _ _ _ _ (by decide +kernel), door_of _ _ _ _ (by decide +kernel), door_of _ _ _ _ (by decide +kernel)⟩

/-- A key blob of both kinds for partition 1 (Table 19-4), whose opening is given. -/
def blob0 : Bytes := leBytes 2 1 ++ [1, 3] ++ leBytes 252 0
theorem test_meets_power_map_and_key_doorbells :
    (∃ c1, accepted .mailbox (oneWrite hdr0 0x4000 2 2 300) mgr c1 ∧ writePasses .mailbox 0x4000 2 0 300 none c1 ∧ (recentWrites c1).length + 1 ≤ 8) ∧
    (∃ c1, accepted .mailbox (oneWrite hdr0 0x4100 2 1 1) (setObj 0x4100 1 0 2 mgr) c1 ∧ writePasses .mailbox 0x4100 2 0 1 none c1 ∧ (recentWrites c1).length + 1 ≤ 8) ∧
    (blob0.length = 256 ∧ ∃ c1, accepted .mailbox (windowWrite hdr0 0x5C43 2 1 1 blob0) { mgr with map := [(1, { state := 1 })] } c1 ∧
      windowPasses .mailbox 0x5C43 2 1 (leNat blob0) (some (List.replicate 80 1)) c1) ∧
    (∃ c1, accepted .mailbox (windowWrite hdr0 0x5C41 4 1 1 [1]) mgr c1 ∧ windowPasses .mailbox 0x5C41 4 1 1 none c1) ∧
    (∃ c1, accepted .mailbox (oneWrite hdr0 0x4100 6 1 2) mnt c1 ∧ writePasses .mailbox 0x4100 6 0 2 none c1 ∧ (recentWrites c1).length + 1 ≤ 8) ∧
    (∃ c1, accepted .mailbox (oneWrite hdr0 0xF001 3 1 1) (setObj 0xF001 2 0 3 (setObj 0xF001 1 0 1 { mnt with fuse := { debug := 0 } })) c1 ∧
      writePasses .mailbox 0xF001 3 0 1 none c1 ∧ (recentWrites c1).length + 1 ≤ 8) :=
  ⟨door_of _ _ _ _ (by decide +kernel), door_of _ _ _ _ (by decide +kernel), ⟨by decide +kernel, window_of _ _ _ _ _ _ _ (by decide +kernel)⟩,
   window_of _ _ _ _ _ _ _ (by decide +kernel), door_of _ _ _ _ (by decide +kernel), door_of _ _ _ _ (by decide +kernel)⟩

theorem test_meets_firmware_and_module_doorbells :
    (∃ c1, accepted .mailbox (oneWrite hdr0 0x4200 13 1 1) mnt c1 ∧ writePasses .mailbox 0x4200 13 0 1 none c1 ∧ (recentWrites c1).length + 1 ≤ 8) ∧
    ((List.replicate 1024 (7 : Byte)).length = 1024 ∧ ∃ c1, accepted .mailbox (windowWrite hdr0 0x5C80 2 2 16383 (List.replicate 1024 7))
      { mnt with fw := { banks := [(1, { factory := false })] } } c1 ∧ windowPasses .mailbox 0x5C80 2 16383 (leNat (List.replicate 1024 7)) none c1) ∧
    (∃ c1, accepted .mailbox (oneWrite hdr0 0x4200 14 1 1) mnt c1 ∧ writePasses .mailbox 0x4200 14 0 1 none c1 ∧ (recentWrites c1).length + 1 ≤ 8) ∧
    (∃ c1, accepted .mailbox (oneWrite hdr0 0x4200 3 1 1) { mnt with fw := { valid := 3 } } c1 ∧ writePasses .mailbox 0x4200 3 0 1 none c1 ∧ (recentWrites c1).length + 1 ≤ 8) ∧
    (∃ c1, accepted .mailbox (oneWrite hdr0 0x4200 4 1 1) mnt c1 ∧ writePasses .mailbox 0x4200 4 0 1 none c1 ∧ (recentWrites c1).length + 1 ≤ 8) ∧
    (∃ c1, accepted .mailbox (oneWrite hdr0 0x4200 6 1 1) mnt c1 ∧ writePasses .mailbox 0x4200 6 0 1 none c1 ∧ (recentWrites c1).length + 1 ≤ 8) ∧
    (∃ c1, accepted .mailbox (oneWrite hdr0 0x4400 3 1 1) mnt c1 ∧ writePasses .mailbox 0x4400 3 0 1 none c1 ∧ (recentWrites c1).length + 1 ≤ 8) ∧
    (∃ c1, accepted .mailbox (oneWrite hdr0 0x4400 3 1 8) mnt c1 ∧ writePasses .mailbox 0x4400 3 0 8 none c1 ∧ (recentWrites c1).length + 1 ≤ 8) :=
  ⟨door_of _ _ _ _ (by decide +kernel), ⟨by decide +kernel, window_of _ _ _ _ _ _ _ (by decide +kernel)⟩, door_of _ _ _ _ (by decide +kernel),
   door_of _ _ _ _ (by decide +kernel), door_of _ _ _ _ (by decide +kernel), door_of _ _ _ _ (by decide +kernel),
   door_of _ _ _ _ (by decide +kernel), door_of _ _ _ _ (by decide +kernel)⟩

/-! ### Time, insertion and start-up -/

theorem test_meets_time_commands :
    svc.life.powered = true ∧ countNow { svc with time := { tsc := 1000000 } } ≠ 0 ∧ countNow { svc with time := { tsc := 999999 } } = 0 ∧
    (∃ c : Chip, ∃ port : BitVec 1, c.life.powered = true ∧ running c = true ∧ c.time.tstate = .locked ∧ c.time.portSel = some port.toNat ∧
      c.time.awaitFirst = false ∧ bestPort { c with time := { c.time with
        ports := tmod {} c.time.ports port.toNat (fun v => { v with heard := true, rank := 3, gm := 9 }) } } = some port.toNat) ∧
    ({ svc with time := { tstate := .locked } } : Chip).time.tstate = .locked ∧ ({ svc with time := { tstate := .holdover } } : Chip).time.tstate = .holdover ∧
    running svc = true ∧ MState.selftest ≤ svc.life.mstate :=
  ⟨by decide +kernel, by decide +kernel, by decide +kernel, ⟨{ svc with time := { tstate := .locked, portSel := some 1 } }, 1, by decide +kernel⟩,
   by decide +kernel, by decide +kernel, by decide +kernel, by decide +kernel⟩

/-- R47 with the defaults of R50: a nanosecond before the first boundary the count is 0, on it 1. -/
theorem test_count_at_boundary : countOf {} 999999 = 0 ∧ countOf {} 1000000 = 1 ∧ countOf { ({} : Time) with anchorTime := 1 } 0 = 2 ^ 48 - 1 := by
  decide +kernel

theorem test_meets_idle_step : (st svc).pending = [] ∧ svc.life.powered = true ∧ svc.time.slew = 0 ∧ (0 + 1) % 2 ^ 64 / 500 = 0 / 500 ∧
    (499 + 1) % 2 ^ 64 / 500 ≠ 499 / 500 ∧ ({ svc with life := { powered := false } } : Chip).life.powered = false := by decide +kernel

def offBoard (b : Board) : Chip := { board := b, life := { mstate := MState.off, powered := true } }
theorem test_meets_insertion_and_input :
    (offBoard { prsntN := true }).board.prsntN = true ∧ (offBoard {}).board.prsntN = false ∧
    ((offBoard { latchN := false }).board.latchN = false ∧ running svc = true ∧ ({ svc with board := { latchN := false } } : Chip).board.latchN = false) ∧
    (∃ c : Chip, c.life.latchWait = true ∧ c.board.latchN = true ∧ c.board.prsntN = false) ∧ svc.life.mstate ≠ MState.off ∧
    (svc.board.inputOk = true ∧ svc.board.rangeAt = none) ∧
    (∃ c : Chip, ∃ t, c.board.inputOk = true ∧ c.life.mstate ≠ MState.off ∧ c.board.rangeAt = some t ∧ t ≤ c.time.tsc ∧ c.time.tsc < t + 1000000000) ∧
    svc.board.tripAt = none ∧
    (∃ c : Chip, ∃ t, c.life.mstate ≠ MState.off ∧ c.board.tripAt = some t ∧ (c.time.tsc : Int) - c.life.stepped ≤ t + 59000000000) ∧
    (∃ c : Chip, c.board.tripOff = true ∧ (startRamp { c with board := { c.board with tripOff := false } }).board.ramping = true) :=
  ⟨by decide +kernel, by decide +kernel, by decide +kernel, ⟨offBoard {} |> fun c => { c with life := { c.life with latchWait := true } }, by decide +kernel⟩,
   by decide +kernel, by decide +kernel, ⟨{ svc with board := { rangeAt := some 5 }, time := { tsc := 1000000004 } }, 5, by decide +kernel⟩, by decide +kernel,
   ⟨{ svc with board := { tripAt := some 7 }, time := { tsc := 59000000007 } }, 7, by decide +kernel⟩, ⟨offBoard { tripOff := true }, by decide +kernel⟩⟩

theorem test_meets_start_up :
    (∃ s : Chip, s.life.mstate = MState.off ∧ s.board.ramping = true) ∧
    (({} : Chip).life.mstate = MState.boot ∧ ({} : Chip).life.phase2 = false) ∧
    (∃ s : Chip, ∃ b, s.life.mstate = MState.boot ∧ s.life.phase2 = true ∧ (bankChoice (nextPhase 3 s)).1 = some b ∧
      hookPresent ({ (bankChoice (nextPhase 3 s)).2 with fw := { (bankChoice (nextPhase 3 s)).2.fw with runBank := b, fwState := 1 } }) Hk.init = true) ∧
    (∃ s : Chip, s.life.mstate = MState.selftest ∧ fatalResult { s with pwr := { s.pwr with pIdle := 90 } } [] = none) ∧
    (∃ s : Chip, s.life.mstate = MState.scrub ∧ s.life.phase = 5) ∧ (∃ s : Chip, s.life.mstate = MState.scrub ∧ s.life.phase = 6) ∧
    (∃ s : Chip, s.life.mstate = MState.scrub ∧ s.life.phase = 7) ∧
    (∃ s : Chip, readyBut s = true ∧ timeOk s = true) ∧ (∃ s : Chip, readyBut s = true ∧ timeOk s = false ∧ s.life.phase = 9) ∧
    (∃ s : Chip, ∃ t, s.life.resetAt = some t ∧ s.life.mstate ≠ MState.off ∧ s.flt.writing = none ∧
      (s.life.mstate ≠ MState.fenced ∨ s.pair.fenceLow = false)) :=
  ⟨⟨offBoard { ramping := true }, by decide +kernel⟩, by decide +kernel,
   ⟨{ life := { phase2 := true } }, 0, by decide +kernel⟩, ⟨{ life := { mstate := MState.selftest } }, by decide +kernel⟩,
   ⟨{ life := { mstate := MState.scrub, phase := 5 } }, by decide +kernel⟩, ⟨{ life := { mstate := MState.scrub, phase := 6 } }, by decide +kernel⟩,
   ⟨{ life := { mstate := MState.scrub, phase := 7 } }, by decide +kernel⟩,
   ⟨{ time := { tstate := .locked }, mem := { hbmReady := 0xFF, usReady := 0xFFFF },
      life := { mstate := MState.scrub, phase := 9, bistDone := true, initDone := true } }, by decide +kernel⟩,
   ⟨{ time := { tstate := .holdover }, mem := { hbmReady := 0xFF, usReady := 0xFFFF },
      life := { mstate := MState.scrub, phase := 9, bistDone := true, initDone := true } }, by decide +kernel⟩,
   ⟨{ svc with life := { mstate := MState.fenced, resetAt := some 1 } }, 1, by decide +kernel⟩⟩

/-! ### Reads, writes and the ports of the dictionary -/

def readsB (who : Requester) (sv : Nat) (r : FdpReq) (c : Chip) : Bool :=
  acceptedB who ⟨sv, r⟩ c fun c1 =>
    let item := if sv = 5 then leNat r.payload else if isWindow r.index.toNat then selOf c1 who r.index.toNat 1 else 0
    let sp := span r.sub.toNat r.count.toNat
    (if sv = 5 then isWindow r.index.toNat && r.payload.length == ((objAt r.index.toNat 1).map (·.size)).getD 0 &&
      decide (selectorCheck c1 who r.index.toNat item = St.ok) else r.payload.isEmpty) &&
    decide (spanCheck r.index.toNat sp = St.ok) && decide (spanSize r.index.toNat sp ≤ 1176) &&
    decide (readFail c1 who r.index.toNat item sp = St.ok)

theorem test_meets_dictionary_reads : readsB .mailbox 1 req0 svc = true ∧
    readsB .mailbox 3 { req0 with index := 0x1000, sub := 1, count := 12 } svc = true ∧
    readsB .mailbox 5 { req0 with index := 0x54C0, sub := 2, count := 3, payload := leBytes 4 0xFFFFF } mgr = true := by decide +kernel

def writesB (who : Requester) (sv : Nat) (r : FdpReq) (c : Chip) : Bool :=
  acceptedB who ⟨sv, r⟩ c fun c1 =>
    let sp := if sv = 6 then 1 :: span r.sub.toNat r.count.toNat else span r.sub.toNat r.count.toNat
    match cutValues r.index.toNat sp r.payload with
    | none => false
    | some ps =>
      let item := itemOf c1 who r.index.toNat ps
      (sv != 6 || isWindow r.index.toNat) && decide (spanCheck r.index.toNat (span r.sub.toNat r.count.toNat) = St.ok) &&
      decide (firstFail c1 (trial who r.index.toNat item ps c1) who r.index.toNat item none ps = St.ok) &&
      decide ((recentWrites c1).length + storedCount r.index.toNat ps ≤ 8) && !(ps.any fun e => partLost {} r.index.toNat e.1) &&
      !defersAnswer r.index.toNat ps

theorem test_meets_dictionary_writes :
    (sideOf ⟨[], false⟩ { req0 with index := 0x1100, sub := 7, payload := [60, 0] } mgr).2 = mgr ∧
    writesB .mailbox 2 { req0 with index := 0x1100, sub := 7, payload := [60, 0] } mgr = true ∧
    writesB .mailbox 4 { req0 with index := 0x1100, sub := 14, count := 2, payload := leBytes 4 1000 ++ leBytes 8 2 } mgr = true ∧
    writesB .mailbox 6 { req0 with index := 0x54C0, sub := 4, count := 1, payload := leBytes 4 7 ++ leBytes 4 100 }
      { mgr with map := [(0, { state := 1, qCount := 16, cellQuota := 1000 })] } = true := by decide +kernel

theorem test_meets_fetch_identify_describe :
    (∃ c1, accepted .mailbox ⟨7, { req0 with index := 0, sub := 0, payload := List.replicate 12 0 ++ [18] }⟩ svc c1 ∧ true = true) ∧
    (dictServed svc = true ∧ beginReq .mailbox ⟨8, { req0 with payload := [] }⟩ svc = some svc ∧
      (keptOf svc .mailbox).find? (fun k => k.msg.req.reqId == req0.reqId) = none) ∧
    (∃ c1, accepted .mailbox ⟨9, req0⟩ svc c1 ∧ (decide ((objAt 0x1000 1).isSome) && !lockedRange c1 0x1000 &&
      ((objAt 0x1000 1).map fun o => roleBits o (roleOf c1 .mailbox).1 != 0) == some true) = true) :=
  ⟨accepted_of (q := fun _ => true) (by decide +kernel), by decide +kernel,
   accepted_of (q := fun c1 => decide ((objAt 0x1000 1).isSome) && !lockedRange c1 0x1000 &&
      ((objAt 0x1000 1).map fun o => roleBits o (roleOf c1 .mailbox).1 != 0) == some true) (by decide +kernel)⟩

/-- A request of IDENTIFY as bytes (Table 03-8). -/
def idBytes : Bytes := [1, 8, 0, 0] ++ leBytes 4 7 ++ leBytes 8 0 ++ [0, 0, 0, 0] ++ leBytes 2 0 ++ [0, 0]
def oneSes : Chip := { svc with fdp := { sessions := [(15, { isOpen := true })] } }
theorem test_meets_field_port_commands : dictServed svc = true ∧
    ((fdpSes oneSes 15).isOpen = true ∧ freshRecord (fdpSes oneSes 15) 1 = true ∧ 24 ≤ idBytes.length ∧ headerFail idBytes = none ∧
      (fdpSes oneSes 15).queue.length < 8) ∧
    8 ≤ (fdpSes { svc with fdp := { sessions := [(15, { isOpen := true, queue := List.replicate 8 ⟨8, req0⟩ })] } } 15).queue.length ∧
    (obj (setObj 0x1200 6 0 1 svc) 0x1200 6 ≠ 0 ∧ (setObj 0x1200 6 0 1 svc).fdp.frer.started = false) ∧
    (∃ c : Chip, c = setObj 0x1200 6 0 1 { svc with fdp := { frer := { started := true, high := 0xFFFF, seen := [0xFFFF] } } } ∧
      obj c 0x1200 6 ≠ 0 ∧ c.fdp.frer.started = true ∧ c.fdp.frer.high = 0xFFFF ∧ 0 < obj c 0x1200 8 ∧ c.fdp.frer.seen.contains 0xFFFF = true) ∧
    obj (setObj 0x1200 6 0 1 svc) 0x1200 6 = 1 ∧ freeSession oneSes = some 0 ∧ svc.life.powered = true ∧
    (∃ (c : Chip) (target : BitVec 128), c = setObj 0x1200 3 0 (2 ^ 121) svc ∧ obj c 0x1200 3 ≠ 0 ∧ leNat (ipBytes target) = obj c 0x1200 3) :=
  ⟨by decide +kernel, by decide +kernel, by decide +kernel, by decide +kernel, ⟨_, rfl, by decide +kernel⟩, by decide +kernel, by decide +kernel, by decide +kernel,
   ⟨_, 2, rfl, by decide +kernel⟩⟩

def boxed (n : Nat) (b : Bytes) : Chip := { svc with mbx := { reqLen := n, reqBuf := b.zipIdx.filterMap fun e => if e.1 = 0 then none else some (e.2, e.1) } }
theorem test_meets_mailbox_commands :
    (dictServed (boxed 24 idBytes) = true ∧ (boxed 24 idBytes).mbx.busy = false ∧ mbxRequest (boxed 24 idBytes) 24 = idBytes ∧
      headerFail (mbxRequest (boxed 24 idBytes) 24) = none) ∧
    headerFail (mbxRequest (boxed 24 []) 24) = some St.fdpVersion ∧
    (∃ c : Chip, c.mbx.busy = true ∧ c.mbx.started = false) ∧ (∃ c : Chip, c.mbx.busy = false) ∧ (0x5AF : BitVec 12).toNat ≤ 0x5AF ∧
    (∃ c : Chip, c.mbx.busy = true ∧ c.mbx.answer = some []) :=
  ⟨by decide +kernel, by decide +kernel, ⟨{ mbx := { busy := true } }, by decide +kernel⟩, ⟨{}, rfl⟩, by decide +kernel,
   ⟨{ mbx := { busy := true, answer := some [] } }, by decide +kernel⟩⟩

/-- A partition 3 with grove 0 and stand memory, whose function 16 has one window of 4 KiB onto it, read and write. -/
def hosted : Chip :=
  setObj 0x50C0 5 240 1 (setObj 0x50C0 4 240 1 (setObj 0x50C0 3 240 4096 (setObj 0x50C0 2 240 groveBase
    { svc with map := [(3, { state := 1, vf := 16, bzBase := 8, bzCount := 4 })] })))
theorem test_meets_host_port_commands :
    (vfOwner hosted 16 = some 3 ∧ 3 < (mapOf hosted 3).bzCount ∧ (mapOf hosted 3).bzCount ≤ 4) ∧
    winHit hosted 16 4092 4 false = .at_ 3 (groveBase + 4092) ∧ winHit hosted 16 4093 4 false = .outside ∧
    winHit hosted 16 0 4096 true = .at_ 3 groveBase ∧ winHit hosted 16 4096 1 true = .outside ∧
    (svc.life.powered = true ∧ ((0 : BitVec 1) = 0 ∨ twoLinks svc = true)) ∧ (dictServed svc = true ∧ (4 : BitVec 4) ≠ 0 ∧ (16 : BitVec 6) ≠ 0) ∧
    (17 : BitVec 5).toNat < 18 := by decide +kernel

theorem test_meets_register_writes : (3583 : BitVec 12).toNat < 3584 ∧ 1 ≤ (16 : BitVec 5).toNat ∧ (16 : BitVec 5).toNat ≤ 16 := by decide

/-! ### The threads' statements -/

def issuesB (t : Thread) (c : Chip) (q : Chip → Bool) : Bool :=
  decide ((hart c t.toNat).state = .ready) && decide ((hart c t.toNat).pend = []) && !(tagChoice t.toNat c).1 && q (tagChoice t.toNat c).2

theorem issues_of {t : Thread} {c : Chip} {q : Chip → Bool} (h : issuesB t c q = true) : ∃ c1, issues t c c1 ∧ q c1 = true := by
  unfold issuesB at h
  simp only [Bool.and_eq_true, decide_eq_true_eq, Bool.not_eq_true'] at h
  exact ⟨(tagChoice t.toNat c).2, ⟨h.1.1.1, h.1.1.2, Prod.ext h.1.2 rfl⟩, h.2⟩

/-- Partition 1 with grove 0, blazes 8 to 11, queues 0 to 15, and the first records of each kind. -/
def part1 : MapEntry := { state := 1, qFirst := 0, qCount := 16, cellQuota := 1000, bzBase := 8, bzCount := 4, job := 7, kvsN64 := 1, seqN64 := 1, acctN64 := 1 }
/-- Thread 0 READY in S mode with the registers x5 and x6, and what else it needs. -/
def thr (h : Hart) (x5 x6 : Word) : Chip :=
  { svc with harts := [(0, { h with state := .ready, priv := 1, x := [(5, x5), (6, x6)] })], map := [(1, part1)] }
def gm (n : Nat) : Word := BitVec.ofNat 64 (groveBase + n)
/-- An address of another module. -/
def farA : Word := BitVec.ofNat 64 (2 * 2 ^ 44 + groveBase)

def reachB (k : Acc) (va n : Nat) (c : Chip) (q : Chip → Reach → Bool) : Bool := q (reach 0 k va n c).1 (reach 0 k va n c).2
def isHere (q : Chip → List Seg → Bool) (c : Chip) : Reach → Bool
  | .here ss => q c ss
  | _ => false
def isTrap : Reach → Bool
  | .trap _ => true
  | _ => false
def isFar (q : Seg → Bool) : Reach → Bool
  | .far s => q s
  | _ => false
def goodRead (n : Nat) (c : Chip) (ss : List Seg) : Bool := match (readHere 0 ss n [] c).2 with
  | .ok _ => true
  | .error _ => false

theorem test_meets_loads_and_fetches :
    (∃ c1, issues 0 (thr {} (gm 4088) 0) c1 ∧ reachB .load (groveBase + 4095) 8 c1 (fun c r => isHere (fun c ss => goodRead 8 c ss) c r) = true) ∧
    (∃ c1, issues 0 { thr {} (gm 0) 0 with mem := { poison := [(groveBase / 8, true)] } } c1 ∧
      reachB .load groveBase 8 c1 (fun c r => isHere (fun c ss => !goodRead 8 c ss) c r) = true) ∧
    (∃ c1, issues 0 (thr {} 0 0) c1 ∧ reachB .load (2 ^ 63) 1 c1 (fun _ r => isTrap r) = true) ∧
    (∃ c1, issues 0 (thr {} farA 0) c1 ∧ reachB .load farA.toNat 8 c1 (fun c r => isFar (fun _ => freeReq c.lnk.outReq 65536 0 == some 0 &&
      threadPart c 0 == some 1) r) = true) ∧
    reachB .fetch (groveBase + 4094) 4 (thr {} 0 0) (fun c r => isHere (fun c ss => goodRead 4 c ss) c r) = true ∧
    reachB .fetch (2 ^ 63) 4 (thr {} 0 0) (fun _ r => isTrap r) = true :=
  ⟨issues_of (by decide +kernel), issues_of (by decide +kernel), issues_of (by decide +kernel), issues_of (by decide +kernel), by decide +kernel, by decide +kernel⟩

/-- Thread 0 in M mode. -/
def mthr (a : Nat) : Chip := { svc with harts := [(0, { state := .ready, priv := 3, x := [(5, BitVec.ofNat 64 a)] })], map := [(1, part1)] }
theorem test_meets_stores_and_atomics :
    (∃ c1, issues 0 (thr {} (gm 4095) 9) c1 ∧ reachB .store (groveBase + 4095) 8 c1 (fun c r => isHere (fun _ ss => !inRegs ss) c r) = true) ∧
    (∃ c1, issues 0 (mthr regBase) c1 ∧ reachB .store regBase 8 c1 (fun c r => isHere (fun _ ss =>
      inRegs ss && decide (firstLocal 0 ss < shimBase)) c r) = true) ∧
    (∃ c1, issues 0 (thr {} 0 0) c1 ∧ reachB .store (2 ^ 63) 1 c1 (fun _ r => isTrap r) = true) ∧
    (∃ c1, issues 0 (thr {} farA 0) c1 ∧ reachB .store farA.toNat 8 c1 (fun c r => isFar (fun _ => freeReq c.lnk.outReq 65536 0 == some 0 &&
      threadPart c 0 == some 1) r) = true) ∧
    (∃ c1, issues 0 (thr {} (gm 8) 9) c1 ∧ (amoDefined 28 && (readX (hart c1 0) 5).toNat % 8 == 0 &&
      reachB .store (groveBase + 8) 8 c1 (fun c r => isHere (fun c ss => !inRegs ss && goodRead 8 c ss) c r)) = true) ∧
    amoDefined 2 = false ∧ (∃ c1, issues 0 (thr {} (gm 4) 9) c1 ∧ decide ((readX (hart c1 0) 5).toNat % 2 ^ (2 + b2n true) ≠ 0) = true) ∧
    (∃ c1, issues 0 (thr {} (gm 8) 9) c1 ∧ reachB .load (groveBase + 8) 8 c1 (fun c r => isHere (fun c ss => goodRead 8 c ss) c r) = true) ∧
    (∃ c1, issues 0 (thr { lr := some (groveBase + 8, 8) } (gm 8) 9) c1 ∧ reachB .store (groveBase + 8) 8 c1 (fun c r => isHere (fun _ ss =>
      decide ((hart c1 0).lr = some (firstLocal 0 ss, 8))) c r) = true) ∧
    (∃ c1, issues 0 (thr { lr := some (groveBase + 8, 4) } (gm 8) 9) c1 ∧ reachB .store (groveBase + 8) 8 c1 (fun c r => isHere (fun _ ss =>
      decide ((hart c1 0).lr ≠ some (firstLocal 0 ss, 8))) c r) = true) := by
  refine ⟨issues_of (by decide +kernel), issues_of (by decide +kernel), issues_of (by decide +kernel), issues_of (by decide +kernel), issues_of
    (q := fun c1 => (amoDefined 28 && (readX (hart c1 0) 5).toNat % 8 == 0 && reachB .store (groveBase + 8) 8 c1 (fun c r => isHere (fun c ss =>
      !inRegs ss && goodRead 8 c ss) c r))) (by decide +kernel), by decide +kernel,
    issues_of (q := fun c1 => decide ((readX (hart c1 0) 5).toNat % 2 ^ (2 + b2n true) ≠ 0)) (by decide +kernel), issues_of (by decide +kernel),
    issues_of (q := fun c1 => reachB .store (groveBase + 8) 8 c1 (fun c r => isHere (fun _ ss => decide ((hart c1 0).lr = some (firstLocal 0 ss, 8))) c r))
      (by decide +kernel),
    issues_of (q := fun c1 => reachB .store (groveBase + 8) 8 c1 (fun c r => isHere (fun _ ss => decide ((hart c1 0).lr ≠ some (firstLocal 0 ss, 8))) c r))
      (by decide +kernel)⟩

/-- Thread 0 waits for a remote write: its open WRITE request. -/
def writing1 : Chip := { thr {} 0 0 with lnk := { outReq := [(0, some { dst := 2, kind := .store 0 0, serial := 1, sendTime := some 0 })] } }
theorem test_meets_fences_translation_and_csrs :
    (∃ c1, issues 0 (thr {} 0 0) c1 ∧ (decide (openWrites c1 0 = []) && !keptOut (hart c1 0) && decide (1 ≤ (hart c1 0).priv)) = true) ∧
    (∃ c1, issues 0 writing1 c1 ∧ (bitOf (1 : BitVec 4).toNat 0 && decide (openWrites c1 0 ≠ [])) = true) ∧
    (∃ c1, issues 0 { svc with harts := [(0, { state := .ready, priv := 0 })] } c1 ∧ keptOut (hart c1 0) = true) ∧
    (∃ c1, issues 0 (thr {} 0xFFF 0) c1 ∧ (decide (bitsOf 0x105 9 8 ≤ (hart c1 0).priv) && csrWritable 0x105 && !counterOff (hart c1 0) 0x105 &&
      csrNew .rw (hart c1 0) 5 (csrRead c1 0 0x105) == some 0xFFF) = true) ∧
    (∃ c1, issues 0 (thr {} 0xFFF 0) c1 ∧ (!csrWritable 0xC00 && csrNew .rs (hart c1 0) 5 0 == some 0xFFF) = true) :=
  ⟨issues_of (q := fun c1 => decide (openWrites c1 0 = []) && !keptOut (hart c1 0) && decide (1 ≤ (hart c1 0).priv)) (by decide +kernel),
   issues_of (q := fun c1 => bitOf (1 : BitVec 4).toNat 0 && decide (openWrites c1 0 ≠ [])) (by decide +kernel),
   issues_of (q := fun c1 => keptOut (hart c1 0)) (by decide +kernel),
   issues_of (q := fun c1 => decide (bitsOf 0x105 9 8 ≤ (hart c1 0).priv) && csrWritable 0x105 && !counterOff (hart c1 0) 0x105 &&
      csrNew .rw (hart c1 0) 5 (csrRead c1 0 0x105) == some 0xFFF) (by decide +kernel),
   issues_of (q := fun c1 => !csrWritable 0xC00 && csrNew .rs (hart c1 0) 5 0 == some 0xFFF) (by decide +kernel)⟩

/-- A product of one BF16 pair into FP32 at offset 0x1000 of grove memory (Table 05-3). -/
def tdBytes : Bytes := leBytes 8 (groveBase + 0x2000) ++ leBytes 8 (groveBase + 0x3000) ++ leBytes 8 0 ++ leBytes 8 (groveBase + 0x4000) ++ leBytes 24 0 ++
  leBytes 2 1 ++ leBytes 2 1 ++ leBytes 2 1 ++ leBytes 2 0 ++ leBytes 4 64 ++ leBytes 4 64 ++ leBytes 4 0 ++ leBytes 4 64 ++ [0, 3, 3, 1] ++ leBytes 44 0
/-- A fill of 64 bytes at offset 0x2000 (Table 05-7). -/
def mdBytes : Bytes := leBytes 8 0 ++ leBytes 8 (groveBase + 0x2000) ++ leBytes 4 64 ++ leBytes 4 1 ++ leBytes 16 0 ++ [1] ++ leBytes 23 0
def tensorOk (free lic : Bool) (c1 : Chip) : Bool :=
  match readPasses 0 9 (readX (hart c1 0) 5).toNat c1 with
  | (c2, some (l, false)) =>
    let ps := l.map fun e => (parseTD e.1, e.2)
    (ps.all fun p => fieldsOk p 1) && chainOk ps && (match checkOperands 0 ps c2 with
      | (c3, .ok _) => (takeable c3 0).isSome == free && decide (opCost c3 0 1 ps ≤ (hart c1 0).held - (hart c1 0).inUse) == lic
      | _ => false)
  | _ => false
def moveOk (free : Bool) (c1 : Chip) : Bool :=
  match ownBlock 0 (readX (hart c1 0) 5).toNat 64 64 c1 with
  | (c2, some (bs, false)) => (cut64 1 bs).all mdOk && (match (cut64 1 bs).map parseMD with
    | d :: r => (moveFirst 0 d c2).2.isNone && (takeable (moveFirst 0 d c2).1 0).isSome == free && decide (chainBytes (d :: r) ≤ 1048576)
    | [] => false)
  | _ => false
def lreqOk (free : Bool) (c1 : Chip) : Bool := decide ((hart c1 0).held + 100 ≤ 2047) && (takeable c1 0).isSome == free
def withDesc (h : Hart) (x6 : Word) (bs : Bytes) : Chip := memWrite (groveBase + 0x1000) bs false (thr h (gm 0x1000) x6)
theorem test_meets_tag_taking_instructions :
    (∃ c1, issues 0 (withDesc { held := 100 } 1 tdBytes) c1 ∧ tensorOk true true c1 = true) ∧
    (∃ c1, issues 0 (withDesc { held := 100, quota := 0 } 1 tdBytes) c1 ∧ tensorOk false true c1 = true) ∧
    (∃ c1, issues 0 (withDesc {} 1 tdBytes) c1 ∧ tensorOk true false c1 = true) ∧
    (∃ c1, issues 0 (withDesc {} 1 mdBytes) c1 ∧ moveOk true c1 = true) ∧ (∃ c1, issues 0 (withDesc { quota := 0 } 1 mdBytes) c1 ∧ moveOk false c1 = true) ∧
    (∃ c1, issues 0 (thr { held := 1947 } 100 0) c1 ∧ lreqOk true c1 = true) ∧ (∃ c1, issues 0 (thr { quota := 0 } 100 0) c1 ∧ lreqOk false c1 = true) :=
  ⟨issues_of (by decide +kernel), issues_of (by decide +kernel), issues_of (by decide +kernel), issues_of (by decide +kernel), issues_of (by decide +kernel),
   issues_of (by decide +kernel), issues_of (by decide +kernel)⟩

def tagged (s : TagState) : Chip := setTag 0xFF { state := s, owner := 0 } (thr {} 0xFF 0)
theorem test_meets_licence_tag_and_undefined :
    (∃ c1, issues 0 (thr { held := 2047, inUse := 0 } 2047 0) c1 ∧ decide ((2047 : Nat) ≤ (hart c1 0).held - (hart c1 0).inUse) = true) ∧
    (∃ c1, issues 0 (tagged .done) c1 ∧ decide (tagCheck c1 0 0xFF = none ∧ (tagOf c1 0xFF).state = .done) = true) ∧
    (∃ c1, issues 0 (tagged .issued) c1 ∧ decide (tagCheck c1 0 0xFF = none ∧ (tagOf c1 0xFF).state = .issued) = true) ∧
    (extSpace 0xFE00000B = true ∧ extDefined 0xFE00000B = false) :=
  ⟨issues_of (q := fun c1 => decide ((2047 : Nat) ≤ (hart c1 0).held - (hart c1 0).inUse)) (by decide +kernel),
   issues_of (q := fun c1 => decide (tagCheck c1 0 0xFF = none ∧ (tagOf c1 0xFF).state = .done)) (by decide +kernel),
   issues_of (q := fun c1 => decide (tagCheck c1 0 0xFF = none ∧ (tagOf c1 0xFF).state = .issued)) (by decide +kernel), by decide +kernel⟩

def qOn (n : Nat) (c : Chip) : Chip := { c with queues := [(n, { state := 1, enable := true, cap := 100, maxpkt := 256 })] }
/-- Thread 0 with queue 15 enabled, and an open packet of `len` words with `w` written. -/
def pushing (len w : Nat) : Chip := { qOn 15 (thr {} 15 len) with
  opens := [⟨.thread 0, 15, len, [0], w⟩], pool := { cells := [(0, { free := false })], fresh := 1 } }
def qReady (c : Chip) (q : Nat) : Bool := decide (queueCheck c 0 q = none) && !wasRewound c 0 q
theorem test_meets_queue_instructions :
    (∃ c1, issues 0 (thr {} 16 0) c1 ∧ decide (queueCheck c1 0 16 = some St.addrPartViolation) = true) ∧
    (∃ c1, issues 0 (qOn 15 (thr {} 15 8192)) c1 ∧ (qReady c1 15 && decide (openOf c1 (.thread 0) 15 = none ∧
      headerCheck c1 (.thread 0) 15 8192 ≠ St.ok ∧ headerCheck c1 (.thread 0) 15 1 = St.ok)) = true) ∧
    (∃ c1, issues 0 (pushing 2 1) c1 ∧ (qReady c1 15 && decide (openOf c1 (.thread 0) 15 = some ⟨.thread 0, 15, 2, [0], 1⟩)) = true) ∧
    (∃ c1, issues 0 (pushing 2 2) c1 ∧ (qReady c1 15 && decide (openOf c1 (.thread 0) 15 = some ⟨.thread 0, 15, 2, [0], 2⟩ ∧ openWrites c1 0 = [])) = true) ∧
    (∃ c1, issues 0 { pushing 2 2 with lnk := writing1.lnk } c1 ∧
      (qReady c1 15 && decide (openOf c1 (.thread 0) 15 = some ⟨.thread 0, 15, 2, [0], 2⟩ ∧ openWrites c1 0 ≠ [])) = true) :=
  ⟨issues_of (q := fun c1 => decide (queueCheck c1 0 16 = some St.addrPartViolation)) (by decide +kernel),
   issues_of (q := fun c1 => qReady c1 15 && decide (openOf c1 (.thread 0) 15 = none ∧
      headerCheck c1 (.thread 0) 15 8192 ≠ St.ok ∧ headerCheck c1 (.thread 0) 15 1 = St.ok)) (by decide +kernel),
   issues_of (q := fun c1 => qReady c1 15 && decide (openOf c1 (.thread 0) 15 = some ⟨.thread 0, 15, 2, [0], 1⟩)) (by decide +kernel),
   issues_of (q := fun c1 => qReady c1 15 && decide (openOf c1 (.thread 0) 15 = some ⟨.thread 0, 15, 2, [0], 2⟩ ∧ openWrites c1 0 = [])) (by decide +kernel),
   issues_of (q := fun c1 => qReady c1 15 && decide (openOf c1 (.thread 0) 15 = some ⟨.thread 0, 15, 2, [0], 2⟩ ∧ openWrites c1 0 ≠ [])) (by decide +kernel)⟩

def blazed (s : Bool) (c : Chip) : Chip := setBlazeEnt 11 { set := s } c
def bzAt (v : Nat) (s : Bool) (c1 : Chip) : Bool := !blazeReserved v && decide (blazeRemote c1 v = none ∧ threadPart c1 0 = some 1 ∧
  blazeAt c1 1 (v % 512) = some 11 ∧ (mapOf c1 1).state = 1 ∧ v % 512 < (mapOf c1 1).bzCount ∧ (blaze c1 11).set = s)
theorem test_meets_blaze_instructions :
    blazeReserved (2 ^ 63) = true ∧ (∃ c1, issues 0 (thr {} 0 0) c1 ∧ decide (threadPart c1 0 = some 1 ∧ blazeReserved (2 ^ 31 + 2 * 2 ^ 16) = false ∧ blazeRemote c1 (2 ^ 31 + 2 * 2 ^ 16) ≠ none) = true) ∧
    (∃ c1, issues 0 (blazed true (thr {} 3 0)) c1 ∧ bzAt 3 true c1 = true) ∧ (∃ c1, issues 0 (blazed false (thr {} 3 0)) c1 ∧ bzAt 3 false c1 = true) :=
  ⟨by decide +kernel, issues_of (q := fun c1 => decide (threadPart c1 0 = some 1 ∧ blazeReserved (2 ^ 31 + 2 * 2 ^ 16) = false ∧ blazeRemote c1 (2 ^ 31 + 2 * 2 ^ 16) ≠ none)) (by decide +kernel),
   issues_of (by decide +kernel), issues_of (by decide +kernel)⟩

theorem test_meets_stitch_and_sampling_instructions :
    (∃ c1, issues 0 (thr {} 0xFFFF0000 0) c1 ∧ true = true) ∧
    (bitsOf 0xFFFF0000 63 32 = 0 ∧ bitsOf 0xFFFF0000 15 2 = 0 ∧ 0xFFFF0000 % 4 = 0) ∧
    (∃ c1, issues 0 { thr {} 3 0 with ctr := { permit := [(1, 4)] } } c1 ∧ decide (threadPart c1 0 = some 1 ∧ bitOf (tget 0 c1.ctr.permit 1) 2 = true) = true) ∧
    bitsOf 4 15 2 ≠ 0 ∧ (∃ c1, issues 0 (thr {} 3 0) c1 ∧ decide (threadPart c1 0 = some 1 ∧ bitOf (tget 0 c1.ctr.permit 1) 2 = false) = true) :=
  ⟨issues_of (q := fun _ => true) (by decide +kernel), by decide +kernel,
   issues_of (q := fun c1 => decide (threadPart c1 0 = some 1 ∧ bitOf (tget 0 c1.ctr.permit 1) 2 = true)) (by decide +kernel), by decide +kernel,
   issues_of (q := fun c1 => decide (threadPart c1 0 = some 1 ∧ bitOf (tget 0 c1.ctr.permit 1) 2 = false)) (by decide +kernel)⟩

/-- Thread 0 in S mode with a0, a1, a2 and a7, beside thread 63 in the given state. -/
def calling (a0 a1 : Word) (other : HState) (c : Chip) : Chip :=
  { c with harts := [(0, { state := .ready, priv := 1, x := [(10, a0), (11, a1), (12, 5)] })] ++ (if other = .empty then [] else [(63, { state := other })])
           map := [(1, part1)] }
def shimB (c1 : Chip) (q : Bool) : Bool := decide ((hart c1 0).priv = 1 ∧ threadPart c1 0 = some 1) && q
theorem test_meets_shim_calls :
    (∃ c1, issues 0 (calling 63 0x1000 .empty svc) c1 ∧ shimB c1 (decide (argOf c1 0 10 = 63 ∧ threadPart c1 63 = some 1 ∧ (hart c1 63).state = .empty)) = true) ∧
    (∃ c1, issues 0 (calling 63 1 .ready svc) c1 ∧ shimB c1 (decide (argOf c1 0 10 = 63 ∧ argOf c1 0 11 = 1 ∧ (hart c1 63).state ≠ .empty)) = true) ∧
    (∃ c1, issues 0 (calling 63 256 .ready svc) c1 ∧ shimB c1 (decide (argOf c1 0 11 = 256 ∧ (hart c1 63).state ≠ .empty)) = true) ∧
    (∃ c1, issues 0 (calling 64 0 .empty svc) c1 ∧ shimB c1 (decide (argOf c1 0 10 = 64 ∧ threadPart c1 64 ≠ some 1)) = true) ∧
    (∃ c1, issues 0 (calling 15 0 .empty svc) c1 ∧ shimB c1 (decide (queueOwner c1 15 = some 1)) = true) ∧
    (∃ c1, issues 0 (calling 16 0 .empty svc) c1 ∧ shimB c1 (decide (queueOwner c1 16 ≠ some 1)) = true) ∧
    (∃ c1, issues 0 (calling 3 (gm 0x1000) .empty { svc with flt := { parts := [(1, { ckptAt := some 3 })] } }) c1 ∧ shimB c1 (decide
      ((partFlt c1 1).ckptAt = some (argOf c1 0 10) ∧ countNow c1 = c1.time.curCount ∧ argOf c1 0 11 % 128 = 0 ∧ argOf c1 0 11 / 2 ^ 44 = c1.moduleId ∧
       checkLocal c1 (some 1) none false (argOf c1 0 11 % 2 ^ 44) 128 = none)) = true) ∧
    (∃ c1, issues 0 (calling 0 0 .empty svc) c1 ∧ shimB c1 (decide (argOf c1 0 17 ≠ 0x10)) = true) :=
  ⟨issues_of (q := fun c1 => shimB c1 (decide (argOf c1 0 10 = 63 ∧ threadPart c1 63 = some 1 ∧ (hart c1 63).state = .empty))) (by decide +kernel),
   issues_of (q := fun c1 => shimB c1 (decide (argOf c1 0 10 = 63 ∧ argOf c1 0 11 = 1 ∧ (hart c1 63).state ≠ .empty))) (by decide +kernel),
   issues_of (q := fun c1 => shimB c1 (decide (argOf c1 0 11 = 256 ∧ (hart c1 63).state ≠ .empty))) (by decide +kernel),
   issues_of (q := fun c1 => shimB c1 (decide (argOf c1 0 10 = 64 ∧ threadPart c1 64 ≠ some 1))) (by decide +kernel),
   issues_of (q := fun c1 => shimB c1 (decide (queueOwner c1 15 = some 1))) (by decide +kernel),
   issues_of (q := fun c1 => shimB c1 (decide (queueOwner c1 16 ≠ some 1))) (by decide +kernel),
   issues_of (q := fun c1 => shimB c1 (decide
      ((partFlt c1 1).ckptAt = some (argOf c1 0 10) ∧ countNow c1 = c1.time.curCount ∧ argOf c1 0 11 % 128 = 0 ∧ argOf c1 0 11 / 2 ^ 44 = c1.moduleId ∧
       checkLocal c1 (some 1) none false (argOf c1 0 11 % 2 ^ 44) 128 = none))) (by decide +kernel),
   issues_of (q := fun c1 => shimB c1 (decide (argOf c1 0 17 ≠ 0x10))) (by decide +kernel)⟩

/-- vl = 2, e32, m1 (vtype 0x10). -/
def vecCsr (vt : Word) : Tbl Word := [(0xC20, 2)] ++ (if vt = 0 then [] else [(0xC21, vt)])
theorem test_meets_contexts_and_reductions :
    (threadPart (thr {} 0 0) 0 = some 1 ∧ mayUnload (thr {} 0 0) 0 = true) ∧
    (∃ c : Chip, c = { svc with map := [(1, part1)], saves := [(0, ⟨true, 1, { state := .ready }⟩)] } ∧ (tget {} c.saves 0).valid = true ∧
      (hart c 63).state = .empty ∧ threadPart c 63 = some (tget {} c.saves 0).part) ∧
    (hart { svc with harts := [(0, { state := .stalled, wait := .flush })] } 0).wait = .flush ∧
    (∃ c1, issues 0 (thr { csr := vecCsr (2 ^ 63) } 0 0) c1 ∧ bitOf (readCsr (hart c1 0) 0xC21).toNat 63 = true) ∧
    (∃ c1, issues 0 (thr { csr := vecCsr 0x10, v := [(2, 5 + 7 * 2 ^ 32)] } 0 0) c1 ∧ decide (bitOf (readCsr (hart c1 0) 0xC21).toNat 63 = false ∧
      8 * 2 ^ bitsOf (readCsr (hart c1 0) 0xC21).toNat 5 3 = 32 ∧ bitsOf (readCsr (hart c1 0) 0xC21).toNat 2 0 = 0 ∧ readCsr (hart c1 0) 8 = 0 ∧
      (readCsr (hart c1 0) 0xC20).toNat = 2 ∧ treeReduce (redStep .sum 32 0) 10 ((span 0 2).map fun i => some (vElem (hart c1 0) 2 32 i)) 0 = (some 12, 0)) = true) :=
  ⟨by decide +kernel, ⟨_, rfl, by decide +kernel⟩, by decide +kernel, issues_of (q := fun c1 => bitOf (readCsr (hart c1 0) 0xC21).toNat 63) (by decide +kernel),
   issues_of (q := fun c1 => decide (bitOf (readCsr (hart c1 0) 0xC21).toNat 63 = false ∧
      8 * 2 ^ bitsOf (readCsr (hart c1 0) 0xC21).toNat 5 3 = 32 ∧ bitsOf (readCsr (hart c1 0) 0xC21).toNat 2 0 = 0 ∧ readCsr (hart c1 0) 8 = 0 ∧
      (readCsr (hart c1 0) 0xC20).toNat = 2 ∧ treeReduce (redStep .sum 32 0) 10 ((span 0 2).map fun i => some (vElem (hart c1 0) 2 32 i)) 0 = (some 12, 0)))
    (by decide +kernel)⟩

/-! ### Completions and the events of memory and queues -/

def tdOp : TensorOp := ⟨tdBytes, [], 1, [⟨groveBase + 0x2000, groveBase + 0x2000, 2⟩, ⟨groveBase + 0x3000, groveBase + 0x3000, 2⟩, ⟨groveBase + 0x4000, groveBase + 0x4000, 4⟩]⟩
/-- Tag 0 of grove 0 is a product in progress, with BF16 1.5 and 2.0 as its operands. -/
def running1 (rep : List (Nat × Nat)) : Chip := memWrite (groveBase + 0x2000) [0xC0, 0x3F] false (memWrite (groveBase + 0x3000) [0x00, 0x40] false
  { thr {} 0 0 with groves := [(0, { tags := [(0, { state := .issued, serial := 9, op := .tensor tdOp })], order := [0], repeated := rep })] })
/-- A sampling operation over 0 boxes. -/
def smOp : TensorOp := ⟨leBytes 80 0 ++ [0x11] ++ leBytes 47 0, [0x10 :: leBytes 63 0], 1, []⟩
def sampling1 : Chip := { svc with groves := [(0, { tags := [(0, { state := .issued, serial := 9, op := .tensor smOp })], order := [0] })] }
def filling (dva : Nat) : Chip := { thr {} 0 0 with groves := [(0, { tags := [(0, { state := .issued, serial := 9, op := .mover { descs := [⟨0x11, dva, 64, 1, 0, 64, 1⟩] } })] })] }
def tensorB (c : Chip) (q : Tag → TensorOp → Bool) : Bool := match tensorOf c 0 with
  | some (tg, o) => q tg o
  | none => false
def chunkB (c : Chip) (bad : Bool) : Bool := match chainOf c 0 with
  | some (tg, o) => !o.paused && o.waitReq.isNone && (match o.descs with
    | d :: _ => d.kind == 1 && (match xlate tg.owner .store (chunkAt d o.row o.col).1 c with
      | (c1, .ok dpa) => decide (dpa / 2 ^ 44 = c1.moduleId) &&
        (checkLocal c1 (threadPart c1 tg.owner) (some 0) ((hart c tg.owner).priv == 3) (dpa % 2 ^ 44) (chunkAt d o.row o.col).2).isSome == bad
      | _ => false)
    | [] => false)
  | none => false
def posted1 (c : Chip) (i : Nat) : Chip := { c with blz := { posted := [{ thread := 0, index := i, part := 1, serials := [], reqs := [] }] } }

theorem test_meets_operation_completions :
    tensorB (running1 []) (fun tg o => !isSampler o && tensorRuns (running1 []) 0 && !bitOf (grove (running1 []) 0).retiredArrays 5 &&
      !(grove (running1 []) 0).repeated.contains (tg.serial, 3)) = true ∧
    tensorB (running1 [(9, 3)]) (fun tg o => !isSampler o && tensorRuns (running1 [(9, 3)]) 0 && (grove (running1 [(9, 3)]) 0).repeated.contains (tg.serial, 3)) = true ∧
    tensorB (running1 []) (fun _ o => decide ((opPasses o).length < 2) && decide ((runPasses 0 o.segs (opPasses o) (running1 [])).1 = St.ok)) = true ∧
    (tensorB sampling1 (fun _ o => isSampler o) = true ∧ samplerServes sampling1 0 = true) ∧
    chunkB (filling groveBase) false = true ∧ chunkB (filling 0) true = true ∧
    (∃ x, (posted1 (thr {} 0 0) 3).blz.posted[0]? = some x ∧ x.remote = none ∧ setReady (posted1 (thr {} 0 0) 3) x = true ∧
      blazeAt (thr {} 0 0) x.part x.index = some 11 ∧ (mapOf (thr {} 0 0) x.part).state = 1 ∧ x.index < (mapOf (thr {} 0 0) x.part).bzCount) ∧
    blazeAt (thr {} 0 0) 1 4 = none :=
  ⟨by decide +kernel, by decide +kernel, by decide +kernel, by decide +kernel, by decide +kernel, by decide +kernel,
   ⟨{ thread := 0, index := 3, part := 1, serials := [], reqs := [] }, by decide +kernel⟩, by decide +kernel⟩

/-- R185, R232: 1.5 times 2.0 rounds to 3.0 in FP32. -/
theorem test_product_is_three : tensorB (running1 []) (fun _ o => memRead (runPasses 0 o.segs (opPasses o) (running1 [])).2.2 (groveBase + 0x4000) 4 ==
    [0x00, 0x00, 0x40, 0x40]) = true := by decide +kernel

def pushed (ws : List (Word × Bool)) (c : Chip) : Chip := ws.foldl (fun c w => match openOf c (.engine 0x6000) 15 with
  | some o => if o.written < o.len then pushWord o w.1 w.2 c else c
  | none => c) (openPkt (.engine 0x6000) 15 2 false c)
theorem test_meets_memory_and_queue_events : svc.life.powered = true ∧
    (tierOf baseBase = .base ∧ tierOf standBase = .stand ∧ tierOf groveBase = .grove) ∧
    (isDram 0 = true ∧ 0 % 2 ^ 30 / 64 ≠ 2 ^ 24 - 1 ∧ hasGrant svc 2 0 = false) ∧
    ((span 0 512).find? (fun i => !bitOf ({ svc with mem := { usReady := 1, usScrub := 2 ^ 511 - 1 } } : Chip).mem.usScrub i) = some 511) ∧
    headerCheck (thr {} 0 0) (.engine 0x6000) 15 1 ≠ St.ok ∧
    (queue (countRefusal 15 (headerCheck (thr {} 0 0) (.engine 0x6000) 15 1) (thr {} 0 0)) 15).commits = (queue (thr {} 0 0) 15).commits ∧
    headerCheck (qOn 15 (thr {} 0 0)) (.engine 0x6000) 15 2 = St.ok ∧
    (match openOf (pushed [(1, false)] (qOn 15 (thr {} 0 0))) (.engine 0x6000) 15 with
      | some o => decide (o.len ≤ o.written ∧ (queue (commitPkt o false (pushed [(1, false)] (qOn 15 (thr {} 0 0)))) 15).commits ≠ 0)
      | none => false) = true ∧
    (match openOf (pushed [] (qOn 15 (thr {} 0 0))) (.engine 0x6000) 15 with
      | some o => decide (o.written < o.len ∧ (queue (rewind o (pushed [] (qOn 15 (thr {} 0 0)))) 15).commits = 0)
      | none => false) = true ∧
    (queue { svc with queues := [(15, { state := 2 })] } 15).state = 2 ∧ ({ svc with blz := { dumpState := 1 } } : Chip).blz.dumpState = 1 := by decide +kernel

/-! ### The pager, the serving engine and the video cores -/

/-- Partition 1 with the words of one packet at the head of queue 3, the request queue of the engine whose window is `idx`. -/
def asked (idx sub : Nat) (ws : List Word) (c : Chip) : Chip :=
  setObj idx sub 1 3 { c with
    map := [(1, part1)]
    queues := [(3, { state := 1, enable := true, cap := 1000, maxpkt := 256, held := 1, depth := ws.length, pkts := [⟨[0], ws.length, 0, true, false, 0⟩] })]
    pool := { fresh := 1, cells := [(0, { free := false, words := ws.zipIdx.filterMap fun e => if e.1 = 0 then none else some (e.2, e.1) })] } }
def w0 (cmd tag len : Nat) : Word := BitVec.ofNat 64 (cmd * 2 ^ 56 + tag * 2 ^ 40 + len)
def headB (q : Nat) (c : Chip) (f : List Word → Chip → Bool) : Bool := match headPacket c q with
  | some ws => f ws (dropHead q c)
  | none => false
def kvB (cmd : Nat) (ws : List Word) (c : Chip) (f : List Word → Chip → Bool) : Bool :=
  let s := asked 0x5580 6 ws c
  obj s 0x5580 6 1 == 3 && (tget [] s.kv.blocked 1).isEmpty && headB 3 s fun ws' c1 =>
    bitsOf (nth 0 ws' 0).toNat 63 56 == cmd && kvFits cmd ws' && f ws' c1
/-- Slot 63 of partition 1: two heads of dimension 128 in FP8, 128 tokens a page, with 200 tokens in two owned pages in HBM. -/
def slotUp (pins : Nat) : KvSlot :=
  { state := 1, part := 1, heads := 2, dim := 3, fmt := 5, tlog := 4, tokens := 200,
    pages := [(0, { frame := some 0, fill := 128, pins := pins }), (1, { frame := some 1, fill := 72, pins := pins })] }
def kv1 (v : KvSlot) : Chip := setObj 0x5580 3 1 100 { svc with kv := { slots := [(63, v)] } }
theorem test_meets_pager_commands :
    kvB 1 [w0 1 5 3, BitVec.ofNat 64 (63 + 2 * 65536 + 3 * 2 ^ 21 + 5 * 2 ^ 24), 0] svc (fun ws c1 => let w1 := (nth 0 ws 1).toNat
      decide (w1 % 65536 = 63 ∧ kvsOwner c1 63 = some 1 ∧ (kvSlot c1 63).state = 0 ∧ bitsOf w1 30 29 = 0 ∧ bitsOf w1 20 16 = 2 ∧ bitsOf w1 23 21 = 3 ∧
        bitsOf w1 26 24 = 5 ∧ 65536 % (2 * 2 * 128 * kvElem 5) = 0 ∧ 8 ≤ 65536 / (2 * 2 * 128 * kvElem 5) ∧ 65536 / (2 * 2 * 128 * kvElem 5) ≤ 256 ∧
        2 ^ Nat.log2 (65536 / (2 * 2 * 128 * kvElem 5)) = 65536 / (2 * 2 * 128 * kvElem 5))) = true ∧
    kvB 1 [w0 1 5 3, 64, 0] svc (fun _ c1 => decide (kvsOwner c1 64 ≠ some 1)) = true ∧
    kvB 2 [w0 2 5 2, BitVec.ofNat 64 (63 + 57 * 65536)] (kv1 (slotUp 0)) (fun _ c1 => slotReady c1 1 63 && decide (pageTokens (kvSlot c1 63) = 128 ∧
      ((span 1 2).filter (ownsPage (kvSlot c1 63))).map (fun g => (g, ownIdx (kvSlot c1 63) g)) = [(1, 1), (2, 2)]) &&
      !([(1, 1), (2, 2)].any fun g : Nat × Nat => 15 ≤ (kvPage c1 63 g.2).pins) && (planFrames c1 1 1).isSome) = true ∧
    kvB 3 [w0 3 5 2, BitVec.ofNat 64 (63 + 1 * 65536)] (kv1 (slotUp 14)) (fun ws c1 => slotReady c1 1 63 &&
      decide (rangePages (kvSlot c1 63) (nth 0 ws 1).toNat = some [0, 1]) && !([0, 1].any fun i => 15 ≤ (kvPage c1 63 i).pins) && (planFrames c1 1 0).isSome) = true ∧
    kvB 4 [w0 4 5 2, 63 + 1 * 65536] (kv1 (slotUp 1)) (fun ws c1 => slotReady c1 1 63 &&
      decide (rangePages (kvSlot c1 63) (nth 0 ws 1).toNat = some [0, 1]) && !([0, 1].any fun i => (kvPage c1 63 i).pins = 0)) = true ∧
    kvB 5 [w0 5 5 2, 63] (kv1 (slotUp 0)) (fun ws c1 => slotReady c1 1 63 && (rangePages (kvSlot c1 63) (nth 0 ws 1).toNat).isSome) = true ∧
    kvB 6 [w0 6 5 2, 63 + 1 * 65536] (kv1 (slotUp 1)) (fun ws c1 => slotReady c1 1 63 &&
      decide (rangePages (kvSlot c1 63) (nth 0 ws 1).toNat = some [0, 1]) && [0, 1].all fun i => (kvPage c1 63 i).pins != 0) = true ∧
    kvB 7 [w0 7 5 2, 63] (kv1 (slotUp 0)) (fun _ c1 => slotReady c1 1 63 && !((kvSlot c1 63).pages.any fun g => g.2.pins != 0)) = true ∧
    kvB 8 ([w0 8 5 9, 0xFFFFFFFFFFFF003F] ++ List.replicate 7 0xFFFFFFFFFFFFFFFF) (kv1 (slotUp 0)) (fun ws c1 => ws.length == 9 && slotReady c1 1 63) = true := by
  decide +kernel

def srvB (cmd : Nat) (ws : List Word) (c : Chip) (f : List Word → Chip → Bool) : Bool :=
  let s := asked 0x55C0 2 ws c
  obj s 0x55C0 2 1 == 3 && (tget [] s.srv.blocked 1).isEmpty && (tget none s.srv.inserts 1).isNone && !reclaiming s && headB 3 s fun ws' c1 =>
    bitsOf (nth 0 ws' 0).toNat 63 56 == cmd && srvFits cmd ws' && f ws' c1
def keyed (c : Chip) : Chip := { c with keys := [(1, { pfxKey := some 77 })] }
/-- A block of eight tokens of zeros in grove memory, and its entry in the prefix index where `n` holds. -/
def ent0 (h : Word) (refs : Nat) : PfxEnt := ⟨h, groveBase + 64, 0, 63, 0, 0, none, refs, 0, 0, 1⟩
def zeroHash : Word := blockHash 77 0 0 0 (List.replicate 32 0)
def pfx1 (refs : Nat) : Chip := { keyed svc with srv := { pfx := [(zeroHash.toNat % 65536 * 8, some (ent0 zeroHash refs))] } }
def batch1 : Chip := { svc with srv := { seqs := [(63, { state := 2, part := 1, kind := 0, admitTok := 4, batch := 2 })], batches := [(2, some ⟨1, 3, 0x1FF, [63], 0⟩)] } }
theorem test_meets_serving_commands :
    srvB 1 [w0 1 5 2, BitVec.ofNat 64 (63 + 63 * 65536)] { svc with srv := { accts := [(63, { valid := true, part := 1, quota := 1 })] } } (fun _ c1 => decide
      (seqOwner c1 63 = some 1 ∧ acctOwner c1 63 = some 1 ∧ (seqRec c1 63).state = 0 ∧ (acct c1 63).valid = true ∧ (acct c1 63).seqs < (acct c1 63).quota)) = true ∧
    srvB 2 [w0 2 5 2, 63] { svc with srv := { seqs := [(63, { state := 1, part := 1 })] } } (fun _ c1 => decide (seqOwner c1 63 = some 1 ∧ (seqRec c1 63).state = 1)) = true ∧
    srvB 3 [w0 3 5 4, BitVec.ofNat 64 (63 + 2 ^ 35), BitVec.ofNat 64 (groveBase + 64), 0] { keyed svc with srv := { seqs := [(63, { state := 1, part := 1 })] } } (fun ws c1 =>
      parentOk c1 1 (nth 0 ws 3).toNat && decide ((seqRec c1 63).state = 1 ∧ (tget {} c1.keys 1).pfxKey = some 77 ∧
        checkLocal c1 (some 1) none false (groveBase + 64) 32 = none ∧ pfxWalk c1 1 77 0 0 (groveBase + 64) 1 (parentOf 0) = ([], 0))) = true ∧
    srvB 4 [w0 4 5 4, 63, BitVec.ofNat 64 (groveBase + 64), 0] (pfx1 0) (fun ws c1 => parentOk c1 1 (nth 0 ws 3).toNat && decide (kvsOwner c1 63 = some 1 ∧
        checkLocal c1 (some 1) none false (groveBase + 64) 32 = none ∧
        pfxFind c1 1 0 0 (parentOf 0) (blockHash 77 0 0 0 (memRead c1 (groveBase + 64) 32)) (memRead c1 (groveBase + 64) 32) = (some (zeroHash.toNat % 65536 * 8), 0))) = true ∧
    srvB 5 [w0 5 5 2, BitVec.ofNat 64 (zeroHash.toNat % 65536 * 8)] (pfx1 0) (fun ws c1 => match pfxEnt c1 ((nth 0 ws 1).toNat % 2 ^ 19) with
      | some x => x.part == 1 && x.refs == 0 && x.kids == 0
      | none => false) = true ∧
    srvB 5 [w0 5 5 2, BitVec.ofNat 64 (zeroHash.toNat % 65536 * 8)] (pfx1 1) (fun ws c1 => match pfxEnt c1 ((nth 0 ws 1).toNat % 2 ^ 19) with
      | some x => x.part == 1 && x.refs == 1
      | none => false) = true ∧
    srvB 6 [w0 6 5 3, BitVec.ofNat 64 (1 + 15 * 65536 + 0x1FF * 2 ^ 36), BitVec.ofNat 64 (63 + 16 * 2 ^ 32)] svc (fun ws c1 => let w1 := (nth 0 ws 1).toNat
      decide (queueOwner c1 (bitsOf w1 35 16) = some 1 ∧ bitsOf w1 44 36 = 0x1FF ∧ seqOwner c1 63 = some 1 ∧
        bitsOf (nth 0 ws 2).toNat 45 32 ≠ 0 ∧ bitsOf (nth 0 ws 2).toNat 45 32 ≤ 16)) = true ∧
    srvB 7 [w0 7 5 3, BitVec.ofNat 64 (2 + 65536), BitVec.ofNat 64 (63 + 4 * 2 ^ 32)] batch1 (fun _ c1 => decide ((tget none c1.srv.batches 2).isSome = true ∧
      (seqRec c1 63).admitTok = 4)) = true := by
  decide +kernel

/-- A decoding session's descriptor: AVC 16 by 16, one reference, two buffers of 64 KiB at 0 (Table 14-3). -/
def vdBytes : Bytes := [0, 1, 1, 10, 8, 1, 3, 1] ++ leBytes 2 16 ++ leBytes 2 16 ++ [1, 2, 0, 0] ++ leBytes 4 65536 ++ leBytes 4 15 ++ leBytes 2 0xFFFF ++ leBytes 102 0
def veBytes (mode : Byte) : Bytes := [1, 2, 1, 30, 8, 1, 3, 1] ++ leBytes 2 16 ++ leBytes 2 16 ++ [1, 3, mode, 0] ++ leBytes 112 0
def vsD : VSession := { part := 1, desc := vdBytes }
def vsE (m : Byte) : VSession := { part := 1, desc := veBytes m }
def pic0 : DecPic := { status := 0, ptype := 0, rap := true, codedW := 16, codedH := 16, dispW := 16, dispH := 16, pieces := 1, units := 1, outs := [], refs := [] }
def enc0 (qp : Option Nat) : VEnc := { num := 0, src := 0, qp := qp, map := 0, user := 0, reqTag := 0, count := 0, order := 0 }
def vid1 (v : VSession) : Chip := { svc with vid := { sessions := [(47, some v)] } }
def vidB (cmd : Nat) (ws : List Word) (c : Chip) (f : List Word → Chip → Bool) : Bool :=
  let s := asked 0x5600 2 ws c
  obj s 0x5600 2 1 == 3 && (tget [] s.vid.blocked 1).isEmpty && headB 3 s fun ws' c1 => bitsOf (nth 0 ws' 0).toNat 63 56 == cmd && vidFits cmd ws' && f ws' c1
def sesB (c : Chip) (f : VSession → Bool) : Bool := match vsesOf c 1 47 with
  | some v => f v
  | none => false
/-- The partition of the packet with 1 GiB of HBM and its key, and its descriptor at offset 0x1000 of grove memory. -/
def openable (c : Chip) : Chip := memWrite (groveBase + 0x1000) vdBytes false { c with
  map := [(1, { part1 with hbmGib := 1 })], keys := [(1, { memKey := some 1, regions := [(0, some 5)] })]
  queues := c.queues ++ [(15, { state := 1, enable := true, cap := 10, maxpkt := 2 })] }
theorem test_meets_video_commands :
    (headB 3 (openable (asked 0x5600 2 [w0 1 5 2, gm 0x1000] svc)) fun ws c1 => vidFits 1 ws && decide ((nth 0 ws 1).toNat % 2 ^ 44 % 128 = 0) &&
      rangeOk c1 1 ((nth 0 ws 1).toNat % 2 ^ 44) 128 && (let d := memRead c1 ((nth 0 ws 1).toNat % 2 ^ 44) 128
        vidRangesOk d && vidSupported d && vidBuffersOk d && vidPlacesOk c1 1 d) && ((span 0 48).filter fun i => (vses c1 i).isNone) != []) = true ∧
    vidB 2 [w0 2 5 4, 47 + 8 * 256, gm 0, 0] (vid1 vsD) (fun ws c1 => sesB c1 (fun v => !Vd.enc v.desc) && bitsOf (nth 0 ws 1).toNat 39 8 == 8 &&
      rangeOk c1 1 ((nth 0 ws 2).toNat % 2 ^ 44) 8) = true ∧
    vidB 3 [w0 3 5 4, 47 + 2 * 256, 0, 0] (vid1 (vsE 0)) (fun _ c1 => sesB c1 fun v => Vd.enc v.desc && decide (2 < Vd.bufCount v.desc) && vbuf v 2 == 0) = true ∧
    vidB 4 [w0 4 5 2, 47 + 1 * 256] (vid1 { vsD with bufs := [(1, 2)] }) (fun _ c1 => sesB c1 fun v => decide (1 < Vd.bufCount v.desc) && vbuf v 1 == 2) = true ∧
    vidB 5 [w0 5 5 2, 47] (vid1 vsD) (fun _ c1 => sesB c1 fun v => !Vd.enc v.desc) = true ∧
    vidB 6 [w0 6 5 2, 47 + 64 * 2 ^ 32] (vid1 (vsE 0)) (fun _ c1 => sesB c1 fun _ => true) = true ∧
    vidB 7 [w0 7 5 2, 47] (vid1 vsD) (fun _ c1 => sesB c1 fun v => !vidOutstanding v && !v.bufs.any fun e => e.2 == 1) = true ∧
    vidB 7 [w0 7 5 2, 47] (vid1 { vsD with work := [⟨true, 0, 0, 0, 0, [], 0, 0⟩] }) (fun _ c1 => sesB c1 vidOutstanding) = true ∧
    vidB 7 [w0 7 5 2, 46] (vid1 vsD) (fun _ c1 => (vsesOf c1 1 46).isNone) = true := by
  decide +kernel

theorem choose_answers {l : List Nat} {c : Chip} (h : l ≠ []) : ∃ x c2, choose l c = (some x, c2) := by
  cases l with
  | nil => exact absurd rfl h
  | cons a l =>
    refine ⟨(a :: l)[(drawFree c).1.toNat % (a :: l).length]'(Nat.mod_lt _ (by simp)), (drawFree c).2, ?_⟩
    unfold choose
    simp only [Prod.mk.injEq, and_true]
    exact List.getElem?_eq_getElem _

def coring (v : VSession) : Chip :=
  { svc with vid := { sessions := [(47, some v)], cores := [(7, { ses := some 47 })] }
             fw := { run := [(1, some { call := { hook := Hk.rate, arg := 47 }, at_ := 0 })] } }
theorem test_meets_video_events :
    (let c := coring { vsE 0 with cur := some { enc := some (enc0 none), pieces := [{ st := 1, core := 7 }] } }
     (vcore c 7).ses = some 47 ∧ (vses c 47).isSome = true) ∧
    (let c := coring { vsD with cur := some { dec := some pic0, pieces := [{ st := 1, core := 7 }] } }
     (vcore c 7).ses = some 47 ∧ (((vses (coreFree 7 (modPiece 47 0 (fun x => { x with st := 2 }) c)) 47).bind (·.cur)).map fun p => p.pieces.all fun x => x.st == 2) = some true) ∧
    (let c := coring { vsD with cur := some { dec := some pic0, pieces := [{ st := 1, core := 7 }, {}] } }
     (((vses (coreFree 7 (modPiece 47 0 (fun x => { x with st := 2 }) c)) 47).bind (·.cur)).map fun p => p.pieces.all fun x => x.st == 2) = some false) ∧
    (let v := fun q m => { vsE m with cur := some { enc := some (enc0 q), stage := 2 } }
     (((vses (vid1 (v (some 20) 0)) 47).bind (·.cur)).bind (·.enc)).bind (·.qp) = some 20 ∧ bitOf (Vd.mode (v none 0).desc) 1 = false) ∧
    (let c := coring { vsE 2 with cur := some { enc := some (enc0 none), stage := 3 } }
     ((hookRun c 1).map fun r => r.call.arg) = some 47 ∧ ((vses c 47).bind (·.cur)).map (·.stage) = some 3) ∧
    (vses (vid1 { vsD with notices := [[1]] }) 47).isSome = true ∧ tget [] ({ svc with vid := { blocked := [(1, [[1]])] } } : Chip).vid.blocked 1 = [[1]] := by
  decide +kernel

/-- A live-critical piece waits for core 7, the only one of its mask, which works for another session. -/
def preempting : Chip := { svc with vid := {
  sessions := [(46, some { part := 1, desc := [0, 1, 1, 10, 8, 1, 3, 0x80] ++ vdBytes.drop 8, cur := some { dec := some pic0, pieces := [{ st := 1, core := 7 }] } }),
               (47, some { part := 1, desc := [0, 1, 1, 10, 8, 1, 0, 0x80] ++ vdBytes.drop 8, cur := some { dec := some pic0, pieces := [{}] } })]
  cores := [(7, { ses := some 46 })] } }
theorem test_meets_preemption : preemptsNow preempting 7 = true ∧ (vcore preempting 7).ses = some 46 := by decide +kernel

/-! ### Links and pair operation -/

/-- Port 15 in a state, with what else it holds. -/
def ported (v : LinkPort) : Chip := { svc with lnk := { ports := [(15, v)] } }
theorem test_meets_codewords : ((port (ported { state := Pst.training }) 15).state ≠ Pst.down ∧
      (port (bump 0x5800 7 15 15 (ported { state := Pst.training })) 15).locked = false ∧ decodes 15 = true ∧ decodes 16 = false) ∧
    ((port (ported { state := Pst.up, locked := true }) 15).locked = true ∧
      (port (holdLock 15 (candidate [] 0) true (ported { state := Pst.up, locked := true })) 15).locked = true) := by decide +kernel
def flitIs (f : BitVec 2048) (k n : Nat) : Bool := flitGood f && flitKind f == k && bitsOf (flitHead f) 11 0 == n
def flitPort (f : BitVec 2048) (v : LinkPort) (k n : Nat) (q : LinkPort → Bool) : Bool := flitIs f k n && q (port (takeFlit 15 f (ported v)) 15)
set_option maxRecDepth 20000 in
theorem test_meets_flits :
    flitPort (mkFlit 1 3 4095 false 0 [9]) { state := Pst.up, rxSeq := 4095 } 1 4095 (fun v => decide (v.state = Pst.up)) = true ∧
    flitIs (mkFlit 1 3 5 false 0 [9]) 1 5 = true ∧ flitIs (mkFlit 2 0 0 false 0 []) 2 0 = true ∧ flitIs (mkFlit 0 0 0 true 7 []) 0 0 = true ∧
    flitGood 0x10000000 = false ∧
    flitPort (mkFlit 3 0 0 false 0 (leBytes 2 5)) { state := Pst.training, trains := 1 } 3 0 (fun v => decide (v.state = Pst.training ∧ v.trains = 1)) = true ∧
    flitPort (mkFlit 3 0 0 false 0 (leBytes 2 5)) { state := Pst.training, trains := 2 } 3 0 (fun v => decide (v.trains = 2)) = true := by decide +kernel
def full : Chip := ported { state := Pst.up, replay := [(4095, 0)], replays := 7, replayFrom := 4095 }
theorem test_meets_replay : (port full 15).state = Pst.up ∧ (port full 15).replay.map (·.1) = [4095] ∧
    (if (port full 15).replays != 0 && (port full 15).replayFrom = 4095 then (port full 15).replays + 1 else 1) = 8 := by decide +kernel

/-- The session with module 1 open, and a message of it to partition 1 of this module (module 0). -/
def linked (c : Chip) : Chip := { c with map := [(1, part1)], lnk := { c.lnk with sess := [(1, { state := 2 })] } }
def toP1 (op : Byte) (a : Nat) (body : Bytes) : Msg :=
  { msg0 with op := op, dst := 4096, src := 4097, job := 7, ctr := 5, addr := BitVec.ofNat 64 a, len := BitVec.ofNat 16 body.length, body := body }
def arrivesB (p : Nat) (m : Msg) (inAlloc : MapEntry → Bool) (own : Chip → Option Status) (c : Chip) (q : Chip → Bool) : Bool :=
  accepting (takeMsg p m c) && (match checks123 p m (takeMsg p m c) with
    | (true, c2) => match check4 p m c2 with
      | (true, c3) => check5 m inAlloc c3 && (own c3).isNone && q (acceptCtr m c3)
      | _ => false
    | _ => false)
theorem arrives_of {p : Nat} {m : Msg} {inAlloc : MapEntry → Bool} {own : Chip → Option Status} {c : Chip} {q : Chip → Bool}
    (h : arrivesB p m inAlloc own c q = true) : ∃ c1, arrives p m inAlloc own c c1 ∧ q c1 = true := by
  unfold arrivesB at h
  rw [Bool.and_eq_true] at h
  obtain ⟨h1, h2⟩ := h
  rcases e2 : checks123 p m (takeMsg p m c) with ⟨b, c2⟩
  rw [e2] at h2
  cases b with
  | false => cases h2
  | true =>
    dsimp only at h2
    rcases e3 : check4 p m c2 with ⟨b, c3⟩
    rw [e3] at h2
    cases b with
    | false => cases h2
    | true =>
      simp only [Bool.and_eq_true, Option.isNone_iff_eq_none] at h2
      exact ⟨acceptCtr m c3, ⟨h1, c2, c3, e2, e3, h2.1.1, h2.1.2, rfl⟩, h2.2⟩
def memArr (m : Msg) (n : Nat) (c : Chip) (q : Chip → Bool) : Bool :=
  !malformed m && arrivesB 15 m (rangeIn c m.addr.toNat n) (fun c => targetMem c (m.dst.toNat / 4096) m.addr.toNat n) c q
def bset1 (mark : Nat) : Msg := { toP1 0x20 3 [] with arg := BitVec.ofNat 64 mark }
theorem test_meets_link_requests :
    memArr (toP1 1 (groveBase + 8) [1, 2]) 2 (linked svc) (fun _ => true) = true ∧
    memArr { toP1 2 groveBase [] with len := 4096 } 4096 (linked svc) (fun _ => true) = true ∧
    (atomicOk (toP1 3 (groveBase + 8) ([0, 8] ++ List.replicate 14 1)) = true ∧
      memArr (toP1 3 (groveBase + 8) ([0, 8] ++ List.replicate 14 1)) 8 (linked svc) (fun c => !wordPoison c (groveBase + 8)) = true) ∧
    memArr (toP1 3 (groveBase + 8) ([0, 8] ++ List.replicate 14 1)) 8 (linked { svc with mem := { poison := [((groveBase + 8) / 8, true)] } })
      (fun c => wordPoison c (groveBase + 8)) = true ∧
    (!malformed (toP1 4 15 []) && arrivesB 15 (toP1 4 15 []) (fun e => decide (e.qFirst ≤ 15) && decide (15 < e.qFirst + e.qCount)) (fun _ => none) (linked svc) (fun _ => true)) = true ∧
    (!malformed (bset1 0) && (checks123 15 (bset1 0) (takeMsg 15 (bset1 0) (linked svc))).1 && (check4 15 (bset1 0) (linked svc)).1 &&
      markReached (noteCtr (bset1 0) (linked svc)) (bset1 0) && !markReached (noteCtr (bset1 6) (linked svc)) (bset1 6)) = true ∧
    (checks123 15 { toP1 1 groveBase [] with auth := false } (takeMsg 15 { toP1 1 groveBase [] with auth := false } (linked svc))).1 = false ∧
    (({ svc with lnk := { held := [⟨15, bset1 9⟩] } } : Chip).lnk.held[0]?).isSome = true ∧
    (({ svc with opens := [⟨.port 15 4097, 3, 4, [0], 1⟩] } : Chip).opens.filterMap fun o => match o.prod with
      | .port n x => if n = 15 then some (x, o) else none
      | _ => none)[0]? = some (4097, ⟨.port 15 4097, 3, 4, [0], 1⟩) := by decide +kernel
/-- The Boolean of the test above is `arrives`. -/
theorem test_arrives : ∃ c1, arrives 15 (toP1 1 (groveBase + 8) [1, 2]) (rangeIn (linked svc) (groveBase + 8) 2) (fun c => targetMem c 1 (groveBase + 8) 2) (linked svc) c1 ∧
    true = true := arrives_of (q := fun _ => true) (by decide +kernel)

def waiting (k : ReqKind) : Chip := linked { svc with lnk := { outReq := [(65535, some { dst := 1, kind := k, serial := 3, sendTime := some 0 })] } }
def ans (op : Byte) (s : Nat) (body : Bytes) : Msg := { toP1 op 0 body with reqRef := 65535, arg := BitVec.ofNat 64 s }
def answersB (m : Msg) (k : ReqKind) (s : Bool) : Bool := !malformed m && decide ((arriveAnswer 15 m (waiting k)).1.map (·.kind) = some k) && (answerStatus m == St.ok) == s
theorem test_meets_link_answers :
    answersB (ans 0x11 0 []) (.store 0 8) true = true ∧ answersB (ans 0x11 0 []) (.mover 0 3 true) true = true ∧
    answersB (ans 0x12 0 [1, 2, 3, 4, 5, 6, 7, 8]) (.load 0 31 3 false false 8 8) true = true ∧ answersB (ans 0x12 0 [1]) (.mover 0 3 false) true = true ∧
    answersB (ans 0x13 0 (List.replicate 8 1)) (.atomic 0 31 true 8 8) true = true ∧ answersB (ans 0x14 0 []) (.welt 3 5 0 true) true = true ∧
    answersB (ans 0x15 0 []) (.blaze 0 3) true = true ∧ answersB (ans 0x11 0x0206 []) (.store 0 8) false = true ∧
    ((tget none (waiting (.store 0 8)).lnk.outReq 65535).map (·.sendTime.isSome)) = some true := by decide +kernel

def hand0 (v r : Bool) : Hand := { peer := 4095, inc := 1, verified := v, refused := r, transcript := [] }
def shaking (o : Bool) : Chip := { svc with lnk := { sess := [(4095, { state := 1, opener := o })] } }
theorem test_meets_sessions : accepting svc = true ∧
    ¬ ((sess svc 4095).state = 1 ∧ (sess svc 4095).opener = true ∧ svc.moduleId < 4095) ∧ ((hand0 true false).refused = false ∧ (hand0 true false).verified = true) ∧
    (hand0 false false).verified = false ∧ (hand0 true true).refused = true ∧ ((sess (shaking true) 4095).state = 1 ∧ (sess (shaking true) 4095).opener = true) ∧
    ((sess (shaking false) 4095).state = 1 ∧ (sess (shaking false) 4095).opener = false) ∧
    ((port (ported { licence := true }) 15).licence = true ∧ (port (ported { licence := true }) 15).txq = []) := by decide +kernel

def paired (p : Pair) : Chip := { svc with pair := p }
theorem test_meets_formation_and_lace :
    ((paired { state := PSt.forming, stage := 2 }).pair.stage = 2) ∧
    (let ok := fun c : Chip => decide ((c.pair.hb.map (·.laceIn)).getD false = c.pair.claim) && decide (c.pair.laceIn = (c.pair.hb.map (·.claim)).getD false)
     ok (paired { state := PSt.forming, stage := 3, claim := true }) = false ∧ ok (paired { state := PSt.forming, stage := 3 }) = true ∧
     obj svc 0x3100 4 % 2 = 0 ∧ obj (setObj 0x3100 4 0 1 svc) 0x3100 4 % 2 = 1) ∧
    ((modPair (fun p => { p with laceIn := true, gate := p.gate && !true }) (paired { state := PSt.solo })).pair.claimWant = false ∧
      (modPair (fun p => { p with laceIn := true, gate := p.gate && !true }) (paired { state := PSt.solo })).pair.state ≠ PSt.unpaired) ∧
    (∃ c, c = paired { state := PSt.taking, claim := true } ∧ c.pair.claim = true ∧ c.pair.laceIn = false ∧ c.pair.fenceLow = false ∧ c.pair.gate = false ∧ gateState c = true) ∧
    (∃ c, c = paired { state := PSt.solo, claim := true } ∧ gateState c = true ∧ c.pair.state ≠ PSt.taking) ∧
    (∃ c, c = paired { state := PSt.taking, claim := true, laceIn := true } ∧ c.pair.claim = true ∧ c.pair.laceIn = true ∧ c.pair.tie = false) ∧
    (∃ c, c = paired { state := PSt.active, laceIn := true, hb := some hb0 } ∧ c.pair.hb = some hb0 ∧ c.pair.state ≠ PSt.unpaired ∧ c.pair.state ≠ PSt.forming ∧
      c.pair.silent = false ∧ hb0.claim ≠ c.pair.laceIn) ∧
    (∃ c, c = setObj 0x3100 9 0 1 (paired { state := PSt.active, silent := true }) ∧ c.pair.state = PSt.active ∧ obj c 0x3100 9 = 1) ∧
    (∃ c, c = paired { state := PSt.standby, laceIn := true, silent := true } ∧ c.pair.state = PSt.standby ∧ c.pair.laceIn = true) ∧
    (∃ c, c = paired { state := PSt.standby, yieldSeen := true } ∧ c.pair.laceIn = false ∧ (c.pair.yieldSeen = true ∨ c.pair.silent = true)) ∧
    (∃ c, c = paired { state := PSt.solo, silent := true, boundaryAt := some 9 } ∧ c.pair.boundaryAt = some 9 ∧ (if c.pair.silent then c else mateSilent c).pair.state = PSt.solo) ∧
    (∃ c, c = paired { state := PSt.standby, silent := true, boundaryAt := some 9 } ∧ (if c.pair.silent then c else mateSilent c).pair.state ≠ PSt.solo) :=
  ⟨by decide +kernel, by decide +kernel, by decide +kernel, ⟨_, rfl, by decide +kernel⟩, ⟨_, rfl, by decide +kernel⟩, ⟨_, rfl, by decide +kernel⟩, ⟨_, rfl, by decide +kernel⟩,
   ⟨_, rfl, by decide +kernel⟩, ⟨_, rfl, by decide +kernel⟩, ⟨_, rfl, by decide +kernel⟩, ⟨_, rfl, by decide +kernel⟩, ⟨_, rfl, by decide +kernel⟩⟩

/-- The mate is module 1, whose session is open; its messages come on port 15. -/
def mated (p : Pair) : Chip := setObj 0x3100 2 0 1 (linked (paired p))
def fromMate (op : Byte) (body : Bytes) : Msg := { toP1 op 0 body with dst := 0, src := 1 }
def mateB (m : Msg) (c : Chip) (q : Chip → Bool) : Bool :=
  !malformed m && accepting (takeMsg 15 m c) && decide ((takeMsg 15 m c).pair.state ≠ PSt.unpaired ∧ m.src.toNat % 4096 = mateId (takeMsg 15 m c)) &&
    (match checks123 15 m (takeMsg 15 m c) with
      | (true, c2) => q (modPair (fun p => { p with silent := false }) (acceptCtr m c2))
      | _ => false)
theorem mateSays_of {m : Msg} {c : Chip} {q : Chip → Bool} (h : mateB m c q = true) : malformed m = false ∧ ∃ c1, mateSays m c c1 ∧ q c1 = true := by
  unfold mateB at h
  simp only [Bool.and_eq_true, decide_eq_true_eq, Bool.not_eq_true'] at h
  obtain ⟨⟨⟨h0, h1⟩, h2, h3⟩, h4⟩ := h
  refine ⟨h0, ?_⟩
  rcases e2 : checks123 15 m (takeMsg 15 m c) with ⟨b, c2⟩
  rw [e2] at h4
  cases b with
  | false => cases h4
  | true => exact ⟨_, ⟨h1, h2, h3, c2, e2, rfl⟩, h4⟩
def dig (egress : Bool) : Bytes := leBytes 4 3 ++ [if egress then 0 else 1] ++ leBytes 3 0 ++ leBytes 8 5 ++ leBytes 8 0 ++ leBytes 16 77
def eg0 : EgRec := { q := 3, count := 5, seq := 0, hard := true, own := 77, mate := some 77 }
theorem test_meets_mate_messages :
    mateB (fromMate 0x40 (leBytes 16 0)) (mated { state := PSt.forming, stage := 2 }) (fun c => decide (c.pair.state = PSt.forming ∧ c.pair.stage = 2)) = true ∧
    mateB (fromMate 0x40 (leBytes 16 0)) (mated { state := PSt.forming, stage := 3 }) (fun _ => decide ((parseHb (leBytes 16 0)).state = PSt.unpaired)) = true ∧
    mateB (fromMate 0x40 (leBytes 16 4)) (mated { state := PSt.active }) (fun c => decide (c.pair.state = PSt.active)) = true ∧
    (mField (dig false) 4 1 = 1 ∧ mateB (fromMate 0x41 (dig false)) (mated { state := PSt.active }) (fun c => !(c.pair.inp.any fun r => r.q == 3 && r.seq == 5)) = true) ∧
    mateB (fromMate 0x41 (dig false)) (mated { state := PSt.active, inp := [{ q := 3, seq := 5, sendTime := 0, pkt := ⟨.port 15 1, 3, 1, [], 1⟩, own := 77 }] })
      (fun c => c.pair.inp.any fun r => r.q == 3 && r.seq == 5) = true ∧
    mateB (fromMate 0x41 (dig true)) (mated { state := PSt.active, eg := [eg0] }) (fun c => c.pair.eg.any fun e => e.q == 3 && e.count == 5 && e.seq == 0) = true ∧
    mateB (fromMate 0x41 (dig true)) (mated { state := PSt.active }) (fun c => !(c.pair.eg.any fun e => e.q == 3 && e.count == 5 && e.seq == 0)) = true ∧
    mateB (fromMate 0x42 (dig true)) (mated { state := PSt.standby, eg := [eg0] }) (fun c => decide (c.pair.state = PSt.standby) && c.pair.eg.any fun e => e.q == 3) = true ∧
    mateB (fromMate 0x42 (dig true)) (mated { state := PSt.standby }) (fun c => decide (c.pair.state = PSt.standby ∧ c.pair.eg = [])) = true ∧
    mateB (fromMate 0x43 (leBytes 16 9)) (mated { state := PSt.active, boundaryAt := some 9 }) (fun c => decide (c.pair.boundaryAt = some (mField (leBytes 16 9) 0 8))) = true ∧
    mateB (fromMate 0x43 (leBytes 16 9)) (mated { state := PSt.active }) (fun c => decide (c.pair.boundaryAt ≠ some 9)) = true ∧
    mateB (fromMate 0x44 (leBytes 8 0)) (mated { state := PSt.standby }) (fun c => decide (c.pair.state = PSt.standby)) = true := by decide +kernel
def sending (e : EgRec) : Chip := { svc with
  pair := { state := PSt.active, gate := true, eg := [e] }
  queues := [(3, { state := 1, welt := true, pkts := [⟨[0], 1, 5, false, true, 0⟩] })]
  pool := { fresh := 1, cells := [(0, { free := false, words := [(0, 1)] })] } }
theorem test_meets_welt_send : egReady (sending eg0) 3 = some (eg0, false) ∧ eg0.st = 0 ∧ egReady (sending { eg0 with st := 2 }) 3 = some ({ eg0 with st := 2 }, false) ∧
    ((queue (sending eg0) 3).pkts.find? fun p => p.count = 5 && p.seq = 0).isSome = true := by decide +kernel

/-! ### Page moves, the fence, the Warden, keys, firmware and the debug port -/

def hooked (h a : Nat) (late : Bool) : Chip := { svc with fw := { fwState := 1, run := [(0, some { call := { hook := h, arg := a }, at_ := 0, late := late })] } }
theorem test_meets_page_moves_and_retries :
    (∃ m, ({ kv1 (slotUp 0) with kv := { (kv1 (slotUp 0)).kv with moves := [⟨63, 1, true, 0⟩] } } : Chip).kv.moves[0]? = some m ∧ m.slot = 63) ∧
    tget [] ({ svc with kv := { blocked := [(15, [[1, 2]])] } } : Chip).kv.blocked 15 = [1, 2] :: [] ∧
    tget [] ({ svc with srv := { blocked := [(15, [[1, 2]])] } } : Chip).srv.blocked 15 = [1, 2] :: [] ∧
    (pressureRuns (hooked Hk.kvPressure 15 false) 15 = true ∧ bitsOf (nth 0 [w0 5 0 2] 0).toNat 63 56 = 5 ∧ bitsOf (nth 0 [w0 6 0 2] 0).toNat 63 56 = 6 ∧
      bitsOf (nth 0 [w0 7 0 2] 0).toNat 63 56 = 7) ∧
    (reclaimRuns (hooked Hk.reclaim 0 false) = true ∧ bitsOf (nth 0 [w0 2 0 2] 0).toNat 63 56 = 2) :=
  ⟨⟨_, rfl, rfl⟩, by decide +kernel, by decide +kernel, by decide +kernel, by decide +kernel⟩

def rec1 (k : Nat) : Rec := { time := 5, module := 0, source := Src.queue, status := St.qNoOpen, cls := k, part := none, count := 0, inc := 0, detail := [] }
def logging (k t : Nat) : Chip := { svc with flt := { inflight := [rec1 k] }, time := { svc.time with tsc := t } }
def low (m : Nat) (h : Bool) : Chip := { svc with pair := { fenceLow := true }, life := { svc.life with mstate := m, held := h }, board := { svc.board with latchN := true } }
theorem test_meets_fence_log_and_bundle :
    (paired { claim := true }).pair.claim = true ∧ (paired {}).pair.claim = false ∧
    ((low MState.service false).pair.fenceLow = true ∧ (low MState.service false).board.latchN = true ∧ (low MState.service false).life.mstate ≠ MState.off ∧
      (low MState.service false).life.mstate ≠ MState.fenced ∧ (low MState.service false).life.mstate ≠ MState.failed) ∧
    (low MState.failed false).life.mstate = MState.failed ∧ ((low MState.fenced true).life.mstate = MState.fenced ∧ (low MState.fenced true).life.held = true) ∧
    (emit Src.fault St.fltFenceGlitch none [] (modPair (fun p => { p with fenceLow := false }) (low MState.service false))).pair.claimWant = false ∧
    (firstRec (logging 4 2005).flt.inflight = some (rec1 4) ∧ (rec1 4).time + 2000 ≤ now (logging 4 2005) ∧ (logging 4 2005).flt.log.length < 16384) ∧
    (firstRec (logging 3 2005).flt.inflight = some (rec1 3) ∧ (rec1 3).cls < 4) ∧
    (let b : Bundle := ⟨[], [], [], []⟩
     let c : Chip := { svc with flt := { writing := some b } }
     c.flt.writing = some b ∧ (emit Src.fault St.fltPmDone none [] { c with flt := { c.flt with writing := none, bundle := some b } }).life.resetAt = none) := by
  decide +kernel

theorem test_meets_warden_rows : wardenOn svc = true ∧ svc.pwr.floors.pkgDrop = 0 ∧
    (let ss (n w : Nat) := lastN 100 (List.replicate n w ++ [w])
     ((ss 98 9000).length == 100 && decide (svc.pwr.pcap * 100 < (ss 98 9000).foldl (· + ·) 0)) = false ∧
     ((ss 99 1350).length == 100 && decide (svc.pwr.pcap * 100 < (ss 99 1350).foldl (· + ·) 0)) = false ∧
     ((ss 99 1351).length == 100 && decide (svc.pwr.pcap * 100 < (ss 99 1351).foldl (· + ·) 0)) = true) ∧
    (tget 0 svc.pwr.floors.curShift 1 = 0 ∧ tget 0 ({ svc with pwr := { floors := { curShift := [(1, 2)] } } } : Chip).pwr.floors.curShift 1 ≠ 0) ∧
    (sensor svc 287).failed = false ∧
    (tjHigh (setSensor 287 { (sensor svc 287) with last := 840, peak := 840, bad := 0, seen := true } svc) = false ∧
      tjHigh (setSensor 287 { (sensor svc 287) with last := -320, peak := -320, bad := 0, seen := true } svc) = false) ∧
    ((sensor svc 287).bad < 9 ∧ tjHigh (setSensor 287 { (sensor svc 287) with bad := 1 } svc) = false) ∧
    (let c := setSensor 287 { (sensor svc 287) with bad := 9 } svc
     (sensor c 287).failed = false ∧ 9 ≤ (sensor c 287).bad ∧ tjHigh (failSensor 287 c) = false) ∧
    (svc.pwr.prevWin = none ∧ svc.pwr.rLast4 = [] ∧ svc.pwr.flatWins + 1 < 8 ∧ svc.pwr.rStep = false ∧ svc.pwr.rEst ≤ obj svc 0x4000 13) ∧
    (let b (n : Nat) : Chip := { svc with pwr := { burst := n } }
     (b 1).pwr.burst = 1 ∧ (b 2).pwr.burst = 2 ∧ (b 2).pwr.floors.burst = false) ∧
    (inletOne svc.board.inA svc.board.badA svc.board.failA (some 1000) = (some 1000, 0, svc.board.failA) ∧
      inletOne svc.board.inB svc.board.badB svc.board.failB none = (svc.board.inB, svc.board.badB + 1, svc.board.failB)) := by decide +kernel

def job1 : Install := { part := 15, plain := [], kind := 1, detail := [], who := .mailbox, svc := 2, req := req0 }
theorem test_meets_keys_firmware_and_debug :
    ({ svc with sec := { installs := [job1] } } : Chip).sec.installs.find? (fun i => i.part == (15 : BitVec 4).toNat) = some job1 ∧
    (reportOf { svc with sec := { reports := [(16, { building := some [1] })] } } .mailbox).building = some [1] ∧
    ((hooked Hk.init 0 false).fw.fwState = 1 ∧ pairDuty (hooked Hk.init 0 false) 0 = some 0) ∧
    ({ svc with fw := { erasing := some 1 } } : Chip).fw.erasing = some 1 ∧
    (let c (b : Tbl Bool) : Chip := { svc with fw := { bad := b } }
     thas (c [(1, true)]).fw.bad 0 = false ∧ thas (c [(1, true)]).fw.bad 1 = true ∧ thas (c []).fw.bad 1 = false ∧ (hookRun (c []) 0).isNone = true) ∧
    (let c (l : Bool) (h n : Nat) : Chip := { hooked h 0 l with time := { svc.time with tsc := n } }
     let r (c : Chip) := (hookRun c 0).map fun r => (r.late, decide (now c - r.at_ ≤ hookDeadline (setObj 0x5C81 4 r.call.hook (min (now c - r.at_) 0xFFFFFFFF) (setRun 0 none c)) r.call.hook))
     r (c true Hk.stitch 5) = some (true, true) ∧ r (c false Hk.reclaim 10000) = some (false, true) ∧ r (c false Hk.reclaim 10001) = some (false, false) ∧ Hk.reclaim ≠ Hk.rate) ∧
    (svc.life.powered = true ∧ ({ svc with fuse := { svc.fuse with debug := 0 } } : Chip).fuse.debug = 0 ∧
      ({ svc with fuse := { svc.fuse with debug := 1 } } : Chip).fuse.debug ≠ 0) := by decide +kernel

/-! ### The whole machine -/

theorem test_meets_invariant_premises : (State.reset.m.mem.wf = true ∧ State.reset.m.life.mstate ≤ MState.failed ∧ twf 0 State.reset.m.fuse.low = true ∧
    twf 0 State.reset.m.fuse.high = true) ∧ (memWrite 5 [7, 0] true svc).mem.wf = true := by decide +kernel
/-- The premises of EveryStepKeepsInvariant and FuseBitsOnlySet: the reset state and the state after one step, an idle one. -/
theorem test_meets_step_invariant : ∃ s', Inv State.reset ∧ step State.reset = .next s' :=
  ⟨_, ⟨by decide +kernel, by decide +kernel, by decide +kernel, by decide +kernel⟩, rfl⟩
theorem test_meets_store_and_load_frames :
    (svc.flt.fatal = none ∧ svc.pair.poisonTaken = false) ∧
    (thr {} (gm 4095) 9).mem.wf = true ∧ (thr {} (gm 4095) 9).life.mstate ≤ MState.failed ∧
    (thr {} (gm 4095) 9).flt.fatal = none ∧ (thr {} (gm 4095) 9).pair.poisonTaken = false ∧
    issuesB 0 (thr {} (gm 4095) 9) (fun c1 => reachB .store (groveBase + 4095) 8 c1 fun _ r => isHere (fun _ ss => !inRegs ss) svc r) = true ∧
    issuesB 0 (thr {} (gm 4095) 9) (fun c1 => reachB .load (groveBase + 4095) 8 c1 fun _ r => isHere (fun _ ss => !inRegs ss &&
      decide (firstPoison (thr {} (gm 4095) 9) 0 ss = none)) svc r) = true := by decide +kernel

theorem test_meets_record_stamps : tget 0 svc.flt.written Src.queue.toNat < 64 ∧ classByte St.qNoOpen ≠ 5 := by decide +kernel
theorem test_meets_stale_and_kept_requests :
    (dictServed mgr = true ∧ (beginReq .mailbox ⟨1, { req0 with inc := 1 }⟩ mgr).isSome = true ∧ countsOk 1 1 0 = true ∧
      (keptOf mgr .mailbox).find? (fun k => k.msg.req.reqId == req0.reqId) = none ∧ ((beginReq .mailbox ⟨1, { req0 with inc := 1 }⟩ mgr).map (·.life.incarnation)) = some 0) ∧
    (let c := { mgr with mbx := { mgr.mbx with history := [⟨⟨1, req0⟩, ⟨St.ok, false, []⟩⟩] } }
     (beginReq .mailbox ⟨1, req0⟩ c).map (fun c1 => ((keptOf c1 .mailbox).find? fun k => k.msg.req.reqId == req0.reqId).map (fun k => sameReq k.msg ⟨1, req0⟩)) = some (some true) ∧
     (beginReq .mailbox ⟨2, req0⟩ c).map (fun c1 => ((keptOf c1 .mailbox).find? fun k => k.msg.req.reqId == req0.reqId).map (fun k => sameReq k.msg ⟨2, req0⟩)) = some (some false)) := by
  decide +kernel

/-- Thread 0 in S mode, with a0 the thread that it names. -/
def naming (a0 : Word) : Chip := { thr {} 0 0 with harts := [(0, { state := .ready, priv := 1, x := [(10, a0)] })] }
theorem test_meets_thread_services :
    (∃ c1, issues 0 (naming 16383) c1 ∧ decide ((hart c1 0).priv = 1 ∧ threadPart c1 0 = some 1 ∧ argOf c1 0 10 = 16383 ∧ threadPart c1 16383 ≠ some 1) = true) ∧
    (∃ c1, issues 0 (naming 0) c1 ∧ decide ((hart c1 0).priv = 1 ∧ argOf c1 0 10 = 0 ∧ threadPart c1 0 = some 1 ∧ (hart c1 0).state ≠ .empty) = true) :=
  ⟨issues_of (q := fun c1 => decide ((hart c1 0).priv = 1 ∧ threadPart c1 0 = some 1 ∧ argOf c1 0 10 = 16383 ∧ threadPart c1 16383 ≠ some 1)) (by decide +kernel),
   issues_of (q := fun c1 => decide ((hart c1 0).priv = 1 ∧ argOf c1 0 10 = 0 ∧ threadPart c1 0 = some 1 ∧ (hart c1 0).state ≠ .empty)) (by decide +kernel)⟩
theorem test_meets_satp :
    (∃ c1, issues 0 (thr {} 0xAFFFF00000000001 0) c1 ∧ (decide (1 ≤ (hart c1 0).priv) && !keptOut (hart c1 0) && bitsOf (readX (hart c1 0) 5).toNat 63 60 == 10) = true) ∧
    (∃ c1, issues 0 (thr {} 0x8FFFF00000000001 0) c1 ∧ (decide (1 ≤ (hart c1 0).priv) && !keptOut (hart c1 0) && bitsOf (readX (hart c1 0) 5).toNat 63 60 == 8) = true) :=
  ⟨issues_of (q := fun c1 => decide (1 ≤ (hart c1 0).priv) && !keptOut (hart c1 0) && bitsOf (readX (hart c1 0) 5).toNat 63 60 == 10) (by decide +kernel),
   issues_of (q := fun c1 => decide (1 ≤ (hart c1 0).priv) && !keptOut (hart c1 0) && bitsOf (readX (hart c1 0) 5).toNat 63 60 == 8) (by decide +kernel)⟩
theorem test_meets_tag_owners :
    (∃ c1, issues 0 (thr {} 0xFF 0) c1 ∧ decide ((tagOf c1 0xFF).state = .free) = true) ∧
    (∃ c1, issues 0 (setTag 0xFF { state := .done, owner := 255 } (thr {} 0xFF 0)) c1 ∧ decide ((tagOf c1 0xFF).state ≠ .free ∧ (tagOf c1 0xFF).owner ≠ 0) = true) :=
  ⟨issues_of (q := fun c1 => decide ((tagOf c1 0xFF).state = .free)) (by decide +kernel),
   issues_of (q := fun c1 => decide ((tagOf c1 0xFF).state ≠ .free ∧ (tagOf c1 0xFF).owner ≠ 0)) (by decide +kernel)⟩

def popping (u : Queue) : Chip := { svc with queues := [(3, u)] }
theorem test_meets_pop :
    (queue (popping {}) 3).state ≠ 1 ∧ ((queue (popping { state := 1 }) 3).state = 1 ∧ (queue (popping { state := 1 }) 3).depth = 0) ∧
    (queue (popping { state := 1, depth := 1, bound := some 9 }) 3).bound = some 9 ∧
    (let u := queue (popping { state := 1, depth := 1, held := 1, popped := 31, bound := some 0, pkts := [⟨[0], 32, 0, true, false, 0⟩] }) 3
     u.state = 1 ∧ u.depth ≠ 0 ∧ u.bound = some 0 ∧ u.popped % 32 = 31 ∧ u.pkts.head?.map (·.len) = some 32) ∧
    (let u := queue (popping { state := 1, depth := 5, held := 1, popped := 27, pkts := [⟨[0], 32, 0, true, false, 0⟩] }) 3
     u.depth ≠ 0 ∧ u.bound = none ∧ u.popped % 32 ≠ 31 ∧ u.popped + 1 ≠ 32) := by decide +kernel
theorem test_meets_blaze_underflow :
    ∃ c1, issues 0 (thr {} 3 0) c1 ∧ (!blazeReserved 3 && (blazeRemote c1 3).isNone && threadPart c1 0 == some 1 && blazeAt c1 1 3 == some 11 &&
      !(blaze c1 11).set) = true :=
  issues_of (q := fun c1 => !blazeReserved 3 && (blazeRemote c1 3).isNone && threadPart c1 0 == some 1 && blazeAt c1 1 3 == some 11 && !(blaze c1 11).set) (by decide +kernel)
/-! ### Numbers that the spec writes out -/

/-- 00_scope.md's example: source 0x1093 is grove 147. -/
theorem test_source_number : Src.grove 147 = 0x1093 := by decide +kernel
/-- 02_time_and_stitches.md's example: the count at the day the stitch number wraps, just before it and 588 µs after it. -/
theorem test_count_wraps : countOf {} 1769526525951588000 = 0x19BFFFFFFFF ∧ countOf {} 1769526525952000000 = 0x19C00000000 ∧
    countOf {} 1769526525952588000 = 0x19C00000000 ∧ boundaryOf {} 1769526525952588000 = 1769526525952000000 := by decide +kernel
/-- 05_grove_extension.md's example encodings: LREQ, TWAITR, TENSOR, BSET, SWAIT. -/
theorem test_example_encodings : rType 0 0 11 2 10 0x0B = 0x5A50B ∧ rType 1 0 10 0 10 0x5B = 0x205055B ∧ rType 0 12 11 0 10 0x0B = 0xC5850B ∧
    rType 0 0 11 5 0 0x2B = 0x5D02B ∧ rType 0 0 0 2 10 0x5B = 0x255B ∧ [0x5A50B, 0x205055B, 0xC5850B, 0x5D02B, 0x255B].all extDefined = true := by
  decide +kernel
/-- 18_power_and_thermal.md's example: 54 K at 0.034 and at 0.041 K/W. -/
theorem test_thermal_cap : thermalCap { svc with pwr := { inlet := 384, rEst := 34000 } } = 1588 ∧
    thermalCap { svc with pwr := { inlet := 384, rEst := 41000 } } = 1317 := by decide +kernel
/-- 07_sliced_precision.md's example: an FP64 product with M = N = K = 1, C_ADDR = 0 and ROUND = 0, of 1 − 2^−53 with itself. -/
def slBytes : Bytes := leBytes 8 (groveBase + 0x2000) ++ leBytes 8 (groveBase + 0x2000) ++ leBytes 8 0 ++ leBytes 8 (groveBase + 0x4000) ++ leBytes 24 0 ++
  leBytes 2 1 ++ leBytes 2 1 ++ leBytes 2 1 ++ leBytes 2 0 ++ leBytes 4 64 ++ leBytes 4 64 ++ leBytes 4 0 ++ leBytes 4 64 ++ [3, 2, 2, 2] ++ leBytes 44 0
def slOp : TensorOp := ⟨slBytes, [], 1, [⟨groveBase + 0x2000, groveBase + 0x2000, 8⟩, ⟨groveBase + 0x4000, groveBase + 0x4000, 8⟩]⟩
theorem test_sliced_square : (let c := memWrite (groveBase + 0x2000) (leBytes 8 0x3FEFFFFFFFFFFFFF) false (thr {} 0 0)
    let r := (runPasses 0 slOp.segs (opPasses slOp) c)
    (r.1, leNat (memRead r.2.2 (groveBase + 0x4000) 8))) = (St.ok, 0x3FEFFFFFFFFFFFFE) := by decide +kernel
/-- The published check value of CRC-32C, and the first word of the published SHA-384 of "abc". -/
theorem test_crc_and_hash : crc32c [0x31, 0x32, 0x33, 0x34, 0x35, 0x36, 0x37, 0x38, 0x39] = 0xE3069283 ∧
    (sha384 [0x61, 0x62, 0x63]).take 4 = [0xCB, 0x00, 0x75, 0x3F] := by decide +kernel
end Sys2Proof.Tests
end

/-! PROOF. What the commands of time do to the module where their conditions hold (02_time_and_stitches.md), and O3 from it. -/
namespace Sys2Proof.Machine

/-! ### The module state that time asks for -/

theorem selftest_le_of_running {c : Chip} (h : running c = true) : MState.selftest ≤ c.life.mstate := by
  simp [running] at h
  simp only [MState.selftest]
  omega

/-- In READY, SERVICE and DEGRADED the counter is only slewed (R42, R43). -/
theorem mayStep_of_running {c : Chip} (h : running c = true) : mayStep c = false := by
  simp [running] at h
  simp only [mayStep, MState.boot, MState.selftest, MState.scrub, MState.fenced, MState.maintenance, MState.failed,
    Bool.or_eq_false_iff, beq_eq_false_iff_ne]
  omega

/-! ### The parts of a Sync -/

theorem correct_of_running {c : Chip} (h : running c = true) (offset : Int) (changed : Bool) :
    correct offset changed c = slewCounter offset c := by
  simp [correct, mayStep_of_running h]

/-- Only the first Sync after HOLDOVER or LOST can be recorded (R44). -/
theorem offsetRecord_of_notAwaited {c : Chip} (h : c.time.awaitFirst = false) (offset : Int) :
    offsetRecord offset c = c := by
  simp [offsetRecord, h]

/-- A Sync of a LOCKED module only extends or restarts the run of intervals within 50 ns (Table 02-2). -/
theorem lockStep_of_locked {c : Chip} (h : c.time.tstate = .locked) (offset : Int) :
    lockStep offset c = { c with time := { c.time with
      lockRun := if -50 ≤ offset ∧ offset ≤ 50 then min 16 (c.time.lockRun + 1) else 0 } } := by
  simp [lockStep, h]

/-- In a running LOCKED module a Sync after the first one is removed by slewing and counts towards lock (R42, R44). -/
theorem syncOffset_of_locked {c : Chip} (hrun : running c = true) (hlock : c.time.tstate = .locked)
    (hfirst : c.time.awaitFirst = false) (offset : Int) (changed : Bool) :
    lockStep offset (correct offset changed (offsetRecord offset c)) = { c with time := { c.time with
      slew := -offset, lockRun := if -50 ≤ offset ∧ offset ≤ 50 then min 16 (c.time.lockRun + 1) else 0 } } := by
  have hslew : (slewCounter offset c).time.tstate = .locked := hlock
  rw [offsetRecord_of_notAwaited hfirst, correct_of_running hrun, lockStep_of_locked hslew]
  rfl

/-- The module once port `p` has been heard with the grandmaster and rank that a Sync carries. -/
def heardSync (p : Nat) (gm : Word) (rank : Nat) (c : Chip) : Chip :=
  { c with time := { c.time with ports := tmod {} c.time.ports p fun v => { v with heard := true, rank := rank, gm := gm } } }

/-- A Sync of the port that is selected, once time is taken: the port becomes the time's source and its offset is
corrected, as one that changes the source where another port was selected before (R39, R676). -/
theorem gptpSync_of_best {c : Chip} {p rank : Nat} {gm : Word} (offset : Int) (hpow : c.life.powered = true)
    (hstart : MState.selftest ≤ c.life.mstate) (hbest : bestPort (heardSync p gm rank c) = some p) :
    gptpSync p gm rank offset c =
      lockStep offset (correct offset (c.time.portSel.isSome && c.time.portSel ≠ some p) (offsetRecord offset
        { heardSync p gm rank c with time := { (heardSync p gm rank c).time with
          portSel := some p, gm := (portClock (heardSync p gm rank c) p).gm, offset := offset } })) := by
  have htaken : (!c.life.powered || decide (c.life.mstate < MState.selftest)) = false := by
    simp [hpow, Nat.not_lt.mpr hstart]
  unfold heardSync at hbest
  simp only [gptpSync, htaken, hbest, Bool.false_eq_true, if_false, ne_eq, not_true]
  rfl

/-- A Sync of the port that was and stays selected, in a running LOCKED module (R39, R42, Table 02-2). -/
theorem gptpSync_of_locked {c : Chip} {p rank : Nat} {gm : Word} (offset : Int) (hpow : c.life.powered = true)
    (hrun : running c = true) (hlock : c.time.tstate = .locked) (hsel : c.time.portSel = some p)
    (hfirst : c.time.awaitFirst = false) (hbest : bestPort (heardSync p gm rank c) = some p) :
    gptpSync p gm rank offset c = { heardSync p gm rank c with time := { (heardSync p gm rank c).time with
      gm := (portClock (heardSync p gm rank c) p).gm, offset := offset, slew := -offset,
      lockRun := if -50 ≤ offset ∧ offset ≤ 50 then min 16 (c.time.lockRun + 1) else 0 } } := by
  rw [gptpSync_of_best offset hpow (selftest_le_of_running hrun) hbest, syncOffset_of_locked]
  case hrun => exact hrun
  case hlock => exact hlock
  case hfirst => exact hfirst
  simp [heardSync, hsel]

/-! ### The other commands -/

/-- The stitch that the count names has not begun: its boundary is performed where the counter stands (R28, R47). -/
theorem stitchBoundary_of_due {c : Chip} (hpow : c.life.powered = true) (h : countNow c ≠ c.time.curCount) :
    stitchBoundary c = boundarySeq c := by
  simp [stitchBoundary, hpow, h]

/-- The stitch that the count names has begun: the counter first stands at the next boundary. -/
theorem stitchBoundary_of_performed {c : Chip} (hpow : c.life.powered = true) (h : countNow c = c.time.curCount) :
    stitchBoundary c = boundarySeq { c with time := { c.time with
      tsc := boundaryOf c.time c.time.tsc + c.time.periodUs * 1000 } } := by
  simp [stitchBoundary, hpow, h, now, periodNs]

theorem timeHoldover_of_locked {c : Chip} (h : c.time.tstate = .locked) :
    timeHoldover c = emit Src.timebase St.timeHoldover none [toTwos 64 c.time.offset, c.time.gm.toNat]
      (unheard { c with time := { c.time with
        tstate := .holdover, holdSince := c.time.tsc, awaitFirst := true, lockRun := 0, slew := 0 } }) := by
  simp [timeHoldover, h, unheard, now]

theorem timeLost_of_holdover {c : Chip} (h : c.time.tstate = .holdover) :
    timeLost c = emit Src.timebase St.timeLost none [c.time.tsc - c.time.holdSince, obj c 0x1100 7]
      { c with time := { c.time with tstate := .lost } } := by
  simp [timeLost, h, now]

theorem counterSave_of_running {c : Chip} (h : running c = true) : counterSave c = saveTime c := by
  simp [counterSave, h]

theorem gptpAnnounce_announce {c : Chip} (hpow : c.life.powered = true) (hstart : MState.selftest ≤ c.life.mstate)
    (p rank : Nat) (gm : Word) :
    gptpAnnounce p (.announce rank gm) c = { c with time := { c.time with
      ports := tmod {} c.time.ports p fun v => { v with rank := rank, gm := gm } } } := by
  simp [gptpAnnounce, hpow, Nat.not_lt.mpr hstart]

/-! ### The statement -/

theorem act_of_eq {s : State} {f : Chip → Chip} {c : Chip} (h : f s.m = c) : act s f = .next { s with m := c } := by
  rw [act, h]

/-- Settles O3: each command of time is `act` of its operation, whose effect the lemma of that operation gives. -/
theorem timeCommandsTakeEffect : Obligations.TimeCommandsTakeEffect := by
  intro s hpow
  refine ⟨fun hdue => ?boundaryDue, fun hdone => ?boundaryDone,
    ?sync, fun hlock => ?holdover, fun hhold => ?lost, fun hrun => ?save, fun hstart port rank gm => ?announce⟩
  case boundaryDue => exact act_of_eq (stitchBoundary_of_due hpow hdue)
  case boundaryDone => exact act_of_eq (stitchBoundary_of_performed hpow hdone)
  case sync =>
    intro port gm rank offset c1 hrun hlock hsel hfirst hbest
    have hsync := gptpSync_of_locked offset hpow hrun hlock hsel hfirst hbest
    change act s (fun c => settle (gptpSync port.toNat gm rank offset c)) = _
    exact act_of_eq (congrArg settle hsync)
  case holdover => exact act_of_eq (timeHoldover_of_locked hlock)
  case lost => exact act_of_eq (timeLost_of_holdover hhold)
  case save => exact act_of_eq (counterSave_of_running hrun)
  case announce => exact act_of_eq (gptpAnnounce_announce hpow hstart port.toNat rank gm)

end Sys2Proof.Machine

/-! PROOF. The records of a source are stamped in order (R37), and O53 from it. -/
namespace Sys2Proof.Machine

/-! ### A table whose values are mapped -/

/-- Mapping the values of a table commutes with an insertion, since only the keys decide the place. -/
theorem map_tins {α β : Type} (f : α → β) (t : Tbl α) (k : Nat) (v : α) :
    (tins t k v).map (fun e => (e.1, f e.2)) = tins (t.map fun e => (e.1, f e.2)) k (f v) := by
  induction t with
  | nil => rfl
  | cons e r ih =>
    simp only [tins, List.map_cons]
    split
    · rfl
    · split
      · rfl
      · rw [List.map_cons, ih]

/-! ### The stamp of a source's next record -/

/-- The stamp of a source's previous record, as `stampFor` reads it; `none` where it has written none. -/
def previousStamp (t : Tbl Nat) (src : Source) : Option Nat :=
  tget none (t.map fun e => (e.1, some e.2)) src.toNat

theorem previousStamp_tins (t : Tbl Nat) (src : Source) (at_ : Nat) :
    previousStamp (tins t src.toNat at_) src = some at_ := by
  rw [previousStamp, map_tins some, tget_tins, if_pos rfl]

/-- After a previous stamp the next one is later; within the same nanosecond it is the next value (R37). -/
theorem stampFor_of_previous {c : Chip} {src : Source} {l : Nat} (h : previousStamp c.flt.lastStamp src = some l) :
    l < stampFor c src ∧ (now c = l → stampFor c src = l + 1) := by
  unfold previousStamp at h
  simp only [stampFor, h]
  split <;> omega

/-! ### A record that R566 does not suppress -/

/-- R566 does not suppress a record of classes 5 and 7, its own report, or one of a source's first 64 of a stitch. -/
def notSuppressed (src : Source) (st : Status) (c : Chip) : Prop :=
  (classByte st = 5 ∨ classByte st = 7 ∨ st = St.fltSuppressReport) ∨ tget 0 c.flt.written src.toNat < 64

/-- A record that is not suppressed enters the collector under the source's next stamp, which becomes its previous one. -/
theorem emitRaw_of_notSuppressed {src : Source} {st : Status} {c : Chip} (h : notSuppressed src st c)
    (part : Option Nat) (detail : List Nat) :
    (emitRaw src st part detail c).flt.inflight = c.flt.inflight ++ [mkRec c src st part detail (stampFor c src)] ∧
      (emitRaw src st part detail c).flt.lastStamp = tins c.flt.lastStamp src.toNat (stampFor c src) := by
  have hgate : (!(classByte st == 5 || classByte st == 7 || st == St.fltSuppressReport) &&
      decide (64 ≤ tget 0 c.flt.written src.toNat)) = false := by
    obtain (h5 | h7 | hreport) | hfew := h
    · simp [h5]
    · simp [h7]
    · simp [hreport]
    · simp [hfew]
  simp only [emitRaw, hgate, Bool.false_eq_true, if_false]
  split <;> simp only [bump_flt, and_self]

/-! ### The statement -/

/-- Settles O53: the record's stamp is the one that `stampFor` gives after the previous stamp, and it is itself the previous
stamp of whatever state the source writes from next. -/
theorem recordsOfASourceAreStampedInOrder : Obligations.RecordsOfASourceAreStampedInOrder := by
  intro src st part detail c hwritten
  obtain ⟨hinflight, hstamp⟩ := emitRaw_of_notSuppressed (src := src) (c := c) hwritten part detail
  refine ⟨mkRec c src st part detail (stampFor c src), hinflight, rfl, rfl, ?after, ?next⟩
  case after =>
    intro l hl
    obtain ⟨hlater, hsame⟩ := stampFor_of_previous hl
    exact ⟨hlater, fun hnow => hnow ▸ hsame hnow.symm⟩
  case next =>
    intro c' st' part' detail' hkept
    have hprevious : previousStamp c'.flt.lastStamp src = some (stampFor c src) := by
      rw [hkept, hstamp, previousStamp_tins]
    exact stampFor_of_previous hprevious

end Sys2Proof.Machine

/-! PROOF. The step of an idle module: one nanosecond of the timebase (R33), and O2 from it. -/
namespace Sys2Proof.Machine

theorem step_of_pending_nil {s : State} (h : s.pending = []) : step s = .next { s with m := tick s.m } := by
  simp only [step, h]

theorem tick_of_unpowered {c : Chip} (h : c.life.powered = false) : tick c = c := by
  simp [tick, h]

theorem tickTime_of_slew_zero {t : Time} (h : t.slew = 0) :
    tickTime t = { t with tsc := (t.tsc + 1) % 2 ^ 64, slewPhase := 0 } := by
  simp only [tickTime, h, if_true]

/-- The module with its timebase one nanosecond on, where nothing is slewed (R33). -/
def oneNsLater (c : Chip) : Chip :=
  { c with time := { c.time with tsc := (c.time.tsc + 1) % 2 ^ 64, slewPhase := 0 } }

/-- With no slew a powered module's tick is one nanosecond, and MATE_HB where it passes a multiple of 500 ns (R536). -/
theorem tick_of_slew_zero {c : Chip} (hpow : c.life.powered = true) (hslew : c.time.slew = 0) :
    tick c = if ((c.time.tsc + 1) % 2 ^ 64) / 500 = c.time.tsc / 500 then oneNsLater c else sendHb (oneNsLater c) := by
  simp only [tick, hpow, Bool.not_true, Bool.false_eq_true, if_false, tickTime_of_slew_zero hslew, oneNsLater]

/-- Settles O2: on an empty queue the step is a tick. -/
theorem idleStepCountsOneNanosecond : Obligations.IdleStepCountsOneNanosecond := by
  intro s hidle
  rw [step_of_pending_nil hidle]
  refine ⟨fun hoff => ?unpowered, fun hpow hslew => ?powered⟩
  case unpowered => rw [tick_of_unpowered hoff]
  case powered =>
    rw [tick_of_slew_zero hpow hslew]
    refine ⟨fun hwithin => ?within, fun hpassed => ?passed⟩
    case within => rw [if_pos hwithin, oneNsLater]
    case passed => rw [if_neg hpassed, oneNsLater]

end Sys2Proof.Machine

/-! PROOF. The doorbells of time and of the sessions (02, 03), and O9 from the dictionary's rules of a one-object write. -/
namespace Sys2Proof.Machine

/-! ### The objects' rows of the tables (02, 03) -/

theorem objAt_holdoverMaxS : objAt 0x1100 7 = some ⟨7, 7, 0x03, 2, 1, 1, 0xF5, 0x3c, 1, 3600⟩ := rfl
theorem objAt_pendArm : objAt 0x1100 16 = some ⟨16, 16, 0x02, 1, 6, 2, 0xF5, 0, 1, 1⟩ := rfl
theorem objAt_sessionClose : objAt 0x1200 17 = some ⟨17, 17, 0x02, 1, 6, 2, 0xF1, 0, 0, 15⟩ := rfl

/-! ### The writes -/

/-- HOLDOVER_MAX_S is a stored object: its write counts as one stored write of the second (R81, R710). -/
theorem serveOne_holdoverMaxS {who : Requester} {h : ReqHdr} {v : BitVec 16} {c c1 : Chip}
    (ha : accepted who (oneWrite h 0x1100 7 2 v.toNat) c c1) (hp : writePasses who 0x1100 7 0 v.toNat none c1)
    (hroom : (recentWrites c1).length + 1 ≤ 8) :
    serveOne who (oneWrite h 0x1100 7 2 v.toNat) noEnv c = answered who (oneWrite h 0x1100 7 2 v.toNat) 0x1100
      [(7, v.toNat)] (setObj 0x1100 7 0 v.toNat (stamped 1 c1)) :=
  serve_stored (by decide) (by decide) rfl objAt_holdoverMaxS rfl (by decide) rfl v.isLt ha hp hroom rfl rfl

/-- PEND_ARM is a doorbell, which arms the pending period (R51). -/
theorem serveOne_pendArm {who : Requester} {h : ReqHdr} {v : BitVec 8} {c c1 : Chip}
    (ha : accepted who (oneWrite h 0x1100 16 1 v.toNat) c c1) (hp : writePasses who 0x1100 16 0 v.toNat none c1) :
    serveOne who (oneWrite h 0x1100 16 1 v.toNat) noEnv c = answered who (oneWrite h 0x1100 16 1 v.toNat) 0x1100
      [(16, v.toNat)] { stamped 0 c1 with time := { c1.time with pendArmed := true } } :=
  serve_doorbell (by decide) (by decide) rfl objAt_pendArm rfl rfl (by decide) v.isLt ha hp

/-- SESSION_CLOSE is a doorbell, which lists the session for the time after the response (R88). -/
theorem serveOne_sessionClose {who : Requester} {h : ReqHdr} {v : BitVec 8} {c c1 : Chip}
    (ha : accepted who (oneWrite h 0x1200 17 1 v.toNat) c c1) (hp : writePasses who 0x1200 17 0 v.toNat none c1) :
    serveOne who (oneWrite h 0x1200 17 1 v.toNat) noEnv c = answered who (oneWrite h 0x1200 17 1 v.toNat) 0x1200
      [(17, v.toNat)] { stamped 0 c1 with fdp := { c1.fdp with closing := c1.fdp.closing ++ [v.toNat] } } :=
  serve_doorbell (by decide) (by decide) rfl objAt_sessionClose rfl rfl (by decide) v.isLt ha hp

/-- Settles O9: each row is the write of its object, which the dictionary's rule for a stored object or a doorbell gives. -/
theorem timeAndSessionDoorbellsAct : Obligations.TimeAndSessionDoorbellsAct := by
  refine fun s => ⟨?holdoverMaxS, ?pendArm, ?sessionClose⟩
  case holdoverMaxS =>
    rintro who h v env c1 ha hp hroom rfl
    exact act_of_eq (serveOne_holdoverMaxS ha hp hroom)
  case pendArm => exact fun who h v c1 ha hp => act_of_eq (serveOne_pendArm ha hp)
  case sessionClose => exact fun who h v c1 ha hp => act_of_eq (serveOne_sessionClose ha hp)

end Sys2Proof.Machine

/-! PROOF. The events of start-up (R676 to R681): each operation's effect where its conditions hold, and O5 from them. -/
namespace Sys2Proof.Machine

/-! ### Phases 1 to 4 -/

/-- The rails have ramped in OFF: BOOT is entered, and the trip of the hot-swap stage that went before is recorded (R698). -/
theorem railsRamped_of_ramping {c : Chip} (hoff : c.life.mstate = MState.off) (hramp : c.board.ramping = true)
    {slot : Nat} {tie : Bool} {d : Chip}
    (hd : d = powerOnBoot slot tie (enterBoot { c with board := { c.board with ramping := false } })) :
    railsRamped slot tie c = if d.board.tripped then
      emit (Src.cobbler 0) St.brdHotswapTrip none [] { d with board := { d.board with tripped := false } } else d := by
  subst hd
  rw [railsRamped, if_pos (by simp [hoff, hramp])]

theorem railsRamped_of_boot {c : Chip} (hboot : c.life.mstate = MState.boot) (hphase : c.life.phase2 = false)
    (slot : Nat) (tie : Bool) : railsRamped slot tie c = powerOnBoot slot tie c := by
  have hnotOff : c.life.mstate ≠ MState.off := by rw [hboot]; decide
  rw [railsRamped, if_neg (by simp [hnotOff]), if_pos (by simp [hboot, hphase])]

/-- The module in SELFTEST, with the image of bank `b` measured and started and the key-wrap key drawn (R621, R628, R676). -/
def startedFrom (b : Nat) (c : Chip) : Chip :=
  nextPhase 4 (enterState MState.selftest (readConfig (drawKwk (measure { c with fw := { c.fw with runBank := b, fwState := 1 } }))))

/-- L0_START after phase 2, where a bank passes R642. -/
theorem l0Start_of_bankChoice {c c1 : Chip} {b : Nat} (hboot : c.life.mstate = MState.boot) (hphase : c.life.phase2 = true)
    (hbank : bankChoice (nextPhase 3 c) = (some b, c1)) :
    l0Start c = if hookPresent (startedFrom b c1) Hk.init then callHook { hook := Hk.init } (startedFrom b c1)
      else { startedFrom b c1 with life := { (startedFrom b c1).life with initDone := true } } := by
  have hstays : ¬ c.life.mstate ≠ MState.boot := fun hleft => hleft hboot
  rw [l0Start, if_neg hstays, if_pos hphase]
  simp only [hstays, if_false, hbank]
  rfl

/-- BIST_DONE with no failed unit and enough groves (R679). -/
theorem bistDone_of_noneFailed {c : Chip} {pIdle : Nat} (hself : c.life.mstate = MState.selftest)
    (hgroves : fatalResult { c with pwr := { c.pwr with pIdle := pIdle } } [] = none) :
    bistDone [] pIdle c = recap (nextPhase 5 (enterState MState.scrub
      { c with pwr := { c.pwr with pIdle := pIdle }, life := { c.life with bistDone := true } })) := by
  simp only [bistDone, hself, ne_eq, not_true, if_false, List.foldl_nil, hgroves]

/-! ### Phases 5 to 9 -/

theorem dramTrained_of_scrub {c : Chip} (hscrub : c.life.mstate = MState.scrub) (hphase : c.life.phase = 5) :
    dramTrained c = nextPhase 6 { c with mem := { c.mem with usReady := 0xFFFF, usBegan := c.time.tsc } } := by
  simp only [dramTrained, hscrub, hphase, decide_true, Bool.and_self, if_true, now]

theorem hbmScrubDone_of_scrub {c : Chip} (hscrub : c.life.mstate = MState.scrub) (hphase : c.life.phase = 6) :
    hbmScrubDone c =
      let d := memClear 0 usBase c
      forSpan 0 16 (nextPhase 7 { d with mem := { d.mem with hbmReady := 0xFF }, pool := { d.pool with keyDrawn := true } })
        fun c p => if portEnabled c p && (port c p).state = Pst.down then
          modPort p (fun v => { v with state := Pst.training }) c else c := by
  simp only [hbmScrubDone, hscrub, hphase, decide_true, Bool.and_self, if_true]

theorem linkTrainingDone_of_scrub {c : Chip} (hscrub : c.life.mstate = MState.scrub) (hphase : c.life.phase = 7) :
    linkTrainingDone c = nextPhase 8 (forSpan 0 16 c fun c p =>
      if portEnabled c p && (port c p).state ≠ Pst.up then
        emit (Src.link p) St.lnDown none [(port c p).peer] c else c) := by
  simp only [linkTrainingDone, hscrub, hphase, decide_true, Bool.and_self, if_true]

/-- READY_MS counts from `p1`, the start of phase 1, or of phase 2 after a module reset (R677). -/
theorem tryReady_of_ready {c : Chip} (hready : readyBut c = true) (htime : timeOk c = true) {p1 : Nat}
    (hp1 : p1 = if tget 0 c.life.phStart 1 = 0 then tget 0 c.life.phStart 2 else tget 0 c.life.phStart 1) :
    tryReady c = enterState MState.ready
      (setObj 0x4400 7 0 (min (((c.time.tsc : Int) - p1 - c.life.stepped) / 1000000).toNat 0xFFFFFFFF)
        { c with life := { c.life with phase := 0, phEnd := tset 0 c.life.phEnd c.life.phase c.time.tsc } }) := by
  simp only [tryReady, hready, htime, Bool.and_self, if_true, hp1, now]

theorem timeNotLocked_of_phase9 {c : Chip} (hready : readyBut c = true) (htime : timeOk c = false)
    (hphase : c.life.phase = 9) :
    timeNotLocked c = emit Src.timebase St.timeNotLocked none [tstateCode c.time.tstate] c := by
  simp [timeNotLocked, hready, htime, hphase]

/-! ### Module resets -/

/-- A requested reset runs where neither a bundle under way nor, in FENCED, FENCE_N holds it (R681). -/
theorem moduleReset_of_notHeld {c : Chip} {t : Nat} (hat : c.life.resetAt = some t) (hoff : c.life.mstate ≠ MState.off)
    (hbundle : c.flt.writing = none) (hfence : c.life.mstate ≠ MState.fenced ∨ c.pair.fenceLow = false) :
    moduleReset c = runReset c.life.resetKind c := by
  have hnotHeld : (decide (c.life.mstate = MState.fenced) && c.pair.fenceLow) = false := by
    obtain hstate | hlow := hfence
    · simp [hstate]
    · simp [hlow]
  simp [moduleReset, hat, hoff, hbundle, hnotHeld]

/-! ### The statement -/

/-- A command whose operation is followed by what follows from it at once. -/
theorem act_settle_of_eq {s : State} {f : Chip → Chip} {c : Chip} (h : f s.m = c) :
    act s (fun c => settle (f c)) = .next { s with m := settle c } :=
  act_of_eq (congrArg settle h)

/-- Settles O5: each event is `act` of its operation, whose effect in its phase the lemma of that operation gives. -/
theorem startUpPhasesTakeEffect : Obligations.StartUpPhasesTakeEffect := by
  refine fun s => ⟨fun slot tie => ⟨?rampEnds, ?bootRuns⟩, ?l0Start, ?bistDone, ?dramTrained, ?hbmScrubbed, ?linksTrained,
    ?ready, ?notLocked, ?reset⟩
  case rampEnds => exact fun hoff hramp d hd => act_settle_of_eq (railsRamped_of_ramping hoff hramp hd)
  case bootRuns => exact fun hboot hphase => act_settle_of_eq (railsRamped_of_boot hboot hphase slot.toNat tie)
  case l0Start =>
    rintro hboot hphase b c hbank _ rfl
    have hstart := l0Start_of_bankChoice hboot hphase hbank
    refine ⟨fun hhook => ?hook, fun hhook => ?noHook⟩
    case hook => exact act_settle_of_eq (hstart.trans (if_pos hhook))
    case noHook => exact act_settle_of_eq (hstart.trans (if_neg (Bool.eq_false_iff.mp hhook)))
  case bistDone => exact fun _ pIdle hself hgroves => act_of_eq (bistDone_of_noneFailed hself hgroves)
  case dramTrained => exact fun hscrub hphase => act_of_eq (dramTrained_of_scrub hscrub hphase)
  case hbmScrubbed => exact fun hscrub hphase => act_of_eq (hbmScrubDone_of_scrub hscrub hphase)
  case linksTrained => exact fun hscrub hphase => act_of_eq (linkTrainingDone_of_scrub hscrub hphase)
  case ready => exact fun p1 hready htime hp1 => act_of_eq (tryReady_of_ready hready htime hp1)
  case notLocked => exact fun hready htime hphase => act_of_eq (timeNotLocked_of_phase9 hready htime hphase)
  case reset => exact fun t hat hoff hbundle hfence => act_of_eq (moduleReset_of_notHeld hat hoff hbundle hfence)

end Sys2Proof.Machine

/-! PROOF. What the dictionary engine answers to a request that is its requester's next (R97, R98, R103, R104): from the history, with
a stale incarnation's refusal, or by its service; O55 and O54 from it. -/
namespace Sys2Proof.Machine

/-- A request is its requester's next and passes the engine's header check (R97, R103); `c1` is the module as the engine
begins with it. -/
def begins (who : Requester) (m : DMsg) (c c1 : Chip) : Prop :=
  dictServed c = true ∧ beginReq who m c = some c1 ∧ countsOk m.svc m.req.count.toNat m.req.payload.length = true

/-- The answer that a requester's history holds under the request's REQ_ID (R104). -/
def keptAnswer (who : Requester) (m : DMsg) (c : Chip) : Option Kept :=
  (keptOf c who).find? fun k => k.msg.req.reqId == m.req.reqId

/-- The conditions of R98 under which a request is served: it is IDENTIFY, or it names the module's incarnation. -/
def currentOrIdentify (m : DMsg) (c : Chip) : Prop := m.svc = 8 ∨ m.req.inc = c.life.incarnation

/-! ### The four answers -/

section
variable {who : Requester} {m : DMsg} {c c1 : Chip} {k : Kept}

theorem serve_of_sameKept (hb : begins who m c c1) (hkept : keptAnswer who m c1 = some k) (hsame : sameReq k.msg m = true)
    (sd : Side) : serve who m sd c = sendResp who m k.resp c1 := by
  obtain ⟨hserved, hbegin, hcounts⟩ := hb
  unfold keptAnswer at hkept
  simp [serve, hserved, hbegin, hcounts, hkept, hsame, respond]

theorem serve_of_reusedId (hb : begins who m c c1) (hkept : keptAnswer who m c1 = some k) (hdiffers : sameReq k.msg m = false)
    (sd : Side) : serve who m sd c = sendResp who m ⟨St.fdpIdReused, false, []⟩ c1 := by
  obtain ⟨hserved, hbegin, hcounts⟩ := hb
  unfold keptAnswer at hkept
  simp [serve, hserved, hbegin, hcounts, hkept, hdiffers, respond]

theorem serve_of_stale (hb : begins who m c c1) (hnew : keptAnswer who m c1 = none) (hstale : ¬ currentOrIdentify m c1)
    (sd : Side) : serve who m sd c = respond true who m ⟨St.fdpStaleIncarnation, false, []⟩
      (emit (dictSource c1) St.fdpStaleIncarnation none (staleDetail who m) c1) := by
  obtain ⟨hserved, hbegin, hcounts⟩ := hb
  obtain ⟨hservice, hinc⟩ := not_or.mp hstale
  unfold keptAnswer at hnew
  simp [serve, hserved, hbegin, hcounts, hnew, hservice, hinc]

theorem serve_of_current {sd : Side} {r : Resp} {keep : Bool} {parts : List (Nat × Nat)} {c2 : Chip} (hb : begins who m c c1)
    (hnew : keptAnswer who m c1 = none) (hcurrent : currentOrIdentify m c1) (hserv : service who m sd c1 = (r, keep, parts, c2))
    (hanswer : defersAnswer m.req.index.toNat parts = false) :
    serve who m sd c = afterResponse parts m.req.index.toNat (respond keep who m r (settle c2)) := by
  obtain ⟨hserved, hbegin, hcounts⟩ := hb
  unfold keptAnswer at hnew
  have hinc : ¬ m.svc = 8 → m.req.inc = c1.life.incarnation := Or.resolve_left hcurrent
  simpa [serve, hserved, hbegin, hcounts, hnew, hserv, hanswer] using fun hservice hne => absurd (hinc hservice) hne

end

/-! ### The statements -/

/-- Settles O55: an answer that the history holds decides a request before its incarnation is looked at (log 12). -/
theorem keptRequestsAreNotActedOnAgain : Obligations.KeptRequestsAreNotActedOnAgain := by
  intro who m sd c c1 k hserved hbegin hcounts hkept
  have hb : begins who m c c1 := ⟨hserved, hbegin, hcounts⟩
  exact ⟨fun hsame => serve_of_sameKept hb hkept hsame sd, fun hdiffers => serve_of_reusedId hb hkept hdiffers sd⟩

/-- Settles O54: a request that no kept answer decides (log 12) is refused as stale, or served. -/
theorem staleRequestsAreNotActedOn : Obligations.StaleRequestsAreNotActedOn := by
  intro who m sd c c1 hserved hbegin hcounts hnew
  have hb : begins who m c c1 := ⟨hserved, hbegin, hcounts⟩
  refine ⟨fun hservice hinc => ?stale, fun hcurrent r keep parts c2 hserv hanswer => ?served⟩
  case stale => exact serve_of_stale hb hnew (not_or.mpr ⟨hservice, hinc⟩) sd
  case served => exact serve_of_current hb hnew hcurrent hserv hanswer

end Sys2Proof.Machine

/-! PROOF. The services that read: READ, READ_LIST and WINDOW_READ (R77, R100, R109), RECORD_FETCH, IDENTIFY and DESCRIBE (R98,
R102, R711); O6 and O8 from them. -/
namespace Sys2Proof.Machine

/-! ### A request that writes nothing -/

@[simp] theorem defersAnswer_nil (idx : Nat) : defersAnswer idx [] = false := by
  simp [defersAnswer]

/-- A request of which no part takes effect is answered at once, and its answer is kept. -/
theorem serve_of_noParts {who : Requester} {m : DMsg} {sd : Side} {c c1 c2 : Chip} {r : Resp} (ha : accepted who m c c1)
    (hserv : service who m sd c1 = (r, true, [], c2)) :
    serve who m sd c = afterResponse [] m.req.index.toNat (respond true who m r (settle c2)) :=
  serve_accepted ha hserv (defersAnswer_nil _)

/-! ### Reads -/

section
variable {who : Requester} {r : FdpReq} {c c2 : Chip} {item : Nat} {b : Bytes}

/-- A read whose parts pass the checks of R100 answers the values that `readSpan` gives. -/
theorem serveRead_of_passes (hitem : item = if isWindow r.index.toNat then selOf c who r.index.toNat 1 else 0)
    (hspan : spanCheck r.index.toNat (span r.sub.toNat r.count.toNat) = St.ok) (hpayload : r.payload = [])
    (hsize : spanSize r.index.toNat (span r.sub.toNat r.count.toNat) ≤ 1176)
    (hchecks : readFail c who r.index.toNat item (span r.sub.toNat r.count.toNat) = St.ok)
    (hvalues : readSpan who r.index.toNat item (span r.sub.toNat r.count.toNat) c = (b, c2)) :
    serveRead who r c = (⟨St.ok, false, b⟩, true, c2) := by
  subst hitem
  simp [serveRead, hspan, hpayload, Nat.not_lt.mpr hsize, hchecks, hvalues]

/-- A window read whose selector and parts pass answers the values of the item that it names (R109). -/
theorem serveWindowRead_of_passes (hwindow : isWindow r.index.toNat = true)
    (hspan : spanCheck r.index.toNat (span r.sub.toNat r.count.toNat) = St.ok)
    (hpayload : r.payload.length = ((objAt r.index.toNat 1).map (·.size)).getD 0)
    (hsize : spanSize r.index.toNat (span r.sub.toNat r.count.toNat) ≤ 1176)
    (hselector : selectorCheck c who r.index.toNat (leNat r.payload) = St.ok)
    (hchecks : readFail c who r.index.toNat (leNat r.payload) (span r.sub.toNat r.count.toNat) = St.ok)
    (hvalues : readSpan who r.index.toNat (leNat r.payload) (span r.sub.toNat r.count.toNat)
      (setSel who r.index.toNat 1 (leNat r.payload) c) = (b, c2)) :
    serveWindowRead who r c = (⟨St.ok, false, b⟩, true, c2) := by
  simp [serveWindowRead, hwindow, hspan, hpayload, Nat.not_lt.mpr hsize, hselector, hchecks, hvalues]

end

/-- Settles O6: the services of the three requests are `serveRead`, for one object and for several, and `serveWindowRead`. -/
theorem dictionaryReadsAnswerValues : Obligations.DictionaryReadsAnswerValues := by
  intro s
  refine ⟨?read, ?readList, ?windowRead⟩
  case read | readList =>
    intro who r c1 item b c2 ha hitem hspan hpayload hsize hchecks hvalues
    have hserve := serveRead_of_passes hitem hspan hpayload hsize hchecks hvalues
    exact act_of_eq (serve_of_noParts ha (by simp only [service, hserve]))
  case windowRead =>
    intro who r c1 b c2 ha hwindow hspan hpayload hsize hselector hchecks hvalues
    have hserve := serveWindowRead_of_passes hwindow hspan hpayload hsize hselector hchecks hvalues
    exact act_of_eq (serve_of_noParts ha (by simp only [service, hserve]))

/-! ### Records, identification and descriptions -/

/-- The records of the log strictly after the key of a RECORD_FETCH: time, module and source (R65, R102). -/
def recordsAfter (key : Bytes) (c : Chip) : List Rec :=
  c.flt.log.filter fun x => decide (dfield key 0 8 < x.time) || (x.time == dfield key 0 8 &&
    (decide (dfield key 8 2 < x.module) || (x.module == dfield key 8 2 && decide (dfield key 10 2 < x.source.toNat))))

/-- RECORD_FETCH with a whole key answers at most 18 records after it, as many as its last byte asks for (R102). -/
theorem serveFetch_of_key {r : FdpReq} (hkey : r.payload.length = 13) (c : Chip) :
    serveFetch r c =
      (⟨St.ok, decide (min 18 (dfield r.payload 12 1) < (recordsAfter r.payload c).length),
        (((recordsAfter r.payload c).take (min 18 (dfield r.payload 12 1))).map recBytes).flatten⟩, true, c) := by
  simp only [serveFetch, hkey, ne_eq, not_true_eq_false, if_false]
  rfl

theorem service_identify {r : FdpReq} (hpayload : r.payload = []) (who : Requester) (sd : Side) (c : Chip) :
    service who ⟨8, r⟩ sd c = (⟨St.ok, false, identifyBytes c⟩, true, [], c) := by
  simp [service, hpayload]

/-- What DESCRIBE answers of an object (Table 03-8), its default `d` among it. -/
def describeBytes (o : ObjDef) (d : Nat) : Bytes :=
  leBytes 1 o.ty ++ leBytes 2 o.size ++ leBytes 1 o.cls ++ leBytes 1 o.pers ++ leBytes 1 (shownRights o) ++ leBytes o.size d

/-- DESCRIBE answers a requester whose role has a right on the object, outside what is closed to it (R711). -/
theorem serveDescribe_of_right {who : Requester} {r : FdpReq} {c : Chip} {o : ObjDef}
    (hobj : objAt r.index.toNat r.sub.toNat = some o) (hpolicy : who ≠ .policy ∨ r.index.toNat < 0xF000)
    (hopen : lockedRange c r.index.toNat = false) (hright : roleBits o (roleOf c who).1 ≠ 0) (hpayload : r.payload = []) :
    serveDescribe who r c = (⟨St.ok, false, describeBytes o
      (if o.pers = 0 then dictVal c who r.index.toNat r.sub.toNat 0 else o.dflt)⟩, true, c) := by
  have hallowed : (who == .policy && decide (0xF000 ≤ r.index.toNat)) = false := by
    obtain hother | hlow := hpolicy
    · simp [hother]
    · simp [Nat.not_le.mpr hlow]
  simp [serveDescribe, hobj, hallowed, hopen, hright, hpayload, describeBytes]

/-- Settles O8: each service's answer, given to the request that reached it; IDENTIFY reaches it under any incarnation. -/
theorem fetchIdentifyDescribeAnswer : Obligations.FetchIdentifyDescribeAnswer := by
  refine fun s => ⟨?recordFetch, ?identify, ?describe⟩
  case recordFetch =>
    rintro who r c1 n after ha hkey rfl hafter
    obtain rfl : after = recordsAfter r.payload c1 := hafter
    exact act_of_eq (serve_of_noParts ha (by simp only [service, serveFetch_of_key hkey]))
  case identify =>
    intro who r c1 hserved hbegin hpayload hnew
    have hb : begins who ⟨8, r⟩ s.m c1 := ⟨hserved, hbegin, by simp [countsOk, hpayload]⟩
    exact act_of_eq (serve_of_current hb hnew (.inl rfl) (service_identify hpayload who {} c1) (defersAnswer_nil _))
  case describe =>
    rintro who r c1 o d ha hobj hpolicy hopen hright hpayload rfl
    have hserve := serveDescribe_of_right hobj hpolicy hopen hright hpayload
    exact act_of_eq (serve_of_noParts ha (by simp only [service, hserve, describeBytes]))

end Sys2Proof.Machine

/-! PROOF. The services that write (R72, R81, R100, R109), and O7 from them: with every check passed, each part of the request
takes effect in ascending subindex order. -/
namespace Sys2Proof.Machine

/-- What a general write carries beside its value does not change the environment it was given. -/
theorem sideOf_env (env : WriteEnv) (r : FdpReq) (c : Chip) : (sideOf env r c).1.env = env := by
  unfold sideOf
  dsimp only
  split
  · rfl
  · split <;> rfl

theorem env_of_sideOf {env : WriteEnv} {r : FdpReq} {c c0 : Chip} {sd : Side} (hside : sideOf env r c = (sd, c0)) :
    sd.env = env := by
  rw [← sideOf_env env r c, hside]

section
variable {who : Requester} {r : FdpReq} {sd : Side} {c c1 : Chip} {idx item : Nat} {parts : List (Nat × Nat)}

/-- The conditions of R72, R81 and R100 under which a write of several parts takes effect whole. -/
structure WritePermitted (who : Requester) (sd : Side) (idx item : Nat) (parts : List (Nat × Nat)) (c : Chip) : Prop where
  names : item = itemOf c who idx parts
  checks : firstFail c (trial who idx item parts c) who idx item sd.plain parts = St.ok
  room : (recentWrites c).length + storedCount idx parts ≤ 8
  stores : sd.env.storeFail = false
  wins : parts.any (fun e => partLost sd idx e.1) = false

/-- A permitted write enters its stored parts among the writes of the second and applies every part, in their order. -/
theorem writeParts_of_permitted (h : WritePermitted who sd idx item parts c) (svc : Nat) :
    writeParts who svc r sd idx parts c =
      (St.ok, true, parts.foldl (applyPart who svc r sd idx item) (stamped (storedCount idx parts) c)) := by
  obtain ⟨rfl, hchecks, hroom, hstores, hwins⟩ := h
  simp only [writeParts, hchecks, Nat.not_lt.mpr hroom, hstores, hwins, ne_eq, not_true_eq_false, if_false, decide_false,
    Bool.and_false, Bool.false_eq_true]
  rfl

/-- WRITE and WRITE_LIST of a payload that fits the span. -/
theorem serveWrite_of_permitted (hspan : spanCheck r.index.toNat (span r.sub.toNat r.count.toNat) = St.ok)
    (hcut : cutValues r.index.toNat (span r.sub.toNat r.count.toNat) r.payload = some parts)
    (h : WritePermitted who sd r.index.toNat item parts c) (svc : Nat) :
    serveWrite who svc r sd c = (⟨St.ok, false, []⟩, true, parts,
      parts.foldl (applyPart who svc r sd r.index.toNat item) (stamped (storedCount r.index.toNat parts) c)) := by
  simp [serveWrite, hspan, hcut, writeParts_of_permitted h]

/-- WINDOW_WRITE of a payload that fits the selector and the span (R109). -/
theorem serveWindowWrite_of_permitted (hwindow : isWindow r.index.toNat = true)
    (hspan : spanCheck r.index.toNat (span r.sub.toNat r.count.toNat) = St.ok)
    (hcut : cutValues r.index.toNat (1 :: span r.sub.toNat r.count.toNat) r.payload = some parts)
    (h : WritePermitted who sd r.index.toNat item parts c) :
    serveWindowWrite who r sd c = (⟨St.ok, false, []⟩, true, parts,
      parts.foldl (applyPart who 6 r sd r.index.toNat item) (stamped (storedCount r.index.toNat parts) c)) := by
  simp [serveWindowWrite, hwindow, hspan, hcut, writeParts_of_permitted h]

/-- A general write whose service applies its parts is answered OK, unless it leaves a key blob's answer to wait (R625). -/
theorem serveGeneral_of_applied {svc : Nat} {env : WriteEnv} {c0 c2 : Chip} (hside : sideOf env r c = (sd, c0))
    (ha : accepted who ⟨svc, r⟩ c0 c1) (hserv : service who ⟨svc, r⟩ sd c1 = (⟨St.ok, false, []⟩, true, parts, c2))
    (hanswer : defersAnswer r.index.toNat parts = false) :
    serveGeneral who svc r env c = answered who ⟨svc, r⟩ r.index.toNat parts c2 := by
  simp only [serveGeneral, hside]
  exact serve_accepted ha hserv hanswer

end

/-- Settles O7: each of the three services applies its parts as a permitted write. -/
theorem dictionaryWritesApplyEveryPart : Obligations.DictionaryWritesApplyEveryPart := by
  refine fun s => ⟨?write, ?writeList, ?windowWrite⟩
  case write | writeList =>
    intro who r env sd c0 c1 parts item hside ha hspan hcut hitem hchecks hroom hstores hwins hanswer
    have hpermitted : WritePermitted who sd r.index.toNat item parts c1 :=
      ⟨hitem, hchecks, hroom, env_of_sideOf hside ▸ hstores, hwins⟩
    exact act_of_eq (serveGeneral_of_applied hside ha (serveWrite_of_permitted hspan hcut hpermitted _) hanswer)
  case windowWrite =>
    intro who r env sd c0 c1 parts item hside ha hwindow hspan hcut hitem hchecks hroom hstores hwins hanswer
    have hpermitted : WritePermitted who sd r.index.toNat item parts c1 :=
      ⟨hitem, hchecks, hroom, env_of_sideOf hside ▸ hstores, hwins⟩
    exact act_of_eq (serveGeneral_of_applied hside ha (serveWindowWrite_of_permitted hwindow hspan hcut hpermitted) hanswer)

end Sys2Proof.Machine

/-! PROOF. The rows that write one object (R100, R109): a doorbell, a doorbell of a window group, a stored object, each named by
what the tables say of it; O10 to O15 from them. -/
namespace Sys2Proof.Machine

/-! ### What the tables say of an object -/

/-- An object outside the window groups is a doorbell with a value of `n` bytes (Table 03-2, R106). -/
def plainDoorbell (idx sub n : Nat) : Bool :=
  decide (idx < 65536) && decide (sub < 256) && !isWindow idx &&
    (objAt idx sub).any fun o => o.size == n && o.cls == 6 && o.pers != 1

/-- An object outside the window groups holds a value of `n` bytes, of whose writes each is `k` stored writes (R81). -/
def plainHolder (idx sub n k : Nat) : Bool :=
  decide (idx < 65536) && decide (sub < 256) && !isWindow idx &&
    (objAt idx sub).any fun o => o.size == n && o.cls != 6 && (if o.pers = 1 then 1 else 0) == k

/-- An object of a window group whose selector has `sn` bytes is a doorbell with a value of `n` bytes (R106). -/
def windowDoorbell (idx sub sn n : Nat) : Bool :=
  decide (idx < 65536) && decide (sub < 256) && isWindow idx &&
    (objAt idx 1).any (fun o => o.size == sn && o.cls == 1 && o.pers != 1) &&
    (objAt idx sub).any fun o => o.size == n && o.cls == 6 && o.pers != 1

theorem objAt_keySel : objAt 0x5C43 1 = some ⟨1, 1, 0x02, 1, 1, 2, 0xFD, 0, 0, 15⟩ := rfl
theorem objAt_keyBlob : objAt 0x5C43 2 = some ⟨2, 2, 0x0A, 256, 6, 2, 0xFD, 0, 0, 0⟩ := rfl

/-! ### Bytes of a value -/

@[simp] theorem leNat_singleton (v : Byte) : leNat [v] = v.toNat := by
  simp [leNat]

theorem leBytes_leNat_of_length {bs : Bytes} {n : Nat} (h : bs.length = n) : leBytes n (leNat bs) = bs :=
  h ▸ leBytes_leNat bs

/-! ### The writes -/

section
variable {who : Requester} {h : ReqHdr} {idx sub n v k sn sel : Nat} {bs : Bytes} {sd : Side} {c c1 : Chip}

/-- The write of a doorbell outside the window groups acts, whatever it carries beside its value. -/
theorem serve_plainDoorbell (hrow : plainDoorbell idx sub n = true) (hv : v < 256 ^ n)
    (ha : accepted who (oneWrite h idx sub n v) c c1) (hp : writePasses who idx sub 0 v sd.plain c1) :
    serve who (oneWrite h idx sub n v) sd c = answered who (oneWrite h idx sub n v) idx [(sub, v)]
      (actPart who 2 (oneWrite h idx sub n v).req sd idx sub 0 v (stamped 0 c1)) := by
  simp only [plainDoorbell, Bool.and_eq_true, decide_eq_true_eq, Bool.not_eq_true', Option.any_eq_true, beq_iff_eq,
    bne_iff_ne] at hrow
  obtain ⟨⟨⟨hidx, hsub⟩, hwin⟩, o, hobj, ⟨hsize, hcls⟩, hpers⟩ := hrow
  exact serve_doorbell hidx hsub hwin hobj hsize hcls hpers hv ha hp

/-- The write of one object that holds a value, in the absence of hardware updates and store failures (R72, R81). -/
theorem serveOne_plainHolder (hrow : plainHolder idx sub n k = true) (hv : v < 256 ^ n)
    (ha : accepted who (oneWrite h idx sub n v) c c1) (hp : writePasses who idx sub 0 v none c1)
    (hroom : (recentWrites c1).length + k ≤ 8) :
    serveOne who (oneWrite h idx sub n v) noEnv c = answered who (oneWrite h idx sub n v) idx [(sub, v)]
      (storeEffect idx sub 0 v (storePart who idx sub 0 v (stamped k c1))) := by
  simp only [plainHolder, Bool.and_eq_true, decide_eq_true_eq, Bool.not_eq_true', Option.any_eq_true, beq_iff_eq,
    bne_iff_ne] at hrow
  obtain ⟨⟨⟨hidx, hsub⟩, hwin⟩, o, hobj, ⟨hsize, hcls⟩, hpers⟩ := hrow
  exact serve_stored hidx hsub hwin hobj hsize hcls hpers hv ha hp hroom rfl rfl

/-- A doorbell of a window group, for which no key blob's installation keeps the answer waiting (R625). -/
theorem serveOne_windowDoorbell (hrow : windowDoorbell idx sub sn bs.length = true) (hanswer : idx ≠ 0x5C43)
    (hsel : sel < 256 ^ sn) (ha : accepted who (windowWrite h idx sub sn sel bs) c c1)
    (hp : windowPasses who idx sub sel (leNat bs) none c1) :
    serveOne who (windowWrite h idx sub sn sel bs) noEnv c =
      answered who (windowWrite h idx sub sn sel bs) idx [(1, sel), (sub, leNat bs)]
        (actPart who 6 (windowWrite h idx sub sn sel bs).req { env := noEnv } idx sub sel (leNat bs)
          (setSel who idx 1 sel (stamped 0 c1))) := by
  simp only [windowDoorbell, Bool.and_eq_true, decide_eq_true_eq, Option.any_eq_true, beq_iff_eq, bne_iff_ne] at hrow
  obtain ⟨⟨⟨⟨hidx, hsub⟩, hwin⟩, o1, hobj1, ⟨hsize1, hcls1⟩, hpers1⟩, o, hobj, ⟨hsize, hcls⟩, hpers⟩ := hrow
  have hnow : defersAnswer idx [(1, sel), (sub, leNat bs)] = false := by simp [defersAnswer, hanswer]
  exact serve_windowDoorbell hidx hsub hwin hobj1 hsize1 hcls1 hpers1 hsel hobj hsize hcls hpers hnow ha hp

/-- A doorbell of a window group whose value is one byte. -/
theorem serveOne_windowByte {v : Byte} (hrow : windowDoorbell idx sub sn 1 = true) (hanswer : idx ≠ 0x5C43)
    (hsel : sel < 256 ^ sn) (ha : accepted who (windowWrite h idx sub sn sel [v]) c c1)
    (hp : windowPasses who idx sub sel v.toNat none c1) :
    serveOne who (windowWrite h idx sub sn sel [v]) noEnv c =
      answered who (windowWrite h idx sub sn sel [v]) idx [(1, sel), (sub, v.toNat)]
        (actPart who 6 (windowWrite h idx sub sn sel [v]).req { env := noEnv } idx sub sel v.toNat
          (setSel who idx 1 sel (stamped 0 c1))) := by
  rw [← leNat_singleton v] at hp ⊢
  exact serveOne_windowDoorbell hrow hanswer hsel ha hp

/-- A key blob goes to the security engine as it came, and its answer waits for the installation (R625). -/
theorem serve_keyBlob {blob : Bytes} {plain : Option Bytes} (hlen : blob.length = 256) (hsel : sel < 256 ^ 1)
    (ha : accepted who (windowWrite h 0x5C43 2 1 sel blob) c c1) (hp : windowPasses who 0x5C43 2 sel (leNat blob) plain c1) :
    serve who (windowWrite h 0x5C43 2 1 sel blob) { env := noEnv, plain := plain } c =
      settle (blobWrite who 6 (windowWrite h 0x5C43 2 1 sel blob).req sel blob plain
        (setSel who 0x5C43 1 sel (stamped 0 c1))).2 := by
  have hwrite := serve_windowDeferred (sd := { env := noEnv, plain := plain }) (by decide) (by decide) rfl objAt_keySel rfl rfl
    (by decide) hsel objAt_keyBlob hlen.symm rfl (by decide) rfl ha hp
  simpa only [actPart, leBytes_leNat_of_length hlen] using hwrite

end

/-! ### The statements -/

/-- Settles O10: each row is the write of its doorbell. -/
theorem queueAndBlazeDoorbellsAct : Obligations.QueueAndBlazeDoorbellsAct := by
  refine fun s => ⟨?qResetReq, ?bzSnapReq, ?bzRestoreReq, ?dumpReq⟩
  case bzSnapReq | bzRestoreReq | dumpReq =>
    exact fun who h v c1 ha hp => act_of_eq (serve_plainDoorbell rfl v.isLt ha hp)
  case qResetReq => exact fun who h q v c1 ha hp => act_of_eq (serveOne_windowByte rfl (by decide) q.isLt ha hp)

/-- Settles O11: each row is the write of its doorbell. -/
theorem servingAndLinkDoorbellsAct : Obligations.ServingAndLinkDoorbellsAct := by
  refine fun s => ⟨?refillArm, ?stageArm, ?sesOpen⟩
  case refillArm | stageArm =>
    exact fun who h v c1 ha hp => act_of_eq (serve_plainDoorbell rfl v.isLt ha hp)
  case sesOpen => exact fun who h peer v c1 ha hp => act_of_eq (serveOne_windowByte rfl (by decide) peer.isLt ha hp)

/-- Settles O12: PAIR_ARM and PAIR_SWAP are doorbells, PAIR_MODE holds its value. -/
theorem pairDoorbellsAct : Obligations.PairDoorbellsAct := by
  refine fun s => ⟨?pairArm, ?pairSwap, ?pairMode⟩
  case pairArm | pairSwap =>
    exact fun who h v c1 ha hp => act_of_eq (serve_plainDoorbell rfl v.isLt ha hp)
  case pairMode =>
    rintro who h v env c1 ha hp hroom rfl
    exact act_of_eq (serveOne_plainHolder rfl v.isLt ha hp hroom)

/-- Settles O13: ADMIT_AT holds its value, which is no stored object's; the others are doorbells. -/
theorem faultDoorbellsAct : Obligations.FaultDoorbellsAct := by
  refine fun s => ⟨?prtRestart, ?rollArm, ?admission, ?pmClear⟩
  case rollArm | pmClear =>
    exact fun who h v c1 ha hp => act_of_eq (serve_plainDoorbell rfl v.isLt ha hp)
  case prtRestart => exact fun who h p v c1 ha hp => act_of_eq (serveOne_windowByte rfl (by decide) p.isLt ha hp)
  case admission =>
    rintro who h v env c1 ha hp hroom rfl
    exact act_of_eq (serveOne_plainHolder rfl v.isLt ha hp hroom)

/-- Settles O14: POLICY_CAP holds its value and KEY_BLOB's answer waits; the others are doorbells. -/
theorem powerMapAndKeyDoorbellsAct : Obligations.PowerMapAndKeyDoorbellsAct := by
  refine fun s => ⟨?policyCap, ?mapArm, ?keyBlob, ?attGen, ?debugLock, ?fuseProg⟩
  case mapArm | debugLock =>
    exact fun who h v c1 ha hp => act_of_eq (serve_plainDoorbell rfl v.isLt ha hp)
  case policyCap =>
    rintro who h v env c1 ha hp hroom rfl
    exact act_of_eq (serveOne_plainHolder rfl v.isLt ha hp hroom)
  case keyBlob => exact fun who h sel blob plain c1 hlen ha hp => act_of_eq (serve_keyBlob hlen sel.isLt ha hp)
  case attGen => exact fun who h sel v c1 ha hp => act_of_eq (serveOne_windowByte rfl (by decide) sel.isLt ha hp)
  case fuseProg => exact fun who h v tl th cl ch c1 ha hp => act_of_eq (serve_plainDoorbell rfl v.isLt ha hp)

/-- Settles O15: FW_TRIAL holds its value and FW_CHUNK's value is 1,024 bytes; the others are doorbells of one byte. -/
theorem firmwareAndModuleDoorbellsAct : Obligations.FirmwareAndModuleDoorbellsAct := by
  refine fun s => ⟨?fwErase, ?fwChunk, ?fwCommit, ?fwTrial, ?fwConfirm, ?fwRestart, ?moduleResetReq, ?maintenanceReq⟩
  case fwErase | fwCommit | fwConfirm | fwRestart | moduleResetReq | maintenanceReq =>
    exact fun who h v c1 ha hp => act_of_eq (serve_plainDoorbell rfl v.isLt ha hp)
  case fwChunk =>
    intro who h sel data c1 hlen ha hp
    have hrow : windowDoorbell 0x5C80 2 2 data.length = true := by rw [hlen]; rfl
    have hwrite := serveOne_windowDoorbell hrow (by decide) sel.isLt ha hp
    simp only [actPart, leBytes_leNat_of_length hlen] at hwrite
    exact act_of_eq hwrite
  case fwTrial =>
    rintro who h v env c1 ha hp hroom rfl
    exact act_of_eq (serveOne_plainHolder rfl v.isLt ha hp hroom)

end Sys2Proof.Machine

/-! PROOF. The field ports (R86, R89, R90, R92 to R94, R97, R103), and O16 from one lemma for each event in its case. -/
namespace Sys2Proof.Machine

section
variable {c : Chip}

/-! ### Datagrams -/

/-- The module after a fresh record of an open session: the record is in the anti-replay window (Table 03-6). -/
def tookDatagram (n recSeq : Nat) (c : Chip) : Chip :=
  setFdp n { tookRecord recSeq (fdpSes c n) with lastUse := now c } c

theorem fdpDatagram_of_notDtls (hserved : dictServed c = true) (n recSeq : Nat) (data : Bytes) :
    fdpDatagram n false recSeq data c = dropDatagram c := by
  simp [fdpDatagram, hserved]

/-- A fresh record's message that passes the header checks waits behind at most seven others, else it is answered
DICT_BUSY (R97, R103). -/
theorem fdpDatagram_of_fresh {ses : BitVec 4} {recSeq : Nat} {data : Bytes} (hserved : dictServed c = true)
    (hopen : (fdpSes c ses.toNat).isOpen = true) (hfresh : freshRecord (fdpSes c ses.toNat) recSeq = true)
    (hlen : 24 ≤ data.length) (hheader : headerFail data = none) :
    fdpDatagram ses.toNat true recSeq data c =
      if 8 ≤ (fdpSes (tookDatagram ses.toNat recSeq c) ses.toNat).queue.length then
        respond false (.session ses) (parseMsg data) ⟨St.dictBusy, false, []⟩ (tookDatagram ses.toNat recSeq c)
      else setFdp ses.toNat { fdpSes (tookDatagram ses.toNat recSeq c) ses.toNat with
        queue := (fdpSes (tookDatagram ses.toNat recSeq c) ses.toNat).queue ++ [parseMsg data] }
          (tookDatagram ses.toNat recSeq c) := by
  simp only [fdpDatagram, hserved, hopen, hfresh, Nat.not_lt.mpr hlen, hheader, Bool.not_true, Bool.false_eq_true, Bool.or_self,
    if_false, BitVec.ofNat_toNat, BitVec.setWidth_eq]
  rfl

/-! ### Frame replication -/

theorem frerFrame_of_first {seq : Nat} (henabled : obj c 0x1200 6 ≠ 0) (hfirst : c.fdp.frer.started = false) :
    frerFrame seq c = { c with fdp := { c.fdp with
      frer := { c.fdp.frer with started := true, high := seq, seen := [seq] } } } := by
  simp [frerFrame, henabled, hfirst]

/-- The frame of the highest number again is within the history, and counts as a duplicate (R92). -/
theorem frerFrame_of_duplicate {seq : Nat} (henabled : obj c 0x1200 6 ≠ 0) (hstarted : c.fdp.frer.started = true)
    (hhigh : c.fdp.frer.high = seq) (hhistory : 0 < obj c 0x1200 8) (hseen : c.fdp.frer.seen.contains seq = true) :
    frerFrame seq c = bump 0x1200 7 0 1 c := by
  have hsame : (seq + 65536 - seq) % 65536 = 0 := by simp
  simp only [frerFrame, henabled, hstarted, hhigh, hsame, hhistory, hseen, if_true, if_false, Bool.not_true, Bool.false_eq_true,
    ne_eq, not_true_eq_false, decide_false, Bool.false_and]

theorem portLatent_of_enabled (hserved : dictServed c = true) (henabled : obj c 0x1200 6 = 1) (p : Nat) :
    portLatent p c = emit (dictSource c) St.fdpPortLatent none [p] c := by
  simp [portLatent, hserved, henabled]

/-! ### Sessions -/

theorem dtlsHandshake_noCert {n : Nat} (hserved : dictServed c = true) (hfree : freeSession c = some n) (ip : BitVec 128)
    (udp : BitVec 16) : dtlsHandshake ip udp .noCert c =
      openFdp n 0 0 0 ip udp { c with fdp := { c.fdp with shakeMs := 0 } } := by
  simp [dtlsHandshake, hserved, shakeDone, hfree]

theorem dtlsHandshake_failed (hserved : dictServed c = true) (ip : BitVec 128) (udp : BitVec 16) (alert : BitVec 8) :
    dtlsHandshake ip udp (.failed alert) c =
      handshakeFail ip udp.toNat alert.toNat { c with fdp := { c.fdp with shakeMs := 0 } } := by
  simp [dtlsHandshake, hserved, shakeDone]

theorem sessionIdle_of_open {n : Nat} (hopen : (fdpSes c n).isOpen = true) : sessionIdle n c = endSession n c := by
  simp [sessionIdle, hopen]

theorem dtlsRetransmit_of_served (hserved : dictServed c = true) {n : Nat}
    (hn : n = if c.fdp.shakeMs = 0 then 200 else min 6400 (2 * c.fdp.shakeMs)) :
    dtlsRetransmit c = frameSent (send (.flight n) { c with fdp := { c.fdp with shakeMs := n } }) := by
  simp [dtlsRetransmit, hserved, hn]

/-! ### The ports -/

theorem fieldLink_up (hpow : c.life.powered = true) (p : Nat) :
    fieldLink p true c = { c with fdp := { c.fdp with links := bitPut c.fdp.links p true } } := by
  simp [fieldLink, hpow]

/-- A port that goes down delivers no Sync: its clock is unheard (R39; log 11). -/
theorem fieldLink_down (hpow : c.life.powered = true) (p : Nat) :
    fieldLink p false c = { c with
      fdp := { c.fdp with links := bitPut c.fdp.links p false }
      time := { c.time with ports := tmod {} c.time.ports p fun v => { v with heard := false } } } := by
  simp [fieldLink, hpow]

theorem neighbour_of_ownAddress {target : BitVec 128} (hserved : dictServed c = true) (hset : obj c 0x1200 3 ≠ 0)
    (hown : leNat (ipBytes target) = obj c 0x1200 3) (p : Nat) (src : BitVec 128) :
    neighbour p target src c = send (.advert p target src) c := by
  simp [neighbour, hserved, hset, hown]

end

/-- Settles O16: each row is `act` of its operation, whose effect in the clause's case the lemma of that operation gives. -/
theorem fieldPortCommandsTakeEffect : Obligations.FieldPortCommandsTakeEffect := by
  intro s hserved
  refine ⟨?outsideDtls, ?fresh, ?firstFrame, ?duplicate, ?silence, ?latent, ?noCert, ?failed, ?idle, ?retransmit, ?link,
    ?solicitation⟩
  case outsideDtls => exact fun ses recSeq data => act_of_eq (fdpDatagram_of_notDtls hserved _ _ _)
  case fresh =>
    rintro ses recSeq data c1 hopen hfresh rfl hlen hheader
    have hdatagram := fdpDatagram_of_fresh hserved hopen hfresh hlen hheader
    exact ⟨fun hroom => act_of_eq (hdatagram.trans (if_neg (Nat.not_le.mpr hroom))),
      fun hfull => act_of_eq (hdatagram.trans (if_pos hfull))⟩
  case firstFrame => exact fun _ seq henabled hfirst => act_of_eq (frerFrame_of_first henabled hfirst)
  case duplicate =>
    exact fun _ seq henabled hstarted hhigh hhistory hseen =>
      act_of_eq (frerFrame_of_duplicate henabled hstarted hhigh hhistory hseen)
  case silence => exact act_of_eq rfl
  case latent => exact fun port henabled => act_of_eq (portLatent_of_enabled hserved henabled _)
  case noCert => exact fun ip udp n hfree => act_of_eq (dtlsHandshake_noCert hserved hfree ip udp)
  case failed => exact fun ip udp alert => act_of_eq (dtlsHandshake_failed hserved ip udp alert)
  case idle => exact fun ses hopen => act_of_eq (sessionIdle_of_open hopen)
  case retransmit => exact fun n hn => act_of_eq (dtlsRetransmit_of_served hserved hn)
  case link => exact fun port hpow => ⟨act_of_eq (fieldLink_up hpow _), act_of_eq (fieldLink_down hpow _)⟩
  case solicitation =>
    exact fun port target src hset hown => act_of_eq (neighbour_of_ownAddress hserved hset hown _ src)

end Sys2Proof.Machine

/-! PROOF. The host mailbox (R111 to R114), and O17 from one lemma for each command in its case. -/
namespace Sys2Proof.Machine

section
variable {c : Chip}

/-- The mailbox has taken a request under the role of MBX_ROLE (R112, R113). -/
def mbxTook (b : Bytes) (c : Chip) : Chip :=
  { c with mbx := { c.mbx with busy := true, taken := some b, started := false, answer := none, role := obj c 0x1200 15 } }

/-- A free mailbox of a served dictionary holds a request of 24 to 1,200 bytes (R112). -/
def mbxOffers (b : Bytes) (c : Chip) : Prop :=
  dictServed c = true ∧ c.mbx.busy = false ∧ 24 ≤ c.mbx.reqLen ∧ c.mbx.reqLen ≤ 1200 ∧ b = mbxRequest c c.mbx.reqLen

theorem mbxOffers.length_ok {b : Bytes} (h : mbxOffers b c) :
    (decide (c.mbx.reqLen < 24) || decide (1200 < c.mbx.reqLen)) = false := by
  obtain ⟨-, -, hlow, hhigh, -⟩ := h
  simp [Nat.not_lt.mpr hlow, Nat.not_lt.mpr hhigh]

theorem mbxDoorbell_of_request {b : Bytes} (h : mbxOffers b c) (hheader : headerFail b = none) :
    mbxDoorbell c = mbxTook b c := by
  have hlen := h.length_ok
  obtain ⟨hserved, hfree, -, hhigh, rfl⟩ := h
  simp [mbxDoorbell, hserved, hfree, hlen, Nat.min_eq_right hhigh, hheader, mbxTook]

/-- A request that fails a header check is begun and answered at once, before the history is looked at (R97; log 11). -/
theorem mbxDoorbell_of_badHeader {b : Bytes} {st : Status} (h : mbxOffers b c) (hheader : headerFail b = some st) :
    mbxDoorbell c = answerHeader .mailbox (parseMsg b) st
      { mbxTook b c with mbx := { (mbxTook b c).mbx with started := true } } := by
  have hlen := h.length_ok
  obtain ⟨hserved, hfree, -, hhigh, rfl⟩ := h
  simp [mbxDoorbell, hserved, hfree, hlen, Nat.min_eq_right hhigh, hheader, mbxTook]

theorem mbxDoorbell_of_busy (hbusy : c.mbx.busy = true) : mbxDoorbell c = c := by
  simp [mbxDoorbell, hbusy]

theorem mbxAbort_of_notBegun (hbusy : c.mbx.busy = true) (hwaits : c.mbx.started = false) :
    mbxAbort c = { c with mbx := { c.mbx with busy := false, taken := none } } := by
  simp [mbxAbort, hbusy, hwaits]

/-- A byte of the request buffer is stored, unless BUSY is set: then the write is lost and OVERWRITE is set (R112). -/
theorem mbxByte_of_buffer {off : Nat} (hlow : 0x100 ≤ off) (hhigh : off ≤ 0x5AF) (b : Byte) (m : Mbx) :
    mbxByte off b m = if m.busy then { m with overwrite := true } else { m with reqBuf := tset 0 m.reqBuf (off - 0x100) b } := by
  simp [mbxByte, hlow, hhigh]

theorem execMbxBufferWrite_singleton (off : BitVec 12) (b : Byte) (s : State) : execMbxBufferWrite off [b] s =
    .next { s with m := { s.m with mbx := mbxByte off.toNat b s.m.mbx } } := rfl

theorem mbxRespond_of_answer {a : Bytes} (hbusy : c.mbx.busy = true) (hanswer : c.mbx.answer = some a) {d : Chip}
    (hd : d = { c with mbx := { c.mbx with busy := false, done := true, started := false, taken := none, answer := none,
                                           rspBuf := a, rspLen := a.length } }) :
    mbxRespond c = if c.mbx.doneIe then send (.msix 0 0) d else d := by
  simp [mbxRespond, hbusy, hanswer, hd]

end

/-- Settles O17: each row is `act` of its operation, whose effect in the clause's case the lemma of that operation gives. -/
theorem mailboxCommandsTakeEffect : Obligations.MailboxCommandsTakeEffect := by
  refine fun s => ⟨?taken, ?refused, ?busy, ?abort, ?stored, ?overwritten, ?response⟩
  case taken =>
    exact fun b hserved hfree hlow hhigh hb hpass => act_of_eq (mbxDoorbell_of_request ⟨hserved, hfree, hlow, hhigh, hb⟩ hpass)
  case refused =>
    exact fun b st hserved hfree hlow hhigh hb hfail =>
      act_of_eq (mbxDoorbell_of_badHeader ⟨hserved, hfree, hlow, hhigh, hb⟩ hfail)
  case busy => exact fun hbusy => act_of_eq (mbxDoorbell_of_busy hbusy)
  case abort => exact fun hbusy hwaits => act_of_eq (mbxAbort_of_notBegun hbusy hwaits)
  case stored =>
    intro off b hfree hlow hhigh
    have hbyte := (mbxByte_of_buffer hlow hhigh b s.m.mbx).trans (if_neg (Bool.eq_false_iff.mp hfree))
    exact (execMbxBufferWrite_singleton off b s).trans (by rw [hbyte])
  case overwritten =>
    intro off b hbusy hlow hhigh
    have hbyte := (mbxByte_of_buffer hlow hhigh b s.m.mbx).trans (if_pos hbusy)
    exact (execMbxBufferWrite_singleton off b s).trans (by rw [hbyte])
  case response => exact fun a d hbusy hanswer hd => act_of_eq (mbxRespond_of_answer hbusy hanswer hd)

end Sys2Proof.Machine

/-! PROOF. Registers that software writes directly, by the field classes of Table 03-2 (R72, R660), and O19 from them. -/
namespace Sys2Proof.Machine

/-- A counter's COUNT takes a software write (R660). -/
theorem writeCounter_count {n : Nat} (hn : n < 3584) (v : Nat) (c : Chip) :
    writeCounter n 8 v c = { c with ctr := { c.ctr with val := tset 0 c.ctr.val n (v % 2 ^ 48) } } := by
  simp [writeCounter, Nat.not_le.mpr hn]

/-- A virtual function's status holds two W1C bits (Table 04-12). -/
theorem writeVf_status {k : Nat} (hlow : 1 ≤ k) (hhigh : k ≤ 16) (v hw : Nat) (c : Chip) :
    writeVf k 0 v hw c = { c with host := { c.host with
      vfFault := tput c.host.vfFault k (w1cBit (thas c.host.vfFault k) v hw 3)
      vfWriteLost := tput c.host.vfWriteLost k (w1cBit (thas c.host.vfWriteLost k) v hw 0) } } := by
  simp [writeVf, Nat.not_lt.mpr hhigh, Nat.one_le_iff_ne_zero.mp hlow]

/-- Settles O19: each block's write at the offset of its register is, by definition, the write of that register's fields by
their classes; a counter and a virtual function have theirs within their ranges. -/
theorem registerWritesFollowFieldClasses : Obligations.RegisterWritesFollowFieldClasses := by
  refine fun s v hw => ⟨?groveArith, ?pair, ?warden, ?counterStatus, ?counter, ?mailboxStatus, ?doneIe, ?vf⟩
  case groveArith => exact fun g => act_settle_of_eq rfl
  case pair | warden | counterStatus | mailboxStatus | doneIe => exact act_settle_of_eq rfl
  case counter => exact fun n hn => act_settle_of_eq (writeCounter_count hn v.toNat s.m)
  case vf => exact fun k hlow hhigh => act_settle_of_eq (writeVf_status hlow hhigh v.toNat hw.toNat s.m)

end Sys2Proof.Machine

/-! PROOF. Local loads and stores (R133 to R135): what each does where its range is on this module, and what it leaves as it was;
O52 and O51 from them. -/
namespace Sys2Proof.Machine

/-! ### An instruction that issues -/

/-- An instruction that issues answers what its operation makes of the module after the choice of R667. -/
theorem insnAct_of_eq {t : Thread} {s : State} {c1 c2 : Chip} {insn : Nat} {va : Option (Acc × Nat)} {f : Chip → Chip}
    (hissues : issues t s.m c1) (hf : f c1 = c2) : insnAct t insn va f s = .next { s with m := c2 } := by
  rw [insnAct_issues hissues, hf]

/-! ### Loads and stores whose range is local -/

section
variable {t va : Nat} {ecc : Ecc} {ss : List Seg} {c c2 c3 : Chip}

theorem loadInsn_of_bytes {rd size : Nat} {bs : Bytes} (hreach : reach t .load va (2 ^ size) c = (c2, .here ss))
    (hread : readHere t ss (2 ^ size) ecc c2 = (c3, .ok bs)) (uns fp : Bool) (len : Nat) :
    loadInsn t rd va size uns fp len ecc c = settleMem (modHart t (takeLoad rd size uns fp len bs) c3) := by
  simp only [loadInsn, hreach, hread]

theorem storeInsn_of_memory {size : Nat} (hreach : reach t .store va (2 ^ size) c = (c2, .here ss)) (hregs : inRegs ss = false)
    (v : Word) (len : Nat) :
    storeInsn t va size v len ecc c = settleMem (modHart t (advance len) (writeSegs (groveOf t) ss (leBytes (2 ^ size) v.toNat)
      false (ss.foldl (fun c x => eccStore (unalias (groveOf t) (x.pa % 2 ^ 44)) x.len ecc c) c2))) := by
  simp only [storeInsn, hreach, hregs, Bool.false_eq_true, if_false]

end

/-- A store whose partial words and lines show no error changes nothing before it writes. -/
theorem foldl_eccStore_nil (g : Nat) (ss : List Seg) (c : Chip) :
    ss.foldl (fun c x => eccStore (unalias g (x.pa % 2 ^ 44)) x.len [] c) c = c := by
  induction ss with
  | nil => rfl
  | cons x ss ih => exact ih

/-! ### The frame of a load -/

/-- An instruction that issues and reaches its range has changed the groves (R667's choice, the TLBs) and nothing else. -/
theorem reach_of_issues {t : Thread} {k : Acc} {va n : Nat} {c c1 c2 : Chip} {r : Reach} (hissues : issues t c c1)
    (hreach : reach t.toNat k va n c1 = (c2, r)) : ∃ gs, c2 = { c with groves := gs } := by
  obtain ⟨gs, rfl⟩ := reach_groves hreach
  obtain ⟨gs1, rfl⟩ := issues_groves hissues
  exact ⟨gs, rfl⟩

theorem loaded_of_issues {t : Thread} {c c1 : Chip} (hissues : issues t c c1) : (hart c t.toNat).state ≠ .empty := by
  rw [hissues.1]
  decide

/-- The TLBs hold no poison tag. -/
theorem firstPoison_groves (c : Chip) (gs : Tbl Grove) (t : Nat) (ss : List Seg) :
    firstPoison { c with groves := gs } t ss = firstPoison c t ss := rfl

/-- Settles O52: translation fills a TLB, the read changes nothing, and the completing load changes its own hart alone. -/
theorem loadChangesOnlyItsRegister : Obligations.LoadChangesOnlyItsRegister := by
  intro s t c1 c2 rd rs1 imm size uns fp comp ss hissues hfatal hpoison hreach hregs hclean
  obtain ⟨gs, rfl⟩ := reach_of_issues hissues hreach
  have hread := readHere_noEcc t.toNat ss (2 ^ size.toNat) _ hregs ((firstPoison_groves s.m gs _ _).trans hclean)
  rw [readSegs_groves] at hread
  have hload := loadInsn_of_bytes (rd := rd.toNat) hreach hread uns fp (if comp then 2 else 4)
  rw [settleMem_quiet (by exact hpoison) (by exact hfatal)] at hload
  have hloaded : (takeLoad rd.toNat size.toNat uns fp (if comp then 2 else 4) (readSegs s.m (groveOf t.toNat) ss)
      (hart s.m t.toNat)).state ≠ .empty := by
    rw [takeLoad_state]
    exact loaded_of_issues hissues
  refine ⟨_, insnAct_of_eq hissues hload, ?own, ?others, rfl, rfl, rfl, rfl, rfl, rfl, rfl, rfl, rfl, rfl⟩
  case own => exact (hart_modHart _ _ _ hloaded _).trans (if_pos rfl)
  case others => exact fun u hu => (hart_modHart _ _ _ hloaded _).trans (if_neg hu)

/-! ### Reservations that a write ends -/

/-- A hart with any load reservation in place of its own. -/
def sameButLr (h h' : Hart) : Prop := ∃ r, h' = { h with lr := r }

theorem sameButLr.refl (h : Hart) : sameButLr h h := ⟨h.lr, rfl⟩

theorem sameButLr.trans {h h' h'' : Hart} (h1 : sameButLr h h') (h2 : sameButLr h' h'') : sameButLr h h'' := by
  obtain ⟨r1, rfl⟩ := h1
  obtain ⟨r2, rfl⟩ := h2
  exact ⟨r2, rfl⟩

theorem sameButLr.state {h h' : Hart} (hs : sameButLr h h') : h'.state = h.state := by
  obtain ⟨r, rfl⟩ := hs
  rfl

/-- Ending reservations (R137) leaves every hart in its place with all but its reservation. -/
theorem tget_breakLr (hs : Tbl Hart) (a n u : Nat) : sameButLr (tget {} hs u) (tget {} (breakLr hs a n) u) := by
  induction hs with
  | nil => exact .refl _
  | cons e r ih =>
    obtain ⟨k, h⟩ := e
    obtain ⟨h', hcons, hsame⟩ : ∃ h', breakLr ((k, h) :: r) a n = (k, h') :: breakLr r a n ∧ sameButLr h h' := by
      simp only [breakLr, List.map_cons]
      split
      · split
        · exact ⟨_, rfl, none, rfl⟩
        · exact ⟨h, rfl, .refl h⟩
      · exact ⟨h, rfl, .refl h⟩
    simp only [hcons, tget]
    split
    · exact hsame
    · split
      · exact .refl _
      · exact ih

/-- The canonical form drops no loaded hart. -/
theorem tget_normHarts {hs : Tbl Hart} {u : Nat} (hloaded : (tget {} hs u).state ≠ .empty) :
    tget {} (normHarts hs) u = tget {} hs u := by
  induction hs with
  | nil => rfl
  | cons e r ih =>
    obtain ⟨k, h⟩ := e
    by_cases hk : u = k
    · rw [tget, if_pos hk] at hloaded
      have hlisted : decide (h ≠ {}) = true := decide_eq_true fun hempty => hloaded (by rw [hempty])
      simp only [normHarts, List.filter_cons, hlisted, if_true, tget, hk]
    · have hnext : ¬ u < k := fun hlt => hloaded (by simp [tget, hk, hlt])
      simp only [tget, if_neg hk, if_neg hnext] at hloaded ⊢
      rw [← ih hloaded, normHarts, List.filter_cons]
      split
      · simp only [tget, if_neg hk, if_neg hnext, normHarts]
      · rfl

/-! ### The frame of a write through segments -/

/-- A byte after a write (R9). -/
theorem memByte_memWrite {c : Chip} (hwf : c.mem.wf = true) (a : Nat) (bs : Bytes) (p : Bool) (j : Nat) :
    memByte (memWrite a bs p c) j = if a ≤ j ∧ j < a + bs.length then nth 0 bs (j - a) else memByte c j := by
  simp only [Mem.wf, Bool.and_eq_true] at hwf
  exact tget_putBytes hwf.1.1

theorem hart_memWrite {c : Chip} {u : Nat} (hloaded : (hart c u).state ≠ .empty) (a : Nat) (bs : Bytes) (p : Bool) :
    sameButLr (hart c u) (hart (memWrite a bs p c) u) := by
  have hbreak := tget_breakLr c.harts a bs.length u
  have hnorm : hart (memWrite a bs p c) u = tget {} (breakLr c.harts a bs.length) u :=
    tget_normHarts (hbreak.state ▸ hloaded)
  rw [hnorm]
  exact hbreak

section
variable {g : Nat} {p : Bool} {c : Chip}

/-- Writing through segments changes memory and the harts' reservations and nothing else. -/
theorem writeSegs_frame (ss : List Seg) (bs : Bytes) :
    ∃ mem harts, writeSegs g ss bs p c = { c with mem := mem, harts := harts } := by
  induction ss generalizing bs c with
  | nil => exact ⟨c.mem, c.harts, rfl⟩
  | cons x r ih => exact ih (c := memWrite _ _ p c) _

theorem hart_writeSegs {u : Nat} (hloaded : (hart c u).state ≠ .empty) (ss : List Seg) (bs : Bytes) :
    sameButLr (hart c u) (hart (writeSegs g ss bs p c) u) := by
  induction ss generalizing bs c with
  | nil => exact .refl _
  | cons x r ih =>
    have hwrite := hart_memWrite hloaded (unalias g (x.pa % 2 ^ 44)) (bs.take x.len) p
    exact hwrite.trans (ih (hwrite.state ▸ hloaded) _)

/-- A byte outside every segment reads as before. -/
theorem memByte_writeSegs_outside {ss : List Seg} {a : Nat} (hwf : c.mem.wf = true)
    (hout : ∀ x ∈ ss, a < unalias g (x.pa % 2 ^ 44) ∨ unalias g (x.pa % 2 ^ 44) + x.len ≤ a) (bs : Bytes) :
    memByte (writeSegs g ss bs p c) a = memByte c a := by
  induction ss generalizing bs c with
  | nil => rfl
  | cons x r ih =>
    obtain ⟨hx, hr⟩ := List.forall_mem_cons.mp hout
    have hshort : (bs.take x.len).length ≤ x.len := List.length_take_le _ _
    rw [writeSegs, ih (memWrite_wf hwf) hr, memByte_memWrite hwf, if_neg (by omega)]

theorem nth_take {bs : Bytes} {n i : Nat} (h : i < n) : nth 0 (bs.take n) i = nth 0 bs i := by
  induction bs generalizing n i with
  | nil => simp
  | cons b bs ih =>
    cases n with
    | zero => omega
    | succ n =>
      cases i with
      | zero => rfl
      | succ i => exact ih (by omega)

/-- A byte inside the one segment of a write is the byte written. -/
theorem memByte_writeSegs_single {x : Seg} {bs : Bytes} {i : Nat} (hwf : c.mem.wf = true) (hlen : i < x.len)
    (hbytes : i < bs.length) : memByte (writeSegs g [x] bs p c) (unalias g (x.pa % 2 ^ 44) + i) = nth 0 bs i := by
  have hin : i < (bs.take x.len).length := by rw [List.length_take]; omega
  rw [writeSegs, writeSegs, memByte_memWrite hwf, if_pos (by omega), Nat.add_sub_cancel_left, nth_take hlen]

end

/-! ### The frame of a store -/

/-- The module once a local store of thread `t` has written its bytes and gone past itself. -/
def stored (t len : Nat) (ss : List Seg) (bs : Bytes) (c : Chip) : Chip :=
  modHart t (advance len) (writeSegs (groveOf t) ss bs false c)

section
variable {t : Nat} {c : Chip}

/-- A completing store changes memory and the harts and nothing else. -/
theorem stored_frame (t len : Nat) (ss : List Seg) (bs : Bytes) (c : Chip) :
    ∃ mem harts, stored t len ss bs c = { c with mem := mem, harts := harts } := by
  obtain ⟨mem, harts, hwrite⟩ := writeSegs_frame (g := groveOf t) (p := false) (c := c) ss bs
  exact ⟨mem, _, by rw [stored, hwrite]; rfl⟩

/-- Every loaded hart keeps all but its reservation, and the storing one goes past its store. -/
theorem hart_stored (hloaded : (hart c t).state ≠ .empty) {u : Nat} (hu : (hart c u).state ≠ .empty) (len : Nat)
    (ss : List Seg) (bs : Bytes) :
    ∃ r, hart (stored t len ss bs c) u =
      if u = t then advance len { hart c u with lr := r } else { hart c u with lr := r } := by
  have hwritten : (hart (writeSegs (groveOf t) ss bs false c) t).state ≠ .empty :=
    (hart_writeSegs hloaded ss bs).state ▸ hloaded
  obtain ⟨r, hr⟩ := hart_writeSegs (g := groveOf t) (p := false) hu ss bs
  refine ⟨r, ?_⟩
  rw [stored, hart_modHart _ t (advance len) hwritten u, hr]
  split
  case isTrue hut =>
    subst hut
    rw [hr]
  case isFalse => rfl

end

/-- Settles O51: translation fills a TLB, the write changes memory and reservations alone, and the completing store its own
hart alone. -/
theorem storeChangesOnlyItsBytes : Obligations.StoreChangesOnlyItsBytes := by
  intro s t c1 c2 rs1 rs2 imm size fp comp ss v hinv hissues hfatal hpoison hv hreach hregs
  obtain ⟨gs, hc2⟩ := reach_of_issues hissues hreach
  have hhart (u : Nat) : hart c2 u = hart s.m u := by rw [hc2, hart_groves]
  have hmem : c2.mem = s.m.mem := by rw [hc2]
  have hwf : c2.mem.wf = true := hmem ▸ hinv.memory
  have hloaded := hhart t.toNat ▸ loaded_of_issues hissues
  obtain ⟨mem, harts, hframe⟩ := stored_frame t.toNat (if comp then 2 else 4) ss (leBytes (2 ^ size.toNat) v.toNat) c2
  have hstore : storeInsn t.toNat (effAddr (hart s.m t.toNat) rs1.toNat imm) size.toNat v (if comp then 2 else 4) [] c1 =
      stored t.toNat (if comp then 2 else 4) ss (leBytes (2 ^ size.toNat) v.toNat) c2 := by
    rw [storeInsn_of_memory hreach hregs, foldl_eccStore_nil, ← stored, settleMem_quiet]
    · rw [hframe, hc2]
      exact hpoison
    · rw [hframe, hc2]
      exact hfatal
  have hexec : exec (.store t rs1 rs2 imm size fp comp []) s = .next { s with m :=
      (stored t.toNat (if comp then 2 else 4) ss (leBytes (2 ^ size.toNat) v.toNat) c2) } :=
    insnAct_of_eq hissues (hv ▸ hstore)
  refine ⟨_, hexec, ?outside, ?inside, ?own, ?others, ?rest⟩
  case outside =>
    intro a hout
    exact (memByte_writeSegs_outside hwf hout _).trans (congrArg (fun m : Mem => tget 0 m.bytes a) hmem)
  case inside =>
    rintro x i rfl hlen hi
    exact memByte_writeSegs_single hwf hlen (by rwa [leBytes_length])
  case own =>
    obtain ⟨r, hr⟩ := hart_stored hloaded hloaded (if comp then 2 else 4) ss (leBytes (2 ^ size.toNat) v.toNat)
    exact ⟨r, by rw [hr, if_pos rfl, hhart]⟩
  case others =>
    intro u hu hother
    obtain ⟨r, hr⟩ := hart_stored hloaded (hhart u ▸ hother) (if comp then 2 else 4) ss (leBytes (2 ^ size.toNat) v.toNat)
    exact ⟨r, by rw [hr, if_neg hu, hhart]⟩
  case rest =>
    rw [hframe, hc2]
    exact ⟨rfl, rfl, rfl, rfl, rfl, rfl, rfl, rfl, rfl⟩

end Sys2Proof.Machine

/-! PROOF. A thread's loads, stores, atomics and fetches (R130, R133 to R137, R149 to R151, R508), one lemma for each case; O20 and
O21 from them. -/
namespace Sys2Proof.Machine

/-! ### Requests to another module -/

section
variable {t op len addr p r : Nat} {kind : ReqKind} {body : Bytes} {before : Nat → Chip → Chip} {c : Chip}

/-- A request leaves under the lowest free entry, after what the entry does to the thread (R508). -/
theorem threadReq_of_free (hfree : freeReq c.lnk.outReq 65536 0 = some r) (hpart : threadPart c t = some p) :
    threadReq t op len addr kind body before c = (sendTo p op (addr / 2 ^ 44) len addr kind body [] (before r c)).2 := by
  simp only [threadReq, hfree, hpart]

/-- No entry is free: the thread waits to issue (R508). -/
theorem threadReq_of_full (hfull : freeReq c.lnk.outReq 65536 0 = none) : threadReq t op len addr kind body before c = c := by
  simp only [threadReq, hfull]

end

section
variable {t va : Nat} {ecc : Ecc} {ss : List Seg} {x : Seg} {tr : Trap} {c c2 c3 : Chip}

/-! ### Loads -/

theorem loadInsn_of_badRead {size : Nat} (hreach : reach t .load va (2 ^ size) c = (c2, .here ss))
    (hread : readHere t ss (2 ^ size) ecc c2 = (c3, .error tr)) (rd : Nat) (uns fp : Bool) (len : Nat) :
    loadInsn t rd va size uns fp len ecc c = settleMem (memTrap t tr c3) := by
  simp only [loadInsn, hreach, hread]

theorem loadInsn_of_trap {size : Nat} (hreach : reach t .load va (2 ^ size) c = (c2, .trap tr)) (rd : Nat) (uns fp : Bool)
    (len : Nat) : loadInsn t rd va size uns fp len ecc c = memTrap t tr c2 := by
  simp only [loadInsn, hreach]

theorem loadInsn_of_far {size : Nat} (hreach : reach t .load va (2 ^ size) c = (c2, .far x)) (rd : Nat) (uns fp : Bool)
    (len : Nat) : loadInsn t rd va size uns fp len ecc c =
      threadReq t 2 (2 ^ size) x.pa (.load t rd size uns fp va x.pa) [] (fun r =>
        modHart t fun h => { h with state := .stalled, wait := .resp r rd size uns fp len }) c2 := by
  simp only [loadInsn, hreach]

/-! ### Fetches -/

theorem fetchInsn_of_bytes {n : Nat} {bs : Bytes} (hreach : reach t .fetch (hart c t).pc.toNat n c = (c2, .here ss))
    (hread : readHere t ss n ecc c2 = (c3, .ok bs)) : fetchInsn t n ecc c = settleMem c3 := by
  simp only [fetchInsn, hreach, hread]

theorem fetchInsn_of_trap {n : Nat} (hreach : reach t .fetch (hart c t).pc.toNat n c = (c2, .trap tr)) :
    fetchInsn t n ecc c = memTrap t tr c2 := by
  simp only [fetchInsn, hreach]

/-! ### Stores -/

theorem storeInsn_of_register {size : Nat} (hreach : reach t .store va (2 ^ size) c = (c2, .here ss)) (hregs : inRegs ss = true)
    (hbelow : firstLocal t ss < shimBase) (v : Word) (len : Nat) :
    storeInsn t va size v len ecc c =
      settle (modHart t (advance len) (regStore (firstLocal t ss) (leBytes (2 ^ size) v.toNat) c2)) := by
  simp only [storeInsn, hreach, hregs, if_true, Nat.not_le.mpr hbelow, decide_false, Bool.false_and, Bool.false_eq_true, if_false]

theorem storeInsn_of_trap {size : Nat} (hreach : reach t .store va (2 ^ size) c = (c2, .trap tr)) (v : Word) (len : Nat) :
    storeInsn t va size v len ecc c = memTrap t tr c2 := by
  simp only [storeInsn, hreach]

theorem storeInsn_of_far {size : Nat} (hreach : reach t .store va (2 ^ size) c = (c2, .far x)) (v : Word) (len : Nat) :
    storeInsn t va size v len ecc c = threadReq t 1 (2 ^ size) x.pa (.store t va) (leBytes (2 ^ size) v.toNat)
      (fun _ => modHart t (advance len)) c2 := by
  simp only [storeInsn, hreach]

/-! ### Atomics -/

theorem amoInsn_of_memory {rs1 f5 : Nat} {dbl : Bool} {bs : Bytes} (hdefined : amoDefined f5 = true)
    (hva : va = (readX (hart c t) rs1).toNat) (haligned : va % 2 ^ (2 + b2n dbl) = 0)
    (hreach : reach t .store va (2 ^ (2 + b2n dbl)) c = (c2, .here ss)) (hregs : inRegs ss = false)
    (hread : readHere t ss (2 ^ (2 + b2n dbl)) ecc c2 = (c3, .ok bs)) (rd rs2 : Nat) :
    amoInsn t rd rs1 rs2 f5 dbl ecc c = settle (modHart t (takeLoad rd (2 + b2n dbl) false false 4 bs)
      (writeSegs (groveOf t) ss (leBytes (2 ^ (2 + b2n dbl))
        (amoValue f5 (8 * 2 ^ (2 + b2n dbl)) (leNat bs) (readX (hart c t) rs2).toNat)) false c3)) := by
  subst hva
  simp only [amoInsn, hdefined, Bool.not_true, Bool.false_eq_true, if_false, haligned, ne_eq, not_true_eq_false, hreach, hread,
    hregs]

theorem amoInsn_of_undefined {f5 : Nat} (hundefined : amoDefined f5 = false) (rd rs1 rs2 : Nat) (dbl : Bool) :
    amoInsn t rd rs1 rs2 f5 dbl ecc c = illegal t (amoBits f5 rs2 rs1 rd dbl) c := by
  simp only [amoInsn, hundefined, Bool.not_false, if_true]

theorem lrScInsn_of_misaligned {rs1 : Nat} {dbl : Bool} (hva : (readX (hart c t) rs1).toNat % 2 ^ (2 + b2n dbl) ≠ 0)
    (rd rs2 : Nat) (sc : Bool) : lrScInsn t rd rs1 rs2 sc dbl ecc c =
      misaligned t (if sc then .store else .load) (readX (hart c t) rs1).toNat c := by
  simp only [lrScInsn, hva, ne_eq, not_false_eq_true, if_true]

theorem lrScInsn_lr {rs1 : Nat} {dbl : Bool} {bs : Bytes} (hva : va = (readX (hart c t) rs1).toNat)
    (haligned : va % 2 ^ (2 + b2n dbl) = 0) (hreach : reach t .load va (2 ^ (2 + b2n dbl)) c = (c2, .here ss))
    (hread : readHere t ss (2 ^ (2 + b2n dbl)) ecc c2 = (c3, .ok bs)) (rd rs2 : Nat) :
    lrScInsn t rd rs1 rs2 false dbl ecc c = settleMem (modHart t (fun h =>
      { takeLoad rd (2 + b2n dbl) false false 4 bs h with lr := some (firstLocal t ss, 2 ^ (2 + b2n dbl)) }) c3) := by
  subst hva
  simp only [lrScInsn, haligned, ne_eq, not_true_eq_false, if_false, Bool.false_eq_true, hreach, hread]

/-- SC stores under the reservation of its own range; either way the reservation ends (R137). -/
theorem lrScInsn_sc {rs1 : Nat} {dbl : Bool} (hva : va = (readX (hart c t) rs1).toNat)
    (haligned : va % 2 ^ (2 + b2n dbl) = 0) (hreach : reach t .store va (2 ^ (2 + b2n dbl)) c = (c2, .here ss)) (rd rs2 : Nat) :
    lrScInsn t rd rs1 rs2 true dbl ecc c =
      if (hart c t).lr = some (firstLocal t ss, 2 ^ (2 + b2n dbl)) then
        settleMem (modHart t (fun h => { advance 4 (writeX rd 0 h) with lr := none })
          (writeSegs (groveOf t) ss (leBytes (2 ^ (2 + b2n dbl)) (readX (hart c t) rs2).toNat) false
            (eccStore (firstLocal t ss) (2 ^ (2 + b2n dbl)) ecc c2)))
      else modHart t (fun h => { advance 4 (writeX rd 1 h) with lr := none }) c2 := by
  subst hva
  simp only [lrScInsn, haligned, ne_eq, not_true_eq_false, if_false, if_true, hreach]

end

/-! ### The statements -/

/-- A READY hart with no pended exception does what it is given to do. -/
theorem hartDo_of_issues {t : Thread} {c c1 : Chip} (hissues : issues t c c1) (f : Chip → Chip) : hartDo t.toNat f c = f c := by
  obtain ⟨hready, hpend, -⟩ := hissues
  simp only [hartDo, hready, hpend, if_true]

/-- Settles O20: each row's operation, by what the address reached and what the read found. -/
theorem loadsAndFetchesComplete : Obligations.LoadsAndFetchesComplete := by
  intro s t c1 c2 hissues
  refine ⟨?here, ?trap, ?far, ?full, ?fetched, ?fetchTrap⟩
  case here =>
    rintro rd rs1 imm size uns fp comp ecc ss c3 va rfl hreach
    exact ⟨fun bs hread => insnAct_of_eq hissues (loadInsn_of_bytes hreach hread _ _ _),
      fun tr hread => insnAct_of_eq hissues (loadInsn_of_badRead hreach hread _ _ _ _)⟩
  case trap =>
    exact fun rd rs1 imm size uns fp comp ecc tr hreach => insnAct_of_eq hissues (loadInsn_of_trap hreach _ _ _ _)
  case far =>
    rintro rd rs1 imm size uns fp comp ecc x r p va rfl hreach hfree hpart
    exact insnAct_of_eq hissues ((loadInsn_of_far hreach _ _ _ _).trans (threadReq_of_free hfree hpart))
  case full =>
    exact fun rd rs1 imm size uns fp comp ecc x hreach hfull =>
      insnAct_of_eq hissues ((loadInsn_of_far hreach _ _ _ _).trans (threadReq_of_full hfull))
  case fetched =>
    exact fun four ecc ss c3 bs hreach hread =>
      act_of_eq ((hartDo_of_issues hissues _).trans (fetchInsn_of_bytes hreach hread))
  case fetchTrap =>
    exact fun four ecc tr hreach => act_of_eq ((hartDo_of_issues hissues _).trans (fetchInsn_of_trap hreach))

/-- Settles O21: each row's operation, by what the address reached, the alignment, and for SC the reservation. -/
theorem storesAndAtomicsComplete : Obligations.StoresAndAtomicsComplete := by
  intro s t c1 c2 hissues
  refine ⟨?here, ?trap, ?far, ?amo, ?undefined, ?misaligned, ?lr, ?sc⟩
  case here =>
    rintro rs1 rs2 imm size fp comp ecc ss v va rfl rfl hreach
    exact ⟨fun hregs => insnAct_of_eq hissues (storeInsn_of_memory hreach hregs _ _),
      fun hregs hbelow => insnAct_of_eq hissues (storeInsn_of_register hreach hregs hbelow _ _)⟩
  case trap => exact fun rs1 rs2 imm size fp comp ecc tr hreach => insnAct_of_eq hissues (storeInsn_of_trap hreach _ _)
  case far =>
    rintro rs1 rs2 imm size fp comp ecc x r p v va rfl rfl hreach hfree hpart
    exact insnAct_of_eq hissues ((storeInsn_of_far hreach _ _).trans (threadReq_of_free hfree hpart))
  case amo =>
    rintro rd rs1 rs2 f5 dbl ecc ss c3 bs va n hdefined rfl hva haligned hreach hregs hread
    exact insnAct_of_eq hissues (amoInsn_of_memory hdefined hva haligned hreach hregs hread _ _)
  case undefined =>
    exact fun rd rs1 rs2 f5 dbl ecc hundefined => insnAct_of_eq hissues (amoInsn_of_undefined hundefined _ _ _ _)
  case misaligned =>
    exact fun rd rs1 rs2 sc dbl ecc hva => insnAct_of_eq hissues (lrScInsn_of_misaligned hva _ _ _)
  case lr =>
    rintro rd rs1 rs2 dbl ecc ss c3 bs va n rfl hva haligned hreach hread
    exact insnAct_of_eq hissues (lrScInsn_lr hva haligned hreach hread _ _)
  case sc =>
    rintro rd rs1 rs2 dbl ecc ss va n a rfl hva haligned hreach rfl
    have hsc := lrScInsn_sc (ecc := ecc) hva haligned hreach rd.toNat rs2.toNat
    exact ⟨fun hheld => insnAct_of_eq hissues (hsc.trans (if_pos hheld)),
      fun hlost => insnAct_of_eq hissues (hsc.trans (if_neg hlost))⟩

end Sys2Proof.Machine

/-! PROOF. Fences, the TLB and the CSRs of the executing hart (R129, R130, R140, R150, R176); O22 and O57 from them. -/
namespace Sys2Proof.Machine

section
variable {t : Nat} {c : Chip}

/-! ### Fences -/

theorem fenceInsn_of_passing {pred : Nat} (h : bitOf pred 0 = false ∨ openWrites c t = []) :
    fenceInsn t pred c = modHart t (advance 4) c := by
  obtain hread | hacked := h
  · simp [fenceInsn, hread]
  · simp [fenceInsn, hacked]

theorem fenceInsn_of_waiting {pred : Nat} (hwrite : bitOf pred 0 = true) (hopen : openWrites c t ≠ []) :
    fenceInsn t pred c = modHart t (fun h => { h with state := .stalled, wait := .fence }) c := by
  simp [fenceInsn, hwrite, hopen]

theorem sfenceInsn_of_allowed (hkept : keptOut (hart c t) = false) (rs1 rs2 insn : Nat) :
    sfenceInsn t rs1 rs2 insn c = modHart t (advance 4) (modGrove (groveOf t) (fun g =>
      { g with tlb := g.tlb.filter fun e => !fenceHits (hart c t) rs1 rs2 e }) c) := by
  simp only [sfenceInsn, hkept, Bool.false_eq_true, if_false]

theorem sfenceInsn_of_keptOut (hkept : keptOut (hart c t) = true) (rs1 rs2 insn : Nat) :
    sfenceInsn t rs1 rs2 insn c = illegal t insn c := by
  simp only [sfenceInsn, hkept, if_true]

/-! ### CSR instructions -/

/-- A CSR that the hart's mode may write takes the new value, and rd the old one. -/
theorem csrInsn_of_writable {csr src new : Nat} {op : CsrOp} (hpriv : bitsOf csr 9 8 ≤ (hart c t).priv)
    (hwritable : csrWritable csr = true) (hsatp : csr ≠ 0x180 ∨ keptOut (hart c t) = false)
    (hcounter : counterOff (hart c t) csr = false) (hnew : csrNew op (hart c t) src (csrRead c t csr) = some new)
    (rd insn : Nat) : csrInsn t csr op rd src insn c =
      modHart t (fun h => advance 4 (writeX rd (BitVec.ofNat 64 (csrRead c t csr)) (csrPut csr new h))) c := by
  have hsatpOk : (decide (csr = 0x180) && keptOut (hart c t)) = false := by
    obtain hother | hallowed := hsatp
    · simp [hother]
    · simp [hallowed]
  simp [csrInsn, Nat.not_lt.mpr hpriv, hwritable, hsatpOk, hcounter, hnew]

/-- A write of a CSR that holds no write is illegal (R176). -/
theorem csrInsn_of_readOnly {csr src new : Nat} {op : CsrOp} (hreadOnly : csrWritable csr = false)
    (hnew : csrNew op (hart c t) src (csrRead c t csr) = some new) (rd insn : Nat) :
    csrInsn t csr op rd src insn c = illegal t insn c := by
  simp [csrInsn, hreadOnly, hnew]

/-- CSRRW of satp from S or M mode, where mstatus.TVM does not keep it out. -/
theorem csrInsn_satp (hpriv : 1 ≤ (hart c t).priv) (hkept : keptOut (hart c t) = false) (rd rs1 insn : Nat) :
    csrInsn t Csr.satp .rw rd rs1 insn c = modHart t (fun h => advance 4 (writeX rd (BitVec.ofNat 64 (csrRead c t Csr.satp))
      (satpWrite (readX (hart c t) rs1).toNat h))) c := by
  have hcounter : counterOff (hart c t) Csr.satp = false := by simp [counterOff, Csr.satp]
  exact csrInsn_of_writable (csr := Csr.satp) (op := .rw) hpriv rfl (.inr hkept) hcounter rfl rd insn

end

/-- Settles O22: each row's operation, where the thread's own state lets it go on and where it does not. -/
theorem fencesTranslationAndCsrsComplete : Obligations.FencesTranslationAndCsrsComplete := by
  intro s t c1 hissues
  refine ⟨?passes, ?waits, ?flush, ?keptOut, ?satp, ?csr, ?readOnly⟩
  case passes => exact fun pred succ hpass => insnAct_of_eq hissues (fenceInsn_of_passing hpass)
  case waits => exact fun pred succ hwrite hopen => insnAct_of_eq hissues (fenceInsn_of_waiting hwrite hopen)
  case flush => exact fun rs1 rs2 hkept => insnAct_of_eq hissues (sfenceInsn_of_allowed hkept _ _ _)
  case keptOut => exact fun rs1 rs2 hkept => insnAct_of_eq hissues (sfenceInsn_of_keptOut hkept _ _ _)
  case satp => exact fun rd rs1 hpriv hkept => insnAct_of_eq hissues (csrInsn_satp hpriv hkept _ _ _)
  case csr =>
    exact fun csr op rd src new hpriv hwritable hsatp hcounter hnew =>
      insnAct_of_eq hissues (csrInsn_of_writable hpriv hwritable hsatp hcounter hnew _ _)
  case readOnly =>
    exact fun csr op rd src new hreadOnly hnew => insnAct_of_eq hissues (csrInsn_of_readOnly hreadOnly hnew _ _)

/-! ### The modes of satp (R140) -/

theorem satpWrite_of_mode {v : Word} (hmode : bitsOf v.toNat 63 60 = 0 ∨ bitsOf v.toNat 63 60 = 10) (h : Hart) :
    satpWrite v.toNat h = writeCsr Csr.satp v h := by
  simp [satpWrite, hmode]

theorem satpWrite_of_otherMode {v : Nat} (hbare : bitsOf v 63 60 ≠ 0) (hsv57 : bitsOf v 63 60 ≠ 10) (h : Hart) :
    satpWrite v h = h := by
  simp [satpWrite, hbare, hsv57]

/-- A CSR that is written with another value than 0 reads back, whatever the other CSRs hold. -/
theorem readCsr_writeCsr_of_ne_zero {v : Word} (hv : v ≠ 0) (n : Nat) (h : Hart) : readCsr (writeCsr n v h) n = v := by
  simp only [readCsr, writeCsr, tset, if_neg hv, tget_tins, if_true]

/-- Settles O57: the write is CSRRW of satp, which takes two modes; a value of MODE 10 is not 0, so it reads back. -/
theorem satpAcceptsTwoModes : Obligations.SatpAcceptsTwoModes := by
  rintro s t c1 rd rs1 v hissues hpriv hkept rfl
  have hsatp := csrInsn_satp hpriv hkept rd.toNat rs1.toNat
  refine ⟨fun hmode => ?taken, fun hbare hsv57 => ?refused, fun h hsv57 => ?readsBack⟩
  case taken => exact insnAct_of_eq hissues ((hsatp _).trans (by simp only [satpWrite_of_mode hmode]))
  case refused => exact insnAct_of_eq hissues ((hsatp _).trans (by simp only [satpWrite_of_otherMode hbare hsv57]))
  case readsBack =>
    have hv : readX (hart c1 t.toNat) rs1.toNat ≠ 0 := fun hzero => by simp [hzero, bitsOf] at hsv57
    rw [readCsr_writeCsr_of_ne_zero hv]
    exact ⟨rfl, rfl⟩

end Sys2Proof.Machine

/-! PROOF. The instructions that take a tag (R152, R172, R173, R179 to R191, R593) and those that name one (R154, R177); O23 and O58
from them. -/
namespace Sys2Proof.Machine

section
variable {t : Nat} {c c2 c3 : Chip}

/-! ### Taking a tag (R152, R173) -/

theorem takeTag_of_free {k cost name : Nat} {op : TagOp} (hfree : takeable c t = some k)
    (hissue : issueTag t k cost op c = (name, c2)) (rd : Nat) (after : Nat → Chip → Chip) :
    takeTag t rd cost op after c = after name (retire t rd (BitVec.ofNat 64 name) c2) := by
  simp only [takeTag, hfree, hissue]

theorem takeTag_of_none (hnone : takeable c t = none) (rd cost : Nat) (op : TagOp) (after : Nat → Chip → Chip) :
    takeTag t rd cost op after c = retire t rd noTagWord (bump 0x2000 7 0 1 c) := by
  simp only [takeTag, hnone]

/-! ### TENSOR -/

/-- The array mask and the chain of a TENSOR whose checks up to the licence pass (R172, R179 to R184): `c2` is the module once
the chain is read, `c3` once its operands are translated. -/
structure TensorChecked (t rs1 rs2 : Nat) (c c2 c3 : Chip) (l : List (Bytes × Bytes)) (mask : Nat) (segs : List Seg) : Prop where
  names : mask = (readX (hart c t) rs2).toNat
  someArray : 0 < mask
  fits : mask < 256
  chain : readPasses t 9 (readX (hart c t) rs1).toNat c = (c2, some (l, false))
  fields : ((l.map fun e => (parseTD e.1, e.2)).all fun p => fieldsOk p mask) = true
  links : chainOk (l.map fun e => (parseTD e.1, e.2)) = true
  operands : checkOperands t (l.map fun e => (parseTD e.1, e.2)) c2 = (c3, .ok segs)

/-- TENSOR past its other checks takes a tag, where the licence covers its cost (R172, R191, R593). -/
theorem tensorIssue_of_checked {rs1 rs2 mask : Nat} {l : List (Bytes × Bytes)} {segs : List Seg}
    (h : TensorChecked t rs1 rs2 c c2 c3 l mask segs) {cost : Nat}
    (hcost : cost = opCost c3 (groveOf t) mask (l.map fun e => (parseTD e.1, e.2))) (rd insn : Nat) :
    tensorIssue t rd rs1 rs2 insn c =
      if (hart c t).held - (hart c t).inUse < cost then extFault t insn St.extNoLicence (bump 0x2000 9 0 1 c3)
      else takeTag t rd cost (.tensor ⟨chainDesc l, chainExt l, mask, segs⟩) (fun name =>
        modGrove (groveOf t) fun g => { g with order := g.order ++ [name % 256] }) c3 := by
  obtain ⟨rfl, hsome, hfits, hchain, hfields, hlinks, hoperands⟩ := h
  have hmask : (decide ((readX (hart c t) rs2).toNat = 0) || decide (256 ≤ (readX (hart c t) rs2).toNat)) = false := by
    simp [Nat.pos_iff_ne_zero.mp hsome, Nat.not_le.mpr hfits]
  simp only [tensorIssue, hmask, hchain, hfields, hlinks, hoperands, Bool.not_true, Bool.or_self, Bool.false_eq_true, if_false,
    ← hcost]

/-! ### MOVE -/

/-- MOVE whose descriptors are read and well formed, whose first addresses pass and whose cost the licence covers takes a tag
(R172, R186, R191, R296). -/
theorem moveIssue_of_checked {rs1 rs2 n : Nat} {bs : Bytes} {d : MDesc} {r : List MDesc} {cost : Nat}
    (hn : n = (readX (hart c t) rs2).toNat) (hsome : 1 ≤ n) (hfits : n ≤ 16)
    (hblock : ownBlock t (readX (hart c t) rs1).toNat 64 (64 * n) c = (c2, some (bs, false)))
    (hfields : (cut64 n bs).all mdOk = true) (hdescs : (cut64 n bs).map parseMD = d :: r)
    (hfirst : moveFirst t d c2 = (c3, none)) (hcost : cost = if 1048576 < chainBytes (d :: r) then 3 else 0)
    (hlicence : cost ≤ (hart c t).held - (hart c t).inUse) (rd insn : Nat) :
    moveIssue t rd rs1 rs2 insn c = takeTag t rd cost (.mover { descs := d :: r }) (fun _ c => c) c3 := by
  subst hn
  have hcount : (decide ((readX (hart c t) rs2).toNat = 0) || decide (16 < (readX (hart c t) rs2).toNat)) = false := by
    simp [Nat.one_le_iff_ne_zero.mp hsome, Nat.not_lt.mpr hfits]
  simp only [moveIssue, hcount, hblock, hfields, hdescs, hfirst, ← hcost, Nat.not_lt.mpr hlicence, Bool.not_true,
    Bool.false_eq_true, if_false]

/-! ### LREQ -/

/-- The request that a thread's LREQ makes of the Warden under the tag that it took (R189, R593). -/
def licenceRequest (t v name : Nat) (c : Chip) : LicWait :=
  { src := Src.grove (groveOf t), tag := some (name, (tagOf c name).serial), part := threadPart c t, watts := v % 2048,
    prio := bitsOf v 13 12, arrival := now c, res := bitOf v 15 }

theorem lreqIssue_of_checked {rs1 v : Nat} (hv : v = (readX (hart c t) rs1).toNat) (hsome : 0 < v % 2048) (hfits : v < 65536)
    (h14 : bitOf v 14 = false) (h11 : bitOf v 11 = false) (hlimit : (hart c t).held + v % 2048 ≤ 2047)
    (hclass : bitOf v 15 = false ∨ (hart c t).hard = true) (rd insn : Nat) :
    lreqIssue t rd rs1 insn c = takeTag t rd 0 (.licence ⟨v % 2048, bitOf v 15, bitsOf v 13 12⟩)
      (fun name c => askLicence (licenceRequest t v name c) c) c := by
  subst hv
  have hreserved : (bitOf (readX (hart c t) rs1).toNat 15 && !(hart c t).hard) = false := by
    obtain hplain | hhard := hclass
    · simp [hplain]
    · simp [hhard]
  simp only [lreqIssue, Nat.pos_iff_ne_zero.mp hsome, Nat.not_le.mpr hfits, h14, h11, Nat.not_lt.mpr hlimit, hreserved,
    decide_false, Bool.or_self, Bool.false_eq_true, if_false, licenceRequest]

/-! ### Naming a tag (R154, R177) -/

/-- What is wrong with a tag that a thread names: it is FREE, or another thread took it (R154). -/
def tagRefusal (c : Chip) (t v : Nat) (st : Status) : Prop :=
  (tagOf c v).state = .free ∧ st = St.tagNotIssued ∨
    (tagOf c v).state ≠ .free ∧ (v / 256 ≠ groveOf t ∨ (tagOf c v).owner ≠ t) ∧ st = St.tagNotOwner

theorem tagCheck_of_refusal {v : Nat} {st : Status} (hfits : v < 65536) (h : tagRefusal c t v st) :
    tagCheck c t v = some st := by
  obtain ⟨hfree, rfl⟩ | ⟨htaken, hother, rfl⟩ := h
  · simp [tagCheck, Nat.not_le.mpr hfits, hfree]
  · simp [tagCheck, Nat.not_le.mpr hfits, htaken, hother]

section
variable {rs1 : Nat} {st : Status} (h : tagCheck c t (readX (hart c t) rs1).toNat = some st)
include h

theorem tagWait_of_refusal (rd insn : Nat) (reap : Bool) : tagWait t rd rs1 insn reap c = extFault t insn st c := by
  simp only [tagWait, h]

theorem tagTest_of_refusal (rd insn : Nat) : tagTest t rd rs1 insn c = extFault t insn st c := by
  simp only [tagTest, h]

theorem tagReap_of_refusal (rd insn : Nat) : tagReap t rd rs1 insn c = extFault t insn st c := by
  simp only [tagReap, h]

end

end

/-! ### The statements -/

/-- Settles O23: each row past its checks is the taking of a tag, from a free one or with none to take. -/
theorem tagTakingInstructionsComplete : Obligations.TagTakingInstructionsComplete := by
  intro s t c1 hissues
  refine ⟨?tensor, ?move, ?lreq⟩
  case tensor =>
    rintro rd rs1 rs2 c2 c3 l ps segs mask cost hmask hsome hfits hchain rfl hfields hlinks hoperands hcost
    have htensor := tensorIssue_of_checked ⟨hmask, hsome, hfits, hchain, hfields, hlinks, hoperands⟩ hcost rd.toNat
    refine ⟨fun hlicence k name c4 hfree hissue => ?taken, fun hlicence hnone => ?noTag, fun hlicence => ?noLicence⟩
    case taken =>
      exact insnAct_of_eq hissues (congrArg settleMem ((htensor _).trans ((if_neg (Nat.not_lt.mpr hlicence)).trans
        (takeTag_of_free hfree hissue _ _))))
    case noTag =>
      exact insnAct_of_eq hissues (congrArg settleMem ((htensor _).trans ((if_neg (Nat.not_lt.mpr hlicence)).trans
        (takeTag_of_none hnone _ _ _ _))))
    case noLicence => exact insnAct_of_eq hissues (congrArg settleMem ((htensor _).trans (if_pos hlicence)))
  case move =>
    intro rd rs1 rs2 c2 c3 bs d r n cost hn hsome hfits hblock hfields hdescs hfirst hcost hlicence
    have hmove := moveIssue_of_checked hn hsome hfits hblock hfields hdescs hfirst hcost hlicence rd.toNat
    refine ⟨fun k name c4 hfree hissue => ?taken, fun hnone => ?noTag⟩
    case taken => exact insnAct_of_eq hissues (congrArg settleMem ((hmove _).trans (takeTag_of_free hfree hissue _ _)))
    case noTag => exact insnAct_of_eq hissues (congrArg settleMem ((hmove _).trans (takeTag_of_none hnone _ _ _ _)))
  case lreq =>
    rintro rd rs1 v w hv rfl hsome hfits h14 h11 hlimit hclass
    have hlreq := lreqIssue_of_checked hv hsome hfits h14 h11 hlimit hclass rd.toNat
    refine ⟨?taken, fun hnone => ?noTag⟩
    case taken =>
      rintro k name c2 hfree hissue c3 rfl
      exact insnAct_of_eq hissues ((hlreq _).trans (takeTag_of_free hfree hissue _ _))
    case noTag => exact insnAct_of_eq hissues ((hlreq _).trans (takeTag_of_none hnone _ _ _ _))

/-- Settles O58: the check of R177 answers the refusal's status, on which all four rows trap. -/
theorem onlyTheOwnerUsesATag : Obligations.OnlyTheOwnerUsesATag := by
  rintro s t c1 rd rs1 v hissues rfl hfits st hrefusal
  have hcheck := tagCheck_of_refusal hfits hrefusal
  exact ⟨insnAct_of_eq hissues (tagWait_of_refusal hcheck _ _ _), insnAct_of_eq hissues (tagWait_of_refusal hcheck _ _ _),
    insnAct_of_eq hissues (tagTest_of_refusal hcheck _ _), insnAct_of_eq hissues (tagReap_of_refusal hcheck _ _)⟩

end Sys2Proof.Machine

/-! PROOF. The queue and blaze instructions (R147, R148, R172, R197 to R205, R308 to R320, R339, R341), one lemma for each case; O25
and O26 from them. -/
namespace Sys2Proof.Machine

section
variable {t q : Nat} {o : OpenPkt} {st : Status} {c : Chip}

/-! ### Queue instructions -/

theorem queueInsn_of_pass {rs1 : Nat} (hq : q = (readX (hart c t) rs1).toNat) (hpass : queueCheck c t q = none) (insn : Nat)
    (f : Nat → Chip → Chip) : queueInsn t rs1 insn f c = f q c := by
  subst hq
  simp only [queueInsn, hpass]

theorem queueInsn_of_refusal {rs1 : Nat} (hq : q = (readX (hart c t) rs1).toNat) (hfail : queueCheck c t q = some st)
    (insn : Nat) (f : Nat → Chip → Chip) : queueInsn t rs1 insn f c = extFault t insn st c := by
  subst hq
  simp only [queueInsn, hfail]

section
variable (hkept : wasRewound c t q = false)
include hkept

/-! QPUSH (R197, R308, R313). -/

theorem pushStatus_of_header {v : Word} (hopen : openOf c (.thread t) q = none)
    (hheader : headerCheck c (.thread t) q (v.toNat % 65536) = St.ok) :
    pushStatus t q v c = (St.ok, openPkt (.thread t) q v false c) := by
  simp [pushStatus, hkept, hopen, hheader]

theorem pushStatus_of_badHeader {v : Word} (hopen : openOf c (.thread t) q = none)
    (hheader : headerCheck c (.thread t) q (v.toNat % 65536) = st) (hbad : st ≠ St.ok) :
    pushStatus t q v c = (st, countRefusal q st c) := by
  simp [pushStatus, hkept, hopen, hheader, hbad]

theorem pushStatus_of_room (hopen : openOf c (.thread t) q = some o) (hroom : o.written < o.len) (v : Word) :
    pushStatus t q v c = (St.ok, pushWord o v false c) := by
  simp [pushStatus, hkept, hopen, hroom]

theorem pushStatus_of_overrun (hopen : openOf c (.thread t) q = some o) (hfull : o.len ≤ o.written) (v : Word) :
    pushStatus t q v c = (St.qPktOverrun, rewind o c) := by
  simp [pushStatus, hkept, hopen, Nat.not_lt.mpr hfull]

/-! QCOMMIT (R148, R197, R311). -/

theorem commitInsn_of_whole (hopen : openOf c (.thread t) q = some o) (hwhole : o.written = o.len)
    (hacked : openWrites c t = []) (rd : Nat) :
    commitInsn t rd q c = weltPoppable (retire t rd (St.ok.zeroExtend 64) (weltCommit q (commitPkt o (hart c t).hard c))) := by
  simp [commitInsn, commitsNow, commitStatus, retireStatus, hkept, hopen, hwhole, hacked]

theorem commitInsn_of_unacked (hopen : openOf c (.thread t) q = some o) (hwhole : o.written = o.len)
    (hunacked : openWrites c t ≠ []) (rd : Nat) :
    commitInsn t rd q c = modHart t (fun h => { h with state := .stalled, wait := .commit rd q }) c := by
  simp [commitInsn, commitsNow, hkept, hopen, hwhole, hunacked]

theorem commitInsn_of_short (hopen : openOf c (.thread t) q = some o) (hshort : o.written ≠ o.len) (rd : Nat) :
    commitInsn t rd q c = weltPoppable (retire t rd (St.qPktShort.zeroExtend 64) (rewind o c)) := by
  simp [commitInsn, commitsNow, commitStatus, retireStatus, hkept, hopen, hshort]

theorem commitInsn_of_noOpen (hopen : openOf c (.thread t) q = none) (rd : Nat) :
    commitInsn t rd q c = weltPoppable (retire t rd (St.qNoOpen.zeroExtend 64) c) := by
  simp [commitInsn, commitsNow, commitStatus, retireStatus, hkept, hopen]

/-! QABORT (R197, R311). -/

theorem abortStatus_of_open (hopen : openOf c (.thread t) q = some o) : abortStatus t q c = (St.ok, rewind o c) := by
  simp [abortStatus, hkept, hopen]

theorem abortStatus_of_noOpen (hopen : openOf c (.thread t) q = none) : abortStatus t q c = (St.qNoOpen, c) := by
  simp [abortStatus, hkept, hopen]

end

theorem popInsn_of_popWord {v tag : Word} {par : Bool} {ecc : Ecc} {c2 : Chip} (hpop : popWord t q par ecc c = (v, tag, c2))
    (rd : Nat) : popInsn t rd q par ecc c = retire t rd v (modHart t (fun h => { h with qtag := tag }) c2) := by
  simp only [popInsn, hpop]

/-! ### Blaze instructions -/

section
variable {rs1 v p n : Nat} (hv : v = (readX (hart c t) rs1).toNat)
include hv

theorem blazePost_of_reserved (hreserved : blazeReserved v = true) (insn : Nat) :
    blazePost t rs1 insn c = extFault t insn St.extOperand c := by
  subst hv
  simp [blazePost, hreserved]

/-- BSET of another module's blaze, or of one within the allocation, is posted with the writes it announces (R147, R202). -/
theorem blazePost_of_index (hclear : blazeReserved v = false) (hpart : threadPart c t = some p)
    (hindex : blazeRemote c v ≠ none ∨ ((mapOf c p).state = 1 ∧ v % 512 < (mapOf c p).bzCount)) (insn : Nat) :
    blazePost t rs1 insn c = modHart t (advance 4) { c with blz := { c.blz with posted :=
      c.blz.posted ++ [⟨t, v % 512, p, blazeRemote c v, openSerials c t, openWrites c t⟩] } } := by
  subst hv
  have hpass : ((blazeRemote c (readX (hart c t) rs1).toNat).isNone && !(decide ((mapOf c p).state = 1) &&
      decide ((readX (hart c t) rs1).toNat % 512 < (mapOf c p).bzCount))) = false := by
    obtain hremote | ⟨hassigned, hin⟩ := hindex
    · simp [hremote]
    · simp [hassigned, hin]
  simp only [blazePost, hclear, hpart, hpass, Bool.false_eq_true, if_false]

variable (f : Nat → Nat → Nat → Chip → Chip)

theorem blazeInsn_of_reserved (hreserved : blazeReserved v = true) (insn : Nat) :
    blazeInsn t rs1 insn f c = extFault t insn St.extOperand c := by
  subst hv
  simp [blazeInsn, hreserved]

theorem blazeInsn_of_remote (hclear : blazeReserved v = false) (hremote : blazeRemote c v ≠ none) (insn : Nat) :
    blazeInsn t rs1 insn f c = extFault t insn St.extRemoteForm c := by
  subst hv
  simp [blazeInsn, hclear, Option.isSome_iff_ne_none, hremote]

theorem blazeInsn_of_index (hclear : blazeReserved v = false) (hlocal : blazeRemote c v = none)
    (hpart : threadPart c t = some p) (hblaze : blazeAt c p (v % 512) = some n) (insn : Nat) :
    blazeInsn t rs1 insn f c = f p (v % 512) n c := by
  subst hv
  simp [blazeInsn, hclear, hlocal, hpart, hblaze]

end

theorem blazeClear_of_set {n : Nat} (hset : (blaze c n).set = true) (rd p index : Nat) :
    blazeClear t rd p index n c = retire t rd 0 (clearBlaze n (threadId c t) c) := by
  simp only [blazeClear, hset, if_true]

theorem blazeClear_of_clear {n : Nat} (hclear : (blaze c n).set = false) (rd p index : Nat) :
    blazeClear t rd p index n c =
      retire t rd (St.bzUnderflow.zeroExtend 64) (underflow n index p (threadId c t) c) := by
  simp only [blazeClear, hclear, Bool.false_eq_true, if_false]

theorem blazeWait_of_set {n : Nat} (hset : (blaze c n).set = true) (rd : Nat) (clears : Bool) :
    blazeWait t rd n clears c = retire t rd 1 (if clears then clearBlaze n (threadId c t) c else c) := by
  simp only [blazeWait, hset, if_true]

theorem blazeWait_of_clear {n : Nat} (hclear : (blaze c n).set = false) (rd : Nat) (clears : Bool) :
    blazeWait t rd n clears c =
      modHart t (fun h => { h with state := .sleepBlaze, wait := .blaze n rd clears (now c) }) c := by
  simp only [blazeWait, hclear, Bool.false_eq_true, if_false]

end

/-! ### The statements -/

/-! Each row on a queue of the thread's partition, by what its operation answers. -/

section
variable {s : State} {t : Thread} {c1 c2 : Chip} {rs1 : RegNo} {q : Nat} (hissues : issues t s.m c1)
  (hq : q = (readX (hart c1 t.toNat) rs1.toNat).toNat) (hpass : queueCheck c1 t.toNat q = none)
include hissues hq hpass

theorem exec_qpush_of_status {rs2 : RegNo} {st : Status}
    (hpush : pushStatus t.toNat q (readX (hart c1 t.toNat) rs2.toNat) c1 = (st, c2)) (rd : RegNo) :
    exec (.qpush t rd rs1 rs2) s = .next { s with m := retire t.toNat rd.toNat (st.zeroExtend 64) c2 } :=
  insnAct_of_eq hissues (by rw [queueInsn_of_pass hq hpass, hpush, retireStatus])

theorem exec_qcommit_of_eq {rd : RegNo} (hcommit : commitInsn t.toNat rd.toNat q c1 = c2) :
    exec (.qcommit t rd rs1) s = .next { s with m := c2 } :=
  insnAct_of_eq hissues (by rw [queueInsn_of_pass hq hpass, hcommit])

theorem exec_qabort_of_status {st : Status} (habort : abortStatus t.toNat q c1 = (st, c2)) (rd : RegNo) :
    exec (.qabort t rd rs1) s = .next { s with m := retire t.toNat rd.toNat (st.zeroExtend 64) c2 } :=
  insnAct_of_eq hissues (by rw [queueInsn_of_pass hq hpass, habort, retireStatus])

theorem exec_qpop_of_popWord {v tag : Word} {par : Bool} {ecc : Ecc}
    (hpop : popWord t.toNat q par ecc c1 = (v, tag, c2)) (rd : RegNo) :
    exec (.qpop t rd rs1 par ecc) s = .next { s with m :=
      (settleMem (retire t.toNat rd.toNat v (modHart t.toNat (fun h => { h with qtag := tag }) c2))) } :=
  insnAct_of_eq hissues (by rw [queueInsn_of_pass hq hpass, popInsn_of_popWord hpop])

theorem exec_qcnt_of_pass (rd : RegNo) :
    exec (.qcnt t rd rs1) s = .next { s with m := retire t.toNat rd.toNat (countWord (queue c1 q)) c1 } :=
  insnAct_of_eq hissues (by rw [queueInsn_of_pass hq hpass])

end

/-- Settles O25: each row past its queue's check answers the status of its case. -/
theorem queueInstructionsComplete : Obligations.QueueInstructionsComplete := by
  intro s t c1 rs1 q hissues hq
  refine ⟨fun st rd rs2 hfail => ?refused, fun hpass hkept => ⟨?noPacket, ?packet, fun rd o hopen => ?ends,
    fun rd hopen => ?noOpen⟩, fun hpass rd par ecc v tag c2 hpop => ?pop, fun hpass rd => ?count⟩
  case refused => exact insnAct_of_eq hissues (queueInsn_of_refusal hq hfail _ _)
  case noPacket =>
    rintro rd rs2 v rfl hopen
    exact ⟨fun hheader => exec_qpush_of_status hissues hq hpass (pushStatus_of_header hkept hopen hheader) rd,
      fun st hheader hbad => exec_qpush_of_status hissues hq hpass (pushStatus_of_badHeader hkept hopen hheader hbad) rd⟩
  case packet =>
    rintro rd rs2 v o rfl hopen
    exact ⟨fun hroom => exec_qpush_of_status hissues hq hpass (pushStatus_of_room hkept hopen hroom _) rd,
      fun hfull => exec_qpush_of_status hissues hq hpass (pushStatus_of_overrun hkept hopen hfull _) rd⟩
  case ends =>
    exact ⟨fun hwhole hacked => exec_qcommit_of_eq hissues hq hpass (commitInsn_of_whole hkept hopen hwhole hacked _),
      fun hwhole hunacked => exec_qcommit_of_eq hissues hq hpass (commitInsn_of_unacked hkept hopen hwhole hunacked _),
      fun hshort => exec_qcommit_of_eq hissues hq hpass (commitInsn_of_short hkept hopen hshort _),
      exec_qabort_of_status hissues hq hpass (abortStatus_of_open hkept hopen) rd⟩
  case noOpen =>
    exact ⟨exec_qcommit_of_eq hissues hq hpass (commitInsn_of_noOpen hkept hopen _),
      exec_qabort_of_status hissues hq hpass (abortStatus_of_noOpen hkept hopen) rd⟩
  case pop => exact exec_qpop_of_popWord hissues hq hpass hpop rd
  case count => exact exec_qcnt_of_pass hissues hq hpass rd

/-- Settles O26: each row past its operand's checks acts on the blaze by whether it is set. -/
theorem blazeInstructionsComplete : Obligations.BlazeInstructionsComplete := by
  intro s t c1 rs1 v hissues hv
  refine ⟨fun hreserved => ?reserved, fun hclear p hpart hindex => ?post, fun hclear hremote rd => ?remote,
    fun hclear hlocal p n rd hpart hblaze => ⟨?test, fun hset => ?set, fun hunset => ?unset⟩⟩
  case reserved =>
    exact ⟨insnAct_of_eq hissues (congrArg flushSets (blazePost_of_reserved hv hreserved _)),
      fun rd => insnAct_of_eq hissues (blazeInsn_of_reserved hv _ hreserved _)⟩
  case post => exact insnAct_of_eq hissues (congrArg flushSets (blazePost_of_index hv hclear hpart hindex _))
  case remote => exact insnAct_of_eq hissues (blazeInsn_of_remote hv _ hclear hremote _)
  all_goals have hindexed := fun insn f => blazeInsn_of_index hv f hclear hlocal hpart hblaze insn
  case test => exact insnAct_of_eq hissues (hindexed _ _)
  case set =>
    exact ⟨insnAct_of_eq hissues ((hindexed _ _).trans (blazeClear_of_set hset _ _ _)),
      insnAct_of_eq hissues ((hindexed _ _).trans (blazeWait_of_set hset _ _)),
      insnAct_of_eq hissues ((hindexed _ _).trans (blazeWait_of_set hset _ _))⟩
  case unset =>
    exact ⟨insnAct_of_eq hissues ((hindexed _ _).trans (blazeClear_of_clear hunset _ _ _)),
      insnAct_of_eq hissues ((hindexed _ _).trans (blazeWait_of_clear hunset _ _)),
      insnAct_of_eq hissues ((hindexed _ _).trans (blazeWait_of_clear hunset _ _))⟩

end Sys2Proof.Machine

/-! PROOF. The shim's services and its contexts (R118, R122 to R129, R195, R329, R578, R583, R609), one lemma for each case; O28, O56
and O29 from them. -/
namespace Sys2Proof.Machine

section
variable {t p x : Nat} {c : Chip}

/-! ### Whose service -/

theorem forPart_of_part (hpart : threadPart c t = some p) (f : Nat → Chip → Chip) : forPart t f c = f p c := by
  simp only [forPart, hpart]

/-- A thread of the calling partition is served (R127). -/
theorem onThread_of_own (hpart : threadPart c t = some p) (hx : x = argOf c t 10) (hthread : x < 16384)
    (hown : threadPart c x = some p) (f : Nat → Nat → Chip → Chip) : onThread t f c = f p x c := by
  subst hx
  simp only [onThread, forPart_of_part hpart, hthread, hown, decide_true, Bool.and_self, if_true]

/-- A thread outside the calling partition is refused (R127). -/
theorem onThread_of_foreign (hpart : threadPart c t = some p) (hx : x = argOf c t 10) (hforeign : threadPart c x ≠ some p)
    (f : Nat → Nat → Chip → Chip) : onThread t f c = sbiRet t Sbi.denied St.threadNotOwned.toNat c := by
  subst hx
  simp only [onThread, forPart_of_part hpart, hforeign, decide_false, Bool.and_false, Bool.false_eq_true, if_false]

/-! ### Services on a thread -/

section
variable (hpart : threadPart c t = some p) (hx : x = argOf c t 10) (hthread : x < 16384) (hown : threadPart c x = some p)
include hpart hx hthread hown

theorem threadStart_of_empty (hempty : (hart c x).state = .empty) :
    threadStart t c = sbiRet t 0 0 (setHart x (writeX 10 (readX (hart c t) 12)
      { state := .ready, priv := 1, pc := readX (hart c t) 11, quota := obj c 0x2000 3 }) c) := by
  simp only [threadStart, onThread_of_own hpart hx hthread hown, hempty, ne_eq, not_true_eq_false, if_false]

theorem threadStart_of_loaded (hloaded : (hart c x).state ≠ .empty) :
    threadStart t c = sbiRet t Sbi.alreadyStarted St.threadBusy.toNat c := by
  simp only [threadStart, onThread_of_own hpart hx hthread hown, ne_eq, hloaded, not_false_eq_true, if_true]

theorem threadStop_of_own : threadStop t c = sbiRet t 0 0 (stopThread x c) := by
  simp only [threadStop, onThread_of_own hpart hx hthread hown]

theorem threadClass_of_loaded (hloaded : (hart c x).state ≠ .empty) (hclass : argOf c t 11 ≤ 1) :
    threadClass t c = sbiRet t 0 0 (modHart x (fun h => { h with clsReq := argOf c t 11 == 1 }) c) := by
  simp only [threadClass, onThread_of_own hpart hx hthread hown, Nat.not_lt.mpr hclass, hloaded, if_false]

theorem tagQuota_of_loaded (hloaded : (hart c x).state ≠ .empty) (hsome : 1 ≤ argOf c t 11) (hfits : argOf c t 11 ≤ 256) :
    tagQuota t c = sbiRet t 0 0 (modHart x (fun h => { h with quota := argOf c t 11 }) c) := by
  simp only [tagQuota, onThread_of_own hpart hx hthread hown, Nat.one_le_iff_ne_zero.mp hsome, Nat.not_lt.mpr hfits, hloaded,
    decide_false, Bool.or_self, Bool.false_eq_true, if_false]

end

/-! ### Services of the partition -/

section
variable (hpart : threadPart c t = some p)
include hpart

theorem queueResetCall_of_own (hqueue : queueOwner c (argOf c t 10) = some p) :
    queueResetCall t c = sbiRet t 0 0 (startReset (argOf c t 10) c) := by
  simp only [queueResetCall, forPart_of_part hpart, hqueue, if_true]

theorem queueResetCall_of_foreign (hqueue : queueOwner c (argOf c t 10) ≠ some p) :
    queueResetCall t c = sbiRet t Sbi.denied St.addrPartViolation.toNat c := by
  simp only [queueResetCall, forPart_of_part hpart, hqueue, if_false]

/-- CKPT_COMMIT of the checkpoint that the present boundary began, to an address that the image may be written at (R578). -/
theorem ckptCommit_of_begun {n a : Nat} (hn : n = argOf c t 10) (ha : a = argOf c t 11)
    (hbegun : (partFlt c p).ckptAt = some n) (hnow : countNow c = c.time.curCount) (haligned : a % 128 = 0)
    (hhere : a / 2 ^ 44 = c.moduleId) (hcheck : checkLocal c (some p) none false (a % 2 ^ 44) 128 = none) :
    ckptCommit t c = sbiRet t 0 0 (commitSave p n (memWrite (a % 2 ^ 44) (imageBytes c p) false c)) := by
  subst hn ha
  simp only [ckptCommit, forPart_of_part hpart, hbegun, hnow, haligned, hhere, hcheck, ne_eq, not_true_eq_false, decide_true,
    decide_false, Bool.not_true, Bool.or_self, Bool.false_eq_true, if_false]

end

theorem otherCall_of_extension (heid : argOf c t 17 ≠ 0x10) : otherCall t c = sbiRet t Sbi.notSupported 0 c := by
  simp only [otherCall, heid, if_false]

/-! ### Contexts -/

theorem contextSave_of_mayUnload (hpart : threadPart c t = some p) (hunload : mayUnload c t = true) {c1 : Chip}
    (hc1 : c1 = releaseAll t (endSleep t c)) :
    contextSave t c = { setHart t {} c1 with saves := tset {} c1.saves t ⟨true, p,
      { hart c1 t with state := .ready, wait := .none, lr := none, resume := .ready, held := 0, inUse := 0, resHeld := 0 }⟩ } := by
  simp only [contextSave, hpart, hunload, Bool.not_true, Bool.false_eq_true, if_false, hc1]

theorem contextRestore_of_saved {src dst : Nat} {a : SaveArea} (ha : tget {} c.saves src = a) (hvalid : a.valid = true)
    (hempty : (hart c dst).state = .empty) (hpart : threadPart c dst = some a.part) :
    contextRestore src dst c = { setHart dst a.ctx c with saves := tset {} c.saves src {} } := by
  simp only [contextRestore, ha, hvalid, hempty, hpart, decide_true, Bool.and_self, if_true]

theorem tlbFlushEnd_of_waiting (hwait : (hart c t).wait = .flush) :
    tlbFlushEnd t c = setHart t (unstall (answerHart 0 0 (hart c t))) c := by
  simp only [tlbFlushEnd, hwait, if_true]

end

/-! ### Vector reductions (R118) -/

section
variable {t vd vs2 vs1 insn sew : Nat} {c : Chip}

theorem vectorReduce_of_vill (hvill : bitOf (readCsr (hart c t) 0xC21).toNat 63 = true) (op : RedOp) (masked : Bool) :
    vectorReduce t vd vs2 vs1 op masked insn c = illegal t insn c := by
  simp only [vectorReduce, hvill, Bool.true_or, if_true]

theorem redStep_sum (w frm a b : Nat) (fl : FFlags) : redStep .sum w frm a b fl = ((a + b) % 2 ^ w, fl) := rfl

/-- An integer sum of one register of elements writes element 0 of vd alone and raises no flag. -/
theorem vectorReduce_sum {vl x : Nat} (hsew : sew = 8 * 2 ^ bitsOf (readCsr (hart c t) 0xC21).toNat 5 3)
    (hvill : bitOf (readCsr (hart c t) 0xC21).toNat 63 = false) (hfits : sew ≤ 64)
    (hlmul : bitsOf (readCsr (hart c t) 0xC21).toNat 2 0 = 0) (hvstart : readCsr (hart c t) 8 = 0)
    (hvl : vl = min (readCsr (hart c t) 0xC20).toNat (8 * 64 / sew)) (hsome : 0 < (readCsr (hart c t) 0xC20).toNat)
    (htree : treeReduce (redStep .sum sew (fcsr (hart c t) / 32 % 8)) 10
      ((span 0 vl).map fun i => some (vElem (hart c t) vs2 sew i)) 0 = (some x, 0)) :
    vectorReduce t vd vs2 vs1 .sum false insn c = modHart t (fun h => advance 4 { h with v := tset 0 h.v vd (BitVec.ofNat 512
      ((tget 0 h.v vd).toNat / 2 ^ sew * 2 ^ sew + (vElem (hart c t) vs1 sew 0 + x) % 2 ^ sew)) }) c := by
  have hpos : 0 < sew := hsew ▸ Nat.mul_pos (by decide) (Nat.two_pow_pos _)
  have hvlPos : vl ≠ 0 := by
    have : 0 < 8 * 64 / sew := Nat.div_pos (by omega) hpos
    omega
  have hgroup : lmul8 (bitsOf (readCsr (hart c t) 0xC21).toNat 2 0) = 8 := by rw [hlmul]; rfl
  have hwhole : ¬ 8 * 64 < sew := by omega
  simp [vectorReduce, hvill, hgroup, redWide, redFp, redElem, hvstart, ← hsew, Nat.not_lt.mpr hfits, hwhole, ← hvl, hvlPos,
    htree, redStep_sum]

end

/-! ### The statements -/

/-- A service that a thread calls from S mode answers what its operation makes of the module, settled. -/
theorem callAct_of_eq {t : Thread} {s : State} {c1 c2 : Chip} {f : Nat → Chip → Chip} (hissues : issues t s.m c1)
    (hpriv : (hart c1 t.toNat).priv = 1) (hf : f t.toNat c1 = c2) : callAct t f s = .next { s with m := settle c2 } := by
  rw [callAct_issues hissues hpriv, hf]

/-- Settles O56: all four services name their thread alike, and THREAD_START asks whether it is loaded. -/
theorem threadServicesCheckTheirThread : Obligations.ThreadServicesCheckTheirThread := by
  intro s t c1 p x hissues hpriv hpart hx
  refine ⟨fun hforeign i hi => ?foreign, fun hthread hown hloaded => ?loaded⟩
  case foreign =>
    have hrefused := onThread_of_foreign hpart hx hforeign
    obtain rfl | rfl | rfl | rfl := hi <;> exact callAct_of_eq hissues hpriv (hrefused _)
  case loaded => exact callAct_of_eq hissues hpriv (threadStart_of_loaded hpart hx hthread hown hloaded)

/-- Settles O28: each row is the call of its service, whose answer the lemma of that service gives. -/
theorem shimCallsAnswerTheirServices : Obligations.ShimCallsAnswerTheirServices := by
  intro s t c1 p hissues hpriv hpart
  refine ⟨?partInfo, ?recoveryInfo, ?rotHint, fun x hx hthread hown => ⟨?start, ?busy, ?stop, ?cls, ?quota⟩, ?foreign,
    ?reset, ?resetForeign, ?ckpt, ?flush, ?other⟩
  case partInfo | recoveryInfo | rotHint | flush => exact callAct_of_eq hissues hpriv (forPart_of_part hpart _)
  case start => exact fun hempty => callAct_of_eq hissues hpriv (threadStart_of_empty hpart hx hthread hown hempty)
  case busy => exact fun hloaded => callAct_of_eq hissues hpriv (threadStart_of_loaded hpart hx hthread hown hloaded)
  case stop => exact callAct_of_eq hissues hpriv (threadStop_of_own hpart hx hthread hown)
  case cls =>
    rintro v rfl hclass hloaded
    exact callAct_of_eq hissues hpriv (threadClass_of_loaded hpart hx hthread hown hloaded hclass)
  case quota =>
    rintro v rfl hsome hfits hloaded
    exact callAct_of_eq hissues hpriv (tagQuota_of_loaded hpart hx hthread hown hloaded hsome hfits)
  case foreign => exact fun x hx hforeign => callAct_of_eq hissues hpriv (onThread_of_foreign hpart hx hforeign _)
  case reset => exact fun hqueue => callAct_of_eq hissues hpriv (queueResetCall_of_own hpart hqueue)
  case resetForeign => exact fun hqueue => callAct_of_eq hissues hpriv (queueResetCall_of_foreign hpart hqueue)
  case ckpt =>
    exact fun n a hn ha hbegun hnow haligned hhere hcheck =>
      callAct_of_eq hissues hpriv (ckptCommit_of_begun hpart hn ha hbegun hnow haligned hhere hcheck)
  case other => exact fun heid => callAct_of_eq hissues hpriv (otherCall_of_extension heid)

/-- Settles O29: each row's operation in its case; a reduction's operation by its vtype. -/
theorem contextsAndReductionsComplete : Obligations.ContextsAndReductionsComplete := by
  intro s t
  refine ⟨?save, ?restore, ?flushed, ?reductions⟩
  case save => exact fun p c1 hpart hunload hc1 => act_settle_of_eq (contextSave_of_mayUnload hpart hunload hc1)
  case restore =>
    exact fun src a ha hvalid hempty hpart => act_of_eq (contextRestore_of_saved ha hvalid hempty hpart)
  case flushed => exact fun hwait => act_of_eq (tlbFlushEnd_of_waiting hwait)
  case reductions =>
    rintro c1 h vt sew w hissues rfl rfl hsew
    refine ⟨fun vd vs2 vs1 op masked _ hvill => ?illegal, ?sum⟩
    case illegal => exact insnAct_of_eq hissues (vectorReduce_of_vill hvill _ _)
    case sum =>
      rintro vd vs2 vs1 rfl hvill hfits hlmul hvstart hsome vl es hvl rfl x htree
      exact insnAct_of_eq hissues (vectorReduce_sum hsew hvill hfits hlmul hvstart hvl hsome htree)

end Sys2Proof.Machine

/-! PROOF. The host port (R157 to R165, R627, R703), one lemma for each case; O18 from them. -/
namespace Sys2Proof.Machine

section
variable {v off n p a : Nat} {ecc : Ecc} {c : Chip}

/-! ### Doorbells (R160) -/

section
variable {val : Nat} (hlow : 1 ≤ v) (hhigh : v ≤ 16)
include hlow hhigh

/-- The numbers 1 to 16 are those of the virtual functions. -/
theorem outsideVfs_of_range : (decide (v = 0) || decide (16 < v)) = false := by
  simp [Nat.one_le_iff_ne_zero.mp hlow, Nat.not_lt.mpr hhigh]

theorem vfDoorbell_of_owner (howner : vfOwner c v = some p) (val : Nat) :
    vfDoorbell v val c = if val < (mapOf c p).bzCount then setBlaze ((mapOf c p).bzBase + val) (unitId c (Src.pcie v)) c
      else windowFault v 0 2 val c := by
  simp only [vfDoorbell, outsideVfs_of_range hlow hhigh, Bool.false_eq_true, if_false, howner]

/-! ### Windows (R162 to R165) -/

theorem hostRead_of_hit (hhit : winHit c v off n false = .at_ p a) (ecc : Ecc) :
    hostRead v off n ecc c = send (.hostData v (memRead (applyEcc a n ecc c) a n) (rangePoison (applyEcc a n ecc c) a n))
      (applyEcc a n ecc c) := by
  simp only [hostRead, outsideVfs_of_range hlow hhigh, Bool.false_eq_true, if_false, hhit]

theorem hostRead_of_outside (hout : winHit c v off n false = .outside) (ecc : Ecc) :
    hostRead v off n ecc c = send (.hostAbort v) (windowFault v (off / 2 ^ 32) 0 off c) := by
  simp only [hostRead, outsideVfs_of_range hlow hhigh, Bool.false_eq_true, if_false, hout]

theorem hostWrite_of_hit {bs : Bytes} (hhit : winHit c v off bs.length true = .at_ p a) (ecc : Ecc) :
    hostWrite v off bs ecc c = memWrite a bs false (eccStore a bs.length ecc c) := by
  simp only [hostWrite, outsideVfs_of_range hlow hhigh, Bool.false_eq_true, if_false, hhit]

theorem hostWrite_of_outside {bs : Bytes} (hout : winHit c v off bs.length true = .outside) (ecc : Ecc) :
    hostWrite v off bs ecc c = windowFault v (off / 2 ^ 32) 1 off c := by
  simp only [hostWrite, outsideVfs_of_range hlow hhigh, Bool.false_eq_true, if_false, hout]

end

/-! ### Links and keys -/

/-- PERST_N low takes its link down, link 1 in 2 x x8 mode alone, with what the functions of the link hold (R703; log 24). -/
theorem perst_low {link : Nat} {mine : Nat → Bool} (hpow : c.life.powered = true) (hlink : link = 0 ∨ twoLinks c = true)
    (hmine : mine = fun v => 1 ≤ v && v ≤ 16 && vfLink c v == link) :
    perst link true c = { c with host := { c.host with
      link0 := if link = 0 then 0 else c.host.link0
      link1 := if link = 1 then 0 else c.host.link1
      vfFault := c.host.vfFault.filter fun e => !mine e.1
      vfWriteLost := c.host.vfWriteLost.filter fun e => !mine e.1
      msixTable := c.host.msixTable.filter fun e => !mine (e.1 / 64)
      msixPend := c.host.msixPend.filter fun e => !mine (e.1 / 16)
      vfEnabled := forSpan 1 16 c.host.vfEnabled fun a v => if mine v then bitPut a (v - 1) false else a
      ide := forSpan 1 16 (bitPut c.host.ide link false) fun a v => if mine v then bitPut a (v + 1) false else a } } := by
  have hpresent : (decide (link = 1) && !twoLinks c) = false := by
    obtain rfl | htwo := hlink
    · rfl
    · simp [htwo]
  simp only [perst, hpow, hpresent, hmine, Bool.not_true, Bool.or_self, Bool.false_eq_true, if_false]

theorem pcieLink_of_up (hserved : dictServed c = true) {speed width : Nat} (hspeed : speed ≠ 0) (hwidth : width ≠ 0) :
    pcieLink 0 speed width c = { c with host := { c.host with link0 := speed + 16 * width } } := by
  simp [pcieLink, hserved, hspeed, hwidth]

theorem ideKeyed_of_stream (hserved : dictServed c = true) {stream : Nat} (hstream : stream < 18) {k : Bytes} {c1 : Chip}
    (hdraw : drawBytes 4 c = (k, c1)) : ideKeyed stream c =
      send (.ideKey stream k) { c1 with host := { c1.host with ide := bitPut c1.host.ide stream true } } := by
  simp [ideKeyed, hserved, Nat.not_le.mpr hstream, hdraw]

end

/-- A command whose operation is followed by what a met poison or vital error causes. -/
theorem act_settleMem_of_eq {s : State} {f : Chip → Chip} {c : Chip} (h : f s.m = c) :
    act s (fun c => settleMem (f c)) = .next { s with m := settleMem c } :=
  act_of_eq (congrArg settleMem h)

/-- Settles O18: each row is `act` of its operation, whose effect in the clause's case the lemma of that operation gives. -/
theorem hostPortCommandsTakeEffect : Obligations.HostPortCommandsTakeEffect := by
  refine fun s => ⟨?doorbell, ?read, ?readOutside, ?write, ?writeOutside, ?perst, ?linkChange, ?ide⟩
  case doorbell =>
    intro v val p hlow hhigh howner
    have hdoorbell := vfDoorbell_of_owner hlow hhigh howner val.toNat
    exact ⟨fun hin => act_settle_of_eq (hdoorbell.trans (if_pos hin)),
      fun hbeyond => act_settle_of_eq (hdoorbell.trans (if_neg (Nat.not_lt.mpr hbeyond)))⟩
  case read =>
    rintro v off len ecc p a c1 hlow hhigh hhit rfl
    exact act_settleMem_of_eq (hostRead_of_hit hlow hhigh hhit ecc)
  case readOutside =>
    exact fun v off len ecc hlow hhigh hout => act_settleMem_of_eq (hostRead_of_outside hlow hhigh hout ecc)
  case write =>
    exact fun v off data ecc p a hlow hhigh hhit => act_settleMem_of_eq (hostWrite_of_hit hlow hhigh hhit ecc)
  case writeOutside =>
    exact fun v off data ecc hlow hhigh hout => act_settleMem_of_eq (hostWrite_of_outside hlow hhigh hout ecc)
  case perst =>
    intro link mine hpow hlink hmine
    exact act_of_eq (perst_low hpow (hlink.imp_left (congrArg BitVec.toNat)) hmine)
  case linkChange =>
    intro speed width hserved hspeed hwidth
    exact act_of_eq (pcieLink_of_up hserved (BitVec.toNat_ne.mp hspeed) (BitVec.toNat_ne.mp hwidth))
  case ide => exact fun stream k c1 hserved hstream hdraw => act_of_eq (ideKeyed_of_stream hserved hstream hdraw)

end Sys2Proof.Machine

/-! PROOF. LREL, the instructions that name a tag the thread took, and the undefined instructions of the three opcode spaces (R167, R169,
R174, R177, R178, R192), one lemma for each case; O24 from them. -/
namespace Sys2Proof.Machine

section
variable {t : Nat} {c : Chip}

/-- Watts that the thread holds and no tag of it uses go back, those outside the reservation first (R192). -/
theorem licRelease_of_unused {rs1 v fromRes : Nat} (hv : v = (readX (hart c t) rs1).toNat) (hfits : v < 2048)
    (hunused : v ≤ (hart c t).held - (hart c t).inUse) (hfrom : fromRes = v - min v ((hart c t).held - (hart c t).resHeld))
    (insn : Nat) : licRelease t rs1 insn c = returnRes (threadPart c t) fromRes (modHart t (fun h =>
      { advance 4 h with held := (hart c t).held - v, resHeld := (hart c t).resHeld - fromRes }) c) := by
  subst hv hfrom
  simp only [licRelease, Nat.not_le.mpr hfits, Nat.not_lt.mpr hunused, if_false]
  rfl

section
variable {rs1 v : Nat} (hv : v = (readX (hart c t) rs1).toNat) (hown : tagCheck c t v = none)
include hv hown

/-! ### A tag that passes the checks of R177, by its state (R178) -/

theorem tagWait_of_done (hdone : (tagOf c v).state = .done) (rd insn : Nat) (reap : Bool) :
    tagWait t rd rs1 insn reap c =
      if reap then setTag v {} (retire t rd (completionWord (tagOf c v)) c) else retire t rd (completionWord (tagOf c v)) c := by
  subst hv
  simp only [tagWait, hown, hdone, if_true]

theorem tagWait_of_issued (hissued : (tagOf c v).state = .issued) (rd insn : Nat) (reap : Bool) :
    tagWait t rd rs1 insn reap c = modHart t (fun h => { h with state := .stalled, wait := .tag v rd reap }) c := by
  subst hv
  simp only [tagWait, hown, hissued, reduceCtorEq, if_false]

theorem tagTest_of_done (hdone : (tagOf c v).state = .done) (rd insn : Nat) :
    tagTest t rd rs1 insn c = retire t rd (completionWord (tagOf c v)) c := by
  subst hv
  simp only [tagTest, hown, hdone, if_true]

theorem tagTest_of_issued (hissued : (tagOf c v).state = .issued) (rd insn : Nat) :
    tagTest t rd rs1 insn c = retire t rd issuedWord c := by
  subst hv
  simp only [tagTest, hown, hissued, reduceCtorEq, if_false]

theorem tagReap_of_done (hdone : (tagOf c v).state = .done) (rd insn : Nat) :
    tagReap t rd rs1 insn c = setTag v {} (retire t rd (completionWord (tagOf c v)) c) := by
  subst hv
  simp only [tagReap, hown, hdone, if_true]

theorem tagReap_of_issued (hissued : (tagOf c v).state = .issued) (rd insn : Nat) :
    tagReap t rd rs1 insn c = extFault t insn St.extTagBusy c := by
  subst hv
  simp only [tagReap, hown, hissued, reduceCtorEq, if_false]

end

end

/-- Settles O24: LREL of unused watts returns them, a tag instruction past R177's check acts by the tag's state, and an
undefined instruction of the three spaces is a trap of cause 2. -/
theorem licenceTagAndUndefinedInstructionsComplete : Obligations.LicenceTagAndUndefinedInstructionsComplete := by
  intro s t c1 hissues
  refine ⟨?release, fun rd rs1 v hv hown => ⟨fun hdone => ?done, fun hissued => ?issued⟩, fun insn hspace hundefined => ?illegal⟩
  case release =>
    exact fun rs1 v hv hfits hunused fromRes hfrom => insnAct_of_eq hissues (licRelease_of_unused hv hfits hunused hfrom _)
  case done =>
    exact ⟨insnAct_of_eq hissues (tagWait_of_done hv hown hdone _ _ false),
      insnAct_of_eq hissues (tagWait_of_done hv hown hdone _ _ true),
      insnAct_of_eq hissues (tagTest_of_done hv hown hdone _ _), insnAct_of_eq hissues (tagReap_of_done hv hown hdone _ _)⟩
  case issued =>
    exact ⟨insnAct_of_eq hissues (tagWait_of_issued hv hown hissued _ _ false),
      insnAct_of_eq hissues (tagWait_of_issued hv hown hissued _ _ true),
      insnAct_of_eq hissues (tagTest_of_issued hv hown hissued _ _),
      insnAct_of_eq hissues (tagReap_of_issued hv hown hissued _ _)⟩
  case illegal => exact insnAct_of_eq hissues (if_pos (by simp [hspace, hundefined]))

end Sys2Proof.Machine

/-! PROOF. SWAIT and SREAD, which answer from the module's time (R206, R207), and SMPLCTL by its value and the permit (R208, R210); O27
from them. -/
namespace Sys2Proof.Machine

section
variable {t rs1 v : Nat} {c : Chip} (hv : v = (readX (hart c t) rs1).toNat)
include hv

theorem samplingControl_of_reserved (hreserved : bitsOf v 63 32 ≠ 0 ∨ bitsOf v 15 2 ≠ 0) (rd insn : Nat) :
    samplingControl t rd rs1 insn c = extFault t insn St.extOperand c := by
  subst hv
  simp [samplingControl, hreserved]

variable (hhigh : bitsOf v 63 32 = 0) (hmid : bitsOf v 15 2 = 0)
include hhigh hmid

/-- A value that asks for no sampling needs no permit, another one bit 2 of its partition's (R210). -/
theorem samplingControl_of_permitted
    (hmay : v % 4 = 0 ∨ ∃ p, threadPart c t = some p ∧ bitOf (tget 0 c.ctr.permit p) 2 = true) (rd insn : Nat) :
    samplingControl t rd rs1 insn c = modHart t (fun h =>
      { h with smplEn := bitOf v 0, smplForce := bitOf v 1, smplMark := bitsOf v 31 16 })
        (retire t rd (smplWord (hart c t)) c) := by
  subst hv
  obtain hoff | ⟨p, hpart, hpermit⟩ := hmay
  · simp [samplingControl, hhigh, hmid, hoff]
  · simp [samplingControl, hhigh, hmid, hpart, hpermit]

theorem samplingControl_of_denied {p : Nat} (hasks : v % 4 ≠ 0) (hpart : threadPart c t = some p)
    (hdenied : bitOf (tget 0 c.ctr.permit p) 2 = false) (rd insn : Nat) :
    samplingControl t rd rs1 insn c = extFault t insn St.extSampleDenied c := by
  subst hv
  simp [samplingControl, hhigh, hmid, hasks, hpart, hdenied]

end

/-- Settles O27: SWAIT and SREAD are by definition what the module's time gives; SMPLCTL goes by its value and the permit. -/
theorem stitchAndSamplingInstructionsComplete : Obligations.StitchAndSamplingInstructionsComplete := by
  intro s t c1 hissues
  refine ⟨fun rd => ?swait, fun rd => ?count, fun rd => ?boundary, fun rd => ?rest, ?taken, ?reserved, ?denied⟩
  case swait | count | boundary | rest => exact insnAct_of_eq hissues rfl
  case taken =>
    exact fun rd rs1 v hv hhigh hmid hmay => insnAct_of_eq hissues (samplingControl_of_permitted hv hhigh hmid hmay _ _)
  case reserved => exact fun rd rs1 v hv hreserved => insnAct_of_eq hissues (samplingControl_of_reserved hv hreserved _ _)
  case denied =>
    exact fun rd rs1 v p hv hhigh hmid hasks hpart hdenied =>
      insnAct_of_eq hissues (samplingControl_of_denied hv hhigh hmid hasks hpart hdenied _ _)

end Sys2Proof.Machine

/-! PROOF. The events that end tensor, sampling, mover and licence operations and posted blaze sets (R147, R185, R188, R190, R241, R242,
R297, R339, R380, R593), one lemma for each case; O30 from them. -/
namespace Sys2Proof.Machine

section
variable {name tile a : Nat} {tg : Tag} {c : Chip}

/-! ### Tensor operations (R185, R241, R242) -/

/-- The residue check of a tile found nothing: the operation goes on as it was (R241). -/
theorem tileEnd_of_passed (name tile a : Nat) (c : Chip) : tileEnd name tile a none c = c := by
  unfold tileEnd
  cases tensorOf c name <;> rfl

section
variable {o : TensorOp} (hop : tensorOf c name = some (tg, o)) (harrays : isSampler o = false)
  (hruns : tensorRuns c name = true)
include hop harrays hruns

/-- A failed check counts; a tile that was repeated already retires its array, another is marked and repeated (R241, R242). -/
theorem tileEnd_of_failed (hlive : bitOf (grove c (name / 256)).retiredArrays a = false) {c1 : Chip}
    (hcount : c1 = bump 0x2100 7 0 1 (setGrove (name / 256) { grove c (name / 256) with
      residueCount := satAdd 32 (grove c (name / 256)).residueCount 1 } c)) (tile col : Nat) :
    tileEnd name tile a (some col) c =
      if (grove c (name / 256)).repeated.contains (tg.serial, tile) then retireArray (name / 256) a col c1
      else emit (Src.grove (name / 256)) St.arithResidueRetry none [a, col]
        (modGrove (name / 256) (fun v => { v with repeated := v.repeated ++ [(tg.serial, tile)] }) c1) := by
  subst hcount
  simp only [tileEnd, hop, harrays, hruns, hlive, Bool.not_true, Bool.or_self, Bool.false_eq_true, if_false]

/-- A single pass whose operands stand ends with its results written, itself counted and its tag completed (R185). -/
theorem tensorDone_of_singlePass {ecc : Ecc} {n : Note} {c1 c2 : Chip}
    (hread : c1 = o.segs.foldl (fun c x => applyEcc (unalias (name / 256) (x.pa % 2 ^ 44)) x.len ecc c) c)
    (hpasses : runPasses (name / 256) o.segs (opPasses o) c1 = (St.ok, n, c2)) (hsingle : (opPasses o).length < 2) :
    tensorDone name ecc c = arithDone (name / 256) tg.serial n (finishTag name
      (if n.pois then St.poisonConsumed else St.ok) n.drops ((opPasses o).foldl (fun c p => countPass p c) c2)) := by
  subst hread
  simp only [tensorDone, hop, harrays, hruns, hpasses, Nat.not_le.mpr hsingle, Bool.not_true, Bool.or_self, Bool.false_eq_true,
    ne_eq, not_true_eq_false, if_true, if_false]

end

/-! ### Sampling operations (R380 to R384) -/

/-- The boxes of an operation's passes. -/
def boxCount (ps : List Pass) : Nat := ps.foldl (fun a p => a + p.1.m) 0

/-- The boxes with a coordinate that is not finite (R380). -/
def badBoxes (r : Rd) (ps : List Pass) : Nat :=
  ps.foldl (fun a p => a + (span 0 p.1.m).countP (r.boxBad (parseSm p.2))) 0

/-- The operation that its sampler serves ends with its results written, its boxes counted and its tag completed. -/
theorem samplingDone_of_served {o : TensorOp} {st : Status} {n : Note} {busy : Word} {c1 c2 c3 : Chip}
    (hop : tensorOf c name = some (tg, o)) (hserved : samplerServes c name = true)
    (hpasses : runPasses (name / 256) o.segs (opPasses o) c = (st, n, c1))
    (hcount : c2 = bump 0x2500 10 0 (badBoxes ⟨c, name / 256, o.segs⟩ (opPasses o)) (bump 0x2500 9 0 (boxCount (opPasses o))
      (bump 0x2500 8 0 1 (bump 0x5540 4 (servedBy c (name / 256 / 32)) 1 c1))))
    (hbusy : drawFree c2 = (busy, c3)) :
    samplingDone name false false c = arithDone (name / 256) tg.serial n (finishTag name
      (if n.pois then St.poisonConsumed
        else if badBoxes ⟨c, name / 256, o.segs⟩ (opPasses o) ≠ 0 then St.visBoxNonfinite else St.ok) n.drops
      (bump 0x5540 5 (servedBy c (name / 256 / 32)) busy.toNat c3)) := by
  subst hcount
  unfold badBoxes boxCount at hbusy
  simp only [samplingDone, hop, hserved, hpasses, hbusy, Bool.not_true, Bool.or_self, Bool.false_eq_true, if_false]
  rfl

/-! ### Mover chunks (R188, R297) -/

section
variable {o : MoverOp} (hop : chainOf c name = some (tg, o))
include hop

theorem moverChunk_of_going (hpaused : o.paused = false) (hwait : o.waitReq = none) (ecc : Ecc) :
    moverChunk name ecc c = chunkGo name ecc 4 c := by
  simp [moverChunk, hop, hpaused, hwait]

variable {d : MDesc} {r : List MDesc} {dva n dpa : Nat} {c1 : Chip} (hdescs : o.descs = d :: r)
  (hplace : chunkAt d o.row o.col = (dva, n)) (hxlate : xlate tg.owner .store dva c = (c1, .ok dpa))
  (hlocal : dpa / 2 ^ 44 = c1.moduleId)
include hdescs hplace hxlate hlocal

/-- A fill gathers nothing: its chunk of the pattern is written where the destination's checks pass. -/
theorem chunkGo_of_fill (hfill : d.kind = 1) (hpass : checkLocal c1 (threadPart c1 tg.owner) (some (name / 256))
      ((hart c tg.owner).priv == 3) (dpa % 2 ^ 44) n = none) (ecc : Ecc) (fuel : Nat) :
    chunkGo name ecc (fuel + 1) c = chunkWrite2 name dpa ecc (setChain name { o with
      got := (span dva n).map fun v => BitVec.ofNat 8 (d.src / 2 ^ (8 * (v % 8))), gotPois := List.replicate n false } c1) := by
  simp only [chunkGo, hop, hdescs, hplace, hxlate, hlocal, hpass, hfill, if_true]

/-- A destination refused ends the chain with the refusal's status. -/
theorem chunkGo_of_refused {st : Status} (hfail : checkLocal c1 (threadPart c1 tg.owner) (some (name / 256))
      ((hart c tg.owner).priv == 3) (dpa % 2 ^ 44) n = some st) (ecc : Ecc) (fuel : Nat) :
    chunkGo name ecc (fuel + 1) c = endChain name tg.serial st (countViolation st c1) := by
  simp only [chunkGo, hop, hdescs, hplace, hxlate, hlocal, hfail, if_true]

end

end

/-! ### Licence requests (R190, R593) -/

/-- A cycle of the Warden takes the requests that have come since the last one, then grants up to four (R593, R594). -/
theorem wardenCycle_of_requests {c c1 : Chip}
    (htaken : c1 = { c with pwr := { c.pwr with waits := c.pwr.waits.filter fun w => !w.fresh } }) :
    wardenCycle c = licGrants 4 ((c.pwr.waits.filter (·.fresh)).foldl (fun c w => licArrive w c) c1) := by
  subst htaken
  rfl

/-! ### Posted blaze sets (R147, R339) -/

section
variable {k : Nat} {x : PostedSet} {c c1 : Chip} (hposted : c.blz.posted[k]? = some x) (hnear : x.remote = none)
  (hready : setReady c x = true) (hc1 : c1 = { c with blz := { c.blz with posted := c.blz.posted.erase x } })
include hposted hnear hready hc1

theorem setPerformed_of_allocated {n : Nat} (hblaze : blazeAt c1 x.part x.index = some n) (hstate : (mapOf c1 x.part).state = 1)
    (hindex : x.index < (mapOf c1 x.part).bzCount) : setPerformed k c = setBlaze n (threadId c1 x.thread) c1 := by
  subst hc1
  simp [setPerformed, hposted, hnear, hready, hblaze, hstate, hindex]

theorem setPerformed_of_lost (hgone : blazeAt c1 x.part x.index = none) :
    setPerformed k c = refuseSet (some x.part) x.index (threadId c1 x.thread) St.addrPartViolation c1 := by
  subst hc1
  simp [setPerformed, hposted, hnear, hready, hgone]

end

/-- Settles O30: each event is `act` of its operation, whose effect in the clause's case the lemma of that operation gives. -/
theorem operationCompletionsTakeEffect : Obligations.OperationCompletionsTakeEffect := by
  refine fun s => ⟨?tilePassed, ?tileFailed, ?tensor, ?sampling, ?mover, ?warden, ?blazeSet⟩
  case tilePassed => exact fun name tile arr => act_settle_of_eq (tileEnd_of_passed _ _ _ _)
  case tileFailed =>
    rintro name tile arr col tg o g gr c1 hop harrays hruns rfl rfl hlive hcount
    have hend := tileEnd_of_failed hop harrays hruns hlive hcount tile col.toNat
    exact ⟨fun hfirst => act_settle_of_eq (hend.trans (if_neg (Bool.eq_false_iff.mp hfirst))),
      fun hsecond => act_settle_of_eq (hend.trans (if_pos hsecond))⟩
  case tensor =>
    rintro name ecc tg o g c1 c2 st n c3 hop harrays hruns rfl hread hpasses rfl hsingle rfl
    exact act_settle_of_eq (tensorDone_of_singlePass hop harrays hruns hread hpasses hsingle)
  case sampling =>
    rintro name tg o g c1 st n boxes bad busy c2 c3 hop hserved rfl hpasses rfl rfl hcount hbusy
    exact act_settle_of_eq (samplingDone_of_served hop hserved hpasses hcount hbusy)
  case mover =>
    rintro name ecc tg o d r dva n c1 dpa bs hop hpaused hwait hdescs hfill hplace hxlate hlocal rfl
    have hgoes := moverChunk_of_going hop hpaused hwait ecc
    exact ⟨fun hpass => act_settle_of_eq (hgoes.trans (chunkGo_of_fill hop hdescs hplace hxlate hlocal hfill hpass _ _)),
      fun st hfail => act_settle_of_eq (hgoes.trans (chunkGo_of_refused hop hdescs hplace hxlate hlocal hfail _ _))⟩
  case warden =>
    intro c1 hc1
    rw [← wardenCycle_of_requests hc1]
    rfl
  case blazeSet =>
    intro k x c1 hposted hnear hready hc1
    exact ⟨fun n hblaze hstate hindex =>
        act_settle_of_eq (setPerformed_of_allocated hposted hnear hready hc1 hblaze hstate hindex),
      fun hgone => act_settle_of_eq (setPerformed_of_lost hposted hnear hready hc1 hgone)⟩

end Sys2Proof.Machine

/-! PROOF. What memory reads as after a write and after a clear (R9, R291, R618), and O50 from it. -/
namespace Sys2Proof.Machine

section
variable {c : Chip} {a : Nat}

/-- A range reads as the bytes that its addresses hold, in order. -/
theorem memRead_eq_of_memByte {bs : Bytes} (hbytes : ∀ i < bs.length, memByte c (a + i) = nth 0 bs i) :
    memRead c a bs.length = bs := by
  induction bs generalizing a with
  | nil => rfl
  | cons b bs ih =>
    have hhead : memByte c a = b := hbytes 0 (Nat.zero_lt_succ _)
    have htail : memRead c (a + 1) bs.length = bs := ih fun i hi => by
      rw [Nat.add_right_comm]
      exact hbytes (i + 1) (Nat.succ_lt_succ hi)
    rw [List.length_cons, memRead, hhead, htail]

theorem memRead_memWrite (hwf : c.mem.wf = true) (bs : Bytes) (p : Bool) : memRead (memWrite a bs p c) a bs.length = bs :=
  memRead_eq_of_memByte fun i hi => by
    rw [memByte_memWrite hwf, if_pos ⟨Nat.le_add_right a i, Nat.add_lt_add_left hi a⟩, Nat.add_sub_cancel_left]

/-- A byte after a clear. -/
theorem memByte_memClear (hwf : c.mem.wf = true) (n j : Nat) :
    memByte (memClear a n c) j = if a ≤ j ∧ j < a + n then 0 else memByte c j := by
  simp only [Mem.wf, Bool.and_eq_true] at hwf
  obtain ⟨⟨hbytes, -⟩, -⟩ := hwf
  exact tget_tdrop hbytes

end

/-- Settles O50: the byte after a write and after a clear, and the canonical form that both keep. -/
theorem memoryReadsBackWhatIsWritten : Obligations.MemoryReadsBackWhatIsWritten :=
  fun _ a bs p hwf => ⟨memByte_memWrite hwf a bs p, memRead_memWrite hwf bs p, memWrite_wf hwf, memByte_memClear hwf,
    fun _ => memClear_wf hwf⟩

end Sys2Proof.Machine

/-! PROOF. Patrols, scrubs and clears (R281, R284 to R286, R293, R294), packets of engines (R310, R315), the ends of a queue's reset
(R329) and of a dump (R357), one lemma for each case; O31 from them. -/
namespace Sys2Proof.Machine

section
variable {c c1 : Chip}

/-! ### Patrols (R281, R284 to R286) -/

section
variable {a : Nat} (hpow : c.life.powered = true)
include hpow

theorem sramPatrol_of_sram (htier : tierOf a = .base ∨ tierOf a = .stand ∨ tierOf a = .grove) (ecc : Ecc) :
    sramPatrol a ecc c = applyEcc (a / 8 * 8) 8 ecc c := by
  obtain hbase | hstand | hgrove := htier
  · simp only [sramPatrol, hbase, hpow, if_true]
  · simp only [sramPatrol, hstand, hpow, if_true]
  · simp only [sramPatrol, hgrove, hpow, if_true]

/-- A line of a pass that is not the last of its region: the pass holds its licence from its first line on (log 10). -/
theorem dramPatrol_of_dram (hdram : isDram a = true)
    (hlicence : c1 = if hasGrant c 2 (a / 2 ^ 30) then c else
      { c with pwr := { c.pwr with engine := c.pwr.engine ++ [⟨2, a / 2 ^ 30, none, passWatts a⟩] } })
    (hgoesOn : a % 2 ^ 30 / 64 ≠ 2 ^ 24 - 1) (ecc : Ecc) :
    dramPatrol a ecc c = setObj 0x5480 6 (memchOf a) (patrolNext a) (applyEcc (a / 64 * 64) 64 ecc c1) := by
  subst hlicence
  simp only [dramPatrol, hpow, hdram, Bool.not_true, Bool.or_self, Bool.false_eq_true, if_false, if_neg hgoesOn]

theorem patrolLag_of_powered (us : Bool) (ctrl unread : Nat) :
    patrolLag us ctrl unread c = emit (if us then Src.us ctrl else Src.hbm ctrl) St.memPatrolLag none
      [b2n us, obj c 0x2200 (if us then 6 else 5), unread] c := by
  simp only [patrolLag, hpow, Bool.not_true, Bool.false_eq_true, if_false]

end

/-! ### The understory's scrub and the clears of released ranges (R293, R294) -/

theorem usRegionDone_of_next {k : Nat} {c2 : Chip} (hnext : (span 0 512).find? (fun i => !bitOf c.mem.usScrub i) = some k)
    (hready : c.mem.usReady ≠ 0) (hclear : c1 = memClear (usBase + k * 2 ^ 30) (2 ^ 30) c)
    (hmark : c2 = { c1 with mem := { c1.mem with usScrub := bitPut c1.mem.usScrub k true } }) :
    usRegionDone c = if k = 511 then emit Src.clear St.memScrubDone none [2 ^ 39, c2.mem.usBegan] c2 else c2 := by
  subst hmark hclear
  simp only [usRegionDone, hnext, if_neg hready]

theorem clearDone_of_cons {r : ClearRange} {rest : List ClearRange} (hclears : c.mem.clears = r :: rest) :
    clearDone c = emit Src.clear St.memClearDone none [r.tier, r.first, r.len]
      (memClear r.first r.len { c with mem := { c.mem with clears := rest } }) := by
  simp only [clearDone, hclears]

/-! ### Packets of engines (R310, R315) -/

section
variable {src : Source} {q : Nat} {hdr : Word} {hp : Bool} {rest : List (Word × Bool)}

/-- The module with an engine's packet open and its words pushed as far as the packet's length. -/
def enginePushed (src : Source) (q : Nat) (hdr : Word) (hp : Bool) (rest : List (Word × Bool)) (c : Chip) : Chip :=
  rest.foldl (fun c w => match openOf c (.engine src) q with
    | some o => if o.written < o.len then pushWord o w.1 w.2 c else c
    | none => c) (openPkt (.engine src) q hdr hp c)

theorem enginePutAs_of_refused (hrefused : headerCheck c (.engine src) q (hdr.toNat % 65536) ≠ St.ok) (hard bad : Bool) :
    enginePutAs hard src q ((hdr, hp) :: rest) bad c = (headerCheck c (.engine src) q (hdr.toNat % 65536),
      countRefusal q (headerCheck c (.engine src) q (hdr.toNat % 65536)) c) :=
  if_pos hrefused

theorem enginePutAs_of_open {o : OpenPkt} (hok : headerCheck c (.engine src) q (hdr.toNat % 65536) = St.ok)
    (hopen : openOf (enginePushed src q hdr hp rest c) (.engine src) q = some o) (hard bad : Bool) :
    enginePutAs hard src q ((hdr, hp) :: rest) bad c = (St.ok, if bad || decide (o.written < o.len)
      then rewind o (enginePushed src q hdr hp rest c) else commitPkt o hard (enginePushed src q hdr hp rest c)) :=
  calc enginePutAs hard src q ((hdr, hp) :: rest) bad c
    _ = match openOf (enginePushed src q hdr hp rest c) (.engine src) q with
        | none => (St.ok, enginePushed src q hdr hp rest c)
        | some o => if bad || decide (o.written < o.len) then (St.ok, rewind o (enginePushed src q hdr hp rest c))
          else (St.ok, commitPkt o hard (enginePushed src q hdr hp rest c)) := if_neg (not_not_intro hok)
    _ = _ := by rw [hopen, apply_ite (Prod.mk St.ok)]

section
variable {ws : List (Word × Bool)} {hard bad : Bool} {st : Status} (hput : enginePutAs hard src q ws bad c = (st, c1))
include hput

/-- A queue that gained no packet gives the welt nothing to take. -/
theorem putPacket_of_uncommitted (hsame : (queue c1 q).commits = (queue c q).commits) :
    putPacket hard src q ws bad c = (st, c1) := by
  simp only [putPacket, hput, if_pos hsame]

theorem putPacket_of_committed (hmore : (queue c1 q).commits ≠ (queue c q).commits) :
    putPacket hard src q ws bad c = (st, weltCommit q c1) := by
  simp only [putPacket, hput, if_neg hmore]

end

end

/-! ### The ends of a reset and of a dump (R329, R357) -/

theorem finishReset_of_resetting {q : Nat} (hresetting : (queue c q).state = 2) :
    finishReset q c = emit Src.queue St.qResetDone (queueOwner c q) [q, (queue c q).discarded]
      (setQueue q { queue c q with depth := 0, held := 0, discarded := 0, state := if (queue c q).enable then 1 else 0 } c) :=
  if_neg (not_not_intro hresetting)

theorem finishDump_of_copying (hcopying : c.blz.dumpState = 1) :
    finishDump c = emit Src.blaze St.bzDumpDone none [c.blz.dumpReason, c.blz.dumpTime]
      { c with blz := { c.blz with dumpState := 2 } } :=
  if_neg (not_not_intro hcopying)

end

/-- A packet of an engine, by what its put answers. -/
theorem exec_enginePacket_of_eq {s : State} {src : Source} {q : QNum} {ws : List (Word × Bool)} {bad : Bool} {st : Status} {c : Chip}
    (hput : putPacket false src q.toNat ws bad s.m = (st, c)) :
    exec (.enginePacket src q ws bad) s = .next { s with m := settle c } :=
  act_settle_of_eq (f := fun c => (putPacket false src q.toNat ws bad c).2) (congrArg Prod.snd hput)

/-- Settles O31: each event is `act` of its operation, whose effect in the clause's case the lemma of that operation gives. -/
theorem memoryAndQueueEventsTakeEffect : Obligations.MemoryAndQueueEventsTakeEffect := by
  refine fun s => ⟨?sram, ?dram, ?lag, ?scrub, ?clear, ?packet, ?reset, ?dump⟩
  case sram => exact fun a ecc hpow htier => act_settleMem_of_eq (sramPatrol_of_sram hpow htier ecc)
  case dram =>
    exact fun a ecc c1 hpow hdram hlicence hgoesOn => act_settleMem_of_eq (dramPatrol_of_dram hpow hdram hlicence hgoesOn ecc)
  case lag => exact fun us ctrl unread hpow => act_of_eq (patrolLag_of_powered hpow us ctrl.toNat unread)
  case scrub => exact fun k c1 c2 hnext hready hclear hmark => act_of_eq (usRegionDone_of_next hnext hready hclear hmark)
  case clear => exact fun r rest hclears => act_of_eq (clearDone_of_cons hclears)
  case packet =>
    intro src q hdr hp rest bad
    refine ⟨?refused, ?opened⟩
    case refused =>
      rintro hrefused c1 rfl hsame
      exact exec_enginePacket_of_eq (putPacket_of_uncommitted (enginePutAs_of_refused hrefused false bad) hsame)
    case opened =>
      rintro hok c1 o rfl hopen
      have hput := enginePutAs_of_open hok hopen false bad
      refine ⟨?whole, ?rewound⟩
      case whole =>
        rintro rfl hwhole hmore
        rw [Bool.false_or, if_neg (by simpa using hwhole)] at hput
        exact exec_enginePacket_of_eq (putPacket_of_committed hput hmore)
      case rewound =>
        intro hbad hsame
        rw [if_pos (by simpa using hbad)] at hput
        exact exec_enginePacket_of_eq (putPacket_of_uncommitted hput hsame)
  case reset => exact fun q hresetting => act_of_eq (finishReset_of_resetting hresetting)
  case dump => exact fun hcopying => act_of_eq (finishDump_of_copying hcopying)

end Sys2Proof.Machine

/-! PROOF. What a pop delivers, the queue it leaves and the cell it frees (R312, R316, Table 09-5), one lemma for each case; O59 from
them. -/
namespace Sys2Proof.Machine

/-- A value other than the default is listed, whatever the table's form. -/
theorem tget_tset_of_ne {α : Type} [DecidableEq α] {d v : α} (hv : v ≠ d) (t : Tbl α) (k j : Nat) :
    tget d (tset d t k v) j = if j = k then v else tget d t j := by
  rw [tset, if_neg hv, tget_tins]

/-- A queue in a state other than the default's is listed. -/
theorem queue_setQueue_same {v : Queue} (hstate : v.state ≠ 0) (q : Nat) (c : Chip) : queue (setQueue q v c) q = v :=
  (tget_tset_of_ne (fun h => hstate (congrArg Queue.state h)) c.queues q q).trans (if_pos rfl)

/-- The flags of a word tag are its lowest bits: WORD starts at bit 6, GEN and STITCH stand above it (Table 09-5). -/
theorem wordTag_flag {i : Nat} (hi : i < 6) (stitch gen word : Nat) (stopped boundOther last pois valid : Bool) :
    (wordTag stitch gen word stopped boundOther last pois valid).getLsbD i =
      [valid, pois, last, boundOther, stopped].getD i false := by
  have hflags : ∀ s b l p v : Bool, b2n s * 16 + b2n b * 8 + b2n l * 4 + b2n p * 2 + b2n v < 2 ^ 6 ∧
      ∀ i < 6, (b2n s * 16 + b2n b * 8 + b2n l * 4 + b2n p * 2 + b2n v).testBit i = [v, p, l, b, s].getD i false := by decide
  obtain ⟨hsmall, hbit⟩ := hflags stopped boundOther last pois valid
  have hsum : stitch * 2 ^ 32 + gen * 2 ^ 24 + word * 64 + b2n stopped * 16 + b2n boundOther * 8 + b2n last * 4 + b2n pois * 2 +
      b2n valid = 2 ^ 6 * (stitch * 2 ^ 26 + gen * 2 ^ 18 + word) +
        (b2n stopped * 16 + b2n boundOther * 8 + b2n last * 4 + b2n pois * 2 + b2n valid) := by omega
  rw [wordTag, BitVec.getLsbD_ofNat, hsum, Nat.testBit_two_pow_mul_add _ hsmall, if_pos hi, hbit i hi,
    decide_eq_true (by omega : i < 64), Bool.true_and]

/-! ### A freed cell (R312) -/

theorem freeCell_freed (k : Nat) (c : Chip) : (freeCell k c).pool.freed = c.pool.freed ++ [k] := rfl

/-- A cell whose record is given a next cell is listed, since a record by default names none. -/
theorem tget_tmod_of_next {f : CellRec → CellRec} (hnext : ∀ r, (f r).next ≠ none) (cells : Tbl CellRec) (k j : Nat) :
    tget {} (tmod {} cells k f) j = if j = k then f (tget {} cells k) else tget {} cells j :=
  tget_tset_of_ne (fun h => hnext _ (congrArg CellRec.next h)) cells k j

/-- The free list's old tail is linked to the freed cell, which may be that tail itself: its own record is written after. -/
theorem cell_freeCell_same (k : Nat) (c : Chip) :
    cell (freeCell k c) k = { cell c k with free := true, first := false, gen := ((cell c k).gen + 1) % 256, next := some 0 } := by
  cases htail : freeTail c.pool with
  | none => simp [cell, freeCell, htail, tget_tmod_of_next]
  | some tl =>
    by_cases htl : k = tl
    · subst htl
      simp [cell, freeCell, htail, tget_tmod_of_next]
    · simp [cell, freeCell, htail, tget_tmod_of_next, htl]

/-! ### The cases of a pop (R316) -/

/-- The queue after a pop by thread `t` of a word of its head packet `p`, which `rest` follows (R316, R318). -/
def afterPop (t : Nat) (u : Queue) (p : QPkt) (rest : List QPkt) : Queue :=
  { u with
    depth := u.depth - 1
    popped := if u.popped + 1 = p.len then 0 else u.popped + 1
    pkts := if u.popped + 1 = p.len then rest else u.pkts
    held := if u.popped % 32 = 31 ∨ u.popped + 1 = p.len then u.held - 1 else u.held
    bound := if u.popped + 1 = p.len then none else some t }

/-- The module after that pop: the queue, and the cell `k` of the word when the word is the last delivered of it (R312, R316). -/
def poppedChip (t q k : Nat) (p : QPkt) (rest : List QPkt) (c : Chip) : Chip :=
  bump 0x2300 8 0 1 (if (queue c q).popped % 32 = 31 ∨ (queue c q).popped + 1 = p.len
    then freeCell k (setQueue q (afterPop t (queue c q) p rest) c) else setQueue q (afterPop t (queue c q) p rest) c)

section
variable {t q : Nat} {c : Chip}

theorem popWord_of_stopped (hstopped : (queue c q).state ≠ 1) (parityBad : Bool) (ecc : Ecc) :
    popWord t q parityBad ecc c = (0, wordTag 0 0 0 true false false false false, c) :=
  if_pos hstopped

section
variable (henabled : (queue c q).state = 1)
include henabled

theorem popWord_of_empty (hempty : (queue c q).depth = 0) (parityBad : Bool) (ecc : Ecc) :
    popWord t q parityBad ecc c = (0, 0, c) := by
  simp [popWord, henabled, hempty]

section
variable (hwords : (queue c q).depth ≠ 0)
include hwords

theorem popWord_of_boundOther {b : Nat} (hbound : (queue c q).bound = some b) (hother : b ≠ t) (parityBad : Bool) (ecc : Ecc) :
    popWord t q parityBad ecc c = (0, wordTag 0 0 0 false true false false false, c) := by
  simp [popWord, henabled, hwords, hbound, hother]

/-- With no error in the word, the pop of a head packet that is bound to no other thread delivers and binds it. -/
theorem popWord_of_head {p : QPkt} {rest : List QPkt} {k : Nat} (hmine : ∀ b, (queue c q).bound = some b → b = t)
    (hpkts : (queue c q).pkts = p :: rest) (hcell : k = nth 0 p.cells ((queue c q).popped / 32)) :
    popWord t q false [] c = (tget 0 (cell c k).words ((queue c q).popped % 32),
      wordTag (cell c k).stitch (cell c k).gen (queue c q).popped false false (decide ((queue c q).popped + 1 = p.len))
        (bitOf (cell c k).pois ((queue c q).popped % 32)) true, poppedChip t q k p rest c) := by
  subst hcell
  cases hbound : (queue c q).bound with
  | none => simp [popWord, poppedChip, afterPop, applyEcc, eccBad, henabled, hwords, hpkts, hbound]
  | some b =>
    obtain rfl := hmine b hbound
    simp [popWord, poppedChip, afterPop, applyEcc, eccBad, henabled, hwords, hpkts, hbound]

end

theorem queue_poppedChip (k : Nat) (p : QPkt) (rest : List QPkt) :
    queue (poppedChip t q k p rest c) q = afterPop t (queue c q) p rest := by
  have hset := queue_setQueue_same (v := afterPop t (queue c q) p rest) (by simp [afterPop, henabled]) q c
  rw [poppedChip]
  split <;> exact hset

end

section
variable {k : Nat} {p : QPkt} {rest : List QPkt}

theorem poppedChip_pool_of_cellDone (hdone : (queue c q).popped % 32 = 31 ∨ (queue c q).popped + 1 = p.len) :
    (poppedChip t q k p rest c).pool = (freeCell k c).pool := by
  rw [poppedChip, if_pos hdone]
  rfl

theorem poppedChip_pool_of_cellGoesOn (hgoesOn : ¬ ((queue c q).popped % 32 = 31 ∨ (queue c q).popped + 1 = p.len)) :
    (poppedChip t q k p rest c).pool = c.pool := by
  rw [poppedChip, if_neg hgoesOn]
  rfl

end

end

/-- Settles O59: each case of R316 is the equation of `popWord` in it; what it leaves, the queue of `afterPop` and the freed cell. -/
theorem popIsDecidedInOrder : Obligations.PopIsDecidedInOrder := by
  rintro c t q u rfl
  refine ⟨fun par ecc hstopped => ?stopped, fun par ecc henabled hempty => ?empty,
    fun par ecc b henabled hwords hbound hother => ?boundOther, fun p rest k henabled hwords hmine hpkts hcell => ?delivered⟩
  case stopped => exact ⟨_, popWord_of_stopped hstopped par ecc, wordTag_flag (by decide) .., wordTag_flag (by decide) ..⟩
  case empty => exact ⟨_, popWord_of_empty henabled hempty par ecc, rfl, rfl⟩
  case boundOther =>
    exact ⟨_, popWord_of_boundOther henabled hwords hbound hother par ecc, wordTag_flag (by decide) .., wordTag_flag (by decide) ..⟩
  case delivered =>
    have hqueue := queue_poppedChip (t := t) henabled k p rest
    refine ⟨_, _, _, popWord_of_head henabled hwords hmine hpkts hcell, rfl, wordTag_flag (by decide) .., wordTag_flag (by decide) ..,
      congrArg Queue.depth hqueue, fun hdone => ?_, fun hgoesOn => ?_, fun hdone => ?_, poppedChip_pool_of_cellGoesOn⟩
    · exact (congrArg Queue.held hqueue).trans (if_pos hdone)
    · exact (congrArg Queue.held hqueue).trans (if_neg hgoesOn)
    · have hpool := poppedChip_pool_of_cellDone (t := t) (k := k) (rest := rest) hdone
      have hfreed : cell (poppedChip t q k p rest c) k = cell (freeCell k c) k := by rw [cell, hpool, cell]
      rw [cell_freeCell_same] at hfreed
      exact ⟨(congrArg Pool.freed hpool).trans (freeCell_freed k c), congrArg CellRec.free hfreed, congrArg CellRec.gen hfreed⟩

end Sys2Proof.Machine

/-! PROOF. What an underflow leaves: its blaze's count, the module-wide counter, and a record that touches neither (R347, R348); O60
from it and the equations of BCLR and BWAITC. -/
namespace Sys2Proof.Machine

/-! ### Counters and records -/

/-- Every object of the dictionary after a counter that starts at 0 has counted one event (R78). -/
theorem obj_bump_one {idx sub : Nat} {d : ObjDef} (hobj : objAt idx sub = some d) (hsize : 0 < d.size) (hstart : d.dflt = 0)
    (item : Nat) (c : Chip) (i s t : Nat) :
    obj (bump idx sub item 1 c) i s t =
      if objKey i s t = objKey idx sub item then satAdd (8 * d.size) (obj c idx sub item) 1 else obj c i s t := by
  have hdflt : objDflt idx sub = 0 := by simp [objDflt, hobj, hstart]
  have hcounted : satAdd (8 * d.size) (obj c idx sub item) 1 ≠ objDflt idx sub := hdflt ▸ satAdd_pos (by omega)
  simpa [bump, hobj] using obj_setObj (c := c) (item := item) hcounted i s t

/-- A record changes the collector and at most one of its two counters, 0x3200/3 and 0x3200/5 (R563, R566). -/
theorem emitRaw_cases (src : Source) (st : Status) (part : Option Nat) (detail : List Nat) (c : Chip) :
    ∃ f, emitRaw src st part detail c = { c with flt := f } ∨
      emitRaw src st part detail c = bump 0x3200 3 0 1 { c with flt := f } ∨
      emitRaw src st part detail c = bump 0x3200 5 0 1 { c with flt := f } := by
  unfold emitRaw
  dsimp only
  split
  case isTrue => exact ⟨_, .inr (.inl rfl)⟩
  case isFalse =>
    split
    · exact ⟨_, .inr (.inr rfl)⟩
    · exact ⟨_, .inl rfl⟩

/-- A record of a class below 4 moves no module state and restarts no shadow count (R561, R584). -/
theorem emit_eq_emitRaw {st : Status} (hclass : classByte st < 4) (src : Source) (part : Option Nat) (detail : List Nat)
    (c : Chip) : emit src st part detail c = emitRaw src st part detail c := by
  have hfour : ¬ 4 ≤ classByte st := by omega
  have hfive : classByte st ≠ 5 := by omega
  simp [emit, hfour, hfive]

theorem objAt_fltSuppressed : objAt 0x3200 3 = some ⟨3, 3, 0x04, 4, 5, 2, 0xF5, 0, 0, 4294967295⟩ := rfl
theorem objAt_fltFaults : objAt 0x3200 5 = some ⟨5, 5, 0x04, 4, 5, 2, 0xF5, 0, 0, 4294967295⟩ := rfl
theorem objAt_bzUnderflows : objAt 0x2400 3 = some ⟨3, 3, 0x04, 4, 5, 2, 0xF4, 0, 0, 4294967295⟩ := rfl

/-! ### The underflow (R347, R348) -/

/-- The module with an underflow of blaze `n` counted, for the blaze and for the module; `r` and `k` are what the blaze then keeps of
its last record and of the underflows since it (R348). -/
def underflowed (n : Nat) (r : Option Nat) (k : Nat) (c : Chip) : Chip :=
  setBlazeEnt n { blaze c n with underflows := min 0xFFFF ((blaze c n).underflows + 1), recAt := r, further := k }
    (bump 0x2400 3 0 1 c)

theorem blaze_congr {c c' : Chip} (hblz : c.blz = c'.blz) (j : Nat) : blaze c j = blaze c' j := by
  rw [blaze, hblz, blaze]

/-- A blaze that has counted an underflow is no longer the default and so is listed. -/
theorem blaze_underflowed (n : Nat) (r : Option Nat) (k : Nat) (c : Chip) (j : Nat) :
    blaze (underflowed n r k c) j =
      if j = n then { blaze c n with underflows := min 0xFFFF ((blaze c n).underflows + 1), recAt := r, further := k }
      else blaze c j := by
  have hlisted : ∀ u, min 0xFFFF (u + 1) ≠ 0 := by omega
  exact tget_tset_of_ne (fun h => hlisted _ (congrArg Blaze.underflows h)) c.blz.entries n j

theorem obj_underflowed (n : Nat) (r : Option Nat) (k : Nat) (c : Chip) :
    obj (underflowed n r k c) 0x2400 3 = min (2 ^ 32 - 1) (obj c 0x2400 3 + 1) := by
  have hbump : obj (underflowed n r k c) 0x2400 3 = satAdd 32 (obj c 0x2400 3) 1 :=
    (obj_bump_one objAt_bzUnderflows (by decide) rfl 0 c 0x2400 3 0).trans (if_pos rfl)
  rw [hbump, satAdd]
  split <;> omega

/-- The record of an underflow leaves the blazes, the module-wide count, the threads, memory and the queues as they are. -/
theorem emit_bzUnderflow_frame (part : Option Nat) (detail : List Nat) (c : Chip) :
    (emit Src.blaze St.bzUnderflow part detail c).blz = c.blz ∧
      obj (emit Src.blaze St.bzUnderflow part detail c) 0x2400 3 = obj c 0x2400 3 ∧
      (emit Src.blaze St.bzUnderflow part detail c).harts = c.harts ∧
      (emit Src.blaze St.bzUnderflow part detail c).mem = c.mem ∧
      (emit Src.blaze St.bzUnderflow part detail c).queues = c.queues := by
  rw [emit_eq_emitRaw (by decide)]
  obtain ⟨f, h | h | h⟩ := emitRaw_cases Src.blaze St.bzUnderflow part detail c
  · rw [h]
    exact ⟨rfl, rfl, rfl, rfl, rfl⟩
  · rw [h]
    exact ⟨rfl, (obj_bump_one objAt_fltSuppressed (by decide) rfl 0 _ 0x2400 3 0).trans (if_neg (by decide)), rfl, rfl, rfl⟩
  · rw [h]
    exact ⟨rfl, (obj_bump_one objAt_fltFaults (by decide) rfl 0 _ 0x2400 3 0).trans (if_neg (by decide)), rfl, rfl, rfl⟩

/-- An underflow is counted, and its record, where this stitch has none of the blaze yet, changes nothing of what is counted. -/
theorem underflow_frame (n index p who : Nat) (c : Chip) :
    ∃ r k, (underflow n index p who c).blz = (underflowed n r k c).blz ∧
      obj (underflow n index p who c) 0x2400 3 = obj (underflowed n r k c) 0x2400 3 ∧
      (underflow n index p who c).harts = c.harts ∧ (underflow n index p who c).mem = c.mem ∧
      (underflow n index p who c).queues = c.queues := by
  unfold underflow
  dsimp only
  split
  case isTrue => exact ⟨_, _, rfl, rfl, rfl, rfl, rfl⟩
  case isFalse => exact ⟨_, _, emit_bzUnderflow_frame _ _ (underflowed n _ _ c)⟩

/-! ### The statement -/

/-- Settles O60: BCLR and BWAITC as O26 gives them; a BCLR's underflow by `underflow_frame`. -/
theorem clearOfAClearBlazeUnderflows : Obligations.ClearOfAClearBlazeUnderflows := by
  intro s t c1 rs1 v p n rd hissues hv hclear hlocal hpart hblaze
  obtain ⟨-, -, -, hrows⟩ := blazeInstructionsComplete s t c1 rs1 v hissues hv
  obtain ⟨-, hset, hunset⟩ := hrows hclear hlocal p n rd hpart hblaze
  refine ⟨fun hfound => ?bclr, ?bwaitc⟩
  case bclr =>
    obtain ⟨hbclr, -, -⟩ := hunset hfound
    obtain ⟨r, k, hblz, hobj, hharts, hmem, hqueues⟩ := underflow_frame n (v % 512) p (threadId c1 t.toNat) c1
    have hentry := fun j => (blaze_congr hblz j).trans (blaze_underflowed n r k c1 j)
    refine ⟨_, hbclr, fun j => ?sets, fun j => ?counts, hobj.trans (obj_underflowed n r k c1), hharts, hmem, hqueues⟩
    all_goals rw [hentry]
    case sets =>
      by_cases hj : j = n
      · rw [if_pos hj, hj]
        exact ⟨rfl, rfl, rfl, rfl, rfl, rfl⟩
      · rw [if_neg hj]
        exact ⟨rfl, rfl, rfl, rfl, rfl, rfl⟩
    case counts => exact apply_ite Blaze.underflows _ _ _
  case bwaitc =>
    cases hfound : (blaze c1 n).set with
    | true => exact ⟨_, (hset hfound).2.2, rfl, fun hno => absurd hno (by decide), rfl⟩
    | false => exact ⟨_, (hunset hfound).2.2, rfl, fun _ => rfl, rfl⟩

end Sys2Proof.Machine

/-! PROOF. The end of a page move (R417, R418, R424), the kept responses of both engines tried again (R412, R430), and the commands of
policy firmware on the hook's port (R428, R454, R650), one lemma for each case; O34 from them. -/
namespace Sys2Proof.Machine

section
variable {c : Chip} {p : Nat}

/-! ### Page moves -/

/-- The content and the poison of the frame at `src` copied to the frame at `dst`, doubleword by doubleword. -/
def copyFrame (src dst : Nat) (c : Chip) : Chip :=
  forSpan 0 8192 c fun c i => memWrite (dst + i * 8) (memRead c (src + i * 8) 8) (wordPoison c (src + i * 8)) c

/-- A move of the list ends: what error correction finds in the frame behind takes effect before the copy, the page then stands in
the frame taken, and the waiting commands go on. -/
theorem kvMoveDone_of_move {k : Nat} {m : KvMove} (hmove : c.kv.moves[k]? = some m) (ecc : Ecc) :
    kvMoveDone k ecc c =
      let part := (kvSlot c m.slot).part
      let src := frameAddr c part (kvPage c m.slot m.idx).us ((kvPage c m.slot m.idx).frame.getD 0)
      kvAdvanceAll (bump 0x2600 (if m.back then 8 else 7) 0 1
        (modPage m.slot m.idx (fun g => { g with us := !m.back, move := 0, frame := some m.frame })
          (copyFrame src (frameAddr c part (!m.back) m.frame)
            (applyEcc src 65536 ecc { c with kv := { c.kv with moves := c.kv.moves.erase m } })))) := by
  rw [kvMoveDone, hmove]
  rfl

/-! ### Responses tried again -/

section
variable {ws : List Word} {kept : List (List Word)}

theorem kvRetry_of_kept (hkept : tget [] c.kv.blocked p = ws :: kept) :
    kvRetry p c = (ws :: kept).foldl (fun c ws => kvPush p ws c)
      { c with kv := { c.kv with blocked := tset [] c.kv.blocked p [] } } := by
  rw [kvRetry, hkept]

theorem srvRetry_of_kept (hkept : tget [] c.srv.blocked p = ws :: kept) :
    srvRetry p c = (ws :: kept).foldl (fun c ws => srvPush p ws c)
      { c with srv := { c.srv with blocked := tset [] c.srv.blocked p [] } } := by
  rw [srvRetry, hkept]

end

/-! ### The hook's port -/

section
variable {cmd : Nat} {ws : List Word}

/-- The three commands that R650 gives KV_PRESSURE, read from the pager's port while it runs. -/
theorem kvRead_of_hook (hruns : pressureRuns c p = true) (hcmd : bitsOf (nth 0 ws 0).toNat 63 56 = cmd)
    (hallowed : cmd = 5 ∨ cmd = 6 ∨ cmd = 7) :
    kvRead cmd p (some ws) c =
      kvCommand p 1 ws (if kvsOwner c ((nth 0 ws 1).toNat % 65536) = some p then c else denied c) := by
  have hpasses : (bitsOf (nth 0 ws 0).toNat 63 56 = cmd && (cmd = 5 || cmd = 6 || cmd = 7) && pressureRuns c p) = true := by
    rw [hcmd, hruns]
    simpa [or_assoc] using hallowed
  exact if_pos hpasses

/-- SEQ_CLOSE, the one command that R650 gives RECLAIM, read from the serving engine's port while it runs. -/
theorem srvRead_of_hook (hruns : reclaimRuns c = true) (hcmd : bitsOf (nth 0 ws 0).toNat 63 56 = 2) :
    srvRead 2 p (some ws) c =
      let sq := (nth 0 ws 1).toNat % 65536
      srvCommand p true false ws (if seqOwner c sq = some p && (seqRec c sq).state = 2 then denied c else c) := by
  have hpasses : (2 = 2 && bitsOf (nth 0 ws 0).toNat 63 56 = 2 && reclaimRuns c) = true := by
    rw [hcmd, hruns]
    rfl
  exact if_pos hpasses

end

end

/-! ### The statement -/

/-- Settles O34: each row is `act` of its operation, whose effect in the clause's case the lemma of that operation gives. -/
theorem pagerMovesAndRetriesComplete : Obligations.PagerMovesAndRetriesComplete := by
  refine fun s => ⟨?move, ?kvRetry, ?srvRetry, ?pressure, ?reclaim⟩
  case move =>
    rintro k ecc m pt src dst c1 c2 hmove rfl rfl rfl rfl rfl
    exact act_settleMem_of_eq (kvMoveDone_of_move hmove ecc)
  case kvRetry => exact fun p w l hkept => act_settle_of_eq (kvRetry_of_kept hkept)
  case srvRetry => exact fun p w l hkept => act_settle_of_eq (srvRetry_of_kept hkept)
  case pressure =>
    rintro p ws slot c1 hruns rfl rfl
    exact ⟨fun hprefetch => act_settle_of_eq (kvRead_of_hook hruns hprefetch (.inl rfl)),
      fun hspill => act_settle_of_eq (kvRead_of_hook hruns hspill (.inr (.inl rfl))),
      fun hclose => act_settle_of_eq (kvRead_of_hook hruns hclose (.inr (.inr rfl)))⟩
  case reclaim =>
    rintro p ws sq hruns rfl hcmd
    exact act_settle_of_eq (srvRead_of_hook hruns hcmd)

end Sys2Proof.Machine

/-! PROOF. The commands at the head of VID_REQ_Q (R459, R460, R463 to R466, R468, R470, R476), one lemma for each command in its case;
O35 from them. -/
namespace Sys2Proof.Machine

section
variable {c : Chip} {p tag count : Nat} {ws : List Word} {pics : List DecPic}

/-! ### The head of VID_REQ_Q -/

/-- A row whose command stands at the head, with no response of the partition blocked. -/
theorem vidRead_of_head {cmd : Nat} {k : QPkt} {rest : List QPkt} (hunblocked : (tget [] c.vid.blocked p).isEmpty = true)
    (hhead : headPacket c (obj c 0x5600 2 p) = some ws) (hpkts : (queue c (obj c 0x5600 2 p)).pkts = k :: rest)
    (hcmd : bitsOf (nth 0 ws 0).toNat 63 56 = cmd) :
    vidRead cmd p pics c = vidCommand p k.count ws pics (dropHead (obj c 0x5600 2 p) c) := by
  subst hcmd
  simp [vidRead, hunblocked, hhead, hpkts]

/-! ### The operation of a command (Table 14-4) -/

/-- The operation of each command number, on the fields of its words. -/
def vidOperation (p count : Nat) (ws : List Word) (pics : List DecPic) (cmd : Nat) : Chip → Chip :=
  let w (i : Nat) : Nat := (nth 0 ws i).toNat
  let tag := bitsOf (w 0) 55 40
  match cmd with
  | 1 => vidOpenCmd p tag (w 1)
  | 2 => vidDecodeCmd p tag (w 1) (w 2) (nth 0 ws 3) count pics
  | 3 => vidEncodeCmd p tag (w 1) (w 2) (nth 0 ws 3) count
  | 4 => vidReleaseCmd p tag (w 1)
  | 5 => vidEndCmd p tag (w 1) count
  | 6 => vidBsFreeCmd p tag (w 1)
  | _ => vidCloseCmd p tag (w 1)

theorem vidCommand_of_fits {cmd : Nat} (hcmd : bitsOf (nth 0 ws 0).toNat 63 56 = cmd) (hfits : vidFits cmd ws = true) :
    vidCommand p count ws pics c = vidOperation p count ws pics cmd c := by
  unfold vidOperation
  split <;> rw [vidCommand] <;> simp only [hcmd, hfits, Bool.not_true, Bool.false_eq_true, if_false]
  case h_7 hopen hdecode hencode hrelease hend hbsFree =>
    rw [if_neg hopen, if_neg hdecode, if_neg hencode, if_neg hrelease, if_neg hend, if_neg hbsFree]
  all_goals simp only [if_true, Nat.reduceEqDiff, if_false]

/-! ### What each command does once its checks pass -/

section
variable {w1 w2 : Nat} {user : Word} {v : VSession}

/-- OPEN (R463): the four checks in their order, and a session number that is free. -/
theorem vidOpenCmd_of_good {x : Nat} {c2 : Chip} (halign : w1 % 2 ^ 44 % 128 = 0) (hrange : rangeOk c p (w1 % 2 ^ 44) 128 = true)
    (hranges : vidRangesOk (memRead c (w1 % 2 ^ 44) 128) = true) (hsupported : vidSupported (memRead c (w1 % 2 ^ 44) 128) = true)
    (hbuffers : vidBuffersOk (memRead c (w1 % 2 ^ 44) 128) = true) (hplaces : vidPlacesOk c p (memRead c (w1 % 2 ^ 44) 128) = true)
    (hfree : choose ((span 0 48).filter fun i => (vses c i).isNone) c = (some x, c2)) :
    vidOpenCmd p tag w1 c =
      vidDone p 1 tag St.ok x (setVses x (some { part := p, desc := memRead c (w1 % 2 ^ 44) 128 }) c2) := by
  rw [vidOpenCmd]
  generalize w1 % 2 ^ 44 = a at *
  simp [halign, hrange, hranges, hsupported, hbuffers, hplaces, hfree]

/-- DECODE (R466). -/
theorem vidDecodeCmd_of_good (hv : vsesOf c p (w1 % 256) = some v) (hdir : Vd.enc v.desc = false) (hbytes : bitsOf w1 39 8 ≠ 0)
    (hrange : rangeOk c p (w2 % 2 ^ 44) (bitsOf w1 39 8) = true) :
    vidDecodeCmd p tag w1 w2 user count pics c =
      decGo (w1 % 256) (setVses (w1 % 256) (some { v with
        work := v.work ++ [⟨false, tag, user, count, (drawSerial c).1, pics, 0, 0⟩]
        stream := v.stream ++ memRead (drawSerial c).2 (w2 % 2 ^ 44) (bitsOf w1 39 8) }) (drawSerial c).2) := by
  rw [vidDecodeCmd]
  generalize w2 % 2 ^ 44 = a at *
  simp [hv, hdir, hbytes, hrange]

/-- The picture that an ENCODE without a map asks for (Table 14-4). -/
def encodeRequest (v : VSession) (w1 tag count order : Nat) (user : Word) : VEnc where
  num := v.encNum % 2 ^ 24
  src := bitsOf w1 15 8
  qp := if bitOf w1 17 then some (bitsOf w1 25 18) else none
  map := 0
  user := user
  reqTag := tag
  count := count
  order := order

/-- ENCODE (R470), of a FREE buffer and without a map. -/
theorem vidEncodeCmd_of_good (hv : vsesOf c p (w1 % 256) = some v) (hdir : Vd.enc v.desc = true)
    (hbuf : bitsOf w1 15 8 < Vd.bufCount v.desc) (hfree : vbuf v (bitsOf w1 15 8) = 0) (hmap : w2 % 2 ^ 44 = 0) :
    vidEncodeCmd p tag w1 w2 user count c =
      encGo (w1 % 256) (setVses (w1 % 256) (some (encAccept (encodeRequest v w1 tag count (drawSerial c).1 user) (bitOf w1 16)
        { putBuf (bitsOf w1 15 8) 1 v with encNum := v.encNum + 1 })) (drawSerial c).2) := by
  rw [vidEncodeCmd, encodeRequest, hmap]
  simp [hv, hdir, Nat.not_le.mpr hbuf, hfree]

/-- RELEASE (R464), of a buffer that is OUT. -/
theorem vidReleaseCmd_of_out (hv : vsesOf c p (w1 % 256) = some v) (hbuf : bitsOf w1 15 8 < Vd.bufCount v.desc)
    (hout : vbuf v (bitsOf w1 15 8) = 2) :
    vidReleaseCmd p tag w1 c = vidDone p 4 tag St.ok 0 (setVses (w1 % 256) (some (putBuf (bitsOf w1 15 8) 0 v)) c) := by
  simp [vidReleaseCmd, hv, Nat.not_le.mpr hbuf, hout]

/-- END of a decoding session (R468). -/
theorem vidEndCmd_of_decoding (hv : vsesOf c p (w1 % 256) = some v) (hdir : Vd.enc v.desc = false) :
    vidEndCmd p tag w1 count c =
      decGo (w1 % 256) (setVses (w1 % 256) (some { v with
        work := v.work ++ [⟨true, tag, 0, count, (drawSerial c).1, [], 0, v.outs⟩] }) (drawSerial c).2) := by
  simp [vidEndCmd, hv, hdir]

/-- BS_FREE (R476). -/
theorem vidBsFreeCmd_of_session (hv : vsesOf c p (w1 % 256) = some v) :
    vidBsFreeCmd p tag w1 c =
      vidDone p 6 tag St.ok 0 (setVses (w1 % 256) (some { v with ringUsed := v.ringUsed - w1 / 2 ^ 32 }) c) := by
  simp [vidBsFreeCmd, hv]

/-! CLOSE (R465): of an idle session, of one with work, and of a number that is no session of the partition. -/

theorem vidCloseCmd_of_idle (hv : vsesOf c p (w1 % 256) = some v) (hwork : vidOutstanding v = false)
    (hbufs : v.bufs.any (fun e => e.2 == 1) = false) :
    vidCloseCmd p tag w1 c = vidDone p 7 tag St.ok 0 (setVses (w1 % 256) none c) := by
  simp only [vidCloseCmd, hv, hwork, hbufs, Bool.or_false, Bool.false_eq_true, if_false]

theorem vidCloseCmd_of_outstanding (hv : vsesOf c p (w1 % 256) = some v) (hwork : vidOutstanding v = true) :
    vidCloseCmd p tag w1 c = vidDone p 7 tag St.vidBusy 0 c := by
  simp [vidCloseCmd, hv, hwork]

theorem vidCloseCmd_of_noSession (hv : vsesOf c p (w1 % 256) = none) :
    vidCloseCmd p tag w1 c = vidDone p 7 tag St.vidConfigBad 0 c := by
  simp [vidCloseCmd, hv]

end

end

/-! ### The statement -/

/-- Settles O35: each row reads its command at the queue's head, whose effect in the clause's case the lemma of that command gives. -/
theorem videoCommandsComplete : Obligations.VideoCommandsComplete := by
  rintro s p _ ws k rest _ _ _ _ _ rfl hunblocked hhead hpkts rfl rfl rfl rfl rfl
  have hread {cmd pics c'} (hcmd : bitsOf (nth 0 ws 0).toNat 63 56 = cmd) (hfits : vidFits cmd ws = true)
      (hc' : vidOperation p.toNat k.count ws pics cmd (dropHead (obj s.m 0x5600 2 p.toNat) s.m) = c') :
      act s (vidRead cmd p.toNat pics) = .next { s with m := c' } :=
    act_of_eq ((vidRead_of_head hunblocked hhead hpkts hcmd).trans ((vidCommand_of_fits hcmd hfits).trans hc'))
  refine ⟨?opens, ?decode, ?encode, ?release, ?ends, ?bsFree, fun hcmd hfits => ⟨?idle, ?busy, ?noSession⟩⟩
  case opens =>
    rintro _ x c2 hcmd hfits halign hrange rfl hranges hsupported hbuffers hplaces hfree
    exact hread hcmd hfits (vidOpenCmd_of_good halign hrange hranges hsupported hbuffers hplaces hfree)
  case decode =>
    rintro pics v o c2 hcmd hfits hv hdir hbytes hrange ⟨⟩
    exact hread hcmd hfits (vidDecodeCmd_of_good hv hdir hbytes hrange)
  case encode =>
    rintro v _ o c2 _ hcmd hfits hv hdir rfl hbuf hfree hmap ⟨⟩ rfl
    exact hread hcmd hfits (vidEncodeCmd_of_good hv hdir hbuf hfree hmap)
  case release =>
    rintro v _ hcmd hfits hv rfl hbuf hout
    exact hread hcmd hfits (vidReleaseCmd_of_out hv hbuf hout)
  case ends =>
    rintro v o c2 hcmd hfits hv hdir ⟨⟩
    exact hread hcmd hfits (vidEndCmd_of_decoding hv hdir)
  case bsFree =>
    exact fun v hcmd hfits hv => hread hcmd hfits (vidBsFreeCmd_of_session hv)
  case idle =>
    exact fun v hv hwork hbufs => hread hcmd hfits (vidCloseCmd_of_idle hv hwork hbufs)
  case busy =>
    exact fun v hv hwork => hread hcmd hfits (vidCloseCmd_of_outstanding hv hwork)
  case noSession =>
    exact fun hv => hread hcmd hfits (vidCloseCmd_of_noSession hv)

end Sys2Proof.Machine

/-! PROOF. The ends of video pieces and of the motion pass, preemption, the rate hook's deadline, the watchdog and the retries (R459,
R469, R472, R474 to R476, R478, R479, R484), one lemma for each event in its case; O36 from them. -/
namespace Sys2Proof.Machine

section
variable {c c1 : Chip} {k n : Nat} {v : VSession} {pic : VPic} {en : VEnc} {d : DecPic}

/-! ### Pieces (R472, R476) -/

section
variable {e : PieceEnd} (hcore : (vcore c k).ses = some n)
  (hended : c1 = coreFree k (modPiece n (vcore c k).piece (fun x => { x with st := 2, fin := some e }) c))
  (hv : vses c1 n = some v) (hcur : v.cur = some pic)
include hcore hended hv hcur

theorem pieceDone_of_encoded (henc : pic.enc = some en) :
    pieceDone k e c = vidSchedule (encPour n en (pic.pieces.length + 1) (bump 0x2800 11 0 e.boundStops c1)) := by
  simp only [pieceDone, hcore, ← hended, hv, hcur, henc]

theorem pieceDone_of_lastDecoded (henc : pic.enc = none) (hdec : pic.dec = some d)
    (hlast : (pic.pieces.all fun x => x.st == 2) = true) :
    pieceDone k e c = decFinish n v pic d 0 c1 := by
  simp only [pieceDone, hcore, ← hended, hv, hcur, henc, hdec, hlast, if_true]

theorem pieceDone_of_moreDecoded (henc : pic.enc = none) (hdec : pic.dec = some d)
    (hmore : (pic.pieces.all fun x => x.st == 2) = false) :
    pieceDone k e c = vidSchedule c1 := by
  simp only [pieceDone, hcore, ← hended, hv, hcur, henc, hdec, hmore, Bool.false_eq_true, if_false]

end

/-- A live-critical piece takes the core that it preempts (R479). -/
theorem vidPreemptNow_of_preempts (hpreempts : preemptsNow c k = true) (hcore : (vcore c k).ses = some n) :
    vidPreemptNow k c = vidSchedule (coreTake k (bump 0x2800 9 0 1
      (coreFree k (modPiece n (vcore c k).piece (fun x => { x with st := 0 }) c)))) := by
  simp [vidPreemptNow, hpreempts, hcore]

/-! ### Motion search and the rate decision (R474, R475) -/

section
variable {intra inter : Word} (hv : vses c n = some v) (hcur : v.cur = some pic)
include hv hcur

theorem motionDone_of_fixedQp {qp : Nat} (henc : pic.enc = some en) (hstage : pic.stage = 2) (hqp : en.qp = some qp) :
    motionDone n intra inter c =
      encDecided n qp (en.map != 0) { c with vid := { c.vid with record := rateRecord n v pic en intra inter } } := by
  simp [motionDone, hv, hcur, henc, hstage, hqp]

theorem motionDone_of_noRateControl (henc : pic.enc = some en) (hstage : pic.stage = 2) (hqp : en.qp = none)
    (hmode : bitOf (Vd.mode v.desc) 1 = false) :
    motionDone n intra inter c =
      encFallback n { c with vid := { c.vid with record := rateRecord n v pic en intra inter } } := by
  simp [motionDone, hv, hcur, henc, hstage, hqp, hmode]

theorem rateLate_of_waiting (hstage : pic.stage = 3) :
    rateLate n c = encFallback n (emit Src.vidSched St.vidRcLate (some v.part) [n, pic.num] (bump 0x2800 10 0 1 c)) := by
  simp [rateLate, hv, hcur, hstage]

end

/-! ### The watchdog (R484) -/

section
variable {unfinished : Nat} (hcore : (vcore c k).ses = some n) (hv : vses c n = some v) (hcur : v.cur = some pic)
  (hstopped : c1 = freeCoresOf n (emit (Src.video k) St.vidWatchdog (some v.part)
    [n, if pic.enc.isSome then pic.num else v.outs] (bump 0x2800 8 0 1 c)))
include hcore hv hcur hstopped

theorem watchdog_of_encoding (henc : pic.enc = some en) : watchdog k unfinished c = encAbandon n en St.vidWatchdog c1 := by
  simp only [watchdog, hcore, hv, hcur, ← hstopped]
  rw [henc]

theorem watchdog_of_decoding (henc : pic.enc = none) (hdec : pic.dec = some d) :
    watchdog k unfinished c = decFinish n v pic d (max 1 (min unfinished d.units)) c1 := by
  simp only [watchdog, hcore, hv, hcur, ← hstopped]
  rw [henc, hdec]

end

/-! ### Notices and responses tried again (R459, R469) -/

theorem vidOutRetry_of_session (hv : vses c n = some v) :
    vidOutRetry n c = v.notices.foldl (fun c ws => vidNotice n ws c) (setVses n (some { v with notices := [] }) c) := by
  rw [vidOutRetry, hv]

theorem vidRetry_of_kept {p : Nat} {ws : List Word} {kept : List (List Word)} (hkept : tget [] c.vid.blocked p = ws :: kept) :
    vidRetry p c = (ws :: kept).foldl (fun c ws => vidPush p ws c)
      { c with vid := { c.vid with blocked := tset [] c.vid.blocked p [] } } := by
  rw [vidRetry, hkept]

end

/-! ### The statement -/

/-- VID_RC_LATE of the session that RATE was called for. -/
theorem execVidRcLate_of_called {s : State} {n : Nat} {r : HookRun} {c : Chip} (hrun : hookRun s.m 1 = some r)
    (hcalled : r.call.arg = n) (hc : rateLate n s.m = c) : execVidRcLate n s = .next { s with m := c } := by
  refine act_of_eq ?_
  simp only [hrun, hcalled, if_true, hc]

/-- Settles O36: each event is `act` of its operation, whose effect in the clause's case the lemma of that operation gives. -/
theorem videoEventsComplete : Obligations.VideoEventsComplete := by
  refine fun s => ⟨?piece, ?preempt, ?motion, ?rcLate, ?watchdog, ?notices, ?responses⟩
  case piece =>
    intro k e n c1 v pic hcore hended hv hcur
    exact ⟨fun en henc => act_of_eq (pieceDone_of_encoded hcore hended hv hcur henc),
      fun d henc hdec hlast => act_of_eq (pieceDone_of_lastDecoded hcore hended hv hcur henc hdec hlast),
      fun d henc hdec hmore => act_of_eq (pieceDone_of_moreDecoded hcore hended hv hcur henc hdec hmore)⟩
  case preempt => exact fun k n hpreempts hcore => act_of_eq (vidPreemptNow_of_preempts hpreempts hcore)
  case motion =>
    rintro n intra inter v pic en _ hv hcur henc hstage rfl
    exact ⟨fun qp hqp => act_of_eq (motionDone_of_fixedQp hv hcur henc hstage hqp),
      fun hqp hmode => act_of_eq (motionDone_of_noRateControl hv hcur henc hstage hqp hmode)⟩
  case rcLate =>
    exact fun n r v pic hrun hcalled hv hcur hstage => execVidRcLate_of_called hrun hcalled (rateLate_of_waiting hv hcur hstage)
  case watchdog =>
    intro k u n v pic c1 hcore hv hcur hstopped
    exact ⟨fun en henc => act_of_eq (watchdog_of_encoding hcore hv hcur hstopped henc),
      fun d henc hdec => act_of_eq (watchdog_of_decoding hcore hv hcur hstopped henc hdec)⟩
  case notices => exact fun n v hv => act_of_eq (vidOutRetry_of_session hv)
  case responses => exact fun p ws kept hkept => act_of_eq (vidRetry_of_kept hkept)

end Sys2Proof.Machine

/-! PROOF. Codewords and their lock (R487, R490, R491), flits in and out of sequence (R493 to R497), training (R499, R500) and replay
(R495, R498), one lemma for each case; O37 from them. -/
namespace Sys2Proof.Machine

section
variable {c c1 : Chip} {p : Nat}

/-! ### Codewords (R487 to R491) -/

section
variable {bs : List Block} {n : Nat} (hstate : (port c p).state ≠ Pst.down)
  (hcounted : c1 = if decodes n then bump 0x5800 7 p n c else bump 0x5800 8 p 1 c)
include hstate hcounted

theorem codewordIn_of_unlocked (hunlocked : (port c1 p).locked = false) :
    codewordIn p bs n c = seekLock p (candidate bs n) (decodes n) c1 := by
  simp only [codewordIn, if_neg hstate, ← hcounted, hunlocked, Bool.not_false, if_true]

/-- A codeword after lock: the marker's position is checked first, and its blocks join the flits where lock is kept. -/
theorem codewordIn_of_locked (hlocked : (port c1 p).locked = true) :
    codewordIn p bs n c =
      if (port (holdLock p (candidate bs n) (decodes n) c1) p).locked then
        takeBlocks p ((if decide (4096 ≤ (port c1 p).sinceMark + 1) then bs.drop 1 else bs).map fun b => (decodes n && b.sync, b.bits))
          (holdLock p (candidate bs n) (decodes n) c1)
      else holdLock p (candidate bs n) (decodes n) c1 := by
  simp only [codewordIn, if_neg hstate, ← hcounted, hlocked, Bool.not_true, Bool.false_eq_true, if_false]

end

/-! ### Flits of a port that is UP (R493 to R497) -/

section
variable {f : BitVec 2048}

section
variable {kind : Nat} (htaken : c1 = takeFlit p f c) (hup : (port c1 p).state = Pst.up)
include htaken hup

/-- A valid flit of its row's kind does what the kind says, and then what its header says. -/
theorem flitIn_of_good (hgood : flitGood f = true) (hkind : flitKind f = kind) {g : Chip → Chip} {c2 : Chip} (hg : g c1 = c2) :
    flitIn p kind f g c = flitAck p f c2 := by
  simp only [flitIn, ← htaken, if_neg (not_not_intro hup), hgood, hkind, hg, Bool.not_true, ne_eq, not_true, decide_false,
    Bool.or_self, Bool.false_eq_true, if_false]

theorem flitIn_of_bad (hbad : flitGood f = false) (g : Chip → Chip) :
    flitIn p kind f g c = askReplay p (bump 0x5800 6 p 1 c1) := by
  simp only [flitIn, discardFlit, ← htaken, if_neg (not_not_intro hup), hbad, Bool.not_false, Bool.true_or, if_true]

end

/-- A DATA flit in sequence joins its VC, is counted, and is acknowledged by an IDLE flit of its own (log 20). -/
theorem dataFlit_of_inSequence (hseq : bitsOf (flitHead f) 11 0 = (port c p).rxSeq) :
    dataFlit p f c = sendPlain p 0 false [] (countFlits 1 p 1 (setPort p { port c p with
      rxSeq := ((port c p).rxSeq + 1) % 4096, nakSent := false,
      asm := tset [] (port c p).asm (bitsOf (flitHead f) 27 26)
        (tget [] (port c p).asm (bitsOf (flitHead f) 27 26) ++ [flitBody f]) } c)) :=
  if_neg (not_not_intro hseq)

theorem dataFlit_of_outOfSequence (hseq : bitsOf (flitHead f) 11 0 ≠ (port c p).rxSeq) : dataFlit p f c = askReplay p c :=
  if_pos hseq

/-! ### Training (R499, R500) -/

/-- A valid TRAIN flit in TRAINING is answered with one (log 17); it is counted, or is the third in a row. -/
theorem trainFlit_of_training (htaken : c1 = takeFlit p f c) (htraining : (port c1 p).state = Pst.training)
    (hgood : flitGood f = true) (hkind : flitKind f = 3) :
    trainFlit p f c = if (port c1 p).trains < 2 then setPort p { port c1 p with trains := (port c1 p).trains + 1 } (sendTrain p c1)
      else enterUp p (flitBody f) (sendTrain p c1) := by
  simp only [trainFlit, ← htaken, if_neg (not_not_intro htraining), hgood, hkind, Bool.not_true, ne_eq, not_true, decide_false,
    Bool.or_self, Bool.false_eq_true, if_false]

end

/-! ### Replay (R495, R498) -/

/-- A replay counts from the oldest flit without acknowledgement; the eighth that begins at it retrains the port. -/
theorem startReplay_of_cons {q n : Nat} {e : BitVec 2048} {rest : List (Nat × BitVec 2048)}
    (hbuffer : (port c p).replay = (q, e) :: rest)
    (hcount : n = if (port c p).replays != 0 && (port c p).replayFrom = q then (port c p).replays + 1 else 1)
    (hcounted : c1 = bump 0x5800 5 p 1 (setPort p { port c p with replays := n, replayFrom := q } c)) :
    startReplay p c = if 8 ≤ n then
        leaveUp p (emit (Src.link p) St.lnReplayLimit none [q, n] (modPort p (fun v => { v with replays := 0 }) c1))
      else ((q, e) :: rest).foldl (fun c x => send (.flit p x.2) c) (countFlits 0 p (rest.length + 1) c1) := by
  subst hcounted
  simp only [startReplay, hbuffer, ← hcount, List.length_cons]

/-- REPLAY_TIMEOUT of a port that is UP. -/
theorem execReplayTimeout_of_up {s : State} {p : Port} (hup : (port s.m p.toNat).state = Pst.up)
    (hreplay : startReplay p.toNat s.m = c) : execReplayTimeout p s = .next { s with m := c } :=
  act_of_eq ((if_pos hup).trans hreplay)

end

/-! ### The statement -/

/-- Settles O37: each row is `act` of its operation, whose effect in the clause's case the lemma of that operation gives. -/
theorem codewordsAndFlitsTakeEffect : Obligations.CodewordsAndFlitsTakeEffect := by
  refine fun s p => ⟨?codeword, ?good, ?bad, ?train, ?replay⟩
  case codeword =>
    refine fun bs n c1 hstate hcounted => ⟨fun hunlocked => act_of_eq (codewordIn_of_unlocked hstate hcounted hunlocked), ?_⟩
    rintro hlocked c2 rfl
    have hcodeword := codewordIn_of_locked (bs := bs) hstate hcounted hlocked
    exact ⟨fun hkept => act_of_eq (hcodeword.trans (if_pos hkept)),
      fun hlost => act_of_eq (hcodeword.trans (if_neg (Bool.eq_false_iff.mp hlost)))⟩
  case good =>
    rintro f c1 v htaken rfl hup hgood
    exact ⟨fun hkind hseq => act_of_eq (flitIn_of_good htaken hup hgood hkind (dataFlit_of_inSequence hseq)),
      fun hkind hseq => act_of_eq (flitIn_of_good htaken hup hgood hkind (dataFlit_of_outOfSequence hseq)),
      fun hkind => act_of_eq (flitIn_of_good htaken hup hgood hkind rfl),
      fun hkind => act_of_eq (flitIn_of_good htaken hup hgood hkind rfl)⟩
  case bad =>
    exact fun f c1 htaken hup hbad => ⟨act_of_eq (flitIn_of_bad htaken hup hbad _), act_of_eq (flitIn_of_bad htaken hup hbad _),
      act_of_eq (flitIn_of_bad htaken hup hbad _)⟩
  case train =>
    rintro f c1 v htaken rfl htraining hgood hkind
    have htrain := trainFlit_of_training htaken htraining hgood hkind
    exact ⟨fun hfew => act_settle_of_eq (htrain.trans (if_pos hfew)),
      fun hthird => act_settle_of_eq (htrain.trans (if_neg (Nat.not_lt.mpr hthird)))⟩
  case replay =>
    rintro v q e rest n c1 rfl hup hbuffer hcount hcounted
    have hreplay := startReplay_of_cons hbuffer hcount hcounted
    exact ⟨fun hfew => execReplayTimeout_of_up hup (hreplay.trans (if_neg (Nat.not_le.mpr hfew))),
      fun hlimit => execReplayTimeout_of_up hup (hreplay.trans (if_pos hlimit))⟩

end Sys2Proof.Machine

/-! PROOF. Request messages that pass Table 15-5 (R512, R515, R518), remote sets (R516, R517) and messages that fail steps 1 to 3
(R505), one lemma for each case; O38 from them. -/
namespace Sys2Proof.Machine

section
variable {c c1 c2 : Chip} {p : Nat} {m : Msg}

/-! ### Arrival (Table 15-5) -/

/-- A well formed message of a row's operation is taken as it is. -/
theorem asOp_of_op {k : Nat} (hform : malformed m = false) (hop : m.op = BitVec.ofNat 8 k) : asOp k m = m := by
  simp only [asOp, hform, Bool.false_eq_true, if_false, ← hop]

section
variable {inAlloc : MapEntry → Bool} {own : Chip → Option Status} {f : Chip → Chip}

/-- A request that passes every step has its effect. -/
theorem arriveReq_of_arrives (harrives : arrives p m inAlloc own c c1) : arriveReq p m inAlloc own f c = f c1 := by
  obtain ⟨haccepts, c2, c3, h123, h4, h5, hown, rfl⟩ := harrives
  simp only [arriveReq, haccepts, h123, h4, h5, hown, Bool.not_true, Bool.false_eq_true, if_false]

theorem arriveReq_of_unchecked (haccepts : accepting (takeMsg p m c) = true) (h123 : checks123 p m (takeMsg p m c) = (false, c2)) :
    arriveReq p m inAlloc own f c = c2 := by
  simp only [arriveReq, haccepts, h123, Bool.not_true, Bool.false_eq_true, if_false]

end

/-- A request to `n` bytes of memory passes every step: its range is in the partition's allocation, and its memory answers. -/
def arrivesMem (p : Nat) (m : Msg) (n : Nat) (c c1 : Chip) : Prop :=
  arrives p m (rangeIn c m.addr.toNat n) (fun c => targetMem c (m.dst.toNat / 4096) m.addr.toNat n) c c1

theorem arriveMem_of_arrives {n : Nat} (harrives : arrivesMem p m n c c1) {f : Chip → Chip} : arriveMem p m n f c = f c1 :=
  arriveReq_of_arrives harrives

/-! ### Requests to memory (R515) -/

section
variable {a : Nat} {ecc : Ecc} (ha : a = m.addr.toNat % 2 ^ 44) (hform : malformed m = false)
include ha hform

theorem writeIn_of_arrives (hop : m.op = 1) (harrives : arrivesMem p m m.len.toNat c c1) :
    writeIn p m ecc c = applyHeld (answer m 0x11 St.ok [] []
      (writePoison a (fit m.len.toNat m.body) (bytePoison m m.len.toNat) (eccStore a m.len.toNat ecc c1))) := by
  simp only [writeIn, asOp_of_op hform hop, arriveMem_of_arrives harrives, ← ha]

theorem readIn_of_arrives (hop : m.op = 2) (harrives : arrivesMem p m m.len.toNat c c1) (hread : c2 = applyEcc a m.len.toNat ecc c1) :
    readIn p m ecc c = applyHeld (answer m 0x12 St.ok (memRead c2 a m.len.toNat)
      (wordMap ((m.len.toNat + 7) / 8) ((span a m.len.toNat).map (wordPoison c2))) c2) := by
  simp only [readIn, asOp_of_op hform hop, arriveMem_of_arrives harrives, ← ha, ← hread]

/-- ATOMIC: the new value is written unless the word is poisoned (log 27). -/
theorem atomicIn_of_arrives {n : Nat} (hop : m.op = 3) (hatomic : atomicOk m = true) (hn : n = atomicWidth m)
    (harrives : arrivesMem p m n c c1) (hread : c2 = applyEcc a n ecc c1) :
    atomicIn p m ecc c = applyHeld (answer m 0x13 St.ok (fit 8 (memRead c2 a n)) [wordPoison c2 a]
      (if wordPoison c2 a then c2 else memWrite a (leBytes n (amoValue (leNat (m.body.take 1)) (8 * n) (leNat (memRead c2 a n))
        (leNat ((m.body.drop 8).take 8)))) false c2)) := by
  simp only [atomicIn, asOp_of_op hform hop, hatomic, if_true, ← hn, arriveMem_of_arrives harrives, ← ha, ← hread]

end

/-! ### Queue packets (R518) -/

theorem qpktIn_of_arrives {q : Nat} {st : Status} (hform : malformed m = false) (hop : m.op = 4) (hq : q = m.addr.toNat % 2 ^ 20)
    (harrives : arrives p m (fun e => decide (e.qFirst ≤ q) && decide (q < e.qFirst + e.qCount)) (fun _ => none) c c1)
    (hsegment : segmentIn p (m.src.toNat % 4096) q m c1 = (st, c2)) :
    qpktIn p m c = applyHeld (answer m 0x14 st [] [] c2) := by
  simp only [qpktIn, asOp_of_op hform hop, ← hq, arriveReq_of_arrives harrives, hsegment]

/-- The open packets that a port's sessions have, each with its sender. -/
def portPackets (c : Chip) (p : Nat) : List (Nat × OpenPkt) :=
  c.opens.filterMap fun o => match o.prod with
    | .port n src => if n = p then some (src, o) else none
    | _ => none

/-- Packets are broken one by one, each of its session and port (log 27). -/
theorem pktBroken_of_open {k src : Nat} {o : OpenPkt} (hopen : (portPackets c p)[k]? = some (src, o)) :
    pktBroken p k c = emit (Src.link p) St.lnPktBroken (queueOwner c o.q) [src, o.q, segCount c p src]
      (setSegs p src 0 (rewind o c)) := by
  change (match (portPackets c p)[k]? with | some (src, o) => breakPkt p src o c | none => c) = _
  rw [hopen]
  rfl

/-! ### Remote sets (R516, R517) -/

/-- A set that passes steps 1 to 4 is performed where its MARK is reached, and is held where it is not. -/
theorem setIn_of_checked {c3 : Chip} (haccepts : accepting (takeMsg p m c) = true)
    (h123 : checks123 p m (takeMsg p m c) = (true, c2)) (h4 : check4 p m c2 = (true, c3)) :
    setIn p m c = if markReached (noteCtr m c3) m then performSet m (noteCtr m c3)
      else { noteCtr m c3 with lnk := { (noteCtr m c3).lnk with held := (noteCtr m c3).lnk.held ++ [⟨p, m⟩] } } := by
  simp only [setIn, haccepts, h123, h4, Bool.not_true, Bool.false_eq_true, if_false]

theorem setLost_of_held {k : Nat} {h : HeldSet} (hheld : c.lnk.held[k]? = some h)
    (hdiscarded : c2 = { c with lnk := { c.lnk with held := c.lnk.held.eraseIdx k } }) :
    setLost k c = answer h.msg 0x15 St.lnAnnounceLost [] []
      (emit (Src.link h.port) St.lnAnnounceLost (some (h.msg.dst.toNat / 4096)) [h.msg.src.toNat % 4096, markOf h.msg,
        tget 0 (sess c2 (h.msg.src.toNat % 4096)).accepted 0, h.msg.addr.toNat % 512] c2) := by
  simp only [setLost, hheld, ← hdiscarded]

end

/-! ### The statement -/

/-- Settles O38: each row is `act` of its operation, whose effect in the clause's case the lemma of that operation gives. -/
theorem linkRequestsAreServed : Obligations.LinkRequestsAreServed := by
  intro s p m c1 a ha
  refine ⟨?write, ?read, ?atomic, ?packet, ?set, ?unchecked, ?lost, ?broken⟩
  case write =>
    exact fun ecc hop hform harrives => act_settle_of_eq (writeIn_of_arrives ha hform hop harrives)
  case read =>
    exact fun ecc c2 hop hform harrives hread => act_settle_of_eq (readIn_of_arrives ha hform hop harrives hread)
  case atomic =>
    intro ecc n c2 hop hform hatomic hn harrives hread
    have hin := atomicIn_of_arrives ha hform hop hatomic hn harrives hread
    refine ⟨fun hclean => ?clean, fun hpoisoned => ?poisoned⟩
    case clean =>
      rw [hclean, if_neg Bool.false_ne_true] at hin
      exact act_settle_of_eq hin
    case poisoned =>
      rw [hpoisoned, if_pos rfl] at hin
      exact act_settle_of_eq hin
  case packet =>
    exact fun q st c2 hop hform hq harrives hsegment => act_settle_of_eq (qpktIn_of_arrives hform hop hq harrives hsegment)
  case set =>
    intro c2 c3 hop hform haccepts h123 h4
    have hset := (congrArg (setIn p.toNat · s.m) (asOp_of_op hform hop)).trans (setIn_of_checked haccepts h123 h4)
    exact ⟨fun hreached => act_settle_of_eq (hset.trans (if_pos hreached)),
      fun hahead => act_settle_of_eq (hset.trans (if_neg (Bool.eq_false_iff.mp hahead)))⟩
  case unchecked =>
    intro ecc c2 hop hform haccepts h123
    have hwrite : writeIn p.toNat m ecc s.m = c2 := by
      rw [writeIn, asOp_of_op hform hop]
      exact arriveReq_of_unchecked haccepts h123
    exact act_settle_of_eq hwrite
  case lost => exact fun k h c2 hheld hdiscarded => act_of_eq (setLost_of_held hheld hdiscarded)
  case broken => exact fun k src o hopen => act_of_eq (pktBroken_of_open hopen)

end Sys2Proof.Machine

/-! PROOF. The messages of a handshake (R503, R504), a handshake without an answer, and the licence of a port (R589), one lemma for
each case; O40 from them. -/
namespace Sys2Proof.Machine

section
variable {c : Chip} {p : Nat} {h : Hand} {x : LinkSess}

/-! ### Handshakes (R503, R504) -/

/-- What a handshake message comes to: one that is refused fails the session at stage 3, one that is not verified at stage 2, and
else the handshake goes on as `good`. -/
def judged (p : Nat) (h : Hand) (good c : Chip) : Chip :=
  if h.refused then sessFail p h.peer.toNat 3 c
  else if !h.verified then sessFail p h.peer.toNat 2 c
  else good

section
variable {good : Chip}

theorem judged_refused (hrefused : h.refused = true) : judged p h good c = sessFail p h.peer.toNat 3 c := if_pos hrefused

theorem judged_unverified (hrefused : h.refused = false) (hverified : h.verified = false) :
    judged p h good c = sessFail p h.peer.toNat 2 c := by
  simp [judged, hrefused, hverified]

theorem judged_good (hrefused : h.refused = false) (hverified : h.verified = true) : judged p h good c = good := by
  simp [judged, hrefused, hverified]

end

section
variable (hx : x = sess c h.peer.toNat) (haccepts : accepting c = true)
include hx haccepts

/-- A HELLO is judged unless it crosses this module's own, which goes on where its module id is the lower (log 20). -/
theorem helloIn_of_joined (hjoined : ¬ (x.state = 1 ∧ x.opener = true ∧ c.moduleId < h.peer.toNat)) :
    helloIn p h c = judged p h (sendHand 0x31 h.peer.toNat
      (setSess h.peer.toNat { state := 1, peerInc := h.inc, transcript := h.transcript } c)) c := by
  subst hx
  have hnotLed : ¬ (decide ((sess c h.peer.toNat).state = 1) && (sess c h.peer.toNat).opener &&
      decide (c.moduleId < h.peer.toNat)) = true := by
    simpa [and_assoc] using hjoined
  simp only [helloIn, haccepts, Bool.not_true, Bool.false_eq_true, if_false, if_neg hnotLed]
  rfl

theorem replyIn_of_opener (hstate : x.state = 1) (hopener : x.opener = true) :
    replyIn p h c = judged p h (sessOpen h.peer.toNat (sendHand 0x32 h.peer.toNat
      (setSess h.peer.toNat { x with peerInc := h.inc, transcript := h.transcript } c))) c := by
  subst hx
  simp only [replyIn, haccepts, hstate, hopener, Bool.not_true, ne_eq, not_true, decide_false, Bool.or_self, Bool.false_eq_true,
    if_false]
  rfl

theorem finishedIn_of_answerer (hstate : x.state = 1) (hopener : x.opener = false) :
    finishedIn p h c = judged p h (sessOpen h.peer.toNat
      (setSess h.peer.toNat { x with peerInc := h.inc, transcript := h.transcript } c)) c := by
  subst hx
  simp only [finishedIn, haccepts, hstate, hopener, Bool.not_true, ne_eq, not_true, decide_false, Bool.or_self, Bool.false_eq_true,
    if_false]
  rfl

end

theorem noAnswer_of_opening {peer : Nat} (hstate : (sess c peer).state = 1) :
    noAnswer peer c = sessFail ((routePort c peer).getD 0) peer 1 c :=
  if_pos hstate

/-! ### The licence of a port (R589) -/

theorem portRelease_of_idle (hlicence : (port c p).licence = true) (hempty : (port c p).txq = []) :
    portRelease p c = dropGrant 3 p (setPort p { port c p with licence := false } c) := by
  simp only [portRelease, hlicence, hempty, List.isEmpty_nil, Bool.and_self, if_true]

end

/-! ### The statement -/

/-- Settles O40: each row is `act` of its operation, whose effect in the clause's case the lemma of that operation gives; a message
of a handshake goes by how it is judged. -/
theorem sessionsOpenAndFail : Obligations.SessionsOpenAndFail := by
  rintro s p h x n rfl hx haccepts
  refine ⟨?hello, ?reply, ?finished, ?timeout, ?licence⟩
  case hello =>
    intro hjoined
    have hhello := helloIn_of_joined (p := p.toNat) hx haccepts hjoined
    exact ⟨fun hrefused hverified => act_settle_of_eq (hhello.trans (judged_good hrefused hverified)),
      fun hrefused hverified => act_settle_of_eq (hhello.trans (judged_unverified hrefused hverified)),
      fun hrefused => act_settle_of_eq (hhello.trans (judged_refused hrefused))⟩
  case reply =>
    intro hstate hopener
    have hreply := replyIn_of_opener (p := p.toNat) hx haccepts hstate hopener
    exact ⟨fun hrefused hverified => act_settle_of_eq (hreply.trans (judged_good hrefused hverified)),
      fun hrefused hverified => act_settle_of_eq (hreply.trans (judged_unverified hrefused hverified))⟩
  case finished =>
    intro hstate hopener
    have hfinished := finishedIn_of_answerer (p := p.toNat) hx haccepts hstate hopener
    exact ⟨fun hrefused hverified => act_settle_of_eq (hfinished.trans (judged_good hrefused hverified)),
      fun hrefused => act_settle_of_eq (hfinished.trans (judged_refused hrefused))⟩
  case timeout => exact fun peer hstate => act_settle_of_eq (noAnswer_of_opening hstate)
  case licence => exact fun hlicence hempty => act_of_eq (portRelease_of_idle hlicence hempty)

end Sys2Proof.Machine

/-! PROOF. How a step goes (O1), and that each one answers a next state (O49). -/
namespace Sys2Proof.Machine

/-! ### Every step answers a next state -/

/-- Every command answers a next state with the queue as it was: each meaning is `act` of an operation on the module. -/
theorem exec_answers (i : Instr) (s : State) : ∃ c, exec i s = .next { s with m := c } := by
  cases i <;> exact ⟨_, rfl⟩

theorem step_of_pending_cons {s : State} {i : Instr} {rest : List Instr} (h : s.pending = i :: rest) :
    step s = exec i { s with pending := rest } := by
  simp only [step, h]

/-- Settles O1. -/
theorem stepRunsFrontCommand : Obligations.StepRunsFrontCommand := fun _ _ _ => step_of_pending_cons rfl

/-- Settles O49: an empty queue ticks, and every command answers a next state. -/
theorem everyCommandAnswersANextState : Obligations.EveryCommandAnswersANextState := by
  intro s
  cases hpending : s.pending with
  | nil => exact ⟨_, step_of_pending_nil hpending⟩
  | cons i rest =>
    obtain ⟨c, hnext⟩ := exec_answers i { s with pending := rest }
    exact ⟨_, (step_of_pending_cons hpending).trans hnext⟩

end Sys2Proof.Machine

/-! PROOF. What every step keeps: `Ok` over the fuses that the module starts from, command by command (Laws/KeepExec.lean); O47 and
O48 from it. -/
namespace Sys2Proof.Machine

section
variable {F : Fuse} {s s' : State}

/-! ### Every command and every step keeps `Ok` -/

/-- Every command keeps `Ok`, each by the lemma of its own meaning. -/
theorem exec_keeps {i : Instr} (hok : Ok F s.m) (h : exec i s = .next s') : Ok F s'.m := by
  cases i with
  | stitchBoundary => exact execStitchBoundary_keeps _ _ hok h
  | gptpSync => exact execGptpSync_keeps _ _ _ _ _ _ hok h
  | timeHoldover => exact execTimeHoldover_keeps _ _ hok h
  | timeLost => exact execTimeLost_keeps _ _ hok h
  | holdoverMaxS => exact execHoldoverMaxS_keeps _ _ _ _ _ _ hok h
  | counterSave => exact execCounterSave_keeps _ _ hok h
  | pendArm => exact execPendArm_keeps _ _ _ _ _ hok h
  | fdpDatagram => exact execFdpDatagram_keeps _ _ _ _ _ _ hok h
  | frerFrame port seq => exact execFrerFrame_keeps port seq _ _ hok h
  | frerResetTimeout => exact execFrerResetTimeout_keeps _ _ hok h
  | fdpPortLatent => exact execFdpPortLatent_keeps _ _ _ hok h
  | dtlsHandshake => exact execDtlsHandshake_keeps _ _ _ _ _ hok h
  | sessionIdleTimeout => exact execSessionIdleTimeout_keeps _ _ _ hok h
  | read => exact execRead_keeps _ _ _ _ hok h
  | write => exact execWrite_keeps _ _ _ _ _ hok h
  | readList => exact execReadList_keeps _ _ _ _ hok h
  | writeList => exact execWriteList_keeps _ _ _ _ _ hok h
  | windowRead => exact execWindowRead_keeps _ _ _ _ hok h
  | windowWrite => exact execWindowWrite_keeps _ _ _ _ _ hok h
  | recordFetch => exact execRecordFetch_keeps _ _ _ _ hok h
  | identify => exact execIdentify_keeps _ _ _ _ hok h
  | describe => exact execDescribe_keeps _ _ _ _ hok h
  | sessionClose => exact execSessionClose_keeps _ _ _ _ _ hok h
  | cbMbxDoorbell => exact execCbMbxDoorbell_keeps _ _ hok h
  | cbMbxAbort => exact execCbMbxAbort_keeps _ _ hok h
  | mbxBufferWrite => exact execMbxBufferWrite_keeps _ _ _ _ hok h
  | mbxResponse => exact execMbxResponse_keeps _ _ hok h
  | registerWrite => exact execRegisterWrite_keeps _ _ _ _ _ _ hok h
  | load => exact execLoad_keeps _ _ _ _ _ _ _ _ _ _ _ hok h
  | store => exact execStore_keeps _ _ _ _ _ _ _ _ _ _ hok h
  | amo => exact execAmo_keeps _ _ _ _ _ _ _ _ _ hok h
  | lrSc => exact execLrSc_keeps _ _ _ _ _ _ _ _ _ hok h
  | fence => exact execFence_keeps _ _ _ _ _ hok h
  | sfenceVma => exact execSfenceVma_keeps _ _ _ _ _ hok h
  | satpWrite => exact execSatpWrite_keeps _ _ _ _ _ hok h
  | partInfo => exact execPartInfo_keeps _ _ _ hok h
  | threadStart => exact execThreadStart_keeps _ _ _ hok h
  | threadStop => exact execThreadStop_keeps _ _ _ hok h
  | threadClass => exact execThreadClass_keeps _ _ _ hok h
  | tagQuota => exact execTagQuota_keeps _ _ _ hok h
  | tlbFlush => exact execTlbFlush_keeps _ _ _ hok h
  | tlbFlushDone => exact execTlbFlushDone_keeps _ _ _ hok h
  | queueReset => exact execQueueReset_keeps _ _ _ hok h
  | ckptCommit => exact execCkptCommit_keeps _ _ _ hok h
  | recoveryInfo => exact execRecoveryInfo_keeps _ _ _ hok h
  | rotHint => exact execRotHint_keeps _ _ _ hok h
  | sbiUnsupported => exact execSbiUnsupported_keeps _ _ _ hok h
  | contextSave => exact execContextSave_keeps _ _ _ hok h
  | contextRestore => exact execContextRestore_keeps _ _ _ _ hok h
  | prVfDoorbell => exact execPrVfDoorbell_keeps _ _ _ _ hok h
  | hostWindowRead => exact execHostWindowRead_keeps _ _ _ _ _ _ hok h
  | hostWindowWrite => exact execHostWindowWrite_keeps _ _ _ _ _ _ hok h
  | perstN => exact execPerstN_keeps _ _ _ _ hok h
  | extIllegal => exact execExtIllegal_keeps _ _ _ _ hok h
  | tensor => exact execTensor_keeps _ _ _ _ _ _ hok h
  | tensorTileEnd => exact execTensorTileEnd_keeps _ _ _ _ _ _ hok h
  | tensorComplete => exact execTensorComplete_keeps _ _ _ _ hok h
  | samplingComplete => exact execSamplingComplete_keeps _ _ _ _ _ hok h
  | move => exact execMove_keeps _ _ _ _ _ _ hok h
  | moverChunk => exact execMoverChunk_keeps _ _ _ _ hok h
  | lreq => exact execLreq_keeps _ _ _ _ _ hok h
  | lrel => exact execLrel_keeps _ _ _ _ hok h
  | licenceGrant => exact execLicenceGrant_keeps _ _ hok h
  | qpush => exact execQpush_keeps _ _ _ _ _ _ hok h
  | qcommit => exact execQcommit_keeps _ _ _ _ _ hok h
  | qabort => exact execQabort_keeps _ _ _ _ _ hok h
  | qpop => exact execQpop_keeps _ _ _ _ _ _ _ hok h
  | qcnt => exact execQcnt_keeps _ _ _ _ _ hok h
  | enginePacket => exact execEnginePacket_keeps _ _ _ _ _ _ hok h
  | qResetReq => exact execQResetReq_keeps _ _ _ _ _ _ hok h
  | qResetDone => exact execQResetDone_keeps _ _ _ hok h
  | bset => exact execBset_keeps _ _ _ _ hok h
  | blazeSetPerformed => exact execBlazeSetPerformed_keeps _ _ _ hok h
  | bclr => exact execBclr_keeps _ _ _ _ _ hok h
  | btest => exact execBtest_keeps _ _ _ _ _ hok h
  | bwait => exact execBwait_keeps _ _ _ _ _ hok h
  | bwaitc => exact execBwaitc_keeps _ _ _ _ _ hok h
  | twait => exact execTwait_keeps _ _ _ _ _ hok h
  | twaitr => exact execTwaitr_keeps _ _ _ _ _ hok h
  | ttest => exact execTtest_keeps _ _ _ _ _ hok h
  | treap => exact execTreap_keeps _ _ _ _ _ hok h
  | swait => exact execSwait_keeps _ _ _ _ hok h
  | sreadC => exact execSreadC_keeps _ _ _ _ hok h
  | sreadB => exact execSreadB_keeps _ _ _ _ hok h
  | sreadR => exact execSreadR_keeps _ _ _ _ hok h
  | smplctl => exact execSmplctl_keeps _ _ _ _ _ hok h
  | sramPatrol => exact execSramPatrol_keeps _ _ _ _ hok h
  | dramPatrolLine => exact execDramPatrolLine_keeps _ _ _ _ hok h
  | memPatrolLag => exact execMemPatrolLag_keeps _ _ _ _ _ hok h
  | usScrubRegionDone => exact execUsScrubRegionDone_keeps _ _ hok h
  | memClearDone => exact execMemClearDone_keeps _ _ hok h
  | bzSnapReq => exact execBzSnapReq_keeps _ _ _ _ _ hok h
  | bzRestoreReq => exact execBzRestoreReq_keeps _ _ _ _ _ hok h
  | dumpReq => exact execDumpReq_keeps _ _ _ _ _ hok h
  | bzDumpDone => exact execBzDumpDone_keeps _ _ hok h
  | kvpOpen => exact execKvpOpen_keeps _ _ _ _ hok h
  | kvpAppend => exact execKvpAppend_keeps _ _ _ _ hok h
  | kvpMap => exact execKvpMap_keeps _ _ _ _ hok h
  | kvpUnpin => exact execKvpUnpin_keeps _ _ _ _ hok h
  | kvpPrefetch => exact execKvpPrefetch_keeps _ _ _ _ hok h
  | kvpSpill => exact execKvpSpill_keeps _ _ _ _ hok h
  | kvpClose => exact execKvpClose_keeps _ _ _ _ hok h
  | kvpBucket => exact execKvpBucket_keeps _ _ _ _ hok h
  | kvPageMoveDone => exact execKvPageMoveDone_keeps _ _ _ _ hok h
  | kvRspBlocked => exact execKvRspBlocked_keeps _ _ _ hok h
  | seqOpen => exact execSeqOpen_keeps _ _ _ hok h
  | seqClose => exact execSeqClose_keeps _ _ _ _ hok h
  | pfxLookup => exact execPfxLookup_keeps _ _ _ hok h
  | pfxInsert => exact execPfxInsert_keeps _ _ _ hok h
  | pfxRemove => exact execPfxRemove_keeps _ _ _ hok h
  | admitReq => exact execAdmit_keeps _ _ _ hok h
  | stepDone => exact execStepDone_keeps _ _ _ hok h
  | refillArm => exact execRefillArm_keeps _ _ _ _ _ hok h
  | stageArm => exact execStageArm_keeps _ _ _ _ _ hok h
  | srvRspBlocked => exact execSrvRspBlocked_keeps _ _ _ hok h
  | vidOpen => exact execVidOpen_keeps _ _ _ hok h
  | vidDecode => exact execVidDecode_keeps _ _ _ _ hok h
  | vidEncode => exact execVidEncode_keeps _ _ _ hok h
  | vidRelease => exact execVidRelease_keeps _ _ _ hok h
  | vidEnd => exact execVidEnd_keeps _ _ _ hok h
  | vidBsFree => exact execVidBsFree_keeps _ _ _ hok h
  | vidClose => exact execVidClose_keeps _ _ _ hok h
  | videoPieceDone => exact execVideoPieceDone_keeps _ _ _ _ hok h
  | videoPreempt => exact execVideoPreempt_keeps _ _ _ hok h
  | motionLevel1Done => exact execMotionLevel1Done_keeps _ _ _ _ _ hok h
  | vidRcLate => exact execVidRcLate_keeps _ _ _ hok h
  | vidWatchdog => exact execVidWatchdog_keeps _ _ _ _ hok h
  | vidOutBlocked => exact execVidOutBlocked_keeps _ _ _ hok h
  | vidRspBlocked => exact execVidRspBlocked_keeps _ _ _ hok h
  | codeword => exact execCodeword_keeps _ _ _ _ _ hok h
  | flitData => exact execFlitData_keeps _ _ _ _ hok h
  | flitCredit => exact execFlitCredit_keeps _ _ _ _ hok h
  | flitIdle => exact execFlitIdle_keeps _ _ _ _ hok h
  | flitTrain => exact execFlitTrain_keeps _ _ _ _ hok h
  | replayTimeout => exact execReplayTimeout_keeps _ _ _ hok h
  | msgWrite => exact execMsgWrite_keeps _ _ _ _ _ hok h
  | msgRead => exact execMsgRead_keeps _ _ _ _ _ hok h
  | atomic => exact execAtomic_keeps _ _ _ _ _ hok h
  | qpkt => exact execQpkt_keeps _ _ _ _ hok h
  | writeAck => exact execWriteAck_keeps _ _ _ _ hok h
  | readResp => exact execReadResp_keeps _ _ _ _ hok h
  | atomicResp => exact execAtomicResp_keeps _ _ _ _ hok h
  | qpktAck => exact execQpktAck_keeps _ _ _ _ hok h
  | blazeAck => exact execBlazeAck_keeps _ _ _ _ hok h
  | blazeSet => exact execBlazeSet_keeps _ _ _ _ hok h
  | lnAnnounceLost => exact execLnAnnounceLost_keeps _ _ _ hok h
  | respTimeout => exact execRespTimeout_keeps _ _ _ hok h
  | lnPktBroken => exact execLnPktBroken_keeps _ _ _ _ hok h
  | hello => exact execHello_keeps _ _ _ _ hok h
  | helloReply => exact execHelloReply_keeps _ _ _ _ hok h
  | finished => exact execFinished_keeps _ _ _ _ hok h
  | sesOpen => exact execSesOpen_keeps _ _ _ _ _ _ hok h
  | portLicenceRelease => exact execPortLicenceRelease_keeps _ _ _ hok h
  | pairArm => exact execPairArm_keeps _ _ _ _ _ hok h
  | prFormFail => exact execPrFormFail_keeps _ _ hok h
  | laceTestEnd => exact execLaceTestEnd_keeps _ _ hok h
  | laceInChange => exact execLaceInChange_keeps _ _ _ hok h
  | gateOpen => exact execGateOpen_keeps _ _ hok h
  | prTieResolved => exact execPrTieResolved_keeps _ _ hok h
  | prLaceFault => exact execPrLaceFault_keeps _ _ hok h
  | mateSilent => exact execMateSilent_keeps _ _ hok h
  | mateHb => exact execMateHb_keeps _ _ _ hok h
  | digest => exact execDigest_keeps _ _ _ hok h
  | confirm => exact execConfirm_keeps _ _ _ hok h
  | boundary => exact execBoundary_keeps _ _ _ hok h
  | boundaryTimeout => exact execBoundaryTimeout_keeps _ _ hok h
  | yield => exact execYield_keeps _ _ _ hok h
  | prTakeover => exact execPrTakeover_keeps _ _ hok h
  | weltSend => exact execWeltSend_keeps _ _ _ hok h
  | weltRetry => exact execWeltRetry_keeps _ _ _ hok h
  | pairSwap => exact execPairSwap_keeps _ _ _ _ _ hok h
  | pairMode => exact execPairMode_keeps _ _ _ _ _ _ hok h
  | fenceNLow => exact execFenceNLow_keeps _ _ hok h
  | fltFenced => exact execFltFenced_keeps _ _ hok h
  | fenceNHigh => exact execFenceNHigh_keeps _ _ hok h
  | fltLogAdmit => exact execFltLogAdmit_keeps _ _ hok h
  | prtRestart => exact execPrtRestart_keeps _ _ _ _ _ _ hok h
  | rollArm => exact execRollArm_keeps _ _ _ _ _ hok h
  | admitAt => exact execAdmitAt_keeps _ _ _ _ _ _ hok h
  | fltPmDone => exact execFltPmDone_keeps _ _ hok h
  | pmClear => exact execPmClear_keeps _ _ _ _ _ hok h
  | pkgPowerSample => exact execPkgPowerSample_keeps _ _ _ _ hok h
  | pwrCurrentLimit => exact execPwrCurrentLimit_keeps _ _ _ hok h
  | pwrTjTrip => exact execPwrTjTrip_keeps _ _ _ hok h
  | floorLift => exact execFloorLift_keeps _ _ _ hok h
  | sensorReading => exact execSensorReading_keeps _ _ _ _ hok h
  | rthWindow => exact execRthWindow_keeps _ _ _ _ _ hok h
  | policyCap => exact execPolicyCap_keeps _ _ _ _ _ _ hok h
  | burstWindowClose => exact execBurstWindowClose_keeps _ _ hok h
  | burstRecoveryEnd => exact execBurstRecoveryEnd_keeps _ _ hok h
  | pwrBurstLimit => exact execPwrBurstLimit_keeps _ _ hok h
  | mapArm => exact execMapArm_keeps _ _ _ _ _ hok h
  | keyBlob => exact execKeyBlob_keeps _ _ _ _ _ _ _ hok h
  | secKeyInstalled => exact execSecKeyInstalled_keeps _ _ _ hok h
  | attGen => exact execAttGen_keeps _ _ _ _ _ _ hok h
  | attReady => exact execAttReady_keeps _ _ _ hok h
  | debugLock => exact execDebugLock_keeps _ _ _ _ _ hok h
  | fuseProg => exact execFuseProg_keeps _ _ _ _ _ _ _ _ _ hok h
  | fwErase => exact execFwErase_keeps _ _ _ _ _ hok h
  | fwEraseDone => exact execFwEraseDone_keeps _ _ hok h
  | fwChunk => exact execFwChunk_keeps _ _ _ _ _ _ hok h
  | fwCommit => exact execFwCommit_keeps _ _ _ _ _ hok h
  | fwTrial => exact execFwTrial_keeps _ _ _ _ _ _ hok h
  | fwConfirm => exact execFwConfirm_keeps _ _ _ _ _ hok h
  | fwRestart => exact execFwRestart_keeps _ _ _ _ _ hok h
  | fwLockstep => exact execFwLockstep_keeps _ _ _ hok h
  | hookReturn => exact execHookReturn_keeps _ _ _ _ hok h
  | fwHookLate => exact execFwHookLate_keeps _ _ _ hok h
  | prsntNLow => exact execPrsntNLow_keeps _ _ hok h
  | prsntDebounceEnd => exact execPrsntDebounceEnd_keeps _ _ hok h
  | powerInputInRange => exact execPowerInputInRange_keeps _ _ hok h
  | railsRamped => exact execRailsRamped_keeps _ _ _ _ hok h
  | l0Start => exact execL0Start_keeps _ _ hok h
  | bistDone failed repaired pIdle => exact execBistDone_keeps failed repaired pIdle _ _ hok h
  | dramTrained => exact execDramTrained_keeps _ _ hok h
  | hbmScrubDone => exact execHbmScrubDone_keeps _ _ hok h
  | linkTrainingDone => exact execLinkTrainingDone_keeps _ _ hok h
  | enterReady => exact execEnterReady_keeps _ _ hok h
  | timeNotLocked => exact execTimeNotLocked_keeps _ _ hok h
  | moduleResetReq => exact execModuleResetReq_keeps _ _ _ _ _ hok h
  | moduleReset => exact execModuleReset_keeps _ _ hok h
  | maintenanceReq => exact execMaintenanceReq_keeps _ _ _ _ _ hok h
  | latchNLow => exact execLatchNLow_keeps _ _ hok h
  | startLatch => exact execStartLatch_keeps _ _ hok h
  | prsntNHigh => exact execPrsntNHigh_keeps _ _ hok h
  | powerInputOutOfRange => exact execPowerInputOutOfRange_keeps _ _ hok h
  | brdInputDip => exact execBrdInputDip_keeps _ _ hok h
  | brdInputRange => exact execBrdInputRange_keeps _ _ hok h
  | brdHotswapTrip => exact execBrdHotswapTrip_keeps _ _ hok h
  | hotswapRetry => exact execHotswapRetry_keeps _ _ hok h
  | inletReading => exact execInletReading_keeps _ _ _ _ hok h
  | gptpAnnounce => exact execGptpAnnounce_keeps _ _ _ _ hok h
  | neighbourSolicitation => exact execNeighbourSolicitation_keeps _ _ _ _ _ hok h
  | dtlsRetransmit => exact execDtlsRetransmit_keeps _ _ hok h
  | fieldPortLinkChange => exact execFieldPortLinkChange_keeps _ _ _ _ hok h
  | pcieLinkChange => exact execPcieLinkChange_keeps _ _ _ _ _ hok h
  | ideKm => exact execIdeKm_keeps _ _ _ hok h
  | lnSessionFail => exact execLnSessionFail_keeps _ _ _ hok h
  | latchNHigh => exact execLatchNHigh_keeps _ _ hok h
  | latchNHighDebounceEnd => exact execLatchNHighDebounceEnd_keeps _ _ hok h
  | hookNotReturned => exact execHookNotReturned_keeps _ _ _ hok h
  | l1Trap => exact execL1Trap_keeps _ _ _ hok h
  | instructionFetch => exact execInstructionFetch_keeps _ _ _ _ _ hok h
  | vectorReduction => exact execVectorReduction_keeps _ _ _ _ _ _ _ _ hok h
  | csrWrite => exact execCsrWrite_keeps _ _ _ _ _ _ _ hok h
  | debugTap => exact execDebugTap_keeps _ _ _ hok h

/-- A step keeps `Ok`: it is a tick on an empty queue, and else the front command. -/
theorem step_keeps (hok : Ok F s.m) (h : step s = .next s') : Ok F s'.m := by
  cases hpending : s.pending with
  | nil =>
    rw [step_of_pending_nil hpending] at h
    cases h
    exact tick_keeps s.m hok
  | cons i rest =>
    rw [step_of_pending_cons hpending] at h
    exact exec_keeps (s := { s with pending := rest }) hok h

/-! ### `Ok` and the invariant -/

/-- A canonical fuse table holds its own bits. -/
theorem FuseKept_refl {t : Tbl Nat} (hwf : twf 0 t = true) : FuseKept t t := ⟨hwf, fun k => Nat.and_self (tget 0 t k)⟩

/-- A state that meets the invariant is `Ok` over its own fuses. -/
theorem Inv.ok (hinv : Inv s) : Ok s.m.fuse s.m := by
  obtain ⟨hmem, hstate, hlow, hhigh⟩ := hinv
  simp only [Mem.wf, Bool.and_eq_true] at hmem
  obtain ⟨⟨hbytes, hpoison⟩, hlines⟩ := hmem
  exact ⟨hbytes, hpoison, hlines, hstate, FuseKept_refl hlow, FuseKept_refl hhigh⟩

theorem Inv.of_ok (hok : Ok F s.m) : Inv s := by
  obtain ⟨hbytes, hpoison, hlines, hstate, ⟨hlow, -⟩, ⟨hhigh, -⟩⟩ := hok
  exact ⟨by simp only [Mem.wf, hbytes, hpoison, hlines, Bool.and_self], hstate, hlow, hhigh⟩

/-- A bit set in a word of a fuse table is set in every table that keeps it (R636). -/
theorem FuseKept.testBit {a b : Tbl Nat} (hkept : FuseKept a b) {w i : Nat} (hset : (tget 0 a w).testBit i = true) :
    (tget 0 b w).testBit i = true := by
  have hboth : (tget 0 a w &&& tget 0 b w).testBit i = true := by rw [hkept.2 w, hset]
  rw [Nat.testBit_and, hset, Bool.true_and] at hboth
  exact hboth

end

/-! ### The statements -/

/-- Settles O47: a state that meets `Inv` is `Ok`, which a step keeps and which gives `Inv` again. -/
theorem everyStepKeepsInvariant : Obligations.EveryStepKeepsInvariant :=
  fun _ _ hinv hstep => Inv.of_ok (step_keeps hinv.ok hstep)

/-- Settles O48: a step keeps `Ok` over the fuses of the state it starts from, whose tables it therefore keeps. -/
theorem fuseBitsOnlySet : Obligations.FuseBitsOnlySet := by
  intro s s' hinv hstep w i
  obtain ⟨-, -, -, -, hlow, hhigh⟩ := step_keeps hinv.ok hstep
  exact ⟨hlow.testBit, hhigh.testBit⟩

end Sys2Proof.Machine


/-! PROOF. The state after reset (R36, R676): O46. -/
namespace Sys2Proof.Machine

/-- The state after reset meets the invariant: its memory and its fuse tables list nothing. -/
theorem inv_reset : Inv State.reset where
  memory := rfl
  state := by decide
  fuseLow := rfl
  fuseHigh := rfl

/-- Settles O46: every table of the state after reset is empty, so that what it does not list reads as its default. -/
theorem resetMeetsInvariant : Obligations.ResetMeetsInvariant :=
  ⟨inv_reset, rfl, rfl, fun _ _ _ => rfl, fun _ => rfl, fun _ => rfl, fun _ => rfl, rfl, rfl, rfl⟩

end Sys2Proof.Machine

/-! PROOF. What the insertion pins, the input and the hot-swap stage do (R683 to R686, R695 to R698), one lemma for each case;
O4 from them. -/
namespace Sys2Proof.Machine

section
variable {c : Chip}

/-! ### The pins of insertion and of the latch (R683 to R686) -/

theorem prsntLow_of_high (hhigh : c.board.prsntN = true) :
    prsntLow c = { c with board := { c.board with prsntN := false, debounced := false } } :=
  if_pos hhigh

theorem prsntHeld_of_low (hlow : c.board.prsntN = false) :
    prsntHeld c = startRamp { c with board := { c.board with debounced := true } } :=
  if_neg (Bool.eq_false_iff.mp hlow)

/-- A running module is neither OFF nor FENCED. -/
theorem notOff_notFenced_of_running (hrun : running c = true) : c.life.mstate ≠ MState.off ∧ c.life.mstate ≠ MState.fenced := by
  simp only [running, Bool.and_eq_true, decide_eq_true_eq] at hrun
  simp only [MState.off, MState.fenced]
  omega

/-- LATCH_N low for 10 µs in a running module is the latch warning, with which FENCED is entered (R684). -/
theorem latchWarning_of_running (hlatch : c.board.latchN = false) (hrun : running c = true) :
    latchWarning c = enterFenced true c := by
  obtain ⟨hoff, hfenced⟩ := notOff_notFenced_of_running hrun
  simp only [latchWarning, hlatch, Bool.false_eq_true, if_false, hoff, hfenced]

/-- The start-up that a latch warning held begins again (R685). -/
theorem latchHeldHigh_of_waiting (hwait : c.life.latchWait = true) (hlatch : c.board.latchN = true)
    (hprsnt : c.board.prsntN = false) :
    latchHeldHigh c = startRamp { c with life := { c.life with latchHeld := false, latchWait := false } } := by
  simp only [latchHeldHigh, hwait, hlatch, hprsnt, Bool.not_false, Bool.and_self, if_true]

/-! ### The input (R696, R697) -/

theorem inputDip_of_on (hon : c.life.mstate ≠ MState.off) :
    inputDip c = emit (Src.cobbler 0) St.brdInputDip none [] (bump 0x4500 7 0 1 c) :=
  if_neg hon

/-- The first reading outside 48 V to 60 V is recorded. -/
theorem inputRange_of_first (hin : c.board.inputOk = true) (hon : c.life.mstate ≠ MState.off) (hfirst : c.board.rangeAt = none) :
    inputRange c = emit (Src.cobbler 0) St.brdInputRange none []
      { c with board := { c.board with rangeAt := some c.time.tsc } } := by
  simp [inputRange, hin, hon, hfirst, now]

/-- Within a second of the last record none is written. -/
theorem inputRange_of_recent {t : Nat} (hin : c.board.inputOk = true) (hon : c.life.mstate ≠ MState.off)
    (hsaid : c.board.rangeAt = some t) (hpast : t ≤ c.time.tsc) (hrecent : c.time.tsc < t + 1000000000) : inputRange c = c := by
  simp [inputRange, hin, hon, hsaid, now, Nat.not_le.mpr hrecent, Nat.not_lt.mpr hpast]

/-! ### The hot-swap stage (R698) -/

/-- The module with a trip counted and its stage turned off, to retry after a first trip and to stay off after a second. -/
def tripped (second : Bool) (c : Chip) : Chip :=
  powerOff { bump 0x4500 8 0 1 c with
    board := { c.board with tripped := true, tripAt := none, tripOff := !second, tripHold := second } }

theorem hotswapTrip_of_first (hon : c.life.mstate ≠ MState.off) (hfirst : c.board.tripAt = none) :
    hotswapTrip c = tripped false c := by
  simp only [hotswapTrip, hon, decide_false, Bool.false_and, Bool.false_eq_true, if_false, bump_board, hfirst, tripped]

theorem hotswapTrip_of_second {t : Nat} (hon : c.life.mstate ≠ MState.off) (hbefore : c.board.tripAt = some t)
    (hsoon : (c.time.tsc : Int) - c.life.stepped ≤ t + 59000000000) : hotswapTrip c = tripped true c := by
  simp only [hotswapTrip, hon, decide_false, Bool.false_and, Bool.false_eq_true, if_false, bump_board, hbefore, now, bump_time,
    bump_life, hsoon, decide_true, tripped]

theorem hotswapRetry_of_ramping {c1 : Chip} (htripped : c.board.tripOff = true)
    (hc1 : c1 = startRamp { c with board := { c.board with tripOff := false } }) (hramps : c1.board.ramping = true) :
    hotswapRetry c = { c1 with board := { c1.board with tripAt := some c1.time.tsc } } := by
  simp only [hotswapRetry, htripped, if_true, ← hc1, hramps, now]

end

/-! ### The statement -/

/-- Settles O4: each row is `act` of its operation, whose effect in the clause's case the lemma of that operation gives. -/
theorem insertionAndInputTakeEffect : Obligations.InsertionAndInputTakeEffect := by
  intro s
  refine ⟨?prsntLow, ?prsntHeld, rfl, rfl, rfl, rfl, ?latchWarning, rfl, ?latchHigh, ?inputDip, ?inputRange,
    ?tripFirst, ?tripSecond, ?retry⟩
  case prsntLow => exact fun hhigh => act_of_eq (prsntLow_of_high hhigh)
  case prsntHeld => exact fun hlow => act_of_eq (prsntHeld_of_low hlow)
  case latchWarning => exact fun hlatch hrun => act_settle_of_eq (latchWarning_of_running hlatch hrun)
  case latchHigh => exact fun hwait hlatch hprsnt => act_of_eq (latchHeldHigh_of_waiting hwait hlatch hprsnt)
  case inputDip => exact fun hon => act_of_eq (inputDip_of_on hon)
  case inputRange =>
    exact fun hin hon => ⟨fun hfirst => act_of_eq (inputRange_of_first hin hon hfirst),
      fun t hsaid hpast hrecent => act_of_eq (inputRange_of_recent hin hon hsaid hpast hrecent)⟩
  case tripFirst => exact fun hon hfirst => act_of_eq (hotswapTrip_of_first hon hfirst)
  case tripSecond => exact fun t hon hbefore hsoon => act_of_eq (hotswapTrip_of_second hon hbefore hsoon)
  case retry => exact fun htripped hramps => act_of_eq (hotswapRetry_of_ramping htripped rfl hramps)

end Sys2Proof.Machine

/-! PROOF. Formation and the lace (R526 to R537), takeover and the mate's silence (R542, R554 to R557), one lemma for each case; O41
from them. -/
namespace Sys2Proof.Machine

section
variable {c c1 : Chip}

/-! ### Formation (R526) -/

theorem formTimeout_of_waiting (hforming : c.pair.state = PSt.forming) (hstage : c.pair.stage = 2) :
    formTimeout c = failForm St.prFormFail c := by
  simp only [formTimeout, hforming, hstage, decide_true, Bool.and_self, if_true]

/-- Each mate sampled on LACE_IN the CLAIM that the other reports (R526 step 2). -/
def laceTestGood (c : Chip) : Bool :=
  decide ((c.pair.hb.map (·.laceIn)).getD false = c.pair.claim) && decide (c.pair.laceIn = (c.pair.hb.map (·.claim)).getD false)

theorem laceTestEnd_of_bad (hstage : c.pair.stage = 3 ∨ c.pair.stage = 4) (hbad : laceTestGood c = false) :
    laceTestEnd c = failForm St.prLaceFault c := by
  unfold laceTestGood at hbad
  obtain hfirst | hsecond := hstage
  · simp only [laceTestEnd, hfirst, if_true, hbad, Bool.not_false]
  · simp only [laceTestEnd, hsecond, if_true, hbad, Bool.not_false, Nat.reduceEqDiff, if_false]

/-- After a good first raise the former active claims, and the other mate's CLAIM is lowered. -/
theorem laceTestEnd_of_firstGood (hstage : c.pair.stage = 3) (hgood : laceTestGood c = true)
    (hc1 : c1 = modPair (fun p => { p with stage := 4 }) c) :
    laceTestEnd c = if obj c 0x3100 4 % 2 = 1 then
      if c1.pair.laceIn then modPair (fun p => { p with claimWant := true }) c1 else raiseClaim c1 else clearClaim c1 := by
  unfold laceTestGood at hgood
  simp only [laceTestEnd, hstage, if_true, hgood, Bool.not_true, Bool.false_eq_true, if_false, ← hc1]

/-- After a good second raise the active mate goes on with its CLAIM lowered. -/
theorem laceTestEnd_of_secondGood (hstage : c.pair.stage = 4) (hgood : laceTestGood c = true) (hactive : obj c 0x3100 4 % 2 = 1) :
    laceTestEnd c = modPair (fun p => { p with stage := 5 }) (clearClaim c) := by
  unfold laceTestGood at hgood
  simp only [laceTestEnd, hstage, Nat.reduceEqDiff, if_false, if_true, hgood, Bool.not_true, Bool.false_eq_true, hactive]

theorem exec_laceTestEnd_of_forming {s : State} (hforming : s.m.pair.state = PSt.forming) (h : laceTestEnd s.m = c) :
    exec .laceTestEnd s = .next { s with m := c } :=
  act_of_eq (f := fun c => if c.pair.state = PSt.forming then laceTestEnd c else c) ((if_pos hforming).trans h)

/-! ### The lace and the gate (R530 to R534, R554) -/

/-- A change of LACE_IN for which no raise of CLAIM waits is told to the mate in pair operation. -/
theorem laceInChange_of_noWant {high : Bool} (hc1 : c1 = modPair (fun p => { p with laceIn := high, gate := p.gate && !high }) c)
    (hwant : c1.pair.claimWant = false) :
    laceInChange high c = if c1.pair.state = PSt.unpaired then c1 else sendHb c1 := by
  simp only [laceInChange, ← hc1, hwant, Bool.and_false, Bool.false_eq_true, if_false]

/-- The conditions under which the gate opens (R530, Table 22-1). -/
def gateMayOpen (c : Chip) : Prop :=
  c.pair.claim = true ∧ c.pair.laceIn = false ∧ c.pair.fenceLow = false ∧ c.pair.gate = false ∧ gateState c = true

theorem gateOpen_of_notTaking (hopens : gateMayOpen c) (hstate : c.pair.state ≠ PSt.taking) :
    gateOpen c = modPair (fun p => { p with gate := true }) c := by
  obtain ⟨hclaim, hlace, hfence, hgate, hserves⟩ := hopens
  simp only [gateOpen, hclaim, hlace, hfence, hgate, hserves, Bool.not_false, Bool.and_self, if_true, hstate, if_false]

/-- A TAKING module whose gate opens serves alone, or as ACTIVE in a swap, and the takeover is counted, timed and recorded. -/
theorem gateOpen_of_taking (hopens : gateMayOpen c) (hstate : c.pair.state = PSt.taking) {c2 c3 : Chip}
    (hc1 : c1 = modPair (fun p => { p with gate := true }) c)
    (hc2 : c2 = modPair (fun p => { p with
      state := if c.pair.swap then PSt.active else PSt.solo, swap := false, yieldSeen := false }) c1)
    (hc3 : c3 = setObj 0x3100 16 0 (now c2) (bump 0x3100 12 0 1 c2)) :
    gateOpen c = sendHb (emit Src.welt St.prTakeover none [now c3] (markDups c3)) := by
  obtain ⟨hclaim, hlace, hfence, hgate, hserves⟩ := hopens
  simp only [gateOpen, hclaim, hlace, hfence, hgate, hserves, Bool.not_false, Bool.and_self, if_true, hstate]
  subst hc1 hc2 hc3
  rfl

theorem tieResolved_of_tie (hclaim : c.pair.claim = true) (hlace : c.pair.laceIn = true) (htie : c.pair.tie = false) :
    tieResolved c = emit Src.lace St.prTieResolved none [] (modPair (fun p => { p with state := PSt.yielded }) (clearClaim c)) := by
  simp only [tieResolved, hclaim, hlace, htie, Bool.not_false, Bool.and_self, if_true]

theorem laceFault_of_disagreement {h : Hb} (hhb : c.pair.hb = some h) (hpaired : c.pair.state ≠ PSt.unpaired)
    (hformed : c.pair.state ≠ PSt.forming) (hheard : c.pair.silent = false) (hdisagrees : h.claim ≠ c.pair.laceIn) :
    laceFault c = leaveSync St.prLaceFault (yieldPair St.prLaceFault
      (emit Src.lace St.prLaceFault none (laceDetail c) (modPair (fun p => { p with laceErr := true }) c))) := by
  simp only [laceFault, hhb, hpaired, hformed, hheard, hdisagrees, decide_false, Bool.or_self, Bool.false_eq_true, if_false]

/-! ### The mate's silence and takeover (R537, R542, R554, R555) -/

theorem mateQuiet_of_paired (hpaired : c.pair.state ≠ PSt.unpaired) (hformed : c.pair.state ≠ PSt.forming) :
    mateQuiet c = mateSilent c := by
  simp only [mateQuiet, hpaired, hformed, decide_false, Bool.or_self, Bool.false_eq_true, if_false]

section
variable (hc1 : c1 = modPair (fun p => { p with silent := true }) c)
include hc1

/-- Under PAIR_DEGRADE an ACTIVE module whose mate is silent serves alone. -/
theorem mateSilent_of_active (hactive : c1.pair.state = PSt.active) (hdegrade : obj c1 0x3100 9 = 1) :
    mateSilent c = emit Src.welt St.prSolo none [0] (modPair (fun p => { p with state := PSt.solo }) c1) := by
  simp only [mateSilent, ← hc1, hactive, hdegrade, if_true]

/-- A STANDBY whose silent mate still claims leaves synchrony. -/
theorem mateSilent_of_standby (hstandby : c1.pair.state = PSt.standby) (hlace : c1.pair.laceIn = true) :
    mateSilent c = leaveSync 0 c1 := by
  have hnotActive : PSt.standby ≠ PSt.active := by decide
  simp only [mateSilent, ← hc1, hstandby, hnotActive, if_false, hlace, decide_true, Bool.and_self, if_true]

end

theorem takeover_of_released (hstandby : c.pair.state = PSt.standby) (hlace : c.pair.laceIn = false)
    (hreleased : c.pair.yieldSeen = true ∨ c.pair.silent = true) :
    takeover c = raiseClaim (modPair (fun p => { p with state := PSt.taking }) c) := by
  have hmay : (c.pair.yieldSeen || c.pair.silent) = true := Bool.or_eq_true_iff.mpr hreleased
  simp only [takeover, hstandby, hlace, hmay, decide_true, Bool.not_false, Bool.and_self, if_true]

/-- Where the mate's BOUNDARY is late the mate is silent, and a module that serves alone settles its inputs alone. -/
theorem boundaryLate_of_waiting {n : Nat} (hwaits : c.pair.boundaryAt = some n)
    (hc1 : c1 = if c.pair.silent then c else mateSilent c) :
    boundaryLate c = if c1.pair.state = PSt.solo then settleInputs true (modPair (fun p => { p with boundaryAt := none }) c1)
      else c1 := by
  simp only [boundaryLate, hwaits, Option.isNone_some, Bool.false_eq_true, if_false, ← hc1]

end

/-! ### The statement -/

/-- Settles O41: each row is `act` of its operation, whose effect in the clause's case the lemma of that operation gives. -/
theorem pairFormationAndLaceAct : Obligations.PairFormationAndLaceAct := by
  intro s
  refine ⟨?formFail, ?laceTest, ?laceIn, ?gate, ?tie, ?laceFault, ?silent, ?takeover, ?boundary⟩
  case formFail => exact fun hforming hstage => act_of_eq (formTimeout_of_waiting hforming hstage)
  case laceTest =>
    intro ok hforming hok
    change ok = laceTestGood s.m at hok
    subst hok
    refine ⟨fun hstage hbad => ?bad, fun hstage hgood hrole => ?mateLowers, fun hstage hgood hrole hlace => ?activeRaises,
      fun hstage hgood hrole => ?second⟩
    case bad => exact exec_laceTestEnd_of_forming hforming (laceTestEnd_of_bad hstage hbad)
    case mateLowers =>
      have hstandby : ¬ obj s.m 0x3100 4 % 2 = 1 := by omega
      exact exec_laceTestEnd_of_forming hforming ((laceTestEnd_of_firstGood hstage hgood rfl).trans (if_neg hstandby))
    case activeRaises =>
      have hlow : ¬ s.m.pair.laceIn = true := Bool.eq_false_iff.mp hlace
      exact exec_laceTestEnd_of_forming hforming
        ((laceTestEnd_of_firstGood hstage hgood rfl).trans ((if_pos hrole).trans (if_neg hlow)))
    case second => exact exec_laceTestEnd_of_forming hforming (laceTestEnd_of_secondGood hstage hgood hrole)
  case laceIn =>
    intro high c1 hc1 hwant
    have hchange := laceInChange_of_noWant hc1 hwant
    exact ⟨fun hpaired => act_of_eq (hchange.trans (if_neg hpaired)), fun hunpaired => act_of_eq (hchange.trans (if_pos hunpaired))⟩
  case gate =>
    rintro hclaim hlace hfence hgate hserves c1 rfl
    have hopens : gateMayOpen s.m := ⟨hclaim, hlace, hfence, hgate, hserves⟩
    exact ⟨fun hstate => act_settle_of_eq (gateOpen_of_notTaking hopens hstate),
      fun hstate c2 c3 hc2 hc3 => act_settle_of_eq (gateOpen_of_taking hopens hstate rfl hc2 hc3)⟩
  case tie => exact fun hclaim hlace htie => act_of_eq (tieResolved_of_tie hclaim hlace htie)
  case laceFault =>
    exact fun h hhb hpaired hformed hheard hdisagrees =>
      act_of_eq (laceFault_of_disagreement hhb hpaired hformed hheard hdisagrees)
  case silent =>
    intro c1 hc1 hpaired hformed
    have hquiet := mateQuiet_of_paired hpaired hformed
    exact ⟨fun hactive hdegrade => act_of_eq (hquiet.trans (mateSilent_of_active hc1 hactive hdegrade)),
      fun hstandby hlace => act_of_eq (hquiet.trans (mateSilent_of_standby hc1 hstandby hlace))⟩
  case takeover =>
    exact fun hstandby hlace hreleased => act_of_eq (takeover_of_released hstandby hlace hreleased)
  case boundary =>
    intro n c1 hwaits hc1
    have hlate := boundaryLate_of_waiting hwaits hc1
    exact ⟨fun hsolo => act_settle_of_eq (hlate.trans (if_pos hsolo)),
      fun hpaired => act_settle_of_eq (hlate.trans (if_neg hpaired))⟩

end Sys2Proof.Machine

/-! PROOF. Mate messages that pass steps 1 to 3 of Table 15-5 (R526, R536, R540, R546, R548, R554) and the welt's sends (R545, R547,
R549), one lemma for each case; O42 from them. -/
namespace Sys2Proof.Machine

section
variable {c c1 : Chip} {m : Msg}

/-! ### Arrival (R536) -/

/-- A mate message of a row's operation that passes its checks has its row's effect. -/
theorem mateIn_of_mateSays {op : Nat} (hform : malformed m = false) (hop : m.op = BitVec.ofNat 8 op) (hsays : mateSays m c c1)
    (f : Bytes → Chip → Chip) : mateIn op m f c = f m.body c1 := by
  obtain ⟨haccepts, hpaired, hsender, c2, h123, rfl⟩ := hsays
  have hmate : ((takeMsg 15 m c).pair.state != PSt.unpaired && m.src.toNat % 4096 == mateId (takeMsg 15 m c)) = true := by
    simp [hpaired, hsender]
  simp only [mateIn, asOp_of_op hform hop, haccepts, hmate, h123, Bool.not_true, Bool.false_eq_true, if_false, if_true]

theorem act_mateIn_of_mateSays {s : State} {op : Nat} (hform : malformed m = false) (hop : m.op = BitVec.ofNat 8 op)
    (hsays : mateSays m s.m c1) {f : Bytes → Chip → Chip} (h : f m.body c1 = c) :
    act s (fun c => settle (mateIn op m f c)) = .next { s with m := settle c } :=
  act_settle_of_eq ((mateIn_of_mateSays hform hop hsays f).trans h)

section
variable {b : Bytes}

/-! ### MATE_HB (R526, R557) -/

section
variable {c2 : Chip} (hc2 : c2 = modPair (fun p => { p with hb := some (parseHb b) }) c)
include hc2

theorem hbIn_of_awaited (hforming : c2.pair.state = PSt.forming) (hstage : c2.pair.stage = 2) :
    hbIn b c = formHb (parseHb b) c2 := by
  simp only [hbIn, ← hc2, hforming, hstage, if_true]

theorem hbIn_of_mateFailed (hforming : c2.pair.state = PSt.forming) (hstage : 3 ≤ c2.pair.stage)
    (hmate : (parseHb b).state = PSt.unpaired) : hbIn b c = failForm St.prFormFail c2 := by
  have hnotAwaited : ¬ c2.pair.stage = 2 := by omega
  simp only [hbIn, ← hc2, hforming, hnotAwaited, hstage, hmate, decide_true, Bool.and_self, if_true, if_false]

theorem hbIn_of_active (hactive : c2.pair.state = PSt.active) : hbIn b c = c2 := by
  have hnotForming : PSt.active ≠ PSt.forming := by decide
  have hnotYielded : PSt.active ≠ PSt.yielded := by decide
  simp only [hbIn, ← hc2, hactive, hnotForming, hnotYielded, decide_false, Bool.false_and, Bool.false_eq_true, if_false]

end

section
variable {q n seq : Nat} (hq : q = mField b 0 4) (hn : n = mField b 8 8)
include hq hn

/-! ### DIGEST (R540, R546, R552) -/

/-- The mate's digest of an input goes to the packet, where it is held, and is else kept for it. -/
theorem digestIn_of_input (hkind : mField b 4 1 = 1) :
    digestIn b c = if c.pair.inp.any fun r => r.q == q && r.seq == n then
        modPair (fun p => { p with inp := p.inp.map fun r =>
          if r.q = q && r.seq = n then { r with mate := some (mField b 24 16) } else r }) c
      else modPair (fun p => { p with early := p.early ++ [(1, q, n, 0, mField b 24 16)] }) c := by
  subst hq hn
  exact if_pos hkind

variable (hseq : seq = mField b 16 2)
include hseq

/-- The mate's digest of an output is compared with the packet's own, where it is held, and is else kept for it. -/
theorem digestIn_of_output (hkind : mField b 4 1 = 0) :
    digestIn b c = if c.pair.eg.any fun e => e.q == q && e.count == n && e.seq == seq then
        compareEg q n seq (modPair (fun p => { p with eg := p.eg.map fun e =>
          if e.q = q && e.count = n && e.seq = seq then { e with mate := some (mField b 24 16) } else e }) c)
      else modPair (fun p => { p with early := p.early ++ [(0, q, n, seq, mField b 24 16)] }) c := by
  subst hq hn hseq
  have hnotInput : ¬ mField b 4 1 = 1 := by omega
  exact if_neg hnotInput

/-! ### CONFIRM (R548) -/

/-- A STANDBY frees its copy of the packet that is confirmed, or will when it commits it. -/
theorem confirmIn_of_standby (hstandby : c.pair.state = PSt.standby) :
    confirmIn b c = if c.pair.eg.any fun e => e.q == q && e.count == n && e.seq == seq then confirmEg q n seq c
      else modPair (fun p => { p with early := p.early ++ [(2, q, n, seq, 0)] }) c := by
  subst hq hn hseq
  have hsends : ¬ (decide (c.pair.state = PSt.active) || decide (c.pair.state = PSt.solo)) = true := by rw [hstandby]; decide
  exact if_neg hsends

end

/-! ### BOUNDARY and YIELD (R540, R554) -/

theorem boundaryIn_eq {n overs : Nat} (hn : n = mField b 0 8) (hovers : overs = mField b 8 2) :
    boundaryIn b c = if c.pair.boundaryAt = some n then mateBoundary n overs c
      else modPair (fun p => { p with mateBoundary := some (n * 65536 + overs) }) c := by
  subst hn hovers
  rfl

theorem yieldIn_of_standby (hstandby : c.pair.state = PSt.standby) :
    yieldIn b c = modPair (fun p => { p with yieldSeen := true, swap := decide (mField b 0 2 = St.prSwapDone.toNat) }) c :=
  if_pos hstandby

end

/-! ### The welt's sends (R545, R547, R549) -/

/-- The packet that a queue may send, if it is in the state that the row sends from, leaves with its segments. -/
theorem sendEg_of_ready {q want : Nat} {e : EgRec} {solo : Bool} {p : QPkt} {ws : List (Word × Bool)}
    (hready : egReady c q = some (e, solo)) (hfirst : e.dup = false)
    (hpkt : (queue c q).pkts.find? (fun p => p.count = e.count && p.seq = e.seq) = some p) (hws : ws = deliveredWords c e p solo)
    (hstate : e.st = want) :
    sendEg q want c = sendSegs ((queueOwner c q).getD 0) (egPeer c q) (egPeerQ c q) q e.count e.seq (ws.length / 512 + 1) true ws
      (modPair (fun x => { x with eg := x.eg.map fun y =>
        if y.q = q && y.count = e.count && y.seq = e.seq then { y with st := 1 } else y }) c) := by
  simp only [sendEg, hready, hstate, ne_eq, not_true, if_false, hpkt, ← hws, hfirst, Bool.false_eq_true]
  rfl

end

/-! ### The statement -/

/-- Settles O42: each message has its row's effect on the module that heard the mate, which the lemma of that effect gives; the
welt's rows go by the packet that is ready. -/
theorem mateMessagesAndTheWeltAct : Obligations.MateMessagesAndTheWeltAct := by
  intro s m c1 q n seq hform hq hn hseq
  refine ⟨fun hsays => ⟨?heartbeat, ?inputDigest, ?outputDigest, ?confirm, ?boundary, ?yield⟩, ?welt⟩
  case heartbeat =>
    intro c2 hop hc2
    exact ⟨fun hforming hstage => act_mateIn_of_mateSays hform hop hsays (hbIn_of_awaited hc2 hforming hstage),
      fun hforming hstage hmate => act_mateIn_of_mateSays hform hop hsays (hbIn_of_mateFailed hc2 hforming hstage hmate),
      fun hactive => act_mateIn_of_mateSays hform hop hsays (hbIn_of_active hc2 hactive)⟩
  case inputDigest =>
    intro hop hkind
    have hdigest := digestIn_of_input (c := c1) hq hn hkind
    exact ⟨fun hheld => act_mateIn_of_mateSays hform hop hsays (hdigest.trans (if_pos hheld)),
      fun hahead => act_mateIn_of_mateSays hform hop hsays (hdigest.trans (if_neg (Bool.eq_false_iff.mp hahead)))⟩
  case outputDigest =>
    intro hop hkind
    have hdigest := digestIn_of_output (c := c1) hq hn hseq hkind
    exact ⟨fun hheld => act_mateIn_of_mateSays hform hop hsays (hdigest.trans (if_pos hheld)),
      fun hahead => act_mateIn_of_mateSays hform hop hsays (hdigest.trans (if_neg (Bool.eq_false_iff.mp hahead)))⟩
  case confirm =>
    intro hop
    refine ⟨fun hstandby hheld => ?held, fun hstandby hahead => ?ahead⟩
    case held =>
      exact act_mateIn_of_mateSays hform hop hsays ((confirmIn_of_standby hq hn hseq hstandby).trans (if_pos hheld))
    case ahead =>
      exact act_mateIn_of_mateSays hform hop hsays
        ((confirmIn_of_standby hq hn hseq hstandby).trans (if_neg (Bool.eq_false_iff.mp hahead)))
  case boundary =>
    intro b overs hop hb hovers
    have hboundary := boundaryIn_eq (c := c1) hb hovers
    exact ⟨fun hpassed => act_mateIn_of_mateSays hform hop hsays (hboundary.trans (if_pos hpassed)),
      fun hahead => act_mateIn_of_mateSays hform hop hsays (hboundary.trans (if_neg hahead))⟩
  case yield => exact fun hop hstandby => act_mateIn_of_mateSays hform hop hsays (yieldIn_of_standby hstandby)
  case welt =>
    intro qn e solo p ws hready hfirst hpkt hws
    exact ⟨fun hwaits => act_settle_of_eq (sendEg_of_ready hready hfirst hpkt hws hwaits),
      fun hrefused => act_settle_of_eq (sendEg_of_ready hready hfirst hpkt hws hrefused)⟩

end Sys2Proof.Machine

/-! PROOF. The fence line (R530, R531, R572), the fault log (R563, R564) and the post-mortem bundle (R575), one lemma for each case;
O43 from them. -/
namespace Sys2Proof.Machine

section
variable {c c1 : Chip}

/-! ### FENCE_N (R530, R531, R572) -/

theorem fenceDown_of_claiming (hclaim : c.pair.claim = true) :
    fenceDown c = modPair (fun p => { p with claimWant := true })
      (clearClaim (modPair (fun p => { p with fenceLow := true, gate := false }) c)) :=
  if_pos hclaim

theorem fenceDown_of_notClaiming (hclaim : c.pair.claim = false) :
    fenceDown c = modPair (fun p => { p with fenceLow := true, gate := false }) c :=
  if_neg (Bool.eq_false_iff.mp hclaim)

/-- FENCE_N low for 1 µs, with the latch open, fences a module that is neither OFF, FENCED nor FAILED. -/
theorem fenceHeld_of_inService (hlow : c.pair.fenceLow = true) (hlatch : c.board.latchN = true) (hoff : c.life.mstate ≠ MState.off)
    (hfenced : c.life.mstate ≠ MState.fenced) (hfailed : c.life.mstate ≠ MState.failed) :
    fenceHeld c = saveTime (startBundle 1 (emit Src.fault St.fltFenced none [c.life.mstate]
      (enterState MState.fenced (haltThreads (endSessions (standDown St.fltFenced c)))))) := by
  have hserves : (c.life.mstate == MState.off || c.life.mstate == MState.fenced || c.life.mstate == MState.failed) = false := by
    simp [hoff, hfenced, hfailed]
  simp only [fenceHeld, hlow, if_true, hlatch, Bool.not_true, enterFenced, hserves, Bool.false_and, Bool.false_eq_true, if_false]

section
variable (hlow : c.pair.fenceLow = true) (hc1 : c1 = modPair (fun p => { p with fenceLow := false }) c)
include hlow hc1

/-- FENCE_N high again: a stopped module stays as it is, FENCED lets a held reset begin, and any other state records a glitch. -/
theorem fenceUp_of_low : fenceUp c =
    if c.life.mstate = MState.off || c.life.mstate = MState.failed then c1
    else if c.life.mstate = MState.fenced then (if c.life.held then moduleReset c1 else c1)
    else if (emit Src.fault St.fltFenceGlitch none [] c1).pair.claimWant then
      raiseClaim (emit Src.fault St.fltFenceGlitch none [] c1)
    else emit Src.fault St.fltFenceGlitch none [] c1 := by
  have hwasLow : ¬ (!c.pair.fenceLow) = true := by simp [hlow]
  subst hc1
  exact if_neg hwasLow

theorem fenceUp_of_stopped (hstopped : c.life.mstate = MState.off ∨ c.life.mstate = MState.failed) : fenceUp c = c1 :=
  (fenceUp_of_low hlow hc1).trans (if_pos (by simpa using hstopped))

/-- A reset that FENCED held begins (R681). -/
theorem fenceUp_of_held (hfenced : c.life.mstate = MState.fenced) (hheld : c.life.held = true) : fenceUp c = moduleReset c1 := by
  have hnotStopped : ¬ (decide (c.life.mstate = MState.off) || decide (c.life.mstate = MState.failed)) = true := by
    rw [hfenced]; decide
  rw [fenceUp_of_low hlow hc1, if_neg hnotStopped, if_pos hfenced, if_pos hheld]

/-- A low that entered no state is recorded as a glitch. -/
theorem fenceUp_of_glitch (hservice : c.life.mstate = MState.service)
    (hwant : (emit Src.fault St.fltFenceGlitch none [] c1).pair.claimWant = false) :
    fenceUp c = emit Src.fault St.fltFenceGlitch none [] c1 := by
  have hnotStopped : ¬ (decide (c.life.mstate = MState.off) || decide (c.life.mstate = MState.failed)) = true := by
    rw [hservice]; decide
  have hnotFenced : c.life.mstate ≠ MState.fenced := by rw [hservice]; decide
  rw [fenceUp_of_low hlow hc1, if_neg hnotStopped, if_neg hnotFenced, if_neg (Bool.eq_false_iff.mp hwant)]

end

/-! ### The fault log (R563, R564) -/

/-- The first record that is 2 µs old enters a log with room, and one of class 4 to 8 calls the fault hook. -/
theorem logAdmit_of_due {r : Rec} (hfirst : firstRec c.flt.inflight = some r) (hdue : r.time + 2000 ≤ now c)
    (hroom : c.flt.log.length < 16384) (hc1 : c1 = setObj 0x3200 4 0 r.time
      { c with flt := { c.flt with inflight := c.flt.inflight.erase r, log := c.flt.log ++ [r] } }) :
    logAdmit c = if 4 ≤ r.cls ∧ r.cls ≤ 8 then callHook { hook := Hk.fault, data := recBytes r } c1 else c1 := by
  have hold : ¬ now c < r.time + 2000 := Nat.not_lt.mpr hdue
  have hnotFull : ¬ 16384 ≤ c.flt.log.length := Nat.not_le.mpr hroom
  simp only [logAdmit, hfirst, hold, hnotFull, if_false, ← hc1, Bool.and_eq_true,
    decide_eq_true_eq]

/-! ### The post-mortem bundle (R575, R681) -/

/-- A bundle that is complete is kept and recorded; no reset waited for it. -/
theorem bundleEnd_of_writing {b : Bundle} (hwriting : c.flt.writing = some b)
    (hc1 : c1 = emit Src.fault St.fltPmDone none [] { c with flt := { c.flt with writing := none, bundle := some b } })
    (hnoReset : c1.life.resetAt = none) : bundleEnd c = c1 := by
  have hdone : bundleDone c = c1 := by simp only [bundleDone, hwriting, hc1]
  simp only [bundleEnd, hwriting, Option.isSome_some, if_true, hdone, resetDue, hnoReset]

end

/-! ### The statement -/

/-- Settles O43: each row is `act` of its operation, whose effect in the clause's case the lemma of that operation gives. -/
theorem fenceLogAndBundleAct : Obligations.FenceLogAndBundleAct := by
  intro s
  refine ⟨?claiming, ?notClaiming, ?fenced, ?high, ?log, ?bundle⟩
  case claiming => exact fun hclaim => act_of_eq (fenceDown_of_claiming hclaim)
  case notClaiming => exact fun hclaim => act_of_eq (fenceDown_of_notClaiming hclaim)
  case fenced =>
    exact fun hlow hlatch hoff hfenced hfailed => act_settle_of_eq (fenceHeld_of_inService hlow hlatch hoff hfenced hfailed)
  case high =>
    intro c1 hlow hc1
    exact ⟨fun hstopped => act_of_eq (fenceUp_of_stopped hlow hc1 hstopped),
      fun hfenced hheld => act_of_eq (fenceUp_of_held hlow hc1 hfenced hheld),
      fun hservice hwant => act_of_eq (fenceUp_of_glitch hlow hc1 hservice hwant)⟩
  case log =>
    intro r c1 hfirst hdue hroom hc1
    have hadmit := logAdmit_of_due hfirst hdue hroom hc1
    refine ⟨fun hfault => act_of_eq (hadmit.trans (if_pos hfault)), fun hminor => ?minor⟩
    case minor =>
      have hnoFault : ¬ (4 ≤ r.cls ∧ r.cls ≤ 8) := fun hfault => Nat.not_le.mpr hminor hfault.1
      exact act_of_eq (hadmit.trans (if_neg hnoFault))
  case bundle => exact fun b c1 hwriting hc1 hnoReset => act_of_eq (bundleEnd_of_writing hwriting hc1 hnoReset)

end Sys2Proof.Machine

/-! PROOF. The Warden's rows (R592, R600 to R607), and the inlet sensors (R705), one lemma for each case; O44 from them. -/
namespace Sys2Proof.Machine

section
variable {c c1 : Chip}

/-! ### The rows while the Warden runs (R602) -/

/-- A row of the Warden, while it runs, has its operation's effect. -/
theorem act_warden_of_eq {s : State} {f : Chip → Chip} (hon : wardenOn s.m = true) (h : f s.m = c) :
    act s (warden f) = .next { s with m := c } :=
  act_of_eq ((if_pos hon).trans h)

theorem powered_of_wardenOn (hon : wardenOn c = true) : c.life.powered = true := by
  simp only [wardenOn, Bool.and_eq_true] at hon
  exact hon.1

/-! ### Power samples and floors (R592, R601, Table 18-4) -/

/-- The means of the last 100 samples, `ss`, lie above PCAP_W. -/
def aboveCap (ss : List Nat) (c : Chip) : Bool := ss.length == 100 && decide (c.pwr.pcap * 100 < ss.foldl (· + ·) 0)

section
variable {pkg inp : Nat} {ss : List Nat} (hss : ss = lastN 100 (c.pwr.pkgSamples ++ [pkg]))
  (hc1 : c1 = { c with pwr := { c.pwr with pkgSamples := ss, winN := c.pwr.winN + 1, winPkg := c.pwr.winPkg + pkg
                                           winIn := c.pwr.winIn + inp, winL := c.pwr.winL + licOut c } })
  (hfloor : c.pwr.floors.pkgDrop = 0)
include hss hc1 hfloor

theorem pkgSample_of_within (hwithin : aboveCap ss c = false) : pkgSample pkg inp c = c1 := by
  unfold aboveCap at hwithin
  simp only [pkgSample, ← hss, ← hc1, hwithin, hfloor, Bool.false_and, ne_eq, not_true, decide_false, Bool.and_false,
    Bool.false_eq_true, if_false]

/-- A mean above PCAP_W acts the package floor, where it does not act yet. -/
theorem pkgSample_of_above (habove : aboveCap ss c = true) :
    pkgSample pkg inp c = emit Src.warden St.pwrPkgLimit none []
      (floorActed (fun f => { f with pkgDrop := 12500, pkgTick := 0, pkgLift := false }) c1) := by
  unfold aboveCap at habove
  simp only [pkgSample, ← hss, ← hc1, habove, hfloor, decide_true, Bool.and_self, if_true]

end

theorem currentLimit_eq {d n : Nat} {g : Floors → Floors} (hn : n = tget 0 c.pwr.floors.curShift d)
    (hg : g = fun f => { f with curShift := tset 0 f.curShift d (min 3 (n + 1)), curLift := tput f.curLift d false }) :
    currentLimit d c = if n = 0 then emit Src.warden St.pwrCurrentLimit none [] (floorActed g c)
      else { c with pwr := { c.pwr with floors := g c.pwr.floors } } := by
  subst hn hg
  rfl

theorem tjTrip_of_inService {k : Nat} (hsensor : k < 288) (hlive : (sensor c k).failed = false) :
    tjTrip k c = tripDie (sensorDie k) k c := by
  have hreads : ¬ (decide (288 ≤ k) || (sensor c k).failed) = true := by simp [Nat.not_le.mpr hsensor, hlive]
  exact if_neg hreads

/-! ### Junction sensors (R604, R605) -/

section
variable {k : Nat} {x : Sensor} (hsensor : k < 288) (hx : x = sensor c k)
include hsensor hx

/-- A reading in range is kept with its peak; no sensor reads above 105 °C. -/
theorem readSensor_of_good {t : Int} (hlow : -320 ≤ t) (hhigh : t ≤ 1200)
    (hc1 : c1 = setSensor k { x with last := t, peak := (if x.seen then max x.peak t else t), bad := 0, seen := true } c)
    (hcool : tjHigh c1 = false) : readSensor k (some t) c = keepWarm c1 := by
  simp only [readSensor, Nat.not_le.mpr hsensor, if_false, ← hx, hlow, hhigh, decide_true, Bool.and_self, if_true, ← hc1, hcool,
    Bool.false_and, Bool.false_eq_true]

variable (hlive : x.failed = false)
include hlive

theorem readSensor_of_bad (hfew : x.bad < 9) (hc1 : c1 = setSensor k { x with bad := x.bad + 1 } c) (hcool : tjHigh c1 = false) :
    readSensor k none c = keepWarm c1 := by
  have hreads : ¬ x.failed = true := Bool.eq_false_iff.mp hlive
  simp only [readSensor, Nat.not_le.mpr hsensor, if_false, ← hx, if_neg hreads, Nat.not_le.mpr hfew, ← hc1, hcool, Bool.false_and,
    Bool.false_eq_true]

/-- The tenth bad reading in a row fails the sensor. -/
theorem readSensor_of_tenthBad (hmany : 9 ≤ x.bad) (hcool : tjHigh (failSensor k c) = false) :
    readSensor k none c = keepWarm (failSensor k c) := by
  simp only [readSensor, Nat.not_le.mpr hsensor, if_false, ← hx, hlive, hmany, if_true, hcool, Bool.false_and, Bool.false_eq_true]

end

/-! ### Thermal windows and bursts (R600, R601, R606, R607) -/

/-- The first window gives no estimate of its own: R_est stays, it is kept, and the cap is computed anew. -/
theorem rthEnd_of_first {p : Nat} {t i : Int} (hfirst : c.pwr.prevWin = none) (hlast : c.pwr.rLast4 = [])
    (hflat : c.pwr.flatWins + 1 < 8) (hstep : c.pwr.rStep = false) (hest : c.pwr.rEst ≤ obj c 0x4000 13) :
    rthEnd p t i c = recap (setObj 0x4000 12 0 c.pwr.rEst
      { c with pwr := { c.pwr with prevWin := some (p, t, i), flatWins := c.pwr.flatWins + 1 } }) := by
  have hnoStep : ¬ 8 ≤ c.pwr.flatWins + 1 := Nat.not_le.mpr hflat
  have hnotHigh (w : Power) : ¬ obj { c with pwr := w } 0x4000 13 < c.pwr.rEst := Nat.not_lt.mpr hest
  simp only [rthEnd, hfirst, hlast, hstep, hnoStep, hnotHigh, List.isEmpty_nil, decide_false, Bool.false_and, Bool.false_eq_true,
    if_true, if_false]

theorem windowClose_of_burst (hburst : c.pwr.burst = 1) :
    windowClose c = { c with pwr := { c.pwr with burst := 2, burstAt := now c } } :=
  if_pos hburst

theorem recoveryEnd_of_closed (hburst : c.pwr.burst = 2) :
    recoveryEnd c = { c with pwr := { c.pwr with burst := 0, burstAt := now c } } :=
  if_pos hburst

theorem burstLimit_of_closed (hburst : c.pwr.burst = 2) (hfloor : c.pwr.floors.burst = false) :
    burstLimit c = emit Src.warden St.pwrBurstLimit none []
      (floorActed (fun f => { f with burst := true, burstLift := false }) c) := by
  simp only [burstLimit, hburst, ne_eq, not_true, hfloor, Bool.false_eq_true, if_false]

/-! ### The inlet (R705) -/

/-- A reading with which no inlet sensor newly fails: each sensor keeps its own, with its peak. -/
theorem inletReading_of_noneFails {va vb a d : Option Int} {na nb : Nat} {fa fb : Bool} (hpow : c.life.powered = true)
    (ha : inletOne c.board.inA c.board.badA c.board.failA va = (a, na, fa))
    (hd : inletOne c.board.inB c.board.badB c.board.failB vb = (d, nb, fb)) (hfa : fa = c.board.failA) (hfb : fb = c.board.failB)
    (hc1 : c1 = inletPeak 289 c.board.inB (if d = c.board.inB && nb ≠ 0 then none else d)
      (inletPeak 288 c.board.inA (if a = c.board.inA && na ≠ 0 then none else a) c)) :
    inletReading va vb c = setInlet (inletOf (if fa then none else a) (if fb then none else d))
      (inletDiffer { c1 with board := { c.board with inA := a, inB := d, badA := na, badB := nb, failA := fa, failB := fb } }) := by
  simp only [inletReading, hpow, Bool.not_true, Bool.false_eq_true, if_false, ha, hd, ← hc1, hfa, hfb, Bool.and_not_self]

end

/-! ### The statement -/

/-- Settles O44: each row of the Warden that runs has its operation's effect, which the lemma of the clause's case gives. -/
theorem wardenRowsTakeEffect : Obligations.WardenRowsTakeEffect := by
  intro s hon
  refine ⟨?power, ?current, ?trip, fun k => act_warden_of_eq hon rfl, ?reading, ?badReading, ?window, ?closes, ?recovers, ?burst,
    ?inlet⟩
  case power =>
    intro pkg inp ss c1 hss hc1 hfloor
    exact ⟨fun hwithin => act_warden_of_eq hon (pkgSample_of_within hss hc1 hfloor hwithin),
      fun habove => act_warden_of_eq hon (pkgSample_of_above hss hc1 hfloor habove)⟩
  case current =>
    intro d n g hn hg
    have hlimit := currentLimit_eq hn hg
    exact ⟨fun hfirst => act_warden_of_eq hon (hlimit.trans (if_pos hfirst)),
      fun hagain => act_warden_of_eq hon (hlimit.trans (if_neg hagain))⟩
  case trip => exact fun k hsensor hlive => act_warden_of_eq hon (tjTrip_of_inService hsensor hlive)
  case reading =>
    exact fun k t x c1 hsensor hlow hhigh hx hc1 hcool =>
      act_warden_of_eq hon (readSensor_of_good hsensor hx hlow hhigh hc1 hcool)
  case badReading =>
    intro k x hsensor hx hlive
    exact ⟨fun c1 hfew hc1 hcool => act_warden_of_eq hon (readSensor_of_bad hsensor hx hlive hfew hc1 hcool),
      fun hmany hcool => act_warden_of_eq hon (readSensor_of_tenthBad hsensor hx hlive hmany hcool)⟩
  case window =>
    exact fun p t i hfirst hlast hflat hstep hest => act_warden_of_eq hon (rthEnd_of_first hfirst hlast hflat hstep hest)
  case closes => exact fun hburst => act_warden_of_eq hon (windowClose_of_burst hburst)
  case recovers => exact fun hburst => act_warden_of_eq hon (recoveryEnd_of_closed hburst)
  case burst => exact fun hburst hfloor => act_warden_of_eq hon (burstLimit_of_closed hburst hfloor)
  case inlet =>
    exact fun va vb a na fa d nb fb c1 ha hd hfa hfb hc1 =>
      act_of_eq (inletReading_of_noneFails (powered_of_wardenOn hon) ha hd hfa hfb hc1)

end Sys2Proof.Machine

/-! PROOF. Key installation and reports (R625, R632), firmware banks, hooks and lockstep (R639, R644, R648, R651), and the debug
port (R702), one lemma for each case; O45 from them. -/
namespace Sys2Proof.Machine

section
variable {c c1 : Chip}

/-! ### Keys and reports (R625, R632) -/

/-- An installation gives its partition's slot the keys of its kind, and is recorded and answered. -/
theorem keyInstalled_of_install {p : Nat} {i : Install} {mk pk : Option Nat} {k : KeySlot}
    (hinstall : c.sec.installs.find? (fun i => i.part == p) = some i)
    (hc1 : c1 = { c with sec := { c.sec with installs := c.sec.installs.erase i } })
    (hmk : mk = if bitOf i.kind 0 then some (leNat (i.plain.take 64)) else (keySlot c1 p).memKey)
    (hpk : pk = if bitOf i.kind 1 then some (leNat ((i.plain.drop 64).take 16)) else (keySlot c1 p).pfxKey)
    (hk : k = { keySlot c1 p with memKey := mk, pfxKey := pk, installed := mk.isSome }) :
    keyInstalled p c = answerInstall i St.ok (emit Src.security St.secKeyInstalled (some p) i.detail
      (fillKeys p { c1 with keys := tset {} c1.keys p k })) := by
  subst hc1 hmk hpk hk
  simp only [keyInstalled, hinstall]

theorem reportReady_of_building {who : Requester} {b : Bytes} (hbuilding : (reportOf c who).building = some b) :
    reportReady who c =
      { c with sec := { c.sec with reports := tset {} c.sec.reports (whoKey who) { building := none, ready := b } } } := by
  simp only [reportReady, hbuilding]

/-! ### Firmware halts, and an erase ends (R644, R651) -/

section
variable {pair : Nat}

/-- Firmware that runs is halted: no call runs or waits, the module may proceed, and the rates fall back. -/
theorem haltFirmware_of_running (hruns : c.fw.fwState = 1) (hc1 : c1 = ratesFallBack (emit (pairSource pair) St.fwHalted none []
      { c with fw := { c.fw with fwState := 2, run := [], waitQ := [], rateQ := [], lateRun := 0 }
               life := { c.life with initDone := true } })) :
    haltFirmware pair c = c1 := by
  simp only [haltFirmware, hruns, ne_eq, not_true, if_false, hc1]

theorem hookLost_of_duty {d : Nat} (hduty : pairDuty c pair = some d) : hookLost pair c = haltFirmware pair c := by
  simp only [hookLost, hduty]

theorem eraseDone_of_erasing {b : Nat} (herasing : c.fw.erasing = some b) :
    eraseDone c = setBank b { factory := false, chunks := [] } { c with fw := { c.fw with erasing := none } } := by
  simp only [eraseDone, herasing]

/-! ### Lockstep (R639) -/

section
variable (hgood : thas c.fw.bad pair = false)
include hgood

/-- The module fails with its second pair (R562). -/
theorem lockstep_of_second (hother : thas c.fw.bad (1 - pair) = true) :
    lockstep pair c = moduleFail (pairSource pair) St.fwLockstep c := by
  simp only [lockstep, hgood, hother, Bool.false_eq_true, if_false, if_true]

/-- A pair that runs no hook is retired, recorded, and the other pair takes the calls that wait. -/
theorem lockstep_of_first (hother : thas c.fw.bad (1 - pair) = false)
    (hidle : ∀ d, d < 2 → dutyPair c d = pair → hookRun c d = none) :
    lockstep pair c = nextHook 1 (nextHook 0 (emit (pairSource pair) St.fwLockstep none []
      { c with fw := { c.fw with bad := tput c.fw.bad pair true } })) := by
  have hnoneLost : ((span 0 2).filterMap fun d =>
      if dutyPair c d = pair then (hookRun c d).map fun r => (d, r) else none) = [] := by
    refine List.filterMap_eq_nil_iff.mpr fun d hd => ?_
    have hduty : d < 2 := by simp only [span, List.mem_cons, List.not_mem_nil, or_false] at hd; omega
    split
    case isTrue hcarries => rw [hidle d hduty hcarries]; rfl
    case isFalse => rfl
  simp only [lockstep, hgood, hother, Bool.false_eq_true, if_false, hnoneLost, List.foldl_nil]

end

/-! ### Hooks return, or are late (R647, R648) -/

section
variable {d : Nat} {r : HookRun} (hduty : pairDuty c pair = some d) (hrun : hookRun c d = some r)
include hduty hrun

/-- The deadline passes with the hook still running. -/
theorem hookLate_of_running (hontime : r.late = false) :
    hookLate pair c = countLate r.call pair (setRun d (some { r with late := true }) c) := by
  have hnotLate : ¬ r.late = true := Bool.eq_false_iff.mp hontime
  simp only [hookLate, hduty, hrun, if_neg hnotLate]

section
variable {dt : Nat} (hdt : dt = now c - r.at_) (hc1 : c1 = setObj 0x5C81 4 r.call.hook (min dt 0xFFFFFFFF) (setRun d none c))
  (a0 : Word)
include hdt hc1

/-- A return that was counted late before decides nothing more. -/
theorem hookReturn_of_late (hlate : r.late = true) : hookReturn pair a0 c = nextHook 0 (nextHook 1 c1) := by
  simp only [hookReturn, hduty, hrun, ← hdt, ← hc1, hlate, if_true]

/-- A return within the deadline acts; RATE apart, whose result is a picture's. -/
theorem hookReturn_of_inTime (hontime : r.late = false) (hwithin : dt ≤ hookDeadline c1 r.call.hook)
    (hnotRate : r.call.hook ≠ Hk.rate) :
    hookReturn pair a0 c = nextHook 0 (nextHook 1 (afterHook r.call.hook false pair c1)) := by
  simp only [hookReturn, hduty, hrun, ← hdt, ← hc1, hontime, Nat.not_lt.mpr hwithin, hnotRate, Bool.false_eq_true, if_false]

/-- A return past the deadline is counted late. -/
theorem hookReturn_of_past (hontime : r.late = false) (hpast : hookDeadline c1 r.call.hook < dt) :
    hookReturn pair a0 c = nextHook 0 (nextHook 1 (countLate r.call pair c1)) := by
  simp only [hookReturn, hduty, hrun, ← hdt, ← hc1, hontime, hpast, Bool.false_eq_true, if_false, if_true]

end

end

end

/-! ### The debug port (R702, Table 19-6) -/

/-- A scan that is allowed shifts out what the chain holds. -/
theorem scan_of_allowed {bits b : Bytes} (hbits : freeBytes bits.length c = (b, c1)) : scan true bits c = send (.tdo b) c1 := by
  simp only [scan, if_true, hbits]

theorem debugTap_reset : debugTap .reset c = c := by
  simp only [debugTap, ite_self]

section
variable (hpow : c.life.powered = true)
include hpow

theorem debugTap_idcode : debugTap .idcode c = send (.tdo (leBytes 4 0x188050A7)) c := by
  simp only [debugTap, hpow, Bool.not_true, Bool.false_eq_true, if_false]

theorem debugTap_boundaryScan (bits : Bytes) : debugTap (.boundaryScan bits) c = scan true bits c := by
  simp only [debugTap, hpow, Bool.not_true, Bool.false_eq_true, if_false]

theorem debugTap_internalScan (bits : Bytes) : debugTap (.internalScan bits) c = scan (decide (c.fuse.debug = 0)) bits c := by
  simp only [debugTap, hpow, Bool.not_true, Bool.false_eq_true, if_false]

theorem debugTap_cobblerDebug (bits : Bytes) : debugTap (.cobblerDebug bits) c = scan (decide (c.fuse.debug = 0)) bits c := by
  simp only [debugTap, hpow, Bool.not_true, Bool.false_eq_true, if_false]

theorem debugTap_debugReset : debugTap .debugReset c = if c.fuse.debug = 0 then
    moduleReset { c with life := { c.life with resetAt := some (now c), resetKind := 2 } } else c := by
  simp only [debugTap, hpow, Bool.not_true, Bool.false_eq_true, if_false]

end

end

/-! ### The statement -/

/-- Settles O45: each row is `act` of its operation, whose effect in the clause's case the lemma of that operation gives. -/
theorem keysFirmwareAndDebugAct : Obligations.KeysFirmwareAndDebugAct := by
  intro s
  refine ⟨?install, ?report, ?halt, ?erase, ?lockstep, ?hook, fun hpow => ?debug⟩
  case install =>
    exact fun p i c0 mk pk k1 hinstall hc0 hmk hpk hk1 => act_of_eq (keyInstalled_of_install hinstall hc0 hmk hpk hk1)
  case report => exact fun who b hbuilding => act_of_eq (reportReady_of_building hbuilding)
  case halt =>
    intro pair d c1 hruns hc1
    have hhalt := haltFirmware_of_running hruns hc1
    exact ⟨act_of_eq hhalt, fun hduty => act_of_eq ((hookLost_of_duty hduty).trans hhalt)⟩
  case erase => exact fun b herasing => act_of_eq (eraseDone_of_erasing herasing)
  case lockstep =>
    intro pair hgood
    exact ⟨fun hother => act_of_eq (lockstep_of_second hgood hother),
      fun hother hidle => act_of_eq (lockstep_of_first hgood hother hidle)⟩
  case hook =>
    intro pair d r dt c1 hduty hrun hdt hc1
    exact ⟨fun a0 hlate => act_of_eq (hookReturn_of_late hduty hrun hdt hc1 a0 hlate),
      fun a0 hontime hwithin hnotRate => act_of_eq (hookReturn_of_inTime hduty hrun hdt hc1 a0 hontime hwithin hnotRate),
      fun a0 hontime hpast => act_of_eq (hookReturn_of_past hduty hrun hdt hc1 a0 hontime hpast),
      fun hontime => act_of_eq (hookLate_of_running hduty hrun hontime)⟩
  case debug =>
    refine ⟨?idcode, ?reset, ?boundaryScan, fun hopen bits b c1 hbits => ?openScan, fun hclosed bits => ?closedScan,
      fun hopen => ?openReset⟩
    case idcode => exact act_of_eq (debugTap_idcode hpow)
    case reset => exact act_of_eq debugTap_reset
    case boundaryScan =>
      exact fun bits b c1 hbits => act_of_eq ((debugTap_boundaryScan hpow bits).trans (scan_of_allowed hbits))
    case openScan =>
      have hscan : scan (decide (s.m.fuse.debug = 0)) bits s.m = send (.tdo b) c1 := by
        rw [decide_eq_true hopen, scan_of_allowed hbits]
      exact ⟨act_of_eq ((debugTap_internalScan hpow bits).trans hscan), act_of_eq ((debugTap_cobblerDebug hpow bits).trans hscan)⟩
    case closedScan =>
      have hscan : scan (decide (s.m.fuse.debug = 0)) bits s.m = bypass bits s.m := if_neg (by simp [hclosed])
      exact ⟨act_of_eq ((debugTap_internalScan hpow bits).trans hscan), act_of_eq ((debugTap_cobblerDebug hpow bits).trans hscan),
        act_of_eq ((debugTap_debugReset hpow).trans (if_neg hclosed))⟩
    case openReset => exact act_of_eq ((debugTap_debugReset hpow).trans (if_pos hopen))

end Sys2Proof.Machine
